-- ==== Sys2Proof/Word.lean ====
section
/-!
DEFINITION. The word types of the machine and the type of a sparse table.
Scalars are 64 bits and vectors 64 lanes of 32 bits (R14); a fabric address is a Nat below 2^64 (R176).
-/
namespace Sys2Proof

/-- One byte (R9). -/
abbrev Byte := BitVec 8

/-- A lane or a syllable. -/
abbrev Word32 := BitVec 32

/-- A scalar register (R14). -/
abbrev Word64 := BitVec 64

/-- A handle register (R198). -/
abbrev HWord := BitVec 128

/-- A vector register or a queue entry: 256 bytes (R14, R40). -/
abbrev VWord := BitVec 2048

/-- A flit: 64 bytes, bit i of byte j is bit 8j + i (R382). -/
abbrev Flit := BitVec 512

/-- A sparse table: keys strictly rising, a key not listed holds the table's default. -/
abbrev Tab (α : Type) := List (Nat × α)

end Sys2Proof
end

