-- ==== Sys2Proof/Config.lean ====
section
/-!
DEFINITION. What an implementation fixes, and the free values: functions with no body, so that no proof can
see a value of them. `State.ctr` numbers the draws.
-/
namespace Sys2Proof.Config

/-- A number the spec leaves open within stated bounds: a latency below a maximum (R186), which of several waiting
requests is served (R216), whether a line is present (R179, R180). Log entry 5. -/
opaque freeNat : Nat → Nat

/-- Bits the spec leaves open: a register no chapter assigns (log 6), a result the spec does not state. -/
opaque freeBits : Nat → BitVec 2048

/-- The RSA-3072 signature of a digest under the module's key (R453): the key is not given. -/
opaque signature : List Byte → List Byte

/-- The result of checking a firmware image's signature at start step 3 (R447): images and key are not given. -/
opaque firmwareGood : Nat → Bool

/-- The capability records' VER fields (R450): the spec states no version. -/
opaque capabilityVersion : Nat → Nat

/-- The kind numbers of trace records (R370): the spec names the kinds and gives no numbers. Log entry 7. -/
opaque traceKind : Nat → BitVec 8

/-- Core cycles in one microsecond: 1.25 GHz (R1). -/
def cyclesPerUs : Nat := 1250

/-- Core cycles in one millisecond. -/
def cyclesPerMs : Nat := 1250000

/-- The number of compute clusters, cores and contexts of a module (R3, R5). -/
def numClusters : Nat := 256
def numCores : Nat := 1024
def numContexts : Nat := 4096

/-- The model numbers the steward cores 1024 to 1028 and their clusters 256 to 260, after the numbers of R3
(log 8). Steward core 1028 is the Ridge die's (R341). -/
def stewardCoreBase : Nat := 1024
def stewardClusterBase : Nat := 256

end Sys2Proof.Config
end

