-- ==== Sys2Proof/Syntax.lean ====
section
/-!
DEFINITION. The instructions as syntax: one constructor of `Instr` for every row of the opcode table, syllables (R88 to
R93), matrix micro-ops (R291) and machine events. Immediates are exact integers; register fields are numbers within
their class (R77). A constructor says what an encoding holds and nothing of what it does.
-/
namespace Sys2Proof

/-- What every syllable carries beside its operands: the stop bit (R76), the guard p0 to p15 (R30, R79) and the leaf
tag (0 untagged, n the outcome n - 1: R79). -/
structure Syl where
  stop  : Bool
  guard : Fin 16
  leaf  : Fin 6
deriving DecidableEq, Repr

/-- Type index VT of the V groups (R84). -/
inductive VTy where
  | f32 | f16 | bf16 | i32 | ui32 | i16 | ui16
deriving DecidableEq, Repr

/-- Format XR (R83): registers and the three queue bits that E supplies. -/
structure XR where
  sd : Fin 64
  sa : Fin 64
  sb : Fin 64
  qs : Bool
  qd : Bool
  qb : Bool
deriving DecidableEq, Repr

/-- Format XR with one source: ABS, CLZ, POPC (R109). -/
structure XU where
  sd : Fin 64
  sa : Fin 64
  qs : Bool
  qd : Bool
deriving DecidableEq, Repr

/-- Format XV (R83): class codes 0 s, 1 g, 2 k, 3 p. -/
structure XV where
  d  : Fin 64
  s  : Fin 64
  dc : Fin 4
  sc : Fin 4
  qs : Bool
  qd : Bool
deriving DecidableEq, Repr

/-- Format XI for ADDI (R83, R113). -/
structure XI where
  sd  : Fin 64
  sa  : Fin 64
  imm : Int
deriving DecidableEq, Repr

/-- Format XI for the immediate shifts (R111). -/
structure XH where
  sd : Fin 64
  sa : Fin 64
  n  : Fin 64
deriving DecidableEq, Repr

/-- Format XM (R83). -/
structure XM where
  sd  : Fin 64
  imm : Int
deriving DecidableEq, Repr

/-- Format XS (R83): a scalar and a special register number (R89, R339). -/
structure XS where
  s   : Fin 64
  srn : Nat
deriving DecidableEq, Repr

/-- Format XC with its condition (R88) and predicate mode (R116). -/
structure XC where
  cond : Fin 8
  pd   : Fin 16
  sa   : Fin 64
  sb   : Fin 64
  pm   : Fin 3
deriving DecidableEq, Repr

/-- Format XK with its condition (R83, R116). -/
structure XK where
  cond : Fin 8
  pd   : Fin 16
  sa   : Fin 64
  imm  : Int
deriving DecidableEq, Repr

/-- Format XL for PLOG and KLOG (R83, R118). -/
structure XL where
  d  : Fin 16
  a  : Fin 16
  b  : Fin 16
  fn : Fin 16
deriving DecidableEq, Repr

/-- Format XL for PSET (R119). -/
structure XP where
  d : Fin 16
  v : Bool
deriving DecidableEq, Repr

/-- Format XQ (R83). -/
structure XQ where
  sd : Fin 64
  ka : Fin 16
deriving DecidableEq, Repr

/-- Format VR (R84) with the lane-mask register km that E names. -/
structure VR where
  vd : Fin 32
  va : Fin 32
  vb : Fin 32
  qd : Bool
  qs : Bool
  md : Bool
  km : Fin 16
deriving DecidableEq, Repr

/-- Format VK (R84) with its condition (R90). -/
structure VK where
  cond : Fin 8
  kd   : Fin 16
  va   : Fin 32
  vb   : Fin 32
  qs   : Bool
  km   : Fin 16
deriving DecidableEq, Repr

/-- Format VX (R84): target and source format codes (R130). -/
structure VX where
  tf : Fin 32
  ff : Fin 32
  vd : Fin 32
  va : Fin 32
  qs : Bool
  km : Fin 16
deriving DecidableEq, Repr

/-- Formats AM, AS and AG (R85): base, index (sx, the stride ss, or the vector vx), FE, immediate in units, kr. -/
structure AM where
  m    : Bool
  base : Fin 16
  sx   : Fin 64
  fe   : Fin 4
  imm  : Int
  kr   : Fin 16
deriving DecidableEq, Repr

/-- Format AT (R85). -/
structure AT where
  m    : Bool
  base : Fin 16
  sx   : Fin 64
  t    : Bool
  imm  : Int
deriving DecidableEq, Repr

/-- Format AY (R85). -/
structure AY where
  m    : Bool
  base : Fin 16
  sx   : Fin 64
  sc   : Fin 8
  imm  : Int
deriving DecidableEq, Repr

/-- Format AB (R85). -/
structure AB where
  m    : Bool
  base : Fin 16
  sl   : Fin 64
  so   : Fin 64
  u    : Bool
deriving DecidableEq, Repr

/-- Format AP (R85). -/
structure AP where
  h  : Fin 16
  sx : Fin 64
  sl : Fin 64
deriving DecidableEq, Repr

/-- Format AF (R85): kind (1 acquire, 2 release, 3 both) and scope. -/
structure AF where
  k  : Fin 4
  sc : Fin 8
deriving DecidableEq, Repr

/-- Format AH (R85). -/
structure AH where
  h  : Fin 16
  sa : Fin 64
  kr : Fin 16
deriving DecidableEq, Repr

/-- Format AA (R85). -/
structure AA where
  bd  : Fin 8
  sa  : Fin 64
  imm : Int
deriving DecidableEq, Repr

/-- Format MS (R86). -/
structure MS where
  sa : Fin 64
  sb : Fin 64
  sc : Fin 8
deriving DecidableEq, Repr

/-- Format MP (R86). -/
structure MP where
  va : Fin 32
  sa : Fin 64
  sb : Fin 64
deriving DecidableEq, Repr

/-- Format MU (R86): PT 0 A port, 1 B port, 2 scale port. -/
structure MU where
  sid : Fin 16
  pt  : Fin 3
  sa  : Fin 64
deriving DecidableEq, Repr

/-- Format MF (R86). -/
structure MF where
  sid : Fin 16
  va  : Fin 32
  ch  : Fin 4
deriving DecidableEq, Repr

/-- Format MV (R86). -/
structure MV where
  vd  : Fin 32
  tl  : Fin 16
  row : Fin 64
  qd  : Bool
deriving DecidableEq, Repr

/-- Format MX (R86). -/
structure MX where
  tl : Fin 16
  sa : Fin 64
  sb : Fin 64
deriving DecidableEq, Repr

/-- Format BT (R87) with the shape and the four targets of its bundle's TREE header (R80), in bundles. -/
structure BT where
  t0 : Fin 16
  t1 : Fin 16
  t2 : Fin 16
  t3 : Fin 16
  shape : Fin 4
  l0 : Int
  l1 : Int
  l2 : Int
  l3 : Int
deriving DecidableEq, Repr

/-- Format BC (R87). -/
structure BC where
  pc  : Fin 16
  v   : Bool
  off : Int
deriving DecidableEq, Repr

/-- The operands of a STEP word (R291). -/
structure UStep where
  fa  : Fin 32
  fb  : Fin 32
  sat : Bool
deriving DecidableEq, Repr

/-- A fabric message: the header fields of R394 and its data bytes. -/
structure Msg where
  dst  : Nat
  src  : Nat
  op   : Nat
  len  : Nat
  vf   : Nat
  dl   : Bool
  esc  : Bool
  ep   : Bool
  hops : Nat
  ph   : Nat
  nm   : Bool
  tag  : Nat
  ig   : Nat
  sub  : Nat
  size : Nat
  sq   : Nat
  addr : Nat
  cnt  : Nat
  cu   : Bool
  opa  : Word64
  opb  : Word64
  data : VWord
deriving DecidableEq, Repr

/-- Who makes a register access (R182): a context with its mode, the host's physical function (none) or a VF
function, or the hardware itself. -/
inductive ReqSrc where
  | ctx (g : Nat) (system : Bool)
  | host (fn : Option Nat)
  | hw
deriving DecidableEq, Repr

/-- A host access through BAR0 or BAR2 (R432): function, offset, length, data, AtomicOp number (0 FetchAdd, 1 Swap,
2 CAS) with its compare operand, PCI Express tag, Relaxed Ordering, and the port that it came by (R431). -/
structure HostReq where
  bar0 : Bool
  fn   : Option Nat
  addr : Nat
  len  : Nat
  data : BitVec 4096
  op   : Nat
  cmp  : BitVec 128
  tag  : Nat
  ro   : Bool
  port : Nat
deriving DecidableEq, Repr

/-- What a start finds (R447, R448): fuse ID, spare map, retired pseudo-channels, the temperatures at step 4, whether
the stored record's hash matches, the ports whose links fail their stored settings and whether a memory channel does, and the
step at which the start stands still (7: it completes). -/
structure StartIn where
  fuseId  : Nat
  spares  : List Nat
  retired : List Nat
  temps   : List Nat
  hashOk  : Bool
  redo    : List Nat
  redoMem : Bool
  upto    : Nat
deriving DecidableEq, Repr

/-- Where an error arises (R183, R301): a word, a cached line, a tile word, or the check of a core's array, whose second
computation fails as well or passes. -/
inductive ErrAt where
  | word (pa : Nat)
  | rdc (die line : Nat)
  | tile (core t word : Nat)
  | array (core : Nat) (again : Bool)
deriving DecidableEq, Repr

/-- The instruction set: one constructor per row of the opcode table. What the module itself makes comes first, what only
the outside makes last: the compiled code of Lean builds no constructor beyond the 245th. -/
inductive Instr where
  /-- ADD (R109). -/
  | add (p : Syl) (o : XR)
  /-- SUB (R109). -/
  | sub (p : Syl) (o : XR)
  /-- MUL (R109). -/
  | mul (p : Syl) (o : XR)
  /-- MULH (R109). -/
  | mulh (p : Syl) (o : XR)
  /-- MULH_U (R109). -/
  | mulhU (p : Syl) (o : XR)
  /-- DIV (R110). -/
  | div (p : Syl) (o : XR)
  /-- DIV_U (R110). -/
  | divU (p : Syl) (o : XR)
  /-- REM (R110). -/
  | rem (p : Syl) (o : XR)
  /-- REM_U (R110). -/
  | remU (p : Syl) (o : XR)
  /-- ABS (R109). -/
  | abs (p : Syl) (o : XU)
  /-- AND (R109). -/
  | and (p : Syl) (o : XR)
  /-- OR (R109). -/
  | or (p : Syl) (o : XR)
  /-- XOR (R109). -/
  | xor (p : Syl) (o : XR)
  /-- ANDN (R109). -/
  | andn (p : Syl) (o : XR)
  /-- SHL (R111). -/
  | shl (p : Syl) (o : XR)
  /-- SHR (R111). -/
  | shr (p : Syl) (o : XR)
  /-- SRA (R111). -/
  | sra (p : Syl) (o : XR)
  /-- ROTL (R111). -/
  | rotl (p : Syl) (o : XR)
  /-- CLZ (R109). -/
  | clz (p : Syl) (o : XU)
  /-- POPC (R109). -/
  | popc (p : Syl) (o : XU)
  /-- EXTB (R112). -/
  | extb (p : Syl) (o : XR)
  /-- EXTB_S (R112). -/
  | extbS (p : Syl) (o : XR)
  /-- DEPB (R112). -/
  | depb (p : Syl) (o : XR)
  /-- MIN (R109). -/
  | min (p : Syl) (o : XR)
  /-- MAX (R109). -/
  | max (p : Syl) (o : XR)
  /-- MIN_U (R109). -/
  | minU (p : Syl) (o : XR)
  /-- MAX_U (R109). -/
  | maxU (p : Syl) (o : XR)
  /-- MOV (R114). -/
  | mov (p : Syl) (o : XV)
  /-- LEA (R109). -/
  | lea (p : Syl) (n : Fin 4) (o : XR)
  /-- ADDI (R113). -/
  | addi (p : Syl) (o : XI)
  /-- SHL_IMM (R111). -/
  | shlImm (p : Syl) (o : XH)
  /-- SHR_IMM (R111). -/
  | shrImm (p : Syl) (o : XH)
  /-- SRA_IMM (R111). -/
  | sraImm (p : Syl) (o : XH)
  /-- ROTL_IMM (R111). -/
  | rotlImm (p : Syl) (o : XH)
  /-- MOVI (R113). -/
  | movi (p : Syl) (o : XM)
  /-- MFSR (R347). -/
  | mfsr (p : Syl) (o : XS)
  /-- MTSR (R347). -/
  | mtsr (p : Syl) (o : XS)
  /-- CMP (R116). -/
  | cmp (p : Syl) (o : XC)
  /-- CMPI (R116). -/
  | cmpi (p : Syl) (o : XK)
  /-- PLOG (R118). -/
  | plog (p : Syl) (o : XL)
  /-- PSET (R119). -/
  | pset (p : Syl) (o : XP)
  /-- KLOG (R118). -/
  | klog (p : Syl) (o : XL)
  /-- KPOPC (R120). -/
  | kpopc (p : Syl) (o : XQ)
  /-- KFIRST (R120). -/
  | kfirst (p : Syl) (o : XQ)
  /-- SEL (R115). -/
  | sel (p : Syl) (n : Fin 16) (o : XR)
  /-- VADD (R124). -/
  | vadd (p : Syl) (t : VTy) (o : VR)
  /-- VSUB (R124). -/
  | vsub (p : Syl) (t : VTy) (o : VR)
  /-- VMUL (R124). -/
  | vmul (p : Syl) (t : VTy) (o : VR)
  /-- VMIN (R125). -/
  | vmin (p : Syl) (t : VTy) (o : VR)
  /-- VMAX (R125). -/
  | vmax (p : Syl) (t : VTy) (o : VR)
  /-- VFMA (R126). -/
  | vfma (p : Syl) (t : VTy) (o : VR)
  /-- VFMA_NA (R126). -/
  | vfmaNa (p : Syl) (t : VTy) (o : VR)
  /-- VCMP (R127). -/
  | vcmp (p : Syl) (t : VTy) (o : VK)
  /-- VAND (R129). -/
  | vand (p : Syl) (o : VR)
  /-- VOR (R129). -/
  | vor (p : Syl) (o : VR)
  /-- VXOR (R129). -/
  | vxor (p : Syl) (o : VR)
  /-- VSEL (R129). -/
  | vsel (p : Syl) (o : VR)
  /-- VSHL (R129). -/
  | vshl (p : Syl) (o : VR)
  /-- VSHR (R129). -/
  | vshr (p : Syl) (o : VR)
  /-- VSRA (R129). -/
  | vsra (p : Syl) (o : VR)
  /-- VMOV (R129). -/
  | vmov (p : Syl) (o : VR)
  /-- VABS (R128). -/
  | vabs (p : Syl) (t : VTy) (o : VR)
  /-- VSCALE (R128). -/
  | vscale (p : Syl) (t : VTy) (o : VR)
  /-- VCVT (R130). -/
  | vcvt (p : Syl) (o : VX)
  /-- VRCP (R131). -/
  | vrcp (p : Syl) (o : VR)
  /-- VRSQ (R131). -/
  | vrsq (p : Syl) (o : VR)
  /-- VEXP2 (R131). -/
  | vexp2 (p : Syl) (o : VR)
  /-- VLOG2 (R131). -/
  | vlog2 (p : Syl) (o : VR)
  /-- VPERM (R134). -/
  | vperm (p : Syl) (o : VR)
  /-- VBCAST (R134). -/
  | vbcast (p : Syl) (o : VR)
  /-- VROT (R134). -/
  | vrot (p : Syl) (o : VR)
  /-- VEXT (R134). -/
  | vext (p : Syl) (o : VR)
  /-- VINS (R134). -/
  | vins (p : Syl) (o : VR)
  /-- VIOTA (R134). -/
  | viota (p : Syl) (o : VR)
  /-- VPACK (R134). -/
  | vpack (p : Syl) (o : VR)
  /-- VUNPK (R134). -/
  | vunpk (p : Syl) (o : VR)
  /-- VRED (R132). -/
  | vred (p : Syl) (t : VTy) (o : VR)
  /-- VSCAN (R133). -/
  | vscan (p : Syl) (t : VTy) (o : VR)
  /-- VDOT (R135). -/
  | vdot (p : Syl) (src : Fin 8) (o : VR)
  /-- LDA (R241). -/
  | lda (p : Syl) (n : Fin 7) (o : AM)
  /-- STA (R241). -/
  | sta (p : Syl) (n : Fin 4) (o : AM)
  /-- BIND (R257). -/
  | bind (p : Syl) (o : AB)
  /-- FENCE (R258). -/
  | fence (p : Syl) (o : AF)
  /-- PFENCE (R259). -/
  | pfence (p : Syl) (o : AF)
  /-- LDV (R242). -/
  | ldv (p : Syl) (w : Fin 4) (o : AM)
  /-- LDVS (R242). -/
  | ldvs (p : Syl) (w : Fin 4) (o : AM)
  /-- LDG (R243). -/
  | ldg (p : Syl) (w : Fin 4) (o : AM)
  /-- STV (R242). -/
  | stv (p : Syl) (w : Fin 4) (o : AM)
  /-- STVS (R242). -/
  | stvs (p : Syl) (w : Fin 4) (o : AM)
  /-- STG (R243). -/
  | stg (p : Syl) (w : Fin 4) (o : AM)
  /-- AADD (R245). -/
  | aadd (p : Syl) (o : AA)
  /-- BSET (R245). -/
  | bset (p : Syl) (o : AA)
  /-- TRANS (R246). -/
  | trans (p : Syl) (o : AH)
  /-- HREL (R247). -/
  | hrel (p : Syl) (o : AH)
  /-- HCHK (R248). -/
  | hchk (p : Syl) (o : AH)
  /-- PREQ (R249). -/
  | preq (p : Syl) (o : AH)
  /-- FESET (R250). -/
  | feset (p : Syl) (o : AM)
  /-- FEWAIT (R250). -/
  | fewait (p : Syl) (o : AM)
  /-- AMO_32 (R251). -/
  | amo32 (p : Syl) (op : Fin 11) (o : AT)
  /-- AMO_64 (R251). -/
  | amo64 (p : Syl) (op : Fin 11) (o : AT)
  /-- AMOS_32 (R251). -/
  | amos32 (p : Syl) (op : Fin 11) (o : AT)
  /-- AMOS_64 (R251). -/
  | amos64 (p : Syl) (op : Fin 11) (o : AT)
  /-- CAS (R253). -/
  | cas (p : Syl) (n : Fin 3) (o : AT)
  /-- ACQ_X (R255). -/
  | acqX (p : Syl) (o : AY)
  /-- ACQ_SH (R255). -/
  | acqSh (p : Syl) (o : AY)
  /-- ACQ_EV (R255). -/
  | acqEv (p : Syl) (o : AY)
  /-- REL_UN (R255). -/
  | relUn (p : Syl) (o : AY)
  /-- REL_POST (R255). -/
  | relPost (p : Syl) (o : AY)
  /-- PCMD_ADD_I32 (R260). -/
  | pcmdAddI32 (p : Syl) (o : AP)
  /-- PCMD_ADD_F32 (R260). -/
  | pcmdAddF32 (p : Syl) (o : AP)
  /-- PCMD_AXPY_F32 (R260). -/
  | pcmdAxpyF32 (p : Syl) (o : AP)
  /-- PCMD_MAX_F32 (R260). -/
  | pcmdMaxF32 (p : Syl) (o : AP)
  /-- PCMD_CVT_BF16 (R260). -/
  | pcmdCvtBf16 (p : Syl) (o : AP)
  /-- PCMD_FILL (R260). -/
  | pcmdFill (p : Syl) (o : AP)
  /-- PCMD_COPY (R260). -/
  | pcmdCopy (p : Syl) (o : AP)
  /-- PCMD_ACC (R260). -/
  | pcmdAcc (p : Syl) (o : AP)
  /-- CPY (R308). -/
  | cpy (p : Syl) (va : Fin 32) (ch : Fin 4)
  /-- CPYQ (R309). -/
  | cpyq (p : Syl) (va : Fin 32) (sa : Fin 64)
  /-- DRAIN (R310). -/
  | drain (p : Syl) (chs : Fin 8)
  /-- CWAIT (R311). -/
  | cwait (p : Syl) (o : MS)
  /-- CADD (R312). -/
  | cadd (p : Syl) (o : MS)
  /-- CSET (R312). -/
  | cset (p : Syl) (o : MS)
  /-- PUT (R314). -/
  | put (p : Syl) (n : Fin 6) (o : MP)
  /-- PUTM (R316). -/
  | putm (p : Syl) (n : Fin 6) (o : MP)
  /-- PUTM_O (R316). -/
  | putmO (p : Syl) (n : Fin 6) (o : MP)
  /-- SHDW (R317). -/
  | shdw (p : Syl) (o : MS)
  /-- PUBL (R318). -/
  | publ (p : Syl) (o : MS)
  /-- SDEF (R319). -/
  | sdef (p : Syl) (sid : Fin 16)
  /-- SSUB (R320). -/
  | ssub (p : Syl) (o : MU)
  /-- SFEED (R321). -/
  | sfeed (p : Syl) (o : MF)
  /-- SREL (R319). -/
  | srel (p : Syl) (sid : Fin 16)
  /-- MLOAD (R323). -/
  | mload (p : Syl) (o : MS)
  /-- MCALL (R324). -/
  | mcall (p : Syl) (en : Fin 4096)
  /-- MWAIT (R325). -/
  | mwait (p : Syl)
  /-- MRDA_VECTOR (R326). -/
  | mrdaVector (p : Syl) (o : MV)
  /-- MRDA_SCRATCHPAD (R327). -/
  | mrdaScratchpad (p : Syl) (o : MX)
  /-- MZRO (R328). -/
  | mzro (p : Syl) (t : Fin 16)
  /-- ENGW (R329). -/
  | engw (p : Syl) (sa : Fin 64) (ix : Nat)
  /-- BAR (R157). -/
  | bar (p : Syl) (n : Fin 16)
  /-- BARA (R157). -/
  | bara (p : Syl) (n : Fin 16)
  /-- BARW (R157). -/
  | barw (p : Syl) (n : Fin 16)
  /-- WAITEV (R173). -/
  | waitev (p : Syl) (o : MS)
  /-- LNCH (R174). -/
  | lnch (p : Syl) (va : Fin 32) (sa : Fin 64)
  /-- CSAVE (R357). -/
  | csave (p : Syl) (o : MS)
  /-- CLOAD (R361). -/
  | cload (p : Syl) (o : MS)
  /-- FREEZE (R354). -/
  | freeze (p : Syl) (o : MS)
  /-- THAW (R354). -/
  | thaw (p : Syl) (o : MS)
  /-- DISCARD (R354). -/
  | discard (p : Syl) (o : MS)
  /-- VDRAIN (R366). -/
  | vdrain (p : Syl) (sa : Fin 64)
  /-- HINVV (R366). -/
  | hinvv (p : Syl) (sa : Fin 64)
  /-- SCRUB (R367). -/
  | scrub (p : Syl) (o : MS)
  /-- TRIG (R371). -/
  | trig (p : Syl) (n : Fin 256)
  /-- NOP (R138). -/
  | nop (p : Syl)
  /-- BRT (R139). -/
  | brt (p : Syl) (o : BT)
  /-- BRC (R140). -/
  | brc (p : Syl) (o : BC)
  /-- JMP (R140). -/
  | jmp (p : Syl) (off : Int)
  /-- JMPI (R140). -/
  | jmpi (p : Syl) (sa : Fin 64)
  /-- CALL (R140). -/
  | call (p : Syl) (sd : Fin 64) (off : Int)
  /-- RET (R140). -/
  | ret (p : Syl) (sa : Fin 64)
  /-- LOOP (R36). -/
  | loop (p : Syl) (off : Int)
  /-- LSET (R142). -/
  | lset (p : Syl) (sa : Fin 64) (sm : Fin 8)
  /-- EXIT (R143). -/
  | exit (p : Syl)
  /-- YIELD (R153). -/
  | yield (p : Syl)
  /-- TRAP (R347). -/
  | trap (p : Syl) (code : Fin 256)
  /-- ERET (R348). -/
  | eret (p : Syl)
  /-- HALT (R347). -/
  | halt (p : Syl)
  /-- STEP (R294). -/
  | step (j : Bool) (o : UStep)
  /-- SCL (R295). -/
  | scl (j : Bool)
  /-- BAND (R296). -/
  | band (j side : Bool)
  /-- ACCSEL (R330). -/
  | accsel (j : Bool) (tile : Fin 16)
  /-- ACCSEL_G (R330). -/
  | accselG (j : Bool) (i : Fin 8)
  /-- ULOOP (R331). -/
  | uloop (count : Fin 4096) (len : Fin 2048)
  /-- ULOOP_G (R331). -/
  | uloopG (i : Fin 8) (len : Fin 2048)
  /-- SKIP (R330). -/
  | skip (j : Bool) (pt : Fin 4) (n : Fin 256)
  /-- SIG (R332). -/
  | sig (j : Bool) (i : Fin 8)
  /-- WAITS (R330). -/
  | waits (j : Bool) (pt : Fin 4) (n : Fin 256)
  /-- CONTEXT_SELECT (R150). -/
  | contextSelect (core : Nat)
  /-- ASYNC_TRAP_ENTRY (R346). -/
  | asyncTrapEntry (g : Nat)
  /-- RESULT_LANDING (R26). -/
  | resultLanding (core : Nat)
  /-- LAQ_REQUEST_LEAVE (R184). -/
  | laqRequestLeave (g : Nat)
  /-- LDQ_FILL (R40). -/
  | ldqFill (g : Nat)
  /-- FULL_EMPTY_WAIT_END (R44). -/
  | fullEmptyWaitEnd (g : Nat)
  /-- LOAD_PERFORM (R209). -/
  | loadPerform (id : Nat)
  /-- STORE_PERFORM (R209). -/
  | storePerform (id : Nat)
  /-- ATOMIC_PERFORM (R252). -/
  | atomicPerform (id : Nat)
  /-- SYNC_ACQUIRE_STEP (R216). -/
  | syncAcquireStep (id : Nat)
  /-- SYNC_RELEASE_STEP (R216). -/
  | syncReleaseStep (id : Nat)
  /-- RELEASE_PERFORM (R218). -/
  | releasePerform (core id : Nat)
  /-- FENCE_COMPLETE (R222). -/
  | fenceComplete (g : Nat)
  /-- PFENCE_COMPLETE (R233). -/
  | pfenceComplete (g : Nat)
  /-- BIND_PERFORM (R257). -/
  | bindPerform (g : Nat)
  /-- TABLE_WALK_COMPLETE (R199). -/
  | tableWalkComplete (id : Nat)
  /-- BARRIER_ARRIVAL_COUNT (R157). -/
  | barrierArrivalCount (g slot : Nat)
  /-- GROUP_RETIRE (R168). -/
  | groupRetire (gid : Nat)
  /-- LAUNCH_COMPLETE (R168). -/
  | launchComplete (lid : Nat)
  /-- LAUNCH_PACKET_TAKE (R165). -/
  | launchPacketTake (q : Nat)
  /-- STEWARD_PACKET_TAKE (R342). -/
  | stewardPacketTake (n : Nat)
  /-- LAUNCH_ENGINE_APPEND (R164). -/
  | launchEngineAppend (core id : Nat)
  /-- COUNTER_ADD_PERFORM (R312). -/
  | counterAddPerform (core id : Nat)
  /-- COUNTER_SET_PERFORM (R312). -/
  | counterSetPerform (core id : Nat)
  /-- SHDW_PERFORM (R317). -/
  | shdwPerform (core id : Nat)
  /-- ENGINE_PART_ISSUE (R268). -/
  | enginePartIssue (chan : Nat)
  /-- COPY_PART_LAND (R269). -/
  | copyPartLand (id : Nat)
  /-- COPY_COMPLETE (R268). -/
  | copyComplete (chan id : Nat)
  /-- PUT_COMPLETE (R314). -/
  | putComplete (chan id : Nat)
  /-- SHARED_COPY_PACKET_TAKE (R273). -/
  | sharedCopyPacketTake (q : Nat)
  /-- FEEDER_ENTRY_FILL (R277). -/
  | feederEntryFill (slot : Nat)
  /-- PUMP_PART_ENQUEUE (R230). -/
  | pumpPartEnqueue (id : Nat)
  /-- PUMP_PART_EXECUTE (R230). -/
  | pumpPartExecute (bank : Nat)
  /-- RARM_ARM (R282). -/
  | rarmArm (g i : Nat)
  /-- MATRIX_COMMAND_BEGIN (R322). -/
  | matrixCommandBegin (core : Nat)
  /-- ROUTINE_COMPLETE (R297). -/
  | routineComplete (core : Nat)
  /-- GOVERNOR_CHECK (R303). -/
  | governorCheck (core : Nat)
  /-- GOVERNOR_FREEZE_END (R303). -/
  | governorFreezeEnd (core : Nat)
  /-- FAULT_BATCH_FLUSH (R352). -/
  | faultBatchFlush (vf : Nat)
  /-- FAULT_RESUME (R351). -/
  | faultResume (vf ix : Nat)
  /-- TRACE_SAMPLE (R370). -/
  | traceSample (core : Nat)
  /-- NAK_REPEAT (R387). -/
  | nakRepeat (port : Nat)
  /-- RSREQ_TIMEOUT (R391). -/
  | rsreqTimeout (port seq : Nat)
  /-- PORT_ENABLE_WRITE (R393). -/
  | portEnableWrite (port : Nat) (en : Bool)
  /-- LANE_HOLD_RELEASE (R393). -/
  | laneHoldRelease (port lane : Nat)
  /-- TREE_STABLE_TIMER (R401). -/
  | treeStableTimer (stamp : Nat)
  /-- FABRIC_REQUEST_INJECT (R404). -/
  | fabricRequestInject (id : Nat)
  /-- ESCAPE_WAIT_EXPIRE (R400). -/
  | escapeWaitExpire (id : Nat)
  /-- ESCAPE_TABLE_WAIT_EXPIRE (R402). -/
  | escapeTableWaitExpire (id : Nat)
  /-- REQUEST_TIMEOUT (R404). -/
  | requestTimeout (tag stamp : Nat)
  /-- PROBE_TIMEOUT (R405). -/
  | probeTimeout (m stamp : Nat)
  /-- PROBE_PERIODIC (R406). -/
  | probePeriodic (port : Nat)
  /-- ARCONT_WRITE (R416). -/
  | arcontWrite (src : ReqSrc) (v i : Nat) (c : Word64)
  /-- ARCFG_WRITE (R415). -/
  | arcfgWrite (v i dw : Nat) (c : Word64)
  /-- ALLREDUCE_TIMEOUT (R419). -/
  | allreduceTimeout (v i n : Nat)
  /-- MIGS_CLOSE (R423). -/
  | migsClose (v : Nat)
  /-- REDIRACK_WRITE (R428). -/
  | redirackWrite (v : Nat) (c : Word64)
  /-- PAGEDATA_TIMEOUT (R425). -/
  | pagedataTimeout (tag stamp : Nat)
  /-- PULL_TIMEOUT (R425). -/
  | pullTimeout (v u stamp : Nat)
  /-- MIGRATION_PREFETCH (R423). -/
  | migrationPrefetch (v : Nat)
  /-- HARB_GO (R429). -/
  | harbGo (v : Nat)
  /-- HARB_DONE (R430). -/
  | harbDone (v u : Nat)
  /-- HARB_DWELL_EXPIRE (R430). -/
  | harbDwellExpire (v u stamp : Nat)
  /-- START_STEP_TIMEOUT (R449). -/
  | startStepTimeout (n stamp : Nat)
  /-- STARTST_GO (R449). -/
  | startstGo (o : StartIn)
  /-- POWER_ADJUST (R451). -/
  | powerAdjust (die watts total : Nat)
  /-- FAULT_RING_ROOM (R351). -/
  | faultRingRoom (vf : Nat)
  /-- ESCAPE_PARITY_QUIET (R402). -/
  | escapeParityQuiet (stamp : Nat)
  /-- END (R297). -/
  | uend
  /-- HINVAL_START (R202). -/
  | hinvalStart
  /-- HINVAL_COMPLETE (R202). -/
  | hinvalComplete
  /-- DISPATCH_STEP (R167). -/
  | dispatchStep
  /-- EVENT_RING_ROOM (R353). -/
  | eventRingRoom
  /-- FABRIC_JOIN (R411). -/
  | fabricJoin
  /-- HOST_FLR (R364). -/
  | hostFlr (vf : Nat)
  /-- PARITY_ALERT (R206). -/
  | parityAlert (slice : Nat) (again : Bool)
  /-- INTERNAL_LINK_FAILURE (R379). -/
  | internalLinkFailure (die link : Nat)
  /-- NULL (R384). -/
  | null (port : Nat) (f : Flit)
  /-- HEAD (R394). -/
  | head (port : Nat) (f : Flit)
  /-- BODY (R394). -/
  | body (port : Nat) (f : Flit)
  /-- TAIL (R394). -/
  | tail (port : Nat) (f : Flit)
  /-- SOLO (R394). -/
  | solo (port : Nat) (f : Flit)
  /-- FLIT_CRC_FAIL (R386). -/
  | flitCrcFail (port : Nat) (f : Flit)
  /-- NAK (R387). -/
  | nak (port : Nat) (f : Flit)
  /-- RSREQ (R391). -/
  | rsreq (port : Nat) (f : Flit)
  /-- RSACK (R391). -/
  | rsack (port : Nat) (f : Flit)
  /-- LINKID (R381). -/
  | linkid (port : Nat) (f : Flit)
  /-- LANE_SCORE_UPDATE (R389). -/
  | laneScoreUpdate (port : Nat) (margins : List Nat)
  /-- LANE_LOCK_LOST (R390). -/
  | laneLockLost (port lane : Nat)
  /-- PORT_TRAINING_ATTEMPT (R392). -/
  | portTrainingAttempt (port passed : Nat)
  /-- TREE_ADV (R401). -/
  | treeAdv (port : Nat) (f : Flit)
  /-- TREE_DONE (R401). -/
  | treeDone (port : Nat) (f : Flit)
  /-- TREE_INSTALL (R401). -/
  | treeInstall (port : Nat) (f : Flit)
  /-- FENCE_NOTICE (R405). -/
  | fenceNotice (m : Nat)
  /-- READ (R395). -/
  | read (m : Msg)
  /-- PUT_WITHOUT_POST (R409). -/
  | putWithoutPost (m : Msg)
  /-- PUT_WITH_POST (R409). -/
  | putWithPost (m : Msg)
  /-- ATOMIC (R395). -/
  | atomic (m : Msg)
  /-- SYNC (R395). -/
  | sync (m : Msg)
  /-- PCMD_PART (R395). -/
  | pcmdPart (m : Msg)
  /-- ORDERED_MULTICAST_TO_ROOT (R410). -/
  | orderedMulticastToRoot (m : Msg)
  /-- ORDERED_MULTICAST_COPY (R410). -/
  | orderedMulticastCopy (m : Msg)
  /-- PROBE (R405). -/
  | probe (m : Msg)
  /-- ACK (R409). -/
  | ack (m : Msg)
  /-- DATA (R395). -/
  | data (m : Msg)
  /-- ATOMIC_DATA (R395). -/
  | atomicData (m : Msg)
  /-- PROBEACK (R406). -/
  | probeack (m : Msg)
  /-- ERROR (R407). -/
  | error (m : Msg)
  /-- ALL_REDUCE_PARTIAL (R417). -/
  | allReducePartial (m : Msg)
  /-- ALL_REDUCE_RESULT (R417). -/
  | allReduceResult (m : Msg)
  /-- ALL_REDUCE_ABORT (R419). -/
  | allReduceAbort (m : Msg)
  /-- PULL (R425). -/
  | pull (m : Msg)
  /-- PAGEDATA (R425). -/
  | pagedata (m : Msg)
  /-- REDIRACK (R428). -/
  | redirack (m : Msg)
  /-- HOST_MEMORY_READ (R432). -/
  | hostMemoryRead (o : HostReq)
  /-- HOST_MEMORY_WRITE (R432). -/
  | hostMemoryWrite (o : HostReq)
  /-- HOST_ATOMICOP (R432). -/
  | hostAtomicop (o : HostReq)
  /-- ATS_INVALIDATION (R433). -/
  | atsInvalidation (lo hi : Nat)
  /-- COLD_START (R447). -/
  | coldStart (o : StartIn)
  /-- WARM_RESET (R447). -/
  | warmReset (o : StartIn)
  /-- THERMAL_CYCLE_COUNT (R452). -/
  | thermalCycleCount (u temp : Nat)
  /-- WEAR_FLASH_UPDATE (R452). -/
  | wearFlashUpdate
  /-- POWER_OFF (R452). -/
  | powerOff
  /-- ATTESTATION_QUOTE (R453). -/
  | attestationQuote (tag : Nat)
  /-- REGISTER_WRITE (R11). -/
  | registerWrite (src : ReqSrc) (pa : Nat) (c : Word64) (n : Fin 9)
  /-- UNCORRECTABLE_ERROR (R183). -/
  | uncorrectableError (o : ErrAt)
deriving DecidableEq, Repr

end Sys2Proof
end

