-- ==== Sys2Proof/Machine/State.lean ====
section
/-!
DEFINITION. The state of one module as plain data, the reasons a step stops, and the state after reset. Tables list only
what differs from their default. Registers of tier 3 have one home, `State.regs`, but for those a structure below holds.
-/
namespace Sys2Proof.Machine

/-- Who stops and why. -/
inductive Fault where
  /-- Raised by `step` alone, after POWER_OFF (R452): a module without power does nothing until a COLD_START comes
  in. Safe: the spec gives it no behaviour there. -/
  | poweredOff
deriving DecidableEq, Repr

/-- What has no meaning. -/
inductive Refusal where
  /-- Raised by an arm of `exec` whose instruction has no meaning yet. Safe. -/
  | notModelled (mnemonic : String)
  /-- Raised by `step` alone: an input that the outside cannot make (a syllable, an event of the module's own). Safe. -/
  | notAnInput
deriving DecidableEq, Repr

/-- A value of R56: an exact finite number (-1)^neg * m * 2^e, an infinity, or a NaN with its payload as 23 bits,
left-aligned. -/
inductive Val where
  | fin (neg : Bool) (m : Nat) (e : Int)
  | inf (neg : Bool)
  | nan (neg : Bool) (payload : Nat)
deriving DecidableEq, Repr

/-- Where a result lands (R29, R360): registers by physical number, an SDQ entry by its sequence number, a special
register by its number. -/
inductive Dest where
  | s (n : Nat) | v (n : Nat) | k (n : Nat) | p (n : Nat) | b (n : Nat) | h (n : Nat) | g (n : Nat)
  | sdq (n : Nat) | sr (n : Nat) | flags
deriving DecidableEq, Repr

/-- A result in flight (R26), or a held record (R345), whose due is then REM. -/
structure Flight where
  dest  : Dest
  val   : VWord
  mask  : Word64
  due   : Nat
  flags : BitVec 5
  trap  : Bool
deriving DecidableEq, Repr

/-- A request in LAQ (R38, R360): `slot` once it has taken a calendar slot or begun to wait, `done` the parts sent. -/
structure Req where
  op    : Instr
  seq   : Nat
  addr  : Word64
  step  : Word64
  lanes : VWord
  x     : Word64
  y     : Word64
  h     : Option HWord
  sdq   : Option Nat
  fmode : Word32
  seed  : Word32
  rnd   : VWord
  ipc   : Nat
  sys   : Bool
  trap  : Bool
  due   : Nat
  slot  : Bool
  done  : Nat
deriving DecidableEq, Repr

/-- An LDQ entry (R40): the request it was reserved for, the raw bytes that have arrived, the parts still out, and,
once filled, its value, its failure mark (R240) and the residency mask to write (R201). -/
structure LdqEntry where
  req    : Req
  raw    : Tab Byte
  left   : Nat
  due    : Nat
  filled : Bool
  failed : Bool
  val    : VWord
  kval   : Word64
  flags  : BitVec 5
deriving DecidableEq, Repr

/-- An SDQ entry (R41, R239). -/
structure SdqEntry where
  seq    : Nat
  filled : Bool
  val    : VWord
  mask   : Word64
deriving DecidableEq, Repr

/-- Free, resident (placed and not exited) or exited and waiting for its group (R143, R168). -/
inductive Phase where
  | free | resident | exited
deriving DecidableEq, Repr

/-- One context (R14, R18, R62, R284, R300, R339, R340, R345, R354). -/
structure Ctx where
  phase  : Phase
  frozen : Bool
  pc     : Nat
  s      : Tab Word64
  v      : Tab VWord
  k      : Tab Word64
  p      : Tab Bool
  b      : Tab Word64
  h      : Tab HWord
  g      : Tab Word64
  itr    : Nat
  stg    : Nat
  eix    : Nat
  rot    : Nat
  fmode  : Word32
  seed   : Word32
  gens   : VWord
  tvec   : Nat
  tpc    : Nat
  tnext  : Nat
  tcause : Word64
  tinfo  : Word64
  mode   : Bool
  pmode  : Bool
  inh    : Bool
  hld    : Bool
  skb    : Bool
  tsav0  : Word64
  tsav1  : Word64
  tsav2  : Word64
  tsav3  : Word64
  csa    : Nat
  scyc   : Nat
  apinfo : Word64
  undel  : Nat
  apq    : List (Nat × Word64)
  laq    : List Req
  ldq    : List LdqEntry
  sdq    : List SdqEntry
  reqSeq : Nat
  sdqSeq : Nat
  stSeq  : Nat
  flight : List Flight
  held   : List Flight
  trapAt : Nat
  next   : Nat
  bubble : Bool
  arrived : Word64
  uncounted : List (Nat × Nat)
  shadow : Tab Word64
  gid    : Nat
  barAt  : Option Nat
  owned  : List (Nat × Nat)
  acqWait : Bool
  codeLn  : List (Nat × BitVec 1024)
  mark    : Option (Nat × Nat)
  waitEnd : Option (Nat × Bool)
deriving DecidableEq, Repr

/-- A level of the loop stack of a routine (R331): the body's first word, its length, and the executions left. -/
structure ULoop where
  start : Nat
  len   : Nat
  left  : Nat
deriving DecidableEq, Repr

/-- A STEP sum on its way to the scale port (R294): the tile latched and the micro-cycles left. -/
structure Pipe where
  sums : Tab Val
  tile : Nat
  left : Nat
  word : Nat
deriving DecidableEq, Repr

/-- A matrix command in the queue (R322), with what it captured. -/
structure MCmd where
  op    : Instr
  g     : Nat
  ipc   : Nat
  a     : Word64
  b     : Word64
  ga    : List Word64
  fmode : Word32
  seed  : Word32
  sys   : Bool
  seq   : Nat
  id    : Nat
  parked : Bool
deriving DecidableEq, Repr

/-- The first entries of an f19 or f32 STEP between its two micro-cycles (R294), its tile and word. -/
structure Half where
  a    : BitVec 1024
  b    : BitVec 1024
  tile : Nat
  word : Nat
deriving DecidableEq, Repr

/-- A routine (R289 to R297, R358 matrix control). `skipA` and `skipS` count the entries that the group's SKIPs have
popped, `word` is the address of its control word and `gword` of its first word; `live` says that the routine has begun. -/
structure Routine where
  cmd    : MCmd
  upc    : Nat
  loops  : List ULoop
  tile   : Nat
  first  : Option UStep
  bandA  : BitVec 1024
  bandB  : BitVec 1024
  part   : Tab Val
  open_  : Bool
  pipe   : List Pipe
  busy   : Nat
  second : Option Half
  lands  : List Pipe
  mcyc   : Nat
  flags  : BitVec 5
  ended  : Bool
  stop   : Option (Nat × Nat)
  sigs   : Nat
  corr   : Bool
  live   : Bool
  skipA  : Nat
  skipS  : Nat
  word   : Nat
  gword  : Nat
deriving DecidableEq, Repr

/-- A command of the launch engine (R174, R307): LNCH, CPYQ, CADD, CSET, SHDW. -/
structure LCmd where
  op    : Instr
  id    : Nat
  g     : Nat
  ipc   : Nat
  a     : Word64
  b     : Word64
  pkt   : Flit
  seq   : Nat
  sys   : Bool
  stage : Nat
  w     : Nat
  txn   : Nat
deriving DecidableEq, Repr

/-- A release waiting in the release buffer (R218, R255, R258). -/
structure Rel where
  id  : Nat
  g   : Nat
  req : Req
deriving DecidableEq, Repr

/-- A core (R150, R174, R184, R255, R288 to R304, R373). -/
structure CoreSt where
  running : Nat
  yielded : Option Nat
  slotTurn : Nat
  slotAt  : Nat
  frozenTo : Nat
  frzCnt  : Nat
  window  : List Nat
  weight  : Nat
  leng    : List LCmd
  rels    : List Rel
  mq      : List MCmd
  run     : Option Routine
  busyCmd : Option MCmd
  susp    : List Routine
  tiles   : Tab VWord
  badTile : List Nat
  ustore  : Tab Word32
  lpc     : List (Nat × Nat)
deriving DecidableEq, Repr

/-- A barrier slot (R156). -/
structure BarSlot where
  gid   : Nat
  exp   : Nat
  arr   : Nat
  phase : Bool
deriving DecidableEq, Repr

/-- A subscriber of a stream (R278): context and port (0 A, 1 B, 2 scale). -/
structure Sub where
  g      : Nat
  port   : Nat
  window : Nat
  count  : Nat
deriving DecidableEq, Repr

/-- A stream slot (R277 to R279): entries with the format descriptor's FMT of the feed that filled them. -/
structure Stream where
  gid     : Nat
  defined : Bool
  ctx     : Nat
  low     : Nat
  filled  : Nat
  entries : Tab (BitVec 1024 × Option Nat)
  subs    : List Sub
  feeds   : List (Nat × Nat)
deriving DecidableEq, Repr

/-- A cluster: barrier and stream slots, banks' busy times (R43), the words counted per tile of each arming entry
(R282), the cycle after the last engine slot taken (R184). -/
structure Cluster where
  bars    : Tab BarSlot
  streams : Tab Stream
  banks   : Tab Nat
  counts  : Tab Nat
  engAt   : Nat
deriving DecidableEq, Repr

/-- A group (R148, R154, R168). -/
structure Group where
  cluster : Nat
  lid     : Nat
  index   : Nat
  ctxs    : List Nat
  base    : Nat
  size    : Nat
  slots   : List Nat
  vf      : Nat
  part    : Nat
  code    : Nat
  codelen : Nat
  shape   : Nat
  dead    : Bool
deriving DecidableEq, Repr

/-- A launch in the launch table (R165 to R168); queue numbers 256 and up are the steward queues' (R342). -/
structure Launch where
  q       : Nat
  ridx    : Nat
  pkt     : Flit
  vf      : Nat
  part    : Nat
  next    : Nat
  retired : Nat
  done    : Bool
  dead    : Bool
  checked : Bool
deriving DecidableEq, Repr

/-- The dispatcher (R166, R167): the queue last served at each priority, the cluster last served of each partition, the cycle of the last
placement, the queues whose next launch is the first after enable or resume, the launch last accepted from each queue; what it
has read from other modules: queue, address, the 128-byte line or none. -/
structure Disp where
  lastQ  : Tab Nat
  lastC  : Tab Nat
  lastAt : Nat
  fresh  : Tab Bool
  pred   : Tab Nat
  got    : List (Nat × Nat × Option (BitVec 1024))
deriving DecidableEq, Repr

/-- An agent of R208 as the source of a request. -/
inductive Agent where
  | ctx (g : Nat)
  | chan (c id : Nat)
  | eng (core id : Nat)
  | mx (core : Nat)
  | host (tag : Nat)
  | peer (m tag : Nat)
  | disp (q : Nat)
  | fetch (g : Nat)
  | part (id : Nat)
deriving DecidableEq, Repr

/-- A byte to write at a local physical address: the new bits under a bit mask (R196). -/
structure WCell where
  pa  : Nat
  val : Byte
  msk : Byte
deriving DecidableEq, Repr

/-- What a request in flight does at its home. -/
inductive TxnKind where
  | load | store | atomic | acquire | release | pcmd | fe | pageData
deriving DecidableEq, Repr

/-- Where a copy's part lands (R268): the second half of its way. -/
structure TDst where
  peer  : Option Nat
  pa    : Nat
  twin  : Nat
  red   : Nat
  rland : Bool
  cp    : Nat
  h     : Option HWord
deriving DecidableEq, Repr

/-- A part of a request on its way to its home, or waiting there (R203, R209). `peer` is the module of its home where
that is not this one; addresses are local physical there. A load names (address, raw index) pairs and keeps the bytes
read in `raw`; a store names the bytes to write. `fe` is a full/empty form on its way to a peer (1 .fw, 2 .fwc, 3 .sf, 4
and 5 FEWAIT, 6 and 7 FESET, empty then full). `ix` is the number of the part's first element in its command;
`twin` is the page size of a twin page, 0 elsewhere; `g` the issuing context of an engine's part; `err` its error
completion; `left` the messages of it that a peer has still to answer, `sent` those that have gone; `born` the cycle in which
it was sent; `errs` the causes with which members of an ordered multicast have failed; `lmask` the lanes of a PCMD, and in a load 1 where
it fills no line of a remote-data cache; `post` the module of its counter where the add goes there by itself once the bytes have
landed, since their frame has moved (R427). -/
structure Txn where
  kind   : TxnKind
  src    : Agent
  req    : Req
  die    : Nat
  vf     : Nat
  g      : Nat
  peer   : Option Nat
  pa     : Nat
  len    : Nat
  rd     : List (Nat × Nat)
  wr     : List WCell
  raw    : Tab Byte
  entry  : VWord
  lmask  : Word64
  sh     : Bool
  eng    : Bool
  full   : Bool
  fe     : Nat
  twin   : Nat
  red    : Nat
  rland  : Bool
  cp     : Nat
  cnt    : Nat
  add    : Nat
  ix     : Nat
  flags  : BitVec 5
  hit    : Bool
  held   : Bool
  tries  : Nat
  out    : Bool
  scope  : Nat
  orig   : Nat
  dst    : TDst
  dl     : Bool
  err    : Nat
  left   : Nat
  sent   : Nat
  born   : Nat
  errs   : List Nat
  post   : Option (Option Nat)
deriving DecidableEq, Repr

/-- A command of a copy channel (R268, R360): kind 1 copy, 2 feed, 3 put, 4 PUTM, 5 PUTM.o. `next` is the next element,
byte or member; `parts` the transactions still out, `buf` the bytes that have been read and not yet put into an entry or
written, by tile position, `ahead` the positions from `next` on whose bytes have already been asked for. -/
structure CCmd where
  id     : Nat
  kind   : Nat
  g      : Nat
  cidx   : Nat
  ipc    : Nat
  pkt    : Flit
  src    : Option HWord
  dst    : Option HWord
  fmode  : Word32
  seed   : Word32
  vf     : Nat
  sys    : Bool
  n      : Nat
  data   : VWord
  stream : Nat
  entry  : Nat
  seq    : Nat
  next   : Nat
  parts  : List Nat
  fault  : Option (Nat × Nat × Nat)
  parked : Bool
  carried : Bool
  posted : Bool
  buf    : Tab Byte
  ahead  : List Nat
deriving DecidableEq, Repr

/-- A line of a remote-data cache (R180, R226): its key, bytes, VF, bound object, and which of its four ECC words are
spoiled (R183). -/
structure RdcLine where
  die   : Nat
  line  : Nat
  bytes : BitVec 1024
  vf    : Nat
  obj   : Nat
  bad   : Nat
deriving DecidableEq, Repr

/-- A table walk in flight (R199). -/
structure Walk where
  g    : Nat
  hn   : Nat
  va   : Nat
  vf   : Nat
  dead : Bool
  res  : HWord
deriving DecidableEq, Repr

/-- A part in a bank's command queue (R230, R231): a Pump operation or a store that follows one. `id` numbers the parts in the
order in which they were appended; `seen` lists the agents that have read the part's result, with the byte (R209). -/
structure PumpPart where
  txn  : Txn
  id   : Nat
  seen : List (Agent × Nat)
deriving DecidableEq, Repr

/-- A binding made by BIND (R257): module-wide, newest first. -/
structure BindEnt where
  vf  : Nat
  hva : Nat
  off : Nat
  len : Nat
  obj : Nat
deriving DecidableEq, Repr

/-- A record of the Sump (R283). -/
structure SumpRec where
  pa : Nat
  vf : Nat
  wr : List WCell
  red : Nat
  ovf : Bool
deriving DecidableEq, Repr

/-- A fault record waiting for room, or a batched one (R349 to R352): its words DW0 to DW5, its companion, the command that it
ends, the commands that a range record parks. -/
structure FRec where
  vf    : Nat
  steward : Option Nat
  w0    : Word64
  w1    : Word64
  w2    : Word64
  w3    : Word64
  w4    : Word64
  w5    : Word64
  comp  : Flit
  g     : Option Nat
  cmd   : Option (Nat × Nat)
  range : List (Nat × Nat)
deriving DecidableEq, Repr

/-- An entry of the batch buffer (R352). -/
structure BatchEnt where
  cause : Nat
  page  : Nat
  cmds  : List (Nat × Nat)
deriving DecidableEq, Repr

/-- The range record's parked commands. -/
structure RangeRec where
  vf   : Nat
  ix   : Nat
  cmds : List (Nat × Nat)
deriving DecidableEq, Repr

/-- Fault-ring state that is not in FRCFG: records waiting for room, the batch buffer with the cycle of its first entry,
and the commands parked behind each range record (R351, R352). -/
structure Faults where
  wait   : List FRec
  batch  : Tab (List BatchEnt)
  bstart : Tab Nat
  ranges : List RangeRec
  full   : Tab Bool
deriving DecidableEq, Repr

/-- An event record (R353): KIND, GCTX, VF, cycle, INFO. -/
structure Event where
  kind : Nat
  g    : Nat
  vf   : Nat
  cyc  : Nat
  i0   : Word64
  i1   : Word64
deriving DecidableEq, Repr

/-- What the module sends out: flits on ports, PCI Express requests and completions to the host, by host port (R431), a write
with each byte beside the mask of its bits that are written; the fence notice
whose flit the spec does not lay out (R405), a signed quote (R453). -/
inductive Out where
  | flit (port lanes : Nat) (f : Flit)
  | training (port lanes : Nat)
  | pcieRead (port tag addr len : Nat) (vf : Nat)
  | pcieWrite (port addr : Nat) (data : List (Byte × Byte)) (vf : Nat)
  | pcieAtomic (port addr op size : Nat) (data : VWord) (vf : Nat)
  | pri (port vf va : Nat)
  | completion (port tag : Nat) (ok : Bool) (data : List Byte)
  | notice (port m : Nat)
  | quote (tag : Nat) (sig : List Byte)
  | atsDone (lo hi : Nat)
  | atsRequest (port page vf : Nat)
deriving DecidableEq, Repr

/-- A message queued at this Ridge die (R397 to R402): its output port once one is chosen, its VC, the flits sent, the
sequence numbers not yet acknowledged, the cycle since which it has waited for a buffer (0: it does not), whether it was
received by a global hop, the port and credit channel whose buffers it fills. A message stays until its last flit is
acknowledged (R405). -/
structure QMsg where
  id    : Nat
  m     : Msg
  port  : Option Nat
  vc    : Nat
  sent  : Nat
  seqs  : List Nat
  head  : Nat
  glob  : Bool
  inp   : Option (Nat × Nat)
deriving DecidableEq, Repr

/-- A message being received on a port and VC (R394). -/
structure RxMsg where
  vc    : Nat
  m     : Msg
  got   : Nat
deriving DecidableEq, Repr

/-- A re-stripe in progress (R391). -/
structure Stripe where
  map   : Nat
  mode  : Nat
  e     : Nat
  reps  : Nat
  stamp : Nat
deriving DecidableEq, Repr

/-- One fabric port (R385 to R393) beside its registers. As transmitter: the next sequence number, the flits not yet
acknowledged, those to be resent, the control flits to be sent (type and payload), per credit channel the flits given and
the buffers known to be free again, the E of a NAK to be discarded (R437). As receiver: E, the flits held, the E that a NAK
named while it is repeated (with the cycle of the repetition), the buffers freed per channel, the channel named last, the
messages arriving, the re-stripe in progress, per lane the windows above the threshold and (where it has passed training)
of good margin, the lanes shed and when, the lanes without lock, the window's bursts per lane and its CRC failures, and
how many flits are owed to carry ACK and CRED, the cycle until which it sends the training of R391. -/
structure Port where
  txSeq   : Nat
  replay  : List (Nat × Flit)
  resend  : List Nat
  ctl     : List (Nat × BitVec 384)
  given   : Tab Nat
  ret     : Tab Nat
  skipNak : Option Nat
  rxE     : Nat
  reorder : List (Nat × Flit)
  nak     : Option (Nat × Nat)
  freed   : Tab Nat
  chan    : Nat
  rx      : List RxMsg
  stripe  : Option Stripe
  above   : Tab Nat
  good    : Tab Nat
  sheds   : List (Nat × Nat)
  lost    : List Nat
  cb      : Tab Nat
  cc      : Nat
  owe     : Nat
  mute    : Nat
deriving DecidableEq, Repr

/-- An escape table (R400, R402): the epoch's tree as this Ridge die sees it. -/
structure ETable where
  epoch  : Nat
  root   : Nat
  level  : Nat
  parent : Nat
  kids   : List (Nat × BitVec 16384)
  live   : BitVec 16384
deriving DecidableEq, Repr

/-- What a neighbour has said in this epoch (R401, R402): its root and level, whether this module is its parent, whether
its buffers are quiet. -/
structure Nbr where
  root  : Nat
  level : Nat
  child : Bool
  quiet : Bool
deriving DecidableEq, Repr

/-- The escape-tree protocol at this Ridge die (R401, R402): the epoch's root, level and parent port, the cycle of the last
change and the number of its timer, the neighbours by port, the bitmaps that children have sent (with the number of
chunks), whether DONE or INSTALL has been sent, the live set as it arrives, the table to be installed, whether the buffers
are quiet, the cycle at which a message of each parity last stood in them, and the installed tables. -/
structure Tree where
  epoch   : Nat
  root    : Nat
  level   : Nat
  parent  : Nat
  since   : Nat
  stamp   : Nat
  nbrs    : Tab Nbr
  done    : Tab (BitVec 16384 × Nat)
  sent    : Bool
  chunks  : Nat
  live    : BitVec 16384
  pend    : Option ETable
  quiet   : Bool
  epAt    : Tab Nat
  tabs    : List ETable
deriving DecidableEq, Repr

/-- What an outstanding request is for: a transaction, a probe, a collective (VF, entry, sequence), a PULL, a PAGEDATA
(frame, part), a REDIRACK. -/
inductive Use where
  | txn (id : Nat)
  | probe (m : Nat)
  | coll (v i n : Nat)
  | pull (v u : Nat)
  | page (frame ix : Nat)
  | redir
deriving DecidableEq, Repr

/-- An entry of the outstanding table (R404): the message, what it is for, the agent of R208 that sent it, the address
as it named it, the number of its timer, how often it was redirected. -/
structure Outst where
  m     : Msg
  use   : Use
  agent : Agent
  orig  : Nat
  stamp : Nat
  tries : Nat
deriving DecidableEq, Repr

/-- An entry of the redirect cache (R426): the source module and frame, the destination's, the source's VF (R428). -/
structure Redir where
  m      : Nat
  frame  : Nat
  dest   : Nat
  dframe : Nat
  vf     : Nat
deriving DecidableEq, Repr

/-- The fabric side of the module (R378 to R413). -/
structure Fabric where
  ports  : Tab Port
  gen    : Word32
  queue  : List QMsg
  tree   : Tree
  outst  : Tab Outst
  inject : List Nat
  waiting : List (Msg × Use × Agent)
  turn   : Nat
  grants : Nat
  probes : List (Nat × Nat)
  links  : List (Nat × Nat)
  omSeq  : Tab Nat
  omNext : Tab Nat
  omHeld : List Msg
  arrived : List Msg
  redir  : List Redir
deriving DecidableEq, Repr

/-- An all-reduce sequence at this member (R416 to R419), keyed by VF and entry; `ends` says that an abort of the sequence after it has
come while its own record waits. -/
structure ArSeq where
  v      : Nat
  i      : Nat
  n      : Nat
  c      : Option Word64
  parts  : List (Nat × Word64)
  sentUp : Bool
  since  : Nat
  toWrite : Option (Word64 × Nat)
  redo   : Bool
  ends   : Bool
deriving DecidableEq, Repr

/-- A partial held for the next sequence (R417): VF, entry, sequence, child, value. -/
structure ArHeld where
  v : Nat
  i : Nat
  n : Nat
  child : Nat
  val : Word64
deriving DecidableEq, Repr

/-- A sealed frame of a migration source (R425, R426), and a unit of a destination. -/
structure Sealed where
  frame : Nat
  v     : Nat
  unit  : Nat
  dest  : Nat
  dframe : Nat
  sent  : Bool
deriving DecidableEq, Repr

structure MigUnit where
  v      : Nat
  unit   : Nat
  frame  : Nat
  pulled : Bool
  got    : Nat
  bits   : BitVec 256
  stamp  : Nat
deriving DecidableEq, Repr

/-- Migration (R422 to R428): sealed frames, peers redirected, destination units not yet installed, held transactions,
and the PAGEDATA messages of each sealed frame not yet acknowledged. -/
structure Mig where
  seals : List Sealed
  peers : List (Nat × Nat × Nat)
  units : List MigUnit
  held  : List Nat
  sending : Tab Nat
deriving DecidableEq, Repr

/-- State of one arbiter entry (R430). -/
inductive HarbState where
  | movingD | movingH | dwellD | dwellH
deriving DecidableEq, Repr

structure HarbEnt where
  v     : Nat
  unit  : Nat
  st    : HarbState
  stamp : Nat
deriving DecidableEq, Repr

/-- Stored training results in flash (R448). -/
structure Flash where
  fuseId : Nat
  temps  : List Nat
  valid  : Bool
  wear   : Tab Word64
deriving DecidableEq, Repr

/-- Start-up and service (R447 to R456); `twoPorts` says that the host port is 2 x8 since the last cold start (R431). -/
structure Start where
  powered : Bool
  twoPorts : Bool
  retried : Bool
  warm    : Bool
  input   : StartIn
  stamp   : Nat
  flash   : Flash
  peak    : Tab Nat
  trough  : Tab Nat
deriving DecidableEq, Repr

/-- How the syllable just executed fared: it issued, its course must stall, or its course trapped. -/
inductive Fate where
  | go | stall | trap
deriving DecidableEq, Repr

/-- The course being issued: the context, the course's address, the address just past it, the address of the course there (past a
header: R21), the bundle of the syllable being
executed, the BRT outcome (R31), the results then in flight, the syllable's fate. The model's own. -/
structure Issue where
  g      : Nat
  pc     : Nat
  next   : Nat
  tnext  : Nat
  bundle : Nat
  brt    : Nat
  old    : Nat
  fate   : Fate
deriving DecidableEq, Repr

/-- The module. `clock` counts core cycles since reset; `ctr` numbers free values; `ids` numbers transactions; `cur` is
the core whose micro-op is executed; `l2` lists the 128-byte lines of tiers 0 and 1 that the L2 slices may hold (R179); `atsWait` holds the ATS Invalidations
not yet completed (R433); `inputs`, `turn`, `agenda`, `outbox` order machine events (log entry 4). -/
structure State where
  clock    : Nat
  ctr      : Nat
  ids      : Nat
  cur      : Nat
  iss      : Issue
  ctxs     : Tab Ctx
  cores    : Tab CoreSt
  clusters : Tab Cluster
  groups   : Tab Group
  launches : Tab Launch
  disp     : Disp
  mem      : List Host.Cell
  fe       : Tab Bool
  spoiled  : List Nat
  regs     : Tab Word64
  l2       : List Nat
  rdc      : List RdcLine
  txns     : Tab Txn
  walks    : Tab Walk
  chans    : Tab (List CCmd)
  banks    : Tab (List PumpPart)
  alerts   : Tab Nat
  binds    : List BindEnt
  sump     : List SumpRec
  faults   : Faults
  evq      : List Event
  fab      : Fabric
  ar       : List ArSeq
  arHeld   : List ArHeld
  arEnd    : Tab Nat
  mig      : Mig
  harb     : List HarbEnt
  ats      : List (Nat × Nat × Nat)
  atsWait  : List (Nat × Nat)
  freezes  : List Nat
  thaws    : List Nat
  start    : Start
  outbox   : List Out
  inputs   : List Instr
  turn     : List (Nat × Instr)
  agenda   : List (Nat × Instr)
deriving DecidableEq, Repr

/-- A context before any start (R20; log entry 2). -/
def Ctx.reset : Ctx :=
  { phase := .free, frozen := false, pc := 0, s := [], v := [], k := [], p := [], b := [], h := [], g := [],
    itr := 0, stg := 0, eix := 0, rot := 0, fmode := 0, seed := 0, gens := 0, tvec := 0, tpc := 0, tnext := 0,
    tcause := 0, tinfo := 0, mode := false, pmode := false, inh := false, hld := false, skb := false, tsav0 := 0,
    tsav1 := 0, tsav2 := 0, tsav3 := 0, csa := 0, scyc := 0, apinfo := 0, undel := 0, apq := [], laq := [], ldq := [],
    sdq := [], reqSeq := 0, sdqSeq := 0, stSeq := 0, flight := [], held := [], trapAt := 0, next := 0, bubble := false,
    arrived := 0, uncounted := [], shadow := [], gid := 0, barAt := none,
    owned := [], acqWait := false, codeLn := [], mark := none, waitEnd := none }

def CoreSt.reset : CoreSt :=
  { running := 0, yielded := none, slotTurn := 0, slotAt := 0, frozenTo := 0, frzCnt := 0, window := [], weight := 0,
    leng := [], rels := [], mq := [], run := none, busyCmd := none, susp := [], tiles := [], badTile := [], ustore := [],
    lpc := [] }

def Cluster.reset : Cluster := { bars := [], streams := [], banks := [], counts := [], engAt := 0 }

def Port.reset : Port :=
  { txSeq := 0, replay := [], resend := [], ctl := [], given := [], ret := [], skipNak := none, rxE := 0, reorder := [],
    nak := none, freed := [], chan := 0, rx := [], stripe := none, above := [], good := [], sheds := [], lost := [], cb := [],
    cc := 0, owe := 0, mute := 0 }

def Tree.reset : Tree :=
  { epoch := 0, root := 0, level := 0, parent := 63, since := 0, stamp := 0, nbrs := [], done := [], sent := false,
    chunks := 0, live := 0, pend := none, quiet := false, epAt := [], tabs := [] }

def Fabric.reset : Fabric :=
  { ports := [], gen := 0, queue := [], tree := Tree.reset, outst := [], inject := [], waiting := [], turn := 0, grants := 0, probes := [],
    links := [], omSeq := [], omNext := [], omHeld := [], arrived := [], redir := [] }

def Start.reset : Start :=
  { powered := true, twoPorts := false, retried := false, warm := false,
    input := { fuseId := 0, spares := [], retired := [], temps := [], hashOk := false, redo := [], redoMem := false, upto := 0 }, stamp := 0,
    flash := { fuseId := 0, temps := [], valid := false, wear := [] }, peak := [], trough := [] }

/-- The module right after reset: every register at the value its table states, memory with nothing listed, every other
register at the value a log entry names (2, 3, 4). -/
def State.reset : State :=
  { clock := 0, ctr := 0, ids := 0, cur := 0, iss := { g := 0, pc := 0, next := 0, tnext := 0, bundle := 0, brt := 4, old := 0, fate := .go },
    ctxs := [], cores := [], clusters := [], groups := [], launches := [],
    disp := { lastQ := [], lastC := [], lastAt := 0, fresh := [], pred := [], got := [] },
    mem := [], fe := [], spoiled := [], regs := [], l2 := [], rdc := [], txns := [], walks := [], chans := [], banks := [],
    alerts := [], binds := [], sump := [],
    faults := { wait := [], batch := [], bstart := [], ranges := [], full := [] }, evq := [], fab := Fabric.reset, ar := [],
    arHeld := [], arEnd := [], mig := { seals := [], peers := [], units := [], held := [], sending := [] }, harb := [], ats := [], atsWait := [],
    freezes := [], thaws := [], start := Start.reset, outbox := [], inputs := [], turn := [], agenda := [] }

end Sys2Proof.Machine
end

