-- ==== Sys2Proof/Machine/Table.lean ====
section
/-!
DEFINITION. Operations on sparse tables and on the list of memory cells. A table lists its keys strictly rising; `tput`
also drops an entry that equals the default, so that equal tables are equal lists.
-/
namespace Sys2Proof.Machine

/-- The entry at k. -/
def tfind {α : Type} (t : Tab α) (k : Nat) : Option α :=
  match t with
  | [] => none
  | (j, v) :: r => if j = k then some v else tfind r k

/-- The value at k, d where none is listed. -/
def tget {α : Type} (d : α) (t : Tab α) (k : Nat) : α := (tfind t k).getD d

/-- Remove every entry at k. -/
def tdel {α : Type} (t : Tab α) (k : Nat) : Tab α :=
  match t with
  | [] => []
  | (j, v) :: r => if j = k then tdel r k else (j, v) :: tdel r k

/-- Insert (k, v) before the first greater key. -/
def tins {α : Type} (t : Tab α) (k : Nat) (v : α) : Tab α :=
  match t with
  | [] => [(k, v)]
  | (j, w) :: r => if k < j then (k, v) :: (j, w) :: r else (j, w) :: tins r k v

/-- Set k to v. -/
def tset {α : Type} (t : Tab α) (k : Nat) (v : α) : Tab α := tins (tdel t k) k v

/-- Set k to v, listing nothing where v is the default d. -/
def tput {α : Type} [DecidableEq α] (d : α) (t : Tab α) (k : Nat) (v : α) : Tab α :=
  if v = d then tdel t k else tset t k v

/-- The keys strictly rise from `lo` on. -/
def tsorted {α : Type} (lo : Nat) (t : Tab α) : Bool :=
  match t with
  | [] => true
  | (k, _) :: r => decide (lo ≤ k) && tsorted (k + 1) r

/-- The canonical form of a table with default d. -/
def twf {α : Type} [DecidableEq α] (d : α) (t : Tab α) : Bool := tsorted 0 t && t.all fun e => decide (e.2 ≠ d)

/-- What a byte of memory that nothing has written reads as (R447 scrubs to zero; log entry 1). -/
def memDefault : Byte := 0

/-- The canonical form of memory: addresses strictly rising, no entry equal to what an unlisted address reads as. -/
def memWf (m : List Host.Cell) : Bool := twf memDefault m

/-- Byte i of a vector word. -/
def byteAt {n : Nat} (x : BitVec n) (i : Nat) : Byte := x.extractLsb' (8 * i) 8

/-- The low n bytes of x, lowest first (R9). -/
def bytesOf {w : Nat} (x : BitVec w) (n : Nat) : List Byte := (List.range n).map (byteAt x)

/-- Bytes, lowest first, as a number (R9). -/
def natOfBytes (l : List Byte) : Nat := l.foldr (fun b acc => acc * 256 + b.toNat) 0

/-- Lane i of a vector. -/
def laneOf (x : VWord) (i : Nat) : Word32 := x.extractLsb' (32 * i) 32

/-- A vector from its lanes, lane 0 lowest. -/
def vecOf (l : List Nat) (bits : Nat) : VWord :=
  BitVec.ofNat 2048 (l.foldr (fun x acc => acc * 2 ^ bits + x % 2 ^ bits) 0)

/-- Element i of width w. -/
def elemOf (x : VWord) (w i : Nat) : Nat := x.toNat / 2 ^ (w * i) % 2 ^ w

/-- The mask of n ones. -/
def ones (n : Nat) : Nat := 2 ^ n - 1

/-- The lanes that a 64-bit lane mask selects, as a mask of 2048 bits. -/
def laneMask (m : Word64) : VWord :=
  vecOf ((List.range 64).map fun i => if m.getLsbD i then 0xFFFFFFFF else 0) 32

/-- Old lanes where the mask is 0, new lanes where it is 1. -/
def mergeLanes (m : Word64) (old new : VWord) : VWord :=
  let k := laneMask m
  (old &&& ~~~ k) ||| (new &&& k)

end Sys2Proof.Machine
end

