-- ==== Sys2Proof/Machine/Formats.lean ====
section
/-!
DEFINITION. Number formats and arithmetic (R46 to R73): Decode, Encode, RoundTo and Sat, exact sums and products, the
functions of R131, conversions. Flags are five bits, FI at bit 0 to FX at bit 4 (R18).
-/
namespace Sys2Proof.Machine

/-- Flag bits in the order of FMODE[12:8] (R18). -/
def flagFI : BitVec 5 := 1
def flagFZ : BitVec 5 := 2
def flagFO : BitVec 5 := 4
def flagFU : BitVec 5 := 8
def flagFX : BitVec 5 := 16

/-- Rounding mode, overflow mode, flush mode of an FMODE value (R18). -/
def fmRM (m : Word32) : Nat := m.toNat % 8
def fmOVF (m : Word32) : Bool := m.getLsbD 3
def fmFTZ (m : Word32) : Bool := m.getLsbD 4
def rmRNE : Nat := 0
def rmRTZ : Nat := 1
def rmRUP : Nat := 2
def rmRDN : Nat := 3
def rmRNA : Nat := 4
def rmSR : Nat := 5

/-- A floating format (R46): exponent and mantissa bits, bias, whether it has a sign, and its special codes (R49):
0 none, 1 infinities and NaNs, 2 e4m3's NaN. -/
structure FFmt where
  eb   : Nat
  mb   : Nat
  bias : Nat
  sgn  : Bool
  spec : Nat
deriving DecidableEq, Repr

/-- The floating formats by code (R46); e8m0 (30) is apart. -/
def ffmt (c : Nat) : Option FFmt :=
  match c with
  | 0 => some ⟨8, 23, 127, true, 1⟩
  | 1 => some ⟨5, 10, 15, true, 1⟩
  | 2 => some ⟨8, 7, 127, true, 1⟩
  | 3 => some ⟨8, 10, 127, true, 1⟩
  | 4 => some ⟨5, 2, 15, true, 1⟩
  | 5 => some ⟨4, 3, 7, true, 2⟩
  | 6 => some ⟨3, 2, 3, true, 0⟩
  | 7 => some ⟨2, 3, 1, true, 0⟩
  | 8 => some ⟨2, 1, 1, true, 0⟩
  | 31 => some ⟨3, 5, 3, false, 0⟩
  | _ => none

/-- The integer formats by code (R46): signed, width. -/
def ifmt (c : Nat) : Option (Bool × Nat) :=
  match c with
  | 9 => some (true, 16) | 10 => some (false, 16) | 11 => some (true, 8) | 12 => some (false, 8)
  | 13 => some (true, 4) | 14 => some (false, 4) | 15 => some (true, 2)
  | 28 => some (true, 32) | 29 => some (false, 32) | _ => none

/-- The element format of a blocked code (R46), and a code itself otherwise. -/
def elemCode (c : Nat) : Nat :=
  match c with
  | 16 => 5 | 17 => 4 | 18 => 6 | 19 => 7 | 20 => 8 | 21 => 11 | 22 => 8 | 23 => 7 | 24 => 6 | 25 => 5 | 26 => 13
  | 27 => 11 | c => c

/-- Bits of a code in format c (R46). -/
def codeBits (c : Nat) : Nat :=
  match c with
  | 0 => 32 | 1 => 16 | 2 => 16 | 3 => 19 | 4 => 8 | 5 => 8 | 6 => 6 | 7 => 6 | 8 => 4 | 9 => 16 | 10 => 16 | 11 => 8
  | 12 => 8 | 13 => 4 | 14 => 4 | 15 => 2 | 28 => 32 | 29 => 32 | 30 => 8 | 31 => 8 | _ => 0

def Val.zero : Val := .fin false 0 0
def Val.ofInt (x : Int) : Val := .fin (decide (x < 0)) x.natAbs 0
def Val.isNaN : Val → Bool
  | .nan _ _ => true | .fin _ _ _ => false | .inf _ => false
def Val.isZero : Val → Bool
  | .fin _ m _ => m == 0 | .inf _ => false | .nan _ _ => false
def Val.sign : Val → Bool
  | .fin n _ _ => n | .inf n => n | .nan n _ => n
/-- A NaN whose top mantissa bit is 0 counts as signalling (R49). -/
def Val.snan : Val → Bool
  | .nan _ p => p < 0x400000 | .fin _ _ _ => false | .inf _ => false
def Val.neg : Val → Val
  | .fin n m e => .fin (!n) m e | .inf n => .inf (!n) | .nan n p => .nan n p
def Val.abs : Val → Val
  | .fin _ m e => .fin false m e | .inf _ => .inf false | .nan _ p => .nan false p

/-- The default NaN (R66). -/
def defaultNaN : Val := .nan false 0x400000

/-- Decode of a floating code (R48, R49, R56). -/
def decodeF (f : FFmt) (c : Nat) : Val :=
  let m := c % 2 ^ f.mb
  let e := c / 2 ^ f.mb % 2 ^ f.eb
  let s := f.sgn && c / 2 ^ (f.mb + f.eb) % 2 == 1
  let emax := 2 ^ f.eb - 1
  if f.spec == 1 && e == emax then if m == 0 then .inf s else .nan s (m * 2 ^ (23 - f.mb))
  else if f.spec == 2 && e == emax && m == 2 ^ f.mb - 1 then .nan s (m * 2 ^ (23 - f.mb))
  else if e == 0 then .fin s m (1 - (f.bias : Int) - f.mb)
  else .fin s (2 ^ f.mb + m) ((e : Int) - f.bias - f.mb)

/-- Decode(c, f) for an unblocked code, a scale code or an element code (R56). -/
def decode (f c : Nat) : Val :=
  match ffmt f with
  | some x => decodeF x c
  | none =>
    match ifmt f with
    | some (true, w) => Val.ofInt (if c % 2 ^ w < 2 ^ (w - 1) then (c % 2 ^ w : Nat) else (c % 2 ^ w : Nat) - (2 ^ w : Nat))
    | some (false, w) => .fin false (c % 2 ^ w) 0
    | none => if f == 30 then if c % 256 == 255 then .nan false 0x400000 else .fin false 1 ((c % 256 : Nat) - 127)
              else .zero

/-- m * 2^e as an integer when it is one. -/
def shiftInt (m : Nat) (e : Int) : Nat := if 0 ≤ e then m * 2 ^ e.toNat else m / 2 ^ (-e).toNat

/-- The exponent of the leading one of m * 2^e, m > 0. -/
def topExp (m : Nat) (e : Int) : Int := (m.log2 : Int) + e

/-- Encode of a member of a floating format's value set (R57). -/
def encodeF (f : FFmt) (v : Val) : Nat :=
  let sb (s : Bool) : Nat := if f.sgn && s then 2 ^ (f.eb + f.mb) else 0
  let emax := 2 ^ f.eb - 1
  match v with
  | .inf s => sb s + emax * 2 ^ f.mb
  | .nan s p =>
    if f.spec == 2 then sb s + emax * 2 ^ f.mb + (2 ^ f.mb - 1)
    else
      let m := p % 2 ^ 23 / 2 ^ (23 - f.mb)
      sb s + emax * 2 ^ f.mb + (if m == 0 then 1 else m)
  | .fin s m e =>
    if m == 0 then sb s
    else
      let t := topExp m e
      let lo : Int := 1 - (f.bias : Int)
      if t < lo then sb s + shiftInt m (e - (lo - f.mb))
      else sb s + (t + f.bias).toNat * 2 ^ f.mb + shiftInt m (e - (t - f.mb)) % 2 ^ f.mb

/-- Encode(y, f) (R57). -/
def encode (f : Nat) (v : Val) : Nat :=
  match ffmt f with
  | some x => encodeF x v
  | none =>
    match ifmt f with
    | some (_, w) =>
      match v with
      | .fin s m e => let n := shiftInt m e; if s then (2 ^ w - n % 2 ^ w) % 2 ^ w else n % 2 ^ w
      | .inf _ => 0
      | .nan _ _ => 0
    | none =>
      if f == 30 then
        match v with
        | .fin _ m e => (topExp m e + 127).toNat
        | .inf _ => 255
        | .nan _ _ => 255
      else 0

/-- The largest finite value of a floating format as m * 2^e (R46). -/
def maxFinite (f : FFmt) : Nat × Int :=
  let emax : Nat := 2 ^ f.eb - 1
  if f.spec == 1 then (2 ^ (f.mb + 1) - 1, ((emax - 1 : Nat) : Int) - f.bias - f.mb)
  else if f.spec == 2 then (2 ^ (f.mb + 1) - 2, (emax : Int) - f.bias - f.mb)
  else (2 ^ (f.mb + 1) - 1, (emax : Int) - f.bias - f.mb)

/-- The choice of R58 between k and k + 1 at a remainder rem of 2^s: true takes k + 1. `neg` is the sign of x, r the
random value. -/
def roundUp (rm : Nat) (neg odd : Bool) (rem s : Nat) (r : Word32) : Bool :=
  match rm with
  | 1 => false
  | 2 => !neg
  | 3 => neg
  | 4 => decide (2 ^ s ≤ 2 * rem)
  | 5 => decide (r.toNat * 2 ^ s < rem * 2 ^ 32)
  | _ => decide (2 ^ s < 2 * rem) || (decide (2 ^ s = 2 * rem) && odd)

/-- m * 2^e rounded to a multiple of 2^q: the multiple and whether the result is inexact. -/
def roundAt (rm : Nat) (neg : Bool) (m : Nat) (e q : Int) (r : Word32) : Nat × Bool :=
  if q ≤ e then (m * 2 ^ (e - q).toNat, false)
  else
    let s := (q - e).toNat
    let k := m / 2 ^ s
    let rem := m % 2 ^ s
    if rem == 0 then (k, false)
    else (if roundUp rm neg (k % 2 == 1) rem s r then k + 1 else k, true)

/-- What an overflow delivers (R59): whether a format with infinities gives the infinity. -/
def overflowInf (m : Word32) (neg : Bool) : Bool :=
  fmOVF m && (match fmRM m with | 1 => false | 2 => !neg | 3 => neg | _ => true)

/-- a * 2^ea < b * 2^eb. -/
def ltExp (a : Nat) (ea : Int) (b : Nat) (eb : Int) : Bool :=
  let e := min ea eb
  decide (a * 2 ^ (ea - e).toNat < b * 2 ^ (eb - e).toNat)

/-- RoundTo for a floating format (R58, R59). -/
def roundF (f : FFmt) (m : Word32) (r : Word32) (x : Val) : Val × BitVec 5 :=
  let (mm, me) := maxFinite f
  match x with
  | .nan s p => if f.spec == 0 then (.zero, flagFI) else (.nan s p, 0)
  | .inf s =>
    if f.spec == 1 then (.inf s, 0)
    else if f.spec == 2 then (if fmOVF m then .nan s 0x700000 else .fin s mm me, flagFI)
    else if !f.sgn && s then (.zero, flagFI)
    else (.fin (f.sgn && s) mm me, flagFI)
  | .fin s n e =>
    if n == 0 then (.fin (f.sgn && s) 0 0, 0)
    else if !f.sgn && s then (.zero, flagFI)
    else
      let t := topExp n e
      let lo : Int := 1 - (f.bias : Int)
      let q : Int := (if t < lo then lo else t) - f.mb
      let (k, inexact) := roundAt (fmRM m) s n e q r
      let fx : BitVec 5 := if inexact then flagFX else 0
      if ltExp mm me k q then
        (if f.spec == 1 then if overflowInf m s then .inf s else .fin s mm me
         else if f.spec == 2 then if overflowInf m s then .nan s 0x700000 else .fin s mm me
         else .fin s mm me, flagFO ||| flagFX)
      else
        (.fin s k q, fx ||| (if inexact && t < lo then flagFU else 0))

/-- Sat(x, f) (R60). -/
def satInt (sgn : Bool) (w : Nat) (x : Int) : Int :=
  let lo : Int := if sgn then -(2 ^ (w - 1) : Nat) else 0
  let hi : Int := if sgn then (2 ^ (w - 1) : Nat) - 1 else (2 ^ w : Nat) - 1
  if x < lo then lo else if hi < x then hi else x

/-- RoundTo for an integer format (R58 to R60). -/
def roundI (sgn : Bool) (w : Nat) (m : Word32) (r : Word32) (x : Val) : Val × BitVec 5 :=
  let big : Int := (2 ^ 64 : Nat)
  match x with
  | .nan _ _ => (.zero, flagFI)
  | .inf s => (Val.ofInt (satInt sgn w (if s then -big else big)), flagFI)
  | .fin s n e =>
    if s && !sgn && n != 0 then (.zero, flagFI)
    else
      let (k, inexact) := roundAt (fmRM m) s n e 0 r
      let y : Int := if s then -(k : Int) else k
      if satInt sgn w y = y then (Val.ofInt y, if inexact then flagFX else 0)
      else (Val.ofInt (satInt sgn w y), flagFI)

/-- RoundTo for e8m0 (R52, R58, R59). -/
def roundE8 (m : Word32) (r : Word32) (x : Val) : Val × BitVec 5 :=
  let top : Val := if fmOVF m then .nan false 0x400000 else .fin false 1 127
  match x with
  | .nan s p => (.nan s p, 0)
  | .inf s => (if s then .fin false 1 (-127) else top, flagFI)
  | .fin s n e =>
    if s || n == 0 then (.fin false 1 (-127), flagFI)
    else
      let t := topExp n e
      if t < -127 then (.fin false 1 (-127), flagFU ||| flagFX)
      else
        let sft := n.log2
        let rem := n % 2 ^ sft
        if rem == 0 then (if t ≤ 127 then .fin false 1 t else top, if t ≤ 127 then 0 else flagFO ||| flagFX)
        else
          let up := roundUp (fmRM m) false ((t + 127) % 2 == 1) rem sft r
          let t' := if up then t + 1 else t
          if t' ≤ 127 then (.fin false 1 t', flagFX) else (top, flagFO ||| flagFX)

/-- RoundTo(x, f, m) with the random value r (R58). -/
def roundTo (f : Nat) (m r : Word32) (x : Val) : Val × BitVec 5 :=
  match ffmt f with
  | some y => roundF y m r x
  | none =>
    match ifmt f with
    | some (sgn, w) => roundI sgn w m r x
    | none => roundE8 m r x

/-- A conversion between codes (R68). -/
def convert (f g : Nat) (m r : Word32) (c : Nat) : Nat × BitVec 5 :=
  let (v, fl) := roundTo g m r (decode f c)
  (encode g v, fl)

/-- The exact product; 0 times infinity is an invalid operation (R65). -/
def Val.mul (x y : Val) : Val × BitVec 5 :=
  match x, y with
  | .nan s p, _ => (.nan s p, 0)
  | _, .nan s p => (.nan s p, 0)
  | .inf s, .inf t => (.inf (s != t), 0)
  | .inf s, .fin t n _ => if n == 0 then (defaultNaN, flagFI) else (.inf (s != t), 0)
  | .fin s n _, .inf t => if n == 0 then (defaultNaN, flagFI) else (.inf (s != t), 0)
  | .fin s n e, .fin t k f => (.fin (s != t) (n * k) (e + f), 0)

/-- The exact sum; an exact zero of operands of opposite sign is +0, or -0 under RDN (R58 step 7). -/
def Val.add (rm : Nat) (x y : Val) : Val × BitVec 5 :=
  match x, y with
  | .nan s p, _ => (.nan s p, 0)
  | _, .nan s p => (.nan s p, 0)
  | .inf s, .inf t => if s == t then (.inf s, 0) else (defaultNaN, flagFI)
  | .inf s, .fin _ _ _ => (.inf s, 0)
  | .fin _ _ _, .inf t => (.inf t, 0)
  | .fin s n e, .fin t k f =>
    let q := min e f
    let a : Int := (n * 2 ^ (e - q).toNat : Nat)
    let b : Int := (k * 2 ^ (f - q).toNat : Nat)
    let z : Int := (if s then -a else a) + (if t then -b else b)
    if z = 0 then (.fin (if s == t then s else rm == rmRDN) 0 0, 0) else (.fin (decide (z < 0)) z.natAbs q, 0)

/-- x < y for values that are no NaN; zeros of both signs equal. -/
def Val.lt (x y : Val) : Bool :=
  match x, y with
  | .nan _ _, _ => false
  | _, .nan _ _ => false
  | .inf s, .inf t => s && !t
  | .inf s, .fin _ _ _ => s
  | .fin _ _ _, .inf t => !t
  | .fin s n e, .fin t k f =>
    if n == 0 && k == 0 then false
    else if n == 0 then !t
    else if k == 0 then s
    else if s != t then s
    else if s then ltExp k f n e else ltExp n e k f

def Val.eqv (x y : Val) : Bool := !x.isNaN && !y.isNaN && !x.lt y && !y.lt x

/-- A NaN result (R66): the first NaN operand with its top mantissa bit set. -/
def quiet : Val → Val
  | .nan s p => .nan s (p % 0x400000 + 0x400000)
  | .fin n m e => .fin n m e
  | .inf s => .inf s

/-- The first NaN among the operands, in order (R66). -/
def firstNaN : List Val → Option Val
  | [] => none
  | x :: r => if x.isNaN then some (quiet x) else firstNaN r

/-- FI for a signalling operand (R65). -/
def snanFlag (l : List Val) : BitVec 5 := if l.any Val.snan then flagFI else 0

/-- An f32 subnormal. -/
def subnormal32 : Val → Bool
  | .fin _ m e => m != 0 && decide (topExp m e < -126)
  | .inf _ => false
  | .nan _ _ => false

/-- FTZ on an operand of format f (R67). -/
def flushIn (f : Nat) (m : Word32) (x : Val) : Val :=
  if f == 0 && fmFTZ m && subnormal32 x then .fin x.sign 0 0 else x

/-- FTZ on a result of format f (R67). -/
def flushOut (f : Nat) (m : Word32) (x : Val × BitVec 5) : Val × BitVec 5 :=
  if f == 0 && fmFTZ m && subnormal32 x.1 then (.fin x.1.sign 0 0, x.2 ||| flagFU ||| flagFX) else x

/-- Finish an arithmetic operation: operands ops, exact result y with its flags, rounded to f. -/
def finish (f : Nat) (m r : Word32) (ops : List Val) (y : Val × BitVec 5) : Nat × BitVec 5 :=
  match firstNaN ops with
  | some q => (encode f q, snanFlag ops ||| y.2)
  | none =>
    if y.1.isNaN then (encode f defaultNaN, y.2)
    else
      let (z, fl) := flushOut f m (roundTo f m r y.1)
      (encode f z, fl ||| y.2)

/-- VADD, VSUB, VMUL on floating codes (R124). -/
def fAdd (f : Nat) (m r : Word32) (a b : Nat) : Nat × BitVec 5 :=
  let x := flushIn f m (decode f a)
  let y := flushIn f m (decode f b)
  finish f m r [x, y] (x.add (fmRM m) y)
def fSub (f : Nat) (m r : Word32) (a b : Nat) : Nat × BitVec 5 :=
  let x := flushIn f m (decode f a)
  let y := flushIn f m (decode f b)
  finish f m r [x, y] (x.add (fmRM m) y.neg)
def fMul (f : Nat) (m r : Word32) (a b : Nat) : Nat × BitVec 5 :=
  let x := flushIn f m (decode f a)
  let y := flushIn f m (decode f b)
  finish f m r [x, y] (x.mul y)

/-- VFMA: np negates the product, na the addend (R126). 0 times infinity raises FI even when the addend is a NaN. -/
def fFma (f : Nat) (m r : Word32) (np na : Bool) (a b c : Nat) : Nat × BitVec 5 :=
  let x := flushIn f m (decode f a)
  let y := flushIn f m (decode f b)
  let z := flushIn f m (decode f c)
  let (p, pf) := x.mul y
  let p' := if np then p.neg else p
  let z' := if na then z.neg else z
  let (w, wf) := p'.add (fmRM m) z'
  finish f m r [x, y, z] (w, pf ||| wf)

/-- VMIN and VMAX on floating codes (R125): -0 orders below +0. -/
def fMinMax (f : Nat) (m : Word32) (isMax : Bool) (a b : Nat) : Nat × BitVec 5 :=
  let x := flushIn f m (decode f a)
  let y := flushIn f m (decode f b)
  let fl := snanFlag [x, y]
  if x.isNaN then if y.isNaN then (encode f (quiet x), fl) else (encode f y, fl)
  else if y.isNaN then (encode f x, fl)
  else
    let lt := x.lt y || (x.isZero && y.isZero && x.sign && !y.sign)
    (encode f (if lt == isMax then y else x), fl)

/-- VSCALE (R128): times 2^k. -/
def fScale (f : Nat) (m r : Word32) (a : Nat) (k : Int) : Nat × BitVec 5 :=
  let x := flushIn f m (decode f a)
  let y : Val := match x with
    | .fin s n e => .fin s n (e + k)
    | .inf s => .inf s
    | .nan s p => .nan s p
  finish f m r [x] (y, 0)

/-- The conditions of VCMP on floating values (R90, R127): the outcome and FI. -/
def fCmp (f : Nat) (m : Word32) (cond : Nat) (a b : Nat) : Bool × BitVec 5 :=
  let x := flushIn f m (decode f a)
  let y := flushIn f m (decode f b)
  let un := x.isNaN || y.isNaN
  let lt := x.lt y
  let gt := y.lt x
  let eq := !un && !lt && !gt
  let sig := snanFlag [x, y]
  let any : BitVec 5 := if un then flagFI else 0
  match cond with
  | 0 => (eq, sig)
  | 1 => (!eq, sig)
  | 2 => (lt, any)
  | 3 => (lt || eq, any)
  | 4 => (gt, any)
  | 5 => (gt || eq, any)
  | 6 => (un, sig)
  | _ => (!un, sig)

/-! The functions of R131. Each is given as an exact value, or as a value with one sticky bit below enough bits that
every rounding of R58 takes the true value's side. -/

/-- ⌊√n⌋, one bit at a time from bit k down. -/
def isqrtFrom (n : Nat) : Nat → Nat → Nat
  | 0, x => x
  | k + 1, x => let y := x + 2 ^ k; isqrtFrom n k (if y * y ≤ n then y else x)
def isqrt (n : Nat) : Nat := isqrtFrom n (n.log2 / 2 + 1) 0

/-- A quotient or root q at scale 2^e with a remainder: an odd low bit stands for it. -/
def sticky (neg : Bool) (q : Nat) (inexact : Bool) (e : Int) : Val :=
  .fin neg (2 * q + (if inexact then 1 else 0)) (e - 1)

/-- 1/x for a finite x ≠ 0. -/
def recipExact (s : Bool) (n : Nat) (e : Int) : Val :=
  let k := n.log2 + 128
  sticky s (2 ^ k / n) (2 ^ k % n != 0) (-(e + k))

/-- 1/√x for x > 0: the root of 2^(2k) / n at an even exponent. -/
def rsqrtExact (n : Nat) (e : Int) : Val :=
  let (n', e') := if e % 2 == 0 then (n, e) else (2 * n, e - 1)
  let k := n'.log2 + 160
  let d := 2 ^ (2 * k) / n'
  let q := isqrt d
  sticky false q (2 ^ (2 * k) % n' != 0 || q * q != d) (-(e' / 2 + k))

/-- Fractional bits of the fixed-point sums below. -/
def fixBits : Nat := 400

/-- ⌊ln 2 · 2^400⌋. -/
def ln2Fix : Nat :=
  0xb17217f7d1cf79abc9e3b39803f2f6af40f343267298b62d8a0d175b8baafa2be7b876206debac98559552fb4afa1b10ed2e

/-- Σ z^i / i! in fixed point, n more terms after the term t of index i. -/
def expSum (z : Nat) : Nat → Nat → Nat → Nat → Nat
  | 0, _, _, acc => acc
  | n + 1, i, t, acc => let t' := t * z / 2 ^ fixBits / i; expSum z n (i + 1) t' (acc + t')

/-- Σ z^(2i+1) / (2i+1) in fixed point, z2 = z². -/
def atanhSum (z2 : Nat) : Nat → Nat → Nat → Nat → Nat
  | 0, _, _, acc => acc
  | n + 1, k, t, acc => let t' := t * z2 / 2 ^ fixBits; atanhSum z2 n (k + 2) t' (acc + t' / (k + 2))

/-- Drop the bits that the sums' errors can reach, and mark the rest inexact. -/
def fixSticky (neg : Bool) (v : Nat) (e : Int) : Val := sticky neg (v / 2 ^ 40) true (e + 40)

/-- 2^x for a finite x. -/
def exp2Exact (s : Bool) (n : Nat) (e : Int) : Val :=
  if n == 0 then .fin false 1 0
  else if 12 ≤ topExp n e then if s then sticky false 1 true (-5000) else sticky false 1 true 5000
  else
    -- x as a multiple of 2^-400; a smaller x still leaves its bits, since e ≥ -149 for f32
    let a := shiftInt n (e + fixBits)
    let fl : Int := if s then -((a + 2 ^ fixBits - 1) / 2 ^ fixBits : Nat) else (a / 2 ^ fixBits : Nat)
    let fr : Nat := if s then (2 ^ fixBits - a % 2 ^ fixBits) % 2 ^ fixBits else a % 2 ^ fixBits
    if fr == 0 then .fin false 1 fl
    else
      let z := fr * ln2Fix / 2 ^ fixBits
      fixSticky false (expSum z 100 1 (2 ^ fixBits) (2 ^ fixBits)) (fl - fixBits)

/-- log2 x for a finite x > 0. -/
def log2Exact (n : Nat) (e : Int) : Val :=
  let t := topExp n e
  if n == 2 ^ n.log2 then Val.ofInt t
  else
    -- n / 2^log2 n = M in (1, 2); ln M = 2 atanh ((M - 1) / (M + 1))
    let p := 2 ^ n.log2
    let z := (n - p) * 2 ^ fixBits / (n + p)
    let ln := 2 * atanhSum (z * z / 2 ^ fixBits) 140 1 z z
    let f := ln * 2 ^ fixBits / ln2Fix
    if 0 ≤ t then fixSticky false (t.toNat * 2 ^ fixBits + f) (-(fixBits : Int))
    else fixSticky true ((-t).toNat * 2 ^ fixBits - f) (-(fixBits : Int))

/-- The transcendental of index k: 0 VRCP, 1 VRSQ, 2 VEXP2, 3 VLOG2 (R131), on an f32 code. -/
def fFunc (k : Nat) (m r : Word32) (a : Nat) : Nat × BitVec 5 :=
  let x := flushIn 0 m (decode 0 a)
  let dn : Val × BitVec 5 := (defaultNaN, flagFI)
  let y : Val × BitVec 5 := match x with
    | .nan s p => (.nan s p, 0)
    | .inf s =>
      match k with
      | 0 => (.fin s 0 0, 0)
      | 1 => if s then dn else (.zero, 0)
      | 2 => if s then (.zero, 0) else (.inf false, 0)
      | _ => if s then dn else (.inf false, 0)
    | .fin s n e =>
      if n == 0 then
        match k with
        | 0 => (.inf s, flagFZ)
        | 1 => (.inf s, flagFZ)
        | 2 => (.fin false 1 0, 0)
        | _ => (.inf true, flagFZ)
      else
        match k with
        | 0 => (recipExact s n e, 0)
        | 1 => if s then dn else (rsqrtExact n e, 0)
        | 2 => (exp2Exact s n e, 0)
        | _ => if s then dn else (log2Exact n e, 0)
  finish 0 m r [x] y

/-- Integer sum, difference or product of an integer type (R70, R124): wrap or saturate. -/
def iStore (sgn : Bool) (w : Nat) (sat : Bool) (x : Int) : Nat :=
  let y := if sat then satInt sgn w x else x
  (y % (2 ^ w : Nat)).toNat

/-- A code of an integer type as an exact integer. -/
def iVal (sgn : Bool) (w : Nat) (c : Nat) : Int :=
  if sgn && decide (2 ^ (w - 1) ≤ c % 2 ^ w) then (c % 2 ^ w : Nat) - (2 ^ w : Nat) else (c % 2 ^ w : Nat)

/-- The sign and width of a vector type (R55). -/
def vtSgn : VTy → Bool
  | .i32 => true | .i16 => true | .f32 => true | .f16 => true | .bf16 => true | .ui32 => false | .ui16 => false
def vtWidth : VTy → Nat
  | .f32 => 32 | .i32 => 32 | .ui32 => 32 | .f16 => 16 | .bf16 => 16 | .i16 => 16 | .ui16 => 16
/-- The vector types that are floating. -/
def vtFloat : VTy → Bool
  | .f32 => true | .f16 => true | .bf16 => true | .i32 => false | .ui32 => false | .i16 => false | .ui16 => false
/-- The format code of a vector type (R46). -/
def vtCode : VTy → Nat
  | .f32 => 0 | .f16 => 1 | .bf16 => 2 | .i32 => 28 | .ui32 => 29 | .i16 => 9 | .ui16 => 10

/-- One step of a lane's generator (R62). -/
def stepGen (x : Word32) : Word32 :=
  let a := x ^^^ (x <<< 13)
  let b := a ^^^ (a >>> 17)
  b ^^^ (b <<< 5)

/-- The seed of generator l (R62). -/
def seedGen (seed : Word32) (l : Nat) : Word32 :=
  let x := seed ^^^ BitVec.ofNat 32 ((l + 1) * 0x9E3779B9)
  if x = 0 then 1 else x

/-- All 64 generators, lane l at bits [32 l + 31 : 32 l]. -/
def seedGens (seed : Word32) : VWord := vecOf ((List.range 64).map fun l => (seedGen seed l).toNat) 32
def stepGens (g : VWord) : VWord := vecOf ((List.range 64).map fun l => (stepGen (laneOf g l)).toNat) 32

/-- The random value of element j of n packed in a lane (R63). -/
def rotR (r : Word32) (j n : Nat) : Word32 := r.rotateLeft (32 * j / n)

/-- n steps of a generator. -/
def stepGenN (x : Word32) : Nat → Word32
  | 0 => x
  | n + 1 => stepGenN (stepGen x) n

/-- The random value of element e of an engine command (R64). -/
def engineRnd (seed : Word32) (e : Nat) : Word32 := stepGenN (seedGen seed (e % 64)) (e / 64 + 1)

end Sys2Proof.Machine
end

