-- ==== Sys2Proof/Machine/Basic.lean ====
section
/-!
DEFINITION. The operations everything else stands on: access to contexts, cores and tables, free values, machine events in
time, registers by logical and physical name (R15, R34), results in flight (R26 to R29), module registers (R11), memory.
-/
namespace Sys2Proof.Machine

/-! Access. -/

def getCtx (s : State) (g : Nat) : Ctx := tget Ctx.reset s.ctxs g
def setCtx (s : State) (g : Nat) (c : Ctx) : State := { s with ctxs := tset s.ctxs g c }
def modCtx (s : State) (g : Nat) (f : Ctx → Ctx) : State := setCtx s g (f (getCtx s g))
def getCore (s : State) (n : Nat) : CoreSt := tget CoreSt.reset s.cores n
def setCore (s : State) (n : Nat) (c : CoreSt) : State := { s with cores := tset s.cores n c }
def modCore (s : State) (n : Nat) (f : CoreSt → CoreSt) : State := setCore s n (f (getCore s n))
def getClu (s : State) (n : Nat) : Cluster := tget Cluster.reset s.clusters n
def setClu (s : State) (n : Nat) (c : Cluster) : State := { s with clusters := tset s.clusters n c }
def modClu (s : State) (n : Nat) (f : Cluster → Cluster) : State := setClu s n (f (getClu s n))
def getPort (s : State) (n : Nat) : Port := tget Port.reset s.fab.ports n
def setPort (s : State) (n : Nat) (p : Port) : State := { s with fab := { s.fab with ports := tset s.fab.ports n p } }
def modPort (s : State) (n : Nat) (f : Port → Port) : State := setPort s n (f (getPort s n))
def setTree (s : State) (t : Tree) : State := { s with fab := { s.fab with tree := t } }

/-- No group is placed on a context whose gid names none. -/
def Group.empty : Group :=
  { cluster := 0, lid := 0, index := 0, ctxs := [], base := 0, size := 0, slots := [], vf := 0, part := 0, code := 0,
    codelen := 0, shape := 0, dead := false }
def getGroup (s : State) (gid : Nat) : Group := tget Group.empty s.groups gid
def groupOf (s : State) (g : Nat) : Group := getGroup s (getCtx s g).gid
def modGroup (s : State) (gid : Nat) (f : Group → Group) : State :=
  { s with groups := tset s.groups gid (f (getGroup s gid)) }

/-- The core of a context, its cluster and its die (R3, R5, R341). -/
def coreOf (g : Nat) : Nat := if g < 4096 then g / 4 else 1024 + (g - 4096) / 4
def isSteward (g : Nat) : Bool := decide (4096 ≤ g)
def ctxBase (core : Nat) : Nat := if core < 1024 then 4 * core else 4096 + 4 * (core - 1024)
def cluOf (core : Nat) : Nat := if core < 1024 then core / 4 else 256 + (core - 1024)
def dieOfClu (clu : Nat) : Nat := if clu < 256 then clu / 64 else if clu < 260 then clu - 256 else 4
def dieOfCore (core : Nat) : Nat := dieOfClu (cluOf core)

/-! Free values: one number per draw. -/

def draw (s : State) : Nat × State := (Config.freeNat s.ctr, { s with ctr := s.ctr + 1 })
/-- A free number from lo to hi. -/
def drawIn (s : State) (lo hi : Nat) : Nat × State :=
  (lo + Config.freeNat s.ctr % (hi - lo + 1), { s with ctr := s.ctr + 1 })
def drawBool (s : State) : Bool × State := (Config.freeNat s.ctr % 2 == 1, { s with ctr := s.ctr + 1 })
def drawBits (s : State) : VWord × State := (Config.freeBits s.ctr, { s with ctr := s.ctr + 1 })
/-- A fresh number for a transaction or a timer. -/
def fresh (s : State) : Nat × State := (s.ids, { s with ids := s.ids + 1 })

/-! Machine events in time. -/

/-- Insert into the agenda behind what is due at the same cycle. -/
def insAgenda (t : Nat) (i : Instr) : List (Nat × Instr) → List (Nat × Instr)
  | [] => [(t, i)]
  | (u, j) :: r => if t < u then (t, i) :: (u, j) :: r else (u, j) :: insAgenda t i r
/-- The event i happens n cycles from now. -/
def after (s : State) (n : Nat) (i : Instr) : State := { s with agenda := insAgenda (s.clock + n) i s.agenda }
def emitOut (s : State) (o : Out) : State := { s with outbox := s.outbox ++ [o] }

/-- The host port of a VF's function: VFs 64 to 127 belong to port 1 of a 2 x8 attachment (R431). -/
def hostPort (s : State) (vf : Nat) : Nat := if s.start.twoPorts && decide (64 ≤ vf) && decide (vf < 128) then 1 else 0
/-- The answer to host request k, its port and 10-bit tag, in completions of at most 512 bytes (R431). -/
def hostAnswer (s : State) (k : Nat) (ok : Bool) (data : List Byte) : State :=
  (List.range (max 1 ((data.length + 511) / 512))).foldl
    (fun s i => emitOut s (.completion (k / 1024) (k % 1024) ok ((data.drop (512 * i)).take 512))) s

/-- The core's unfrozen time: latencies count it (R303). -/
def localTime (s : State) (core : Nat) : Nat := s.clock - (getCore s core).frzCnt
def coreFrozen (s : State) (core : Nat) : Bool := decide (s.clock < (getCore s core).frozenTo)

/-! Registers of a context by physical number (R34) and the hard-wired ones (R15). -/

def physS (rot n : Nat) : Nat := if n < 48 then n else 48 + (n - 48 + 16 - rot % 16) % 16
def physV (rot n : Nat) : Nat := if n < 16 then n else 16 + (n - 16 + 16 - rot % 16) % 16
def physP (rot n : Nat) : Nat := if n < 8 then n else 8 + (n - 8 + 8 - rot % 8) % 8
def physB (rot n : Nat) : Nat := if n < 4 then n else 4 + (n - 4 + 4 - rot % 4) % 4

def Ctx.rdS (c : Ctx) (n : Nat) : Word64 := if n = 0 then 0 else tget 0 c.s (physS c.rot n)
def Ctx.rdV (c : Ctx) (n : Nat) : VWord := tget 0 c.v (physV c.rot n)
def Ctx.rdK (c : Ctx) (n : Nat) : Word64 := if n = 0 then -1 else tget 0 c.k n
def Ctx.rdP (c : Ctx) (n : Nat) : Bool := if n = 0 then true else tget false c.p (physP c.rot n)
def Ctx.rdB (c : Ctx) (n : Nat) : Word64 := tget 0 c.b (physB c.rot n) &&& 0x1FFFFF
def Ctx.rdH (c : Ctx) (n : Nat) : HWord := tget 0 c.h n
def Ctx.rdG (c : Ctx) (n : Nat) : Word64 := tget 0 c.g n
def Ctx.rdShadow (c : Ctx) (n : Nat) : Word64 := tget 0 c.shadow n
def Ctx.setShadow (c : Ctx) (n : Nat) (x : Word64) : Ctx := { c with shadow := tput 0 c.shadow n x }

/-- FMODE as a write stores it: RM 6 and 7 store 0, reserved bits read 0 (R11, R18). -/
def fmodeNorm (x : Word64) : Word32 :=
  let y := x.truncate 32 &&& (0x001F1F1F : Word32)
  if y.toNat % 8 < 6 then y else y &&& ~~~ (7 : Word32)

/-- OR flags into FMODE[12:8] (R19). -/
def Ctx.orFlags (c : Ctx) (f : BitVec 5) : Ctx := { c with fmode := c.fmode ||| (f.zeroExtend 32 <<< 8) }

/-- A special register takes a written value (R18, R339, R340); read-only fields ignore it. CTX, SCYC and APINFO
ignore a write; PC is written by the branch that MTSR makes. -/
def Ctx.wrSr (c : Ctx) (steward : Bool) (n : Nat) (x : Word64) : Ctx :=
  match n with
  | 0x001 => { c with itr := x.toNat % 2 ^ 32 }
  | 0x002 => { c with stg := min 8 (x.toNat % 16) }
  | 0x003 => { c with rot := x.toNat % 16 }
  | 0x004 => { c with fmode := fmodeNorm x }
  | 0x005 => { c with seed := x.truncate 32, gens := seedGens (x.truncate 32) }
  | 0x007 => { c with eix := x.toNat % 2 ^ 40 }
  | 0x010 => { c with tvec := x.toNat % 2 ^ 57 }
  | 0x011 => { c with tpc := x.toNat % 2 ^ 57 }
  | 0x012 => { c with tnext := x.toNat % 2 ^ 57 }
  | 0x013 => { c with tcause := x &&& 0x1FF }
  | 0x014 => { c with tinfo := x }
  | 0x015 => { c with mode := steward || x.getLsbD 0, pmode := x.getLsbD 1, inh := x.getLsbD 2, skb := x.getLsbD 4 }
  | 0x016 => { c with tsav0 := x }
  | 0x017 => { c with tsav1 := x }
  | 0x018 => { c with tsav2 := x }
  | 0x019 => { c with tsav3 := x }
  | 0x01A => { c with csa := x.toNat % 2 ^ 50 }
  | _ => c

/-- NIF: the records held by the trap entry (R340, R345). -/
def Ctx.nif (c : Ctx) : Nat := if c.hld then (c.held.filter (·.trap)).length else 0

/-- TSTAT (R340). -/
def Ctx.tstat (c : Ctx) : Word64 :=
  BitVec.ofNat 64 ((if c.mode then 1 else 0) + (if c.pmode then 2 else 0) + (if c.inh then 4 else 0) +
    (if c.hld then 8 else 0) + (if c.skb then 16 else 0) + (if c.undel = 0 ∧ c.apq = [] then 0 else 32) +
    c.nif % 128 * 64)

/-- A result lands in its register (R26); a lane whose mask bit is 0 keeps its value (R121). SDQ entries take the
value and its mask (R41, R239). Flags are ORed by `landDue`. -/
def Ctx.land (c : Ctx) (steward : Bool) (f : Flight) : Ctx :=
  match f.dest with
  | .s n => if n = 0 then c else { c with s := tput 0 c.s n (f.val.truncate 64) }
  | .v n => { c with v := tput 0 c.v n (mergeLanes f.mask (tget 0 c.v n) f.val) }
  | .k n => if n = 0 then c else { c with k := tput 0 c.k n (f.val.truncate 64) }
  | .p n => if n = 0 then c else { c with p := tput false c.p n (f.val.getLsbD 0) }
  | .b n => { c with b := tput 0 c.b n (f.val.truncate 64 &&& 0x1FFFFF) }
  | .h n => { c with h := tput 0 c.h n (f.val.truncate 128) }
  | .g n => { c with g := tput 0 c.g n (f.val.truncate 64) }
  | .sdq n =>
    { c with sdq := c.sdq.map fun e => if e.seq = n then { e with filled := true, val := f.val, mask := f.mask } else e }
  | .sr n => c.wrSr steward n (f.val.truncate 64)
  | .flags => c

/-- Stable insertion by due time: of two results due in one cycle the later-issued lands last and prevails (R28). -/
def insFlight (f : Flight) : List Flight → List Flight
  | [] => [f]
  | x :: r => if x.due ≤ f.due then x :: insFlight f r else f :: x :: r
def sortFlights (l : List Flight) : List Flight := l.foldl (fun acc f => insFlight f acc) []

/-- Everything due by `now` lands, then the flags (R19: none is lost to an MTSR landing in the same cycle). -/
def Ctx.landDue (c : Ctx) (steward : Bool) (now : Nat) : Ctx :=
  let due := sortFlights (c.flight.filter fun f => decide (f.due ≤ now))
  let c1 := due.foldl (fun c f => c.land steward f) { c with flight := c.flight.filter fun f => !decide (f.due ≤ now) }
  due.foldl (fun c f => c.orFlags f.flags) c1

/-- A result of the course being issued, due `lat` cycles on (R26); its destination is fixed now (R29). -/
def emit (s : State) (dest : Dest) (val : VWord) (mask : Word64) (lat : Nat) (flags : BitVec 5) : State :=
  let g := s.iss.g
  modCtx s g fun c =>
    { c with flight := c.flight ++
        [{ dest := dest, val := val, mask := mask, due := localTime s (coreOf g) + lat, flags := flags, trap := false }] }

/-! Module registers (tier 3), one home by address of the 8-byte word. -/

def regBase : Nat := 0x038000000000
def RA (off : Nat) : Nat := regBase + off

/-- Reset values that are not 0 (R304, R393, R411, R449, R451, R454). -/
def regDefault (pa : Nat) : Word64 :=
  if RA 0xA0000 ≤ pa && decide (pa < RA 0xA8000) && pa % 32 == 0 then 0x1FFFF
  else if RA 0x120000 ≤ pa && decide (pa < RA (0x120000 + 47 * 128)) then
    (if pa % 128 == 0 then 1 + 192 * 2 ^ 40 + 4 * 2 ^ 48 else if pa % 128 == 24 then 1000 else 0)
  else if pa == RA 0x130000 then 2 ^ 15
  else if pa == RA 0x130008 then 64 + 2000 * 2 ^ 16 + 2000 * 2 ^ 32
  else if pa == RA 0x130010 then 63 * 2 ^ 44
  else if pa == RA 0x180000 then 0x20
  else if pa == RA 0x1A0000 then 3400 + 45 * 2 ^ 32 + 64 * 2 ^ 40
  else if RA 0x1C0000 ≤ pa && decide (pa < RA 0x1C0020) then -1
  else 0

def rget (s : State) (pa : Nat) : Word64 := tget (regDefault pa) s.regs pa
def rset (s : State) (pa : Nat) (v : Word64) : State := { s with regs := tput (regDefault pa) s.regs pa v }
/-- Bits [lo + n - 1 : lo] of a register word. -/
def rfld (s : State) (pa lo n : Nat) : Nat := (rget s pa).toNat / 2 ^ lo % 2 ^ n
def rbit (s : State) (pa k : Nat) : Bool := (rget s pa).getLsbD k
def setField (w : Word64) (lo n v : Nat) : Word64 :=
  (w &&& ~~~ (BitVec.ofNat 64 (ones n * 2 ^ lo))) ||| BitVec.ofNat 64 (v % 2 ^ n * 2 ^ lo)
def rsetF (s : State) (pa lo n v : Nat) : State := rset s pa (setField (rget s pa) lo n v)
/-- A counter field that holds at its maximum. -/
def rincHold (s : State) (pa lo n : Nat) : State := rsetF s pa lo n (min (ones n) (rfld s pa lo n + 1))

def lqcfg (q : Nat) : Nat := RA (0x10000 + 8 * q)
def vmcfg (v : Nat) : Nat := RA (0x20000 + 32 * v)
def hinval : Nat := RA 0x30000
def mcstat (sl : Nat) : Nat := RA (0x40000 + 16 * sl)
def mistat (v : Nat) : Nat := RA (0x50000 + 8 * v)
def prqcfg (v : Nat) : Nat := RA (0x60000 + 16 * v)
def cqcfg (q : Nat) : Nat := RA (0x70000 + 8 * q)
def sumpcfg : Nat := RA 0x90000
def mxctl (n : Nat) : Nat := RA (0xA0000 + 32 * n)
def mcg (v i : Nat) : Nat := RA (0xB0000 + 512 * v + 32 * i)
def isocfg : Nat := RA 0xC0000
def partReg (p : Nat) : Nat := RA (0xC0100 + 32 * p)
def vfctl (v : Nat) : Nat := RA (0xC1000 + 16 * v)
def frcfg (v : Nat) : Nat := RA (0xD0000 + 32 * v)
def evcfg : Nat := RA 0xE0000
def trccfg (d : Nat) : Nat := RA (0xF0000 + 32 * d)
def bkpt (n j : Nat) : Nat := RA (0x100000 + 64 * n + 16 * j)
def rport (p : Nat) : Nat := RA (0x120000 + 128 * p)
def fabcfg : Nat := RA 0x130000
def livemap : Nat := RA 0x131000
def fencedMap : Nat := RA 0x131800
def arcfg (v i : Nat) : Nat := RA (0x140000 + 512 * v + 32 * i)
def migs (v : Nat) : Nat := RA (0x150000 + 64 * v)
def migd (v : Nat) : Nat := RA (0x152000 + 64 * v)
def redirack (v : Nat) : Nat := RA (0x154000 + 8 * v)
def harbReg (v : Nat) : Nat := RA (0x160000 + 32 * v)
def hostcfg : Nat := RA 0x170000
def startst : Nat := RA 0x180000
def wearReg (u : Nat) : Nat := RA (0x190000 + 32 * u)
def powcfg : Nat := RA 0x1A0000
def measReg (i : Nat) : Nat := RA (0x1B0000 + 32 * i)
def mgen : Nat := RA 0x1B0100
def spmap (d : Nat) : Nat := RA (0x1C0000 + 8 * d)
def retpc (i : Nat) : Nat := RA (0x1C0040 + 8 * i)
def sqcfg (n : Nat) : Nat := RA (0x1D0000 + 32 * n)
def twr (v i : Nat) : Nat := RA (0x200000 + 512 * v + 32 * i)
def arcont (v i : Nat) : Nat := RA (0x240000 + 128 * v + 8 * i)
def rarm (g i : Nat) : Nat := RA (0x300000 + 1024 * g + 32 * i)
def lpc (n j : Nat) : Nat := RA (0x400000 + 1024 * n + 64 * j)

/-- This module's number (R411). -/
def moduleNo (s : State) : Nat := rfld s fabcfg 1 14

/-! Memory by local physical byte address. -/

def mread (s : State) (a : Nat) : Byte := tget memDefault s.mem a
def mwrite (s : State) (a : Nat) (b : Byte) : State := { s with mem := tput memDefault s.mem a b }
def mreadN (s : State) (a n : Nat) : List Byte := (List.range n).map fun i => mread s (a + i)
def mwriteL (s : State) (a : Nat) (l : List Byte) : State :=
  (l.foldl (fun (acc : State × Nat) b => (mwrite acc.1 acc.2 b, acc.2 + 1)) (s, a)).1
/-- The 8-byte word at a (R61). -/
def mread8 (s : State) (a : Nat) : Word64 := BitVec.ofNat 64 (natOfBytes (mreadN s a 8))
def mwrite8 (s : State) (a : Nat) (x : Word64) : State := mwriteL s a (bytesOf x 8)

end Sys2Proof.Machine
end

