-- ==== Sys2Proof/Machine/Flags.lean ====
section
/-!
DEFINITION. The sticky flags beyond one operation: the trap enables (R65) and the flags of engine commands (R75). The
flags each operation raises are computed with its result in Machine/Formats.lean.
-/
namespace Sys2Proof.Machine

/-- FMODE.TE (R18). -/
def fmTE (m : Word32) : BitVec 5 := m.extractLsb' 16 5

/-- The raised flags whose enables trap (R65). -/
def trapping (m : Word32) (fl : BitVec 5) : BitVec 5 := fl &&& fmTE m

/-- All flags of a list of element results. -/
def orAll (l : List (Nat × BitVec 5)) : BitVec 5 := l.foldl (fun acc x => acc ||| x.2) 0

/-- A write of FMODE that lands in this cycle is still in flight. -/
def fmodeDue (c : Ctx) (now : Nat) : Bool := c.flight.any fun f => f.dest == .sr 4 && decide (f.due ≤ now)

/-- An engine command's flags reach the issuing context when it completes (R75); where an MTSR of FMODE lands in the same
cycle they are ORed into what it writes as well (R19). -/
def engineFlags (s : State) (g : Nat) (fl : BitVec 5) : State :=
  let now := localTime s (coreOf g)
  modCtx s g fun c =>
    let c1 := c.orFlags fl
    if fmodeDue c now then
      { c1 with flight := c1.flight ++ [{ dest := .flags, val := 0, mask := 0, due := now, flags := fl, trap := false }] }
    else c1

end Sys2Proof.Machine
end

