-- ==== Sys2Proof/Machine/Map.lean ====
section
/-!
DEFINITION. Where an address lives: the tiers (R175), dies, pseudo-channels, slices and banks (R177, R178, R363), units
of interleave (R203), ECC words (R183), partitions (R362). A steward core's scratchpad, which no address of the map names
(R341), stands at an address of the model's own above all fabric addresses (log 8).
-/
namespace Sys2Proof.Machine

/-- The model's home of steward core s's scratchpad. -/
def stewBase (s : Nat) : Nat := 2 ^ 64 + s * 2 ^ 21
/-- The alias by which a steward core's own contexts and engines name it (R341). -/
def stewAlias : Nat := 0x030020000000

def tierBase (t : Nat) : Nat :=
  match t with
  | 0 => 0 | 1 => 0x010000000000 | 2 => 0x030000000000 | 3 => 0x038000000000 | _ => 0x100000000000

/-- The tier of a local physical address (R175). -/
def tierOf (a : Nat) : Option Nat :=
  if a < 0x008000000000 then some 0
  else if 0x010000000000 ≤ a ∧ a < 0x028000000000 then some 1
  else if 0x030000000000 ≤ a ∧ a < 0x030020000000 then some 2
  else if 0x038000000000 ≤ a ∧ a < 0x100000000000 then some 3
  else if 0x100000000000 ≤ a ∧ a < 0x200000000000 then some 4
  else if 2 ^ 64 ≤ a ∧ a < stewBase 5 then some 2
  else none

/-- The cluster of a tier 2 address; 256 + s for steward core s. -/
def clusterOfPa (a : Nat) : Nat :=
  if 2 ^ 64 ≤ a then 256 + (a - 2 ^ 64) / 2 ^ 21 else (a - 0x030000000000) / 2 ^ 21

/-- The first address of a cluster's scratchpad. -/
def cluBase (c : Nat) : Nat := if c < 256 then tierBase 2 + c * 2 ^ 21 else stewBase (c - 256)

/-- The die that homes a tier 0, 1 or 2 address; other addresses belong to the Ridge die. -/
def homeDie (a : Nat) : Nat :=
  match tierOf a with
  | some 0 => a / 2 ^ 37
  | some 1 => (a - 0x010000000000) / 0x006000000000
  | some 2 => dieOfClu (clusterOfPa a)
  | _ => 4

def xorFold (l : List Nat) : Nat := l.foldl (fun x y => x ^^^ y) 0

/-- The pseudo-channel of a tier 0 offset within its die (R177, R363). -/
def pchan (pcset : Bool) (o : Nat) : Nat :=
  if pcset then
    16 * (o / 2 ^ 34 % 8) + xorFold ([8, 12, 16, 20, 24, 28].map (fun k => o / 2 ^ k % 16) ++ [o / 2 ^ 32 % 4])
  else xorFold ([8, 15, 22, 29].map (fun k => o / 2 ^ k % 128) ++ [o / 2 ^ 36 % 2])

/-- The bank in the pseudo-channel. -/
def hbmBank (pcset : Bool) (o : Nat) : Nat := if pcset then o / 2 ^ 12 % 16 else o / 2 ^ 15 % 16

def pcset (s : State) : Bool := rbit s isocfg 1

/-- The L2 slice of a tier 0 or 1 address. -/
def sliceOf (s : State) (a : Nat) : Nat :=
  match tierOf a with
  | some 0 => 128 * (a / 2 ^ 37) + pchan (pcset s) (a % 2 ^ 37)
  | _ =>
    let o := (a - 0x010000000000) % 0x006000000000
    128 * homeDie a + xorFold ([12, 19, 26].map fun k => o / 2 ^ k % 128)

/-- The Cistern module of a tier 1 address (R178). -/
def cisternModule (a : Nat) : Nat := 3 * homeDie a + (a - 0x010000000000) % 0x006000000000 / 4096 % 3

/-- The bank of a tier 0 address, numbered over the module. -/
def bankOf (s : State) (a : Nat) : Nat := 16 * sliceOf s a + hbmBank (pcset s) (a % 2 ^ 37)

/-- A pseudo-channel that four ALERTs on one command have stopped (R206). -/
def stopped (s : State) (a : Nat) : Bool := tierOf a == some 0 && decide (4 ≤ tget 0 s.alerts (sliceOf s a))

/-- The first byte of the unit of interleave (R203); an address of tier 3 or 4 is never split (R181). -/
def unitBase (a : Nat) : Nat :=
  match tierOf a with
  | some 0 => a / 256 * 256
  | some 1 => a / 4096 * 4096
  | some 2 => a / 2 ^ 21 * 2 ^ 21
  | some t => tierBase t
  | none => 0

/-- The ECC word of a byte (R183): none outside tiers 0 to 2. -/
def eccWord (a : Nat) : Option (Nat × Nat) :=
  match tierOf a with
  | some 0 => some (a / 32 * 32, 32)
  | some 1 => some (a / 32 * 32, 32)
  | some 2 => some (a / 16 * 16, 16)
  | _ => none

def inSpoiled (s : State) (a : Nat) : Bool :=
  match eccWord a with
  | some (w, _) => s.spoiled.contains w
  | none => false

/-- The HBM or Cistern unit of an address lies in the partition of VF v (R362, R363). -/
def partOk (s : State) (v a : Nat) : Bool :=
  if rbit s isocfg 0 then
    let p := partReg (rfld s (vfctl v) 1 5)
    match tierOf a with
    | some 0 => rbit s (p + 8) 40 && rbit s p (32 + a / 2 ^ 34)
    | some 1 => rbit s (p + 8) 40 && rbit s (p + 8) ((a - 0x010000000000) / (48 * 2 ^ 30))
    | _ => true
  else true

/-- Group items by the unit of interleave of their address, in ascending order (R203). -/
def splitUnits {α : Type} (key : α → Nat) (l : List α) : List (List α) :=
  (l.foldl (fun (t : Tab (List α)) x => let k := unitBase (key x); tset t k (tget [] t k ++ [x])) []).map (·.2)

/-- The bytes [a, a + n) cut at multiples of `lim`: first byte and length of each piece. -/
def cutAt (lim a n : Nat) : List (Nat × Nat) :=
  ((List.range (n / lim + 2)).map fun k =>
    let lo := max a (lim * (a / lim + k))
    (lo, min (a + n) (lim * (a / lim + k + 1)) - lo)).filter fun p => p.2 != 0

/-- The VF whose migration holds the frame of an address: its unit has left this module, or has not come (R422, R425). -/
def migVf (s : State) (pa : Nat) : Option Nat :=
  match s.mig.seals.find? fun x => x.frame == pa / 2 ^ 16 with
  | some x => some x.v
  | none => (s.mig.units.find? fun u => u.frame == pa / 2 ^ 16).map (·.v)
def migFrame (s : State) (pa : Nat) : Bool := (migVf s pa).isSome

/-- The full/empty bit of the granule of a tier 2 address (R44). -/
def feGet (s : State) (a : Nat) : Bool := tget false s.fe (a / 16)
def feSet (s : State) (a : Nat) (b : Bool) : State := { s with fe := tput false s.fe (a / 16) b }
def granules (l : List Nat) : List Nat := (l.foldl (fun (t : Tab Unit) a => tset t (a / 16) ()) []).map fun e => 16 * e.1

end Sys2Proof.Machine
end

