-- ==== Sys2Proof/Machine/Banks.lean ====
section
/-!
DEFINITION. Writes with their errors (R183), the banks' command queues (R230, R231), and what hardware itself writes: records,
descriptors, counters.
-/
namespace Sys2Proof.Machine

/-! Writes. -/

def writeCell (s : State) (c : WCell) : State :=
  mwrite s c.pa ((mread s c.pa &&& ~~~ c.msk) ||| (c.val &&& c.msk))

/-- The spoiled words that the cells touch, with whether they cover the word whole (R183). -/
def spoiledTouched (s : State) (wr : List WCell) : List (Nat × Bool) :=
  let hit := s.spoiled.filter fun w => wr.any fun c => (eccWord c.pa).map (·.1) == some w
  hit.map fun w =>
    let n := match eccWord w with
      | some (_, k) => k
      | none => 0
    (w, (List.range n).all fun j => wr.any fun c => c.pa == w + j && c.msk == 0xFF)

/-- The bytes that cells write, each with the mask of its bits; of two cells of one byte the later prevails. -/
def mergeCells (wr : List WCell) : Tab (Byte × Byte) :=
  wr.foldl (fun t c =>
    let x := tget (0, 0) t c.pa
    tset t c.pa ((x.1 &&& ~~~ c.msk) ||| (c.val &&& c.msk), x.2 ||| c.msk)) []

/-- Write cells whose addresses are resolved: nothing where a spoiled word is written in part. -/
def writeCells (s : State) (wr : List WCell) : Option State :=
  let sp := spoiledTouched s wr
  if sp.all (·.2) then
    some (wr.foldl writeCell { s with spoiled := s.spoiled.filter fun w => !(sp.any fun x => x.1 == w) })
  else none

/-- A request of an engine or of hardware, of which only the capture and the handle count. -/
def Req.blank : Req :=
  { op := .uend, seq := 0, addr := 0, step := 0, lanes := 0, x := 0, y := 0, h := none, sdq := none, fmode := 0, seed := 0,
    rnd := 0, ipc := 0, sys := false, trap := false, due := 0, slot := false, done := 0 }

/-- A part without effects, to build others from. -/
def Txn.base (kind : TxnKind) (src : Agent) (req : Req) (die vf pa : Nat) : Txn :=
  { kind := kind, src := src, req := req, die := die, vf := vf, g := 0, peer := none, pa := pa, len := 0, rd := [],
    wr := [], raw := [], entry := 0, lmask := 0, sh := false, eng := false, full := false, fe := 0, twin := 0, red := 0,
    rland := false, cp := 0, cnt := 0, add := 0, ix := 0, flags := 0, hit := false, held := false, tries := 0,
    out := false, scope := 0, orig := 0,
    dst := { peer := none, pa := 0, twin := 0, red := 0, rland := false, cp := 0, h := none }, dl := false, err := 0, left := 0, sent := 0, born := 0,
    errs := [], post := none }

/-! The banks of a scratchpad (R42, R43). -/

/-- How many granules of an access each bank serves. -/
def bankCounts (pas : List Nat) : Tab Nat :=
  (granules pas).foldl (fun t a => let b := a / 16 % 64; tset t b (tget 0 t b + 1)) []
def banksFree (s : State) (c : Nat) (n : Tab Nat) : Bool :=
  n.all fun x => decide (tget 0 (getClu s c).banks x.1 ≤ s.clock)
def banksTake (s : State) (c : Nat) (n : Tab Nat) : State :=
  modClu s c fun k => { k with banks := n.foldl (fun t x => tset t x.1 (s.clock + x.2)) k.banks }
/-- The cycles an access takes at its banks. -/
def bankCycles (n : Tab Nat) : Nat := n.foldl (fun m x => max m x.2) 1

/-! Bank command queues (R230 to R232). Queues are numbered by bank; a slice's holding area by 16384 + slice. -/

def holdKey (slice : Nat) : Nat := 16384 + slice
def bankQ (s : State) (k : Nat) : List PumpPart := tget [] s.banks k
def setBankQ (s : State) (k : Nat) (l : List PumpPart) : State := { s with banks := tput [] s.banks k l }

/-- The parts pending on the granule of pa, in order. -/
def pendingAt (s : State) (pa : Nat) : List PumpPart :=
  if tierOf pa == some 0 then
    (bankQ s (bankOf s pa) ++ bankQ s (holdKey (sliceOf s pa))).filter fun p => p.txn.pa / 256 == pa / 256
  else []

/-- A part of the granule appended before number n was given is still pending: n is 0 for a request that has just come (R231). -/
def pendingBefore (s : State) (pa n : Nat) : Bool := (pendingAt s pa).any fun p => n == 0 || decide (p.id + 1 < n)

/-- A part joins its bank's queue of 32, else the holding area (R230). -/
def enqueueAt (s : State) (t : Txn) : State :=
  let b := bankOf s t.pa
  let h := holdKey (sliceOf s t.pa)
  let (n, s0) := fresh s
  let part : PumpPart := { txn := t, id := n, seen := [] }
  let (d, s1) := drawIn s0 1 400
  let direct := (bankQ s b).length < 32 && ((bankQ s h).all fun p => bankOf s p.txn.pa != b)
  after (if direct then setBankQ s1 b (bankQ s b ++ [part]) else setBankQ s1 h (bankQ s h ++ [part])) d (.pumpPartExecute b)

/-- Append a part. While the holding area of 64 is full its slice accepts no PCMD part, and of the other writes only those whose
bank's queue has room (R230). -/
def enqueue (s : State) (t : Txn) : Option State :=
  let b := bankOf s t.pa
  let hold := bankQ s (holdKey (sliceOf s t.pa))
  let room := (bankQ s b).length < 32 && (hold.all fun p => bankOf s p.txn.pa != b)
  if hold.length < 64 || (room && t.kind != .pcmd) then some (enqueueAt s t) else none

/-! What hardware writes of its own accord. -/

/-- No Pump part is pending on the bytes [a, a + n): a write of hardware that is to be seen whole and in order waits until
then, which is its place behind the parts (R231). -/
def hwReady (s : State) (a n : Nat) : Bool :=
  (List.range (n / 256 + 2)).all fun i => (pendingAt s (min (a + 256 * i) (a + (n - 1)))).isEmpty

/-- Cells that hold bytes from pa on. -/
def cellsAt (pa : Nat) (l : List Byte) : List WCell :=
  ((List.range l.length).zip l).map fun x => { pa := pa + x.1, val := x.2, msk := 0xFF }

/-- Hardware's own request, for which no context stands: it finds its home and its place there as every request does, in a frame of
a migration too (R422, R426, R427). `orig` keeps the address. -/
def hwSend (s : State) (kind : TxnKind) (a : Nat) (f : Txn → Txn) (ev : Nat → Instr) : State :=
  let (id, s1) := fresh s
  let t := f { Txn.base kind (.part id) Req.blank 4 ((migVf s a).getD 0) a with g := 8192, orig := a, born := s.clock }
  after { s1 with txns := tset s1.txns id t } 1 (ev id)

/-- Write cells: nothing outside tiers 0 and 1, in a stopped pseudo-channel, or where a spoiled word would be written in part (R183,
R206). -/
def hwWriteHere (s : State) (wr : List WCell) : State :=
  if wr.any fun c => stopped s c.pa || !(tierOf c.pa == some 0 || tierOf c.pa == some 1) then s else (writeCells s wr).getD s
/-- Write cells at local physical addresses; in a frame of a migration by a request. -/
def hwWrite (s : State) (wr : List WCell) : State :=
  match wr.find? fun c => migFrame s c.pa with
  | some c => hwSend s .store c.pa (fun t => { t with wr := wr, len := wr.length, pa := (wr.headD c).pa, orig := (wr.headD c).pa }) .storePerform
  | none => hwWriteHere s wr
/-- Write bytes at a local physical address. -/
def hwPut (s : State) (a : Nat) (l : List Byte) : State := hwWrite s (cellsAt a l)
/-- Eight-byte words in one write. -/
def hwPutWords (s : State) (a : Nat) (l : List Word64) : State := hwPut s a (l.flatMap (bytesOf · 8))
/-- A write of hardware that nothing waits for takes its place behind the parts pending on its granule (R231). -/
def hwBehind (s : State) (a : Nat) (l : List Byte) : State :=
  enqueueAt s { Txn.base .store (.disp 0) Req.blank 4 0 a with orig := 2 ^ 64, len := l.length, wr := cellsAt a l }
def hwPut8 (s : State) (a : Nat) (x : Word64) : State := hwPut s a (bytesOf x 8)

end Sys2Proof.Machine
end

