-- ==== Sys2Proof/Machine/Ops.lean ====
section
/-!
DEFINITION. The named operations over the state that every family shares: events (R353), trace records (R370), holding and
releasing a context (R345, R354), taking a trap (R344) and returning from one (R348).
-/
namespace Sys2Proof.Machine

/-! Events (R353). -/

/-- Where the next event record stands. -/
def evSlot (s : State) : Nat := rfld s evcfg 6 44 * 64 + 32 * ((rget s (evcfg + 8)).toNat % 2 ^ rfld s evcfg 1 5)
/-- The event ring's room: a free slot that can be written now. -/
def evRoom (s : State) : Bool :=
  decide ((rget s (evcfg + 8)).toNat - (rget s (evcfg + 16)).toNat < 2 ^ rfld s evcfg 1 5) && hwReady s (evSlot s) 32

/-- Write one event record and raise WIDX. -/
def evWrite (s : State) (e : Event) : State :=
  let w0 : Word64 := BitVec.ofNat 64 (e.kind % 256 + e.g % 4096 * 2 ^ 8 + e.vf % 128 * 2 ^ 20)
  rset (hwPutWords s (evSlot s) [w0, BitVec.ofNat 64 e.cyc, e.i0, e.i1]) (evcfg + 8)
    (BitVec.ofNat 64 ((rget s (evcfg + 8)).toNat + 1))

/-- Post an event: into the ring, else into the 64-entry holding buffer, else lost. -/
def postEvent (s : State) (e : Event) : State :=
  if rbit s evcfg 0 then
    if s.evq.isEmpty && evRoom s then evWrite s e
    else if s.evq.length < 64 then { s with evq := s.evq ++ [e] }
    else rincHold s (evcfg + 24) 0 32
  else rincHold s (evcfg + 24) 0 32

/-- GCTX as records and events carry it: 0xFFF for a steward context (R341). -/
def gctxField (g : Nat) : Nat := if g < 4096 then g else 0xFFF

/-- An event without a context. -/
def postPlain (s : State) (kind vf : Nat) (i0 i1 : Word64) : State :=
  postEvent s { kind := kind, g := 0xFFF, vf := vf, cyc := s.clock, i0 := i0, i1 := i1 }

/-- An event of a context. -/
def postCtx (s : State) (g kind : Nat) (i0 i1 : Word64) : State :=
  postEvent s { kind := kind, g := gctxField g, vf := (groupOf s g).vf, cyc := (getCtx s g).scyc, i0 := i0, i1 := i1 }

/-! Trace records (R370). -/

/-- Capture is on and has not run out after a trigger. -/
def traceOn (s : State) (d : Nat) : Bool :=
  rbit s (trccfg d) 0 && !(rbit s (trccfg d) 1 && rfld s (trccfg d + 16) 32 32 == 0)

/-- Write a trace record on the context's die. Kinds: 0 trap entry, 1 freeze, 2 thaw, 3 TRIG, 4 breakpoint, 5 sample;
their numbers in the record are the implementation's (log 7). -/
def traceRec (s : State) (g kind code pc : Nat) : State :=
  let d := dieOfCore (coreOf g)
  if d < 4 && traceOn s d then
    let wp := (rget s (trccfg d + 24)).toNat
    let a := (rget s (trccfg d + 8)).toNat % 2 ^ 50 + 32 * (wp % 2 ^ rfld s (trccfg d) 3 5)
    let w1 : Word64 := BitVec.ofNat 64 (gctxField g + (Config.traceKind kind).toNat * 2 ^ 12 + code % 4096 * 2 ^ 20)
    let l : List Word64 := [BitVec.ofNat 64 (getCtx s g).scyc, w1, BitVec.ofNat 64 pc, BitVec.ofNat 64 s.clock]
    let s4 := if hwReady s a 32 then hwPutWords s a l else hwBehind s a (l.flatMap (bytesOf · 8))
    let s5 := rset s4 (trccfg d + 24) (BitVec.ofNat 64 (wp + 1))
    if rbit s (trccfg d) 1 then rsetF s5 (trccfg d + 16) 32 32 (rfld s (trccfg d + 16) 32 32 - 1) else s5
  else s

/-- A trigger on a die: TRIGD, LEFT := POST, event 0x0B (R370, R371). -/
def trigger (s : State) (d : Nat) : State :=
  if d < 4 then
    let s1 := rset s (trccfg d) (rget s (trccfg d) ||| 2)
    let s2 := rsetF s1 (trccfg d + 16) 32 32 (rfld s (trccfg d + 16) 0 32)
    postPlain s2 0x0B 0 (BitVec.ofNat 64 d) 0
  else s

/-! Holding, freezing, trapping (R344, R345, R348, R354). -/

/-- Hold at boundary `now`: results due later become records with REM; requests in LAQ stay. `trap` says whether a trap
entry holds them (R360). -/
def Ctx.hold (c : Ctx) (steward : Bool) (now : Nat) (trap : Bool) : Ctx :=
  let c1 := c.landDue steward now
  { c1 with
    held := c1.held ++ c1.flight.map fun f => { f with due := f.due - now, trap := trap }
    flight := []
    laq := if trap then c1.laq.map fun r => { r with trap := true } else c1.laq }

/-- Held records of one kind return to flight, REM cycles after E, ahead of what was issued since (R28). -/
def Ctx.release (c : Ctx) (e : Nat) (trap : Bool) : Ctx :=
  { c with
    flight := ((c.held.filter fun f => f.trap == trap).map fun f => { f with due := e + f.due, trap := false }) ++ c.flight
    held := c.held.filter fun f => f.trap != trap }

/-- Freeze a context at this boundary (R354); `freezeAll` suspends its engine work. A context already frozen stays as it is. `next`
holds the rest of its bubbles until the thaw. -/
def freezeCtx (s : State) (g : Nat) : State :=
  let c := getCtx s g
  if c.frozen || c.phase != .resident then s
  else
    let now := localTime s (coreOf g)
    let s1 := setCtx s g { c.hold (isSteward g) now false with frozen := true, next := c.next - now }
    traceRec s1 g 1 0 c.pc

/-- Freeze a context at the boundary before the course that would issue now (R344, R372); `freezeAll` suspends its engine
work (R355). -/
def freezeNow (s : State) (g : Nat) : State := { freezeCtx s g with freezes := s.freezes ++ [g] }

/-- A trap at a course: pc is the course (precise) or the next course (asynchronous); next the course after it. The
entry of R344, or the freeze with event 0x01 or 0x02. -/
def takeTrap (s : State) (g cause : Nat) (info : Word64) (async : Bool) (pc next : Nat) : State :=
  let c := getCtx s g
  let tc : Word64 := BitVec.ofNat 64 (cause + if async then 256 else 0)
  if c.tvec == 0 || (!async && c.inh) then
    let s1 := setCtx s g { c with pc := pc, next := localTime s (coreOf g), bubble := false }
    postCtx (freezeNow s1 g) g (if c.inh then 0x02 else 0x01) tc info
  else
    let now := localTime s (coreOf g)
    let h := c.hold (isSteward g) now true
    let s1 := setCtx s g
      { h with tpc := pc, tnext := next, tcause := tc, tinfo := info, pmode := c.mode, mode := true, inh := true,
               hld := true, pc := c.tvec / 4 * 4, next := now + 3, bubble := false, trapAt := c.scyc }
    traceRec s1 g 0 cause pc

/-- The stop of R345: a forbidden course while HLD = 1 is a double fault with CAUSE 0x05, TINFO 0. -/
def doubleFault (s : State) (g pc : Nat) : State :=
  let s1 := setCtx s g { getCtx s g with pc := pc }
  postCtx (freezeNow s1 g) g 0x02 5 0

/-- ERET's effect (R348): the course at TPC issues 3 cycles on (E), held records land at E + REM, held requests leave
again. A steward context stays in system mode (R341). -/
def eretCtx (c : Ctx) (steward : Bool) (now : Nat) : Ctx :=
  let c1 : Ctx := { c with pc := c.tpc / 4 * 4, mode := steward || c.pmode, inh := false, next := now + 3, bubble := true }
  if c.hld then
    { c1.release (now + 3) true with hld := false, laq := c1.laq.map fun r => { r with trap := false } }
  else c1

end Sys2Proof.Machine
end

