-- ==== Sys2Proof/Machine/Operands.lean ====
section
/-!
DEFINITION. What the syllables share: guards and leaf tags (R30, R32), stalling (R33) and precise traps (R25), pops of
LDQ and pushes to SDQ (R40, R41), the operand forms of the X and V units (R83, R84) and the delivery of results (R26,
R106, R121). A meaning answers the state its syllable leaves; a stall or a trap is marked in `iss.fate`.
-/
namespace Sys2Proof.Machine

abbrev Res := Host.Outcome State Fault Refusal

/-- The context whose course is issued. -/
def issuer (s : State) : Ctx := getCtx s s.iss.g
def modIssuer (s : State) (f : Ctx → Ctx) : State := modCtx s s.iss.g f
def nowOf (s : State) : Nat := localTime s (coreOf s.iss.g)

/-- The guard reads 1 and the leaf tag, if any, is the BRT's outcome (R30, R32). -/
def guardOn (p : Syl) (s : State) : Bool :=
  (issuer s).rdP p.guard.val && (p.leaf == 0 || p.leaf.val == s.iss.brt + 1)

/-- A syllable whose guard reads 0 has no effect (R30). -/
def issue (p : Syl) (s : State) (f : State → Res) : Res := if guardOn p s then f s else .next s

/-- The course must stall (R24, R33): no effect, and the mark. -/
def stall (s : State) : Res := .next { s with iss := { s.iss with fate := .stall } }

/-- The course takes a precise trap (R25, R344). -/
def trapNow (s : State) (cause : Nat) (info : Word64) : Res :=
  let t := takeTrap s s.iss.g cause info false s.iss.pc s.iss.tnext
  .next { t with iss := { t.iss with fate := .trap } }

/-- A precise trap whose TINFO the spec does not state: it names no address, nor a refusal by mode (R343; log 12). -/
def trapFree (s : State) (cause : Nat) : Res :=
  let (x, s1) := drawBits s
  trapNow s1 cause (x.truncate 64)

/-- System mode (R340). -/
def system (s : State) : Bool := (issuer s).mode

/-- A system instruction in user mode raises a permission trap with TINFO 0 (R343, R347). -/
def needSystem (s : State) (f : Res) : Res := if system s then f else trapNow s 0x05 0

/-! Queues. -/

def sdqFull (c : Ctx) : Bool := decide (16 ≤ c.sdq.length)
def laqFull (c : Ctx) : Bool := decide (32 ≤ c.laq.length)

/-- A pop of ldq where q is set (R40, R240): the head entry, a stall while it has not arrived, a memory-error trap where
it failed. -/
def withPop (q : Bool) (s : State) (f : Option VWord → State → Res) : Res :=
  if q then
    match (issuer s).ldq with
    | [] => stall s
    | e :: r =>
      if !e.filled then stall s
      else if e.failed then trapNow s 0x08 0
      else f (some e.val) (modIssuer s fun c => { c with ldq := r })
  else f none s

/-- A push to a full SDQ stalls (R33, R41). -/
def withRoom (q : Bool) (s : State) (f : State → Res) : Res := if q && sdqFull (issuer s) then stall s else f s

/-- Reserve the next SDQ entry (R41); its sequence number is its destination. -/
def reserveSdq (s : State) : State × Dest :=
  let c := issuer s
  (modIssuer s fun c =>
    { c with sdq := c.sdq ++ [{ seq := c.sdqSeq, filled := false, val := 0, mask := 0 }], sdqSeq := c.sdqSeq + 1 },
   .sdq c.sdqSeq)

/-- Deliver a result to sdq where q is set, else to dest (R26, R41). -/
def deliver (s : State) (q : Bool) (dest : Dest) (v : VWord) (mask : Word64) (lat : Nat) (fl : BitVec 5) : State :=
  if q then let (s1, d) := reserveSdq s; emit s1 d v mask lat fl else emit s dest v mask lat fl

/-- A 64-bit value in bits [63:0], the rest 0 (R106). -/
def wide64 (x : Word64) : VWord := x.zeroExtend 2048

/-- Destinations by logical name at issue (R29, R34); s0, k0 and p0 discard (R15). -/
def dstS (c : Ctx) (n : Nat) : Dest := .s (physS c.rot n)
def dstV (c : Ctx) (n : Nat) : Dest := .v (physV c.rot n)
def dstP (c : Ctx) (n : Nat) : Dest := .p (physP c.rot n)
def dstB (c : Ctx) (n : Nat) : Dest := .b (physB c.rot n)

/-- Deliver one bit to a predicate. -/
def putP (s : State) (n : Nat) (x : Bool) (lat : Nat) : State :=
  emit s (dstP (issuer s) n) (if x then 1 else 0) 1 lat 0
/-- Deliver 64 bits to a scalar or a mask. -/
def putS (s : State) (n : Nat) (x : Word64) (lat : Nat) : State := emit s (dstS (issuer s) n) (wide64 x) 1 lat 0
def putK (s : State) (n : Nat) (x : Word64) (lat : Nat) : State := emit s (.k n) (wide64 x) 1 lat 0

/-! X operand forms (R83, R117). -/

/-- Format XR: the operands a and b and the old sd, the queue bits, and the result at its latency. A producer that is no
V syllable sets bit 0 of the SDQ entry's lane mask alone (R239). -/
def runXR (p : Syl) (o : XR) (lat : Nat) (s : State) (f : Word64 → Word64 → Word64 → Word64) : Res :=
  issue p s fun s =>
    withRoom o.qd s fun s =>
      let c := issuer s
      withPop (o.qs || o.qb) s fun pop s1 =>
        let q := (pop.getD 0).truncate 64
        let a := if o.qs then q else c.rdS o.sa.val
        let b := if o.qb then q else c.rdS o.sb.val
        .next (deliver s1 o.qd (dstS c o.sd.val) (wide64 (f a b (c.rdS o.sd.val))) 1 lat 0)

/-- Format XR with one source. -/
def runXU (p : Syl) (o : XU) (s : State) (f : Word64 → Word64) : Res :=
  runXR p { sd := o.sd, sa := o.sa, sb := 0, qs := o.qs, qd := o.qd, qb := false } 1 s fun a _ _ => f a

/-- A scalar result from the registers at issue. -/
def runS (p : Syl) (sd : Nat) (s : State) (f : Ctx → Word64) : Res :=
  issue p s fun s => .next (putS s sd (f (issuer s)) 1)

/-! V operand forms (R84, R121). -/

/-- Where a V result goes. -/
inductive VDst where
  | vec (n : Nat) | sdq | mask (n : Nat) | scalar (n : Nat)
deriving DecidableEq, Repr

def VDst.isSdq : VDst → Bool
  | .sdq => true | .vec _ => false | .mask _ => false | .scalar _ => false
def VDst.dest (c : Ctx) : VDst → Dest
  | .vec n => dstV c n | .sdq => .sdq 0 | .mask n => .k n | .scalar n => dstS c n

/-- What a V syllable reads: its context, the operand va or the popped entry, the lane mask km, the captured FMODE and
the random values of the lanes (R63). -/
structure VIn where
  c  : Ctx
  a  : VWord
  km : Word64
  m  : Word32
  r  : VWord

/-- A V syllable: pop, compute, trap on an enabled flag (R65), step the generators under SR (R63), deliver. `wm` is the
write mask (R121). -/
def runV (p : Syl) (qs : Bool) (va km : Nat) (lat : Nat) (dst : VDst) (wm : Word64 → Word64) (s : State)
    (f : VIn → VWord × BitVec 5) : Res :=
  issue p s fun s =>
    withRoom dst.isSdq s fun s =>
      withPop qs s fun pop s1 =>
        let c := issuer s
        let sr := fmRM c.fmode == rmSR
        let gens := if sr then stepGens c.gens else c.gens
        let x : VIn := { c := c, a := pop.getD (c.rdV va), km := c.rdK km, m := c.fmode, r := gens }
        let (v, fl) := f x
        if trapping c.fmode fl != 0 then trapNow s 0x07 ((trapping c.fmode fl).zeroExtend 64)
        else
          let w := wm x.km
          let s2 := if sr then modIssuer s1 fun c => { c with gens := gens } else s1
          .next (deliver s2 dst.isSdq (dst.dest c) (if dst.isSdq then v &&& laneMask w else v) w lat fl)

/-- Format VR: QD sends the result to sdq, the lane mask is the write mask. -/
def runVR (p : Syl) (o : VR) (lat : Nat) (s : State) (f : VIn → VWord → VWord → VWord × BitVec 5) : Res :=
  runV p o.qs o.va.val o.km.val lat (if o.qd then .sdq else .vec o.vd.val) id s fun x =>
    f x (x.c.rdV o.vb.val) (x.c.rdV o.vd.val)

/-- The random value of element e of width w (R63). -/
def rndE (r : VWord) (w e : Nat) : Word32 := let n := 32 / w; rotR (laneOf r (e / n)) (e % n) n

/-- Element e of width w lies in an active lane (R121). -/
def activeE (k : Word64) (w e : Nat) : Bool := k.getLsbD (e * w / 32)

/-- Every active element's result and flags (R121). -/
def mapE (w : Nat) (k : Word64) (f : Nat → Nat × BitVec 5) : VWord × BitVec 5 :=
  let l := (List.range (2048 / w)).map fun e => if activeE k w e then f e else (0, 0)
  (vecOf (l.map (·.1)) w, orAll l)

/-- Format VR on the elements of type t. -/
def runVE (p : Syl) (t : VTy) (o : VR) (lat : Nat) (s : State)
    (f : Word32 → Word32 → Nat → Nat → Nat → Nat × BitVec 5) : Res :=
  runVR p o lat s fun x b d =>
    mapE (vtWidth t) x.km fun e =>
      f x.m (rndE x.r (vtWidth t) e) (elemOf x.a (vtWidth t) e) (elemOf b (vtWidth t) e) (elemOf d (vtWidth t) e)

/-- Lanes of 32 bits without flags. -/
def mapL (f : Nat → Nat) : VWord := vecOf ((List.range 64).map f) 32

end Sys2Proof.Machine
end

