-- ==== Sys2Proof/WellFormed.lean ====
section
/-!
DEFINITION. Which instructions of the syntax have an encoding: the limits of R77, R79, R82 to R93 and R291 on operands,
and the choice of header that an immediate or a tag needs. A machine event has no encoding and no limit here.
-/
namespace Sys2Proof

/-- x fits in n bits, two's complement. -/
def fits (n : Nat) (x : Int) : Bool := decide (-(2 ^ (n - 1) : Int) ≤ x) && decide (x < (2 ^ (n - 1) : Int))

/-- No LEAF header is needed: guard p0 to p7 and no leaf tag (R79). -/
def Syl.plain (p : Syl) : Bool := decide (p.guard.val < 8) && p.leaf == 0

/-- An immediate of n bits, or of n + 8 bits under a WIDE header, which a LEAF header rules out (R79, R83, R85, R87). -/
def immOk (p : Syl) (n : Nat) (x : Int) : Bool := fits n x || (p.plain && fits (n + 8) x)

/-- A source-queue bit leaves its field 0 (R82). -/
def queueField {n : Nat} (q : Bool) (f : Fin (n + 1)) : Bool := !q || f == 0

/-- A base field: b0 to b7 when M = 0 (R85). -/
def baseOk (m : Bool) (base : Fin 16) : Bool := m || decide (base.val < 8)

def VTy.isFloat : VTy → Bool
  | .f32 => true | .f16 => true | .bf16 => true | .i32 => false | .ui32 => false | .i16 => false | .ui16 => false

def XR.ok (o : XR) : Bool := queueField o.qs o.sa && queueField o.qb o.sb && queueField o.qd o.sd && !(o.qs && o.qb)
def XU.ok (o : XU) : Bool := queueField o.qs o.sa && queueField o.qd o.sd

/-- The number n names a register of MOV's class c: 64 scalars, 8 g, 16 k, 16 p (R83). -/
def classLimit (c : Fin 4) : Nat := match c.val with | 0 => 64 | 1 => 8 | _ => 16

def XV.ok (o : XV) : Bool :=
  decide (o.d.val < classLimit o.dc) && decide (o.s.val < classLimit o.sc) &&
  (if o.dc == 0 && o.sc == 0 then queueField o.qs o.s && queueField o.qd o.d else !o.qs && !o.qd)

/-- The special register numbers that a chapter assigns (R89, R339). -/
def srnAssigned (n : Nat) : Bool := decide (n < 8) || (decide (0x10 ≤ n) && decide (n ≤ 0x1C))

/-- The engine shadow registers that exist (R284, R300). -/
def shadowIndex (n : Nat) : Bool := decide (n ≤ 0xA) || (decide (0x10 ≤ n) && decide (n ≤ 0x20))

/-- The V forms whose QD sends the result to sdq and whose vd then is 0 (R82). -/
def VR.okD (o : VR) : Bool := queueField o.qs o.va && queueField o.qd o.vd
def VR.okS (o : VR) : Bool := queueField o.qs o.va

/-- Loads: FE none, .fw, .fwc; a residency mask only with M = 1 and no WIDE header (R85). -/
def AM.okLoad (p : Syl) (o : AM) : Bool :=
  baseOk o.m o.base && decide (o.fe.val < 3) &&
  (if o.kr == 0 then immOk p 5 o.imm else o.m && fits 5 o.imm)
def AM.okStore (p : Syl) (o : AM) : Bool :=
  baseOk o.m o.base && decide (o.fe.val < 2) && o.kr == 0 && immOk p 5 o.imm
def AT.ok (p : Syl) (o : AT) : Bool := baseOk o.m o.base && immOk p 5 o.imm
def AY.ok (p : Syl) (o : AY) : Bool := baseOk o.m o.base && decide (o.sc.val ≤ 5) && immOk p 4 o.imm

/-- Codes 16 to 27 are no conversion format (R130). -/
def cvtCode (c : Fin 32) : Bool := decide (c.val < 16) || decide (28 ≤ c.val)

def BT.ok (o : BT) : Bool :=
  fits 6 o.l0 && fits 6 o.l1 && fits 6 o.l2 && fits 6 o.l3 && (o.shape != 2 || o.t3 == 0)

/-- Well-formed: the instruction has an encoding. -/
def wellFormed : Instr → Bool
  | .add _ o => o.ok | .sub _ o => o.ok | .mul _ o => o.ok | .mulh _ o => o.ok | .mulhU _ o => o.ok
  | .div _ o => o.ok | .divU _ o => o.ok | .rem _ o => o.ok | .remU _ o => o.ok
  | .abs _ o => o.ok | .clz _ o => o.ok | .popc _ o => o.ok
  | .and _ o => o.ok | .or _ o => o.ok | .xor _ o => o.ok | .andn _ o => o.ok
  | .shl _ o => o.ok | .shr _ o => o.ok | .sra _ o => o.ok | .rotl _ o => o.ok
  | .extb _ o => o.ok | .extbS _ o => o.ok | .depb _ o => o.ok && !o.qd
  | .min _ o => o.ok | .max _ o => o.ok | .minU _ o => o.ok | .maxU _ o => o.ok
  | .mov _ o => o.ok
  | .lea _ _ o => o.ok
  | .addi p o => immOk p 6 o.imm
  | .movi p o => immOk p 12 o.imm
  | .mfsr _ o => srnAssigned o.srn | .mtsr _ o => srnAssigned o.srn
  | .cmpi p o => immOk p 8 o.imm
  | .sel _ _ o => o.ok
  | .vadd _ t o => o.okD && (!o.md || !t.isFloat) | .vsub _ t o => o.okD && (!o.md || !t.isFloat)
  | .vmul _ t o => o.okD && (!o.md || !t.isFloat)
  | .vmin _ _ o => o.okD && !o.md | .vmax _ _ o => o.okD && !o.md
  | .vfma _ t o => o.okS && t.isFloat | .vfmaNa _ t o => o.okS && t.isFloat
  | .vcmp _ t o => queueField o.qs o.va && (t.isFloat || decide (o.cond.val < 6))
  | .vand _ o => o.okD && !o.md | .vor _ o => o.okD && !o.md | .vxor _ o => o.okD && !o.md | .vsel _ o => o.okD && !o.md
  | .vshl _ o => o.okD | .vshr _ o => o.okD | .vsra _ o => o.okD
  | .vmov _ o => o.okD && !o.md && o.vb == 0
  | .vabs _ t o => o.okD && o.vb == 0 && (!o.md || !t.isFloat) && t != .ui32 && t != .ui16
  | .vscale _ t o => o.okD && !o.md && t.isFloat
  | .vcvt _ o => cvtCode o.tf && cvtCode o.ff && queueField o.qs o.va
  | .vrcp _ o => o.okD && !o.md && o.vb == 0 | .vrsq _ o => o.okD && !o.md && o.vb == 0
  | .vexp2 _ o => o.okD && !o.md && o.vb == 0 | .vlog2 _ o => o.okD && !o.md && o.vb == 0
  | .vperm _ o => o.okD && !o.md
  | .vbcast _ o => queueField o.qd o.vd && o.va == 0 && !o.qs
  | .vrot _ o => o.okD
  | .vext _ o => o.okS
  | .vins _ o => !o.qd
  | .viota _ o => queueField o.qd o.vd && o.va == 0 && o.vb == 0 && !o.qs && !o.md
  | .vpack _ o => o.okD
  | .vunpk _ o => o.okD && o.vb == 0
  | .vred _ t o => o.okS && (o.qd || !o.md || !t.isFloat) | .vscan _ t o => o.okS && (o.qd || !o.md || !t.isFloat)
  | .vdot _ src o => o.okS && (!o.md || src == 2 || src == 3 || src == 6 || src == 7)
  | .lda p _ o => o.okLoad p
  | .sta p _ o => o.okStore p
  | .ldv p _ o => o.okLoad p | .ldvs p _ o => o.okLoad p
  | .ldg p _ o => o.okLoad p && decide (o.sx.val < 32)
  | .stv p _ o => o.okStore p | .stvs p _ o => o.okStore p
  | .stg p _ o => o.okStore p && decide (o.sx.val < 32)
  | .bind _ o => baseOk o.m o.base
  | .fence _ o => o.k != 0 && decide (o.sc.val ≤ 5)
  | .pfence _ o => o.k == 0 && decide (2 ≤ o.sc.val) && decide (o.sc.val ≤ 6)
  | .aadd p o => immOk p 9 o.imm | .bset p o => immOk p 9 o.imm
  | .trans _ o => o.kr == 0
  | .hrel _ o => o.kr == 0 && o.sa == 0
  | .preq _ o => o.kr == 0
  | .feset p o => o.okStore p | .fewait p o => o.okStore p
  | .amo32 p _ o => o.ok p | .amo64 p op o => o.ok p && decide (op.val ≤ 8)
  | .amos32 p _ o => o.ok p | .amos64 p op o => o.ok p && decide (op.val ≤ 8)
  | .cas p _ o => o.ok p
  | .acqX p o => o.ok p | .acqSh p o => o.ok p | .acqEv p o => o.ok p | .relUn p o => o.ok p | .relPost p o => o.ok p
  | .drain _ chs => decide (chs.val < 4) || chs == 7
  | .cwait _ o => decide (1 ≤ o.sc.val) && decide (o.sc.val ≤ 5)
  | .publ _ o => decide (1 ≤ o.sc.val) && decide (o.sc.val ≤ 5)
  | .waitev _ o => decide (2 ≤ o.sc.val) && decide (o.sc.val ≤ 5)
  | .cadd _ o => o.sc == 0 | .cset _ o => o.sc == 0 | .shdw _ o => o.sc == 0 | .mload _ o => o.sc == 0
  | .csave _ o => o.sc == 0 | .cload _ o => o.sc == 0 | .freeze _ o => o.sc == 0 | .thaw _ o => o.sc == 0
  | .discard _ o => o.sc == 0 | .scrub _ o => o.sc == 0
  | .mrdaVector _ o => queueField o.qd o.vd
  | .engw _ _ ix => shadowIndex ix
  | .brt p o => p.plain && o.ok
  | .brc p o => immOk p 13 o.off
  | .jmp _ off => fits 18 off | .loop _ off => fits 18 off
  | .call p _ off => immOk p 12 off
  | .uloop _ len => len != 0 | .uloopG _ len => len != 0
  | .skip _ pt n => pt != 3 && n != 0
  | .waits _ pt _ => pt != 3
  | .shlImm _ _ | .shrImm _ _ | .sraImm _ _ | .rotlImm _ _ | .cmp _ _ | .plog _ _ | .pset _ _ | .klog _ _ => true
  | .kpopc _ _ | .kfirst _ _ | .hchk _ _ | .pcmdAddI32 _ _ | .pcmdAddF32 _ _ | .pcmdAxpyF32 _ _ => true
  | .pcmdMaxF32 _ _ | .pcmdCvtBf16 _ _ | .pcmdFill _ _ | .pcmdCopy _ _ | .pcmdAcc _ _ | .cpy _ _ _ => true
  | .cpyq _ _ _ | .lnch _ _ _ | .vdrain _ _ | .hinvv _ _ | .put _ _ _ | .putm _ _ _ | .putmO _ _ _ => true
  | .sdef _ _ | .srel _ _ | .ssub _ _ | .sfeed _ _ | .mcall _ _ | .mwait _ | .mrdaScratchpad _ _ => true
  | .mzro _ _ | .bar _ _ | .bara _ _ | .barw _ _ | .trig _ _ | .nop _ | .exit _ | .yield _ | .eret _ => true
  | .halt _ | .jmpi _ _ | .ret _ _ | .lset _ _ _ | .trap _ _ | .uend | .step _ _ | .scl _ | .band _ _ => true
  | .accsel _ _ | .accselG _ _ | .sig _ _ | .contextSelect _ | .asyncTrapEntry _ | .resultLanding _ => true
  | .laqRequestLeave _ | .ldqFill _ | .fullEmptyWaitEnd _ | .loadPerform _ | .storePerform _ => true
  | .atomicPerform _ | .syncAcquireStep _ | .syncReleaseStep _ | .releasePerform _ _ | .fenceComplete _ => true
  | .pfenceComplete _ | .bindPerform _ | .tableWalkComplete _ | .hinvalStart | .hinvalComplete => true
  | .barrierArrivalCount _ _ | .groupRetire _ | .launchComplete _ | .dispatchStep | .launchPacketTake _ => true
  | .stewardPacketTake _ | .launchEngineAppend _ _ | .counterAddPerform _ _ | .counterSetPerform _ _ => true
  | .shdwPerform _ _ | .enginePartIssue _ | .copyPartLand _ | .copyComplete _ _ | .putComplete _ _ => true
  | .sharedCopyPacketTake _ | .feederEntryFill _ | .pumpPartEnqueue _ | .pumpPartExecute _ | .rarmArm _ _ => true
  | .matrixCommandBegin _ | .routineComplete _ | .governorCheck _ | .governorFreezeEnd _ => true
  | .faultBatchFlush _ | .faultResume _ _ | .traceSample _ | .hostFlr _ | .parityAlert _ _ => true
  | .internalLinkFailure _ _ | .null _ _ | .head _ _ | .body _ _ | .tail _ _ | .solo _ _ => true
  | .flitCrcFail _ _ | .nak _ _ | .nakRepeat _ | .rsreq _ _ | .rsack _ _ | .rsreqTimeout _ _ => true
  | .linkid _ _ | .laneScoreUpdate _ _ | .laneLockLost _ _ | .portTrainingAttempt _ _ => true
  | .portEnableWrite _ _ | .laneHoldRelease _ _ | .treeAdv _ _ | .treeDone _ _ | .treeInstall _ _ => true
  | .treeStableTimer _ | .fabricRequestInject _ | .escapeWaitExpire _ | .escapeTableWaitExpire _ => true
  | .requestTimeout _ _ | .probeTimeout _ _ | .probePeriodic _ | .fenceNotice _ | .read _ => true
  | .putWithoutPost _ | .putWithPost _ | .atomic _ | .sync _ | .pcmdPart _ | .orderedMulticastToRoot _ => true
  | .orderedMulticastCopy _ | .probe _ | .ack _ | .data _ | .atomicData _ | .probeack _ | .error _ => true
  | .allReducePartial _ | .allReduceResult _ | .allReduceAbort _ | .pull _ | .pagedata _ | .redirack _ => true
  | .arcontWrite _ _ _ _ | .arcfgWrite _ _ _ _ | .allreduceTimeout _ _ _ | .migsClose _ => true
  | .redirackWrite _ _ | .pagedataTimeout _ _ | .pullTimeout _ _ _ | .migrationPrefetch _ | .harbGo _ => true
  | .harbDone _ _ | .harbDwellExpire _ _ _ | .hostMemoryRead _ | .hostMemoryWrite _ | .hostAtomicop _ => true
  | .atsInvalidation _ _ | .coldStart _ | .warmReset _ | .startStepTimeout _ _ | .startstGo _ => true
  | .powerAdjust _ _ _ | .thermalCycleCount _ _ | .wearFlashUpdate | .powerOff | .attestationQuote _ => true
  | .registerWrite _ _ _ _ | .uncorrectableError _ | .faultRingRoom _ | .eventRingRoom => true
  | .escapeParityQuiet _ | .fabricJoin => true

end Sys2Proof
end

