-- ==== Sys2Proof/Decode.lean ====
section
/-!
DEFINITION. The decoder of a syllable (R76 to R93, R95) and of a micro-op word (R94, R291), total on any bits and
rejecting by name; then the encoder, written from the same formats. How syllables group into courses is in
Machine/Course.lean.
-/
namespace Sys2Proof

/-- What a bundle's header lends a syllable (R79, R80). -/
inductive Lend where
  /-- Slot 0, or a bundle without a header. -/
  | none
  /-- The slot's byte under a LEAF header. -/
  | leaf (b : Nat)
  /-- The slot's byte under a WIDE header. -/
  | wide (b : Nat)
  /-- A TREE header: shape and targets T0 to T3. -/
  | tree (shape : Fin 4) (l0 l1 l2 l3 : Int)
deriving DecidableEq, Repr

/-- Why the decoder refuses a syllable. -/
inductive DecErr where
  /-- The encoding is not an instruction (R77, R79, R82, R95). -/
  | notInstruction
  /-- The unit field is 6 or 7 (R22). -/
  | badUnit
  /-- A header stands where a syllable must (R78). -/
  | header
  /-- A BRT outside a bundle with a TREE header (R80). -/
  | tree
deriving DecidableEq, Repr

/-- Bits [lo + n - 1 : lo] of w. -/
def fld (w lo n : Nat) : Nat := w / 2 ^ lo % 2 ^ n

/-- Bit k of w. -/
def bitOf (w k : Nat) : Bool := w / 2 ^ k % 2 == 1

/-- The n-bit field x read as two's complement. -/
def sx (n x : Nat) : Int := if x < 2 ^ (n - 1) then (x : Int) else (x : Int) - (2 ^ n : Nat)

/-- A register field of 1 to 6 bits. -/
def r3 (w lo : Nat) : Fin 8 := Fin.ofNat 8 (w / 2 ^ lo)
def r4 (w lo : Nat) : Fin 16 := Fin.ofNat 16 (w / 2 ^ lo)
def r5 (w lo : Nat) : Fin 32 := Fin.ofNat 32 (w / 2 ^ lo)
def r6 (w lo : Nat) : Fin 64 := Fin.ofNat 64 (w / 2 ^ lo)

/-- E: the 8-bit extension value (R79). -/
def Lend.e : Lend → Nat
  | .none => 0 | .leaf b => b % 16 | .wide b => b % 256 | .tree .. => 0

def Lend.isWide : Lend → Bool
  | .wide _ => true | .none => false | .leaf _ => false | .tree .. => false

/-- G3 and LT (R79). -/
def Lend.g3 : Lend → Nat
  | .leaf b => b / 128 % 2 | .none => 0 | .wide _ => 0 | .tree .. => 0
def Lend.lt : Lend → Nat
  | .leaf b => b / 16 % 8 | .none => 0 | .wide _ => 0 | .tree .. => 0

/-- The stop bit, guard and tag of a syllable. -/
def sylOf (l : Lend) (w : Nat) : Syl :=
  { stop := bitOf w 31, guard := Fin.ofNat 16 (8 * l.g3 + w % 8), leaf := Fin.ofNat 6 l.lt }

/-- An immediate field of n bits at bit lo, widened by E under a WIDE header; another E must be 0 (R83, R85, R87). -/
def immField (l : Lend) (w lo n : Nat) : Option Int :=
  if l.isWide then some (sx (n + 8) (l.e * 2 ^ n + fld w lo n))
  else if l.e == 0 then some (sx n (fld w lo n)) else none

/-- The formats of R83. -/
def decXR (l : Lend) (w : Nat) : Option XR :=
  if l.e < 8 then
    some { sd := r6 w 15, sa := r6 w 9, sb := r6 w 3, qs := bitOf l.e 0, qd := bitOf l.e 1, qb := bitOf l.e 2 }
  else none
def decXU (l : Lend) (w : Nat) : Option XU :=
  if l.e < 4 && fld w 3 6 == 0 then
    some { sd := r6 w 15, sa := r6 w 9, qs := bitOf l.e 0, qd := bitOf l.e 1 }
  else none
def decXV (l : Lend) (w : Nat) : Option XV :=
  if l.e < 4 && fld w 8 1 == 0 && fld w 5 1 == 0 then
    some { d := r6 w 15, s := r6 w 9, dc := Fin.ofNat 4 (w / 64), sc := Fin.ofNat 4 (w / 8),
           qs := bitOf l.e 0, qd := bitOf l.e 1 }
  else none
def decXI (l : Lend) (w : Nat) : Option XI :=
  (immField l w 3 6).map fun imm => { sd := r6 w 15, sa := r6 w 9, imm := imm }
def decXH (l : Lend) (w : Nat) : Option XH :=
  if l.e == 0 then some { sd := r6 w 15, sa := r6 w 9, n := r6 w 3 } else none
def decXM (l : Lend) (w : Nat) : Option XM :=
  (immField l w 3 12).map fun imm => { sd := r6 w 15, imm := imm }
def decXS (l : Lend) (w : Nat) : Option XS :=
  if l.e == 0 then some { s := r6 w 15, srn := fld w 3 12 } else none
def decXC (l : Lend) (op w : Nat) : Option XC :=
  if l.e == 0 && fld w 3 2 != 3 then
    some { cond := Fin.ofNat 8 op, pd := r4 w 17, sa := r6 w 11, sb := r6 w 5, pm := Fin.ofNat 3 (fld w 3 2) }
  else none
def decXK (l : Lend) (op w : Nat) : Option XK :=
  (immField l w 3 8).map fun imm => { cond := Fin.ofNat 8 op, pd := r4 w 17, sa := r6 w 11, imm := imm }
def decXL (l : Lend) (w : Nat) : Option XL :=
  if l.e == 0 && fld w 3 2 == 0 then some { d := r4 w 17, a := r4 w 13, b := r4 w 9, fn := r4 w 5 } else none
def decXP (l : Lend) (w : Nat) : Option XP :=
  if l.e == 0 && fld w 3 13 == 0 then some { d := r4 w 17, v := bitOf w 16 } else none
def decXQ (l : Lend) (w : Nat) : Option XQ :=
  if l.e == 0 && fld w 3 8 == 0 then some { sd := r6 w 15, ka := r4 w 11 } else none

/-- The X unit map (R88). -/
def decodeX (l : Lend) (p : Syl) (op w : Nat) : Option Instr :=
  match op with
  | 0x00 => (decXR l w).map (.add p) | 0x01 => (decXR l w).map (.sub p) | 0x02 => (decXR l w).map (.mul p)
  | 0x03 => (decXR l w).map (.mulh p) | 0x04 => (decXR l w).map (.mulhU p)
  | 0x05 => (decXR l w).map (.div p) | 0x06 => (decXR l w).map (.divU p)
  | 0x07 => (decXR l w).map (.rem p) | 0x08 => (decXR l w).map (.remU p)
  | 0x09 => (decXU l w).map (.abs p)
  | 0x0A => (decXR l w).map (.and p) | 0x0B => (decXR l w).map (.or p)
  | 0x0C => (decXR l w).map (.xor p) | 0x0D => (decXR l w).map (.andn p)
  | 0x0E => (decXR l w).map (.shl p) | 0x0F => (decXR l w).map (.shr p)
  | 0x10 => (decXR l w).map (.sra p) | 0x11 => (decXR l w).map (.rotl p)
  | 0x12 => (decXU l w).map (.clz p) | 0x13 => (decXU l w).map (.popc p)
  | 0x14 => (decXR l w).map (.extb p) | 0x15 => (decXR l w).map (.extbS p) | 0x16 => (decXR l w).map (.depb p)
  | 0x17 => (decXR l w).map (.min p) | 0x18 => (decXR l w).map (.max p)
  | 0x19 => (decXR l w).map (.minU p) | 0x1A => (decXR l w).map (.maxU p)
  | 0x1B => (decXV l w).map (.mov p)
  | 0x1C => (decXR l w).map (.lea p 0) | 0x1D => (decXR l w).map (.lea p 1)
  | 0x1E => (decXR l w).map (.lea p 2) | 0x1F => (decXR l w).map (.lea p 3)
  | 0x20 => (decXI l w).map (.addi p)
  | 0x21 => (decXH l w).map (.shlImm p) | 0x22 => (decXH l w).map (.shrImm p)
  | 0x23 => (decXH l w).map (.sraImm p) | 0x24 => (decXH l w).map (.rotlImm p)
  | 0x25 => (decXM l w).map (.movi p)
  | 0x26 => (decXS l w).map (.mfsr p) | 0x27 => (decXS l w).map (.mtsr p)
  | 0x38 => (decXL l w).map (.plog p) | 0x39 => (decXP l w).map (.pset p) | 0x3A => (decXL l w).map (.klog p)
  | 0x3B => (decXQ l w).map (.kpopc p) | 0x3C => (decXQ l w).map (.kfirst p)
  | op =>
    if op / 8 == 5 then (decXC l op w).map (.cmp p)
    else if op / 8 == 6 then (decXK l op w).map (.cmpi p)
    else if op / 16 == 4 then (decXR l w).map (.sel p (Fin.ofNat 16 op))
    else none

/-- The formats of R84. -/
def decVR (l : Lend) (w : Nat) : Option VR :=
  if l.e < 16 then
    some { vd := r5 w 16, va := r5 w 11, vb := r5 w 6, qd := bitOf w 5, qs := bitOf w 4, md := bitOf w 3,
           km := Fin.ofNat 16 l.e }
  else none
def decVK (l : Lend) (w : Nat) : Option VK :=
  if l.e < 16 then
    some { cond := Fin.ofNat 8 (4 * fld w 20 1 + 2 * fld w 5 1 + fld w 3 1), kd := r4 w 16, va := r5 w 11,
           vb := r5 w 6, qs := bitOf w 4, km := Fin.ofNat 16 l.e }
  else none
def decVX (l : Lend) (vt w : Nat) : Option VX :=
  if l.e < 16 then
    some { tf := Fin.ofNat 32 (4 * vt + 2 * fld w 5 1 + fld w 3 1), ff := r5 w 6, vd := r5 w 16, va := r5 w 11,
           qs := bitOf w 4, km := Fin.ofNat 16 l.e }
  else none

/-- Type index VT (R84); 7 is no type. -/
def vtyOf (vt : Nat) : Option VTy :=
  match vt with
  | 0 => some .f32 | 1 => some .f16 | 2 => some .bf16 | 3 => some .i32
  | 4 => some .ui32 | 5 => some .i16 | 6 => some .ui16 | _ => none

/-- The V unit map (R90): group VG = OP[6:3], index VT = OP[2:0]. -/
def decodeV (l : Lend) (p : Syl) (vg vt w : Nat) : Option Instr :=
  let ty (f : Syl → VTy → VR → Instr) : Option Instr := do let t ← vtyOf vt; let o ← decVR l w; pure (f p t o)
  let vr (f : Syl → VR → Instr) : Option Instr := (decVR l w).map (f p)
  match vg with
  | 0 => ty .vadd | 1 => ty .vsub | 2 => ty .vmul | 3 => ty .vmin | 4 => ty .vmax | 5 => ty .vfma | 6 => ty .vfmaNa
  | 7 => do let t ← vtyOf vt; let o ← decVK l w; pure (.vcmp p t o)
  | 8 =>
    match vt with
    | 0 => vr .vand | 1 => vr .vor | 2 => vr .vxor | 3 => vr .vsel
    | 4 => vr .vshl | 5 => vr .vshr | 6 => vr .vsra | _ => vr .vmov
  | 9 =>
    match vt with
    | 0 => (decVR l w).map (.vabs p .f32) | 1 => (decVR l w).map (.vabs p .f16) | 2 => (decVR l w).map (.vabs p .bf16)
    | 3 => (decVR l w).map (.vabs p .i32) | 4 => (decVR l w).map (.vabs p .i16)
    | 5 => (decVR l w).map (.vscale p .f32) | 6 => (decVR l w).map (.vscale p .f16)
    | _ => (decVR l w).map (.vscale p .bf16)
  | 10 => (decVX l vt w).map (.vcvt p)
  | 11 =>
    match vt with
    | 0 => vr .vrcp | 1 => vr .vrsq | 2 => vr .vexp2 | 3 => vr .vlog2 | _ => none
  | 12 =>
    match vt with
    | 0 => vr .vperm | 1 => vr .vbcast | 2 => vr .vrot | 3 => vr .vext
    | 4 => vr .vins | 5 => vr .viota | 6 => vr .vpack | _ => vr .vunpk
  | 13 => ty .vred
  | 14 => ty .vscan
  | 15 => (decVR l w).map (.vdot p (Fin.ofNat 8 vt))
  | _ => none

/-- The formats of R85. -/
def decAM (l : Lend) (w : Nat) : Option AM :=
  if l.isWide then
    some { m := bitOf w 20, base := r4 w 16, sx := r6 w 10, fe := Fin.ofNat 4 (w / 2 ^ 8),
           imm := Sys2Proof.sx 13 (l.e * 32 + fld w 3 5), kr := 0 }
  else if l.e < 16 then
    some { m := bitOf w 20, base := r4 w 16, sx := r6 w 10, fe := Fin.ofNat 4 (w / 2 ^ 8),
           imm := Sys2Proof.sx 5 (fld w 3 5), kr := Fin.ofNat 16 l.e }
  else none
def decAG (l : Lend) (w : Nat) : Option AM :=
  if fld w 10 1 == 0 then (decAM l w).map fun o => { o with sx := Fin.ofNat 64 (fld w 11 5) } else none
def decAT (l : Lend) (w : Nat) : Option AT :=
  if fld w 9 1 == 0 then
    (immField l w 3 5).map fun imm => { m := bitOf w 20, base := r4 w 16, sx := r6 w 10, t := bitOf w 8, imm := imm }
  else none
def decAY (l : Lend) (w : Nat) : Option AY :=
  (immField l w 3 4).map fun imm => { m := bitOf w 20, base := r4 w 16, sx := r6 w 10, sc := r3 w 7, imm := imm }
def decAB (l : Lend) (w : Nat) : Option AB :=
  if l.e == 0 then
    some { m := bitOf w 20, base := r4 w 16, sl := r6 w 10, so := r6 w 4, u := bitOf w 3 }
  else none
def decAP (l : Lend) (w : Nat) : Option AP :=
  if l.e == 0 && bitOf w 20 && fld w 3 1 == 0 then some { h := r4 w 16, sx := r6 w 10, sl := r6 w 4 } else none
def decAF (l : Lend) (w : Nat) : Option AF :=
  if l.e == 0 && fld w 3 13 == 0 then some { k := Fin.ofNat 4 (w / 2 ^ 19), sc := r3 w 16 } else none
def decAH (l : Lend) (w : Nat) : Option AH :=
  if l.e == 0 && fld w 3 4 == 0 then some { h := r4 w 17, sa := r6 w 11, kr := r4 w 7 } else none
def decAA (l : Lend) (w : Nat) : Option AA :=
  (immField l w 3 9).map fun imm => { bd := r3 w 18, sa := r6 w 12, imm := imm }

/-- The A unit map (R91). -/
def decodeA (l : Lend) (p : Syl) (op w : Nat) : Option Instr :=
  match op with
  | 0x07 => none
  | 0x0C => (decAB l w).map (.bind p)
  | 0x0D => (decAF l w).map (.fence p) | 0x0E => (decAF l w).map (.pfence p)
  | 0x28 => (decAA l w).map (.aadd p) | 0x29 => (decAA l w).map (.bset p)
  | 0x2A => (decAH l w).map (.trans p) | 0x2B => (decAH l w).map (.hrel p)
  | 0x2C => (decAH l w).map (.hchk p) | 0x2D => (decAH l w).map (.preq p)
  | 0x2E => (decAM l w).map (.feset p) | 0x2F => (decAM l w).map (.fewait p)
  | 0x70 => (decAT l w).map (.cas p 0) | 0x71 => (decAT l w).map (.cas p 1) | 0x72 => (decAT l w).map (.cas p 2)
  | 0x73 => (decAY l w).map (.acqX p) | 0x74 => (decAY l w).map (.acqSh p) | 0x75 => (decAY l w).map (.acqEv p)
  | 0x76 => (decAY l w).map (.relUn p) | 0x77 => (decAY l w).map (.relPost p)
  | 0x78 => (decAP l w).map (.pcmdAddI32 p) | 0x79 => (decAP l w).map (.pcmdAddF32 p)
  | 0x7A => (decAP l w).map (.pcmdAxpyF32 p) | 0x7B => (decAP l w).map (.pcmdMaxF32 p)
  | 0x7C => (decAP l w).map (.pcmdCvtBf16 p) | 0x7D => (decAP l w).map (.pcmdFill p)
  | 0x7E => (decAP l w).map (.pcmdCopy p) | 0x7F => (decAP l w).map (.pcmdAcc p)
  | op =>
    if op < 7 then (decAM l w).map (.lda p (Fin.ofNat 7 op))
    else if op / 4 == 2 then (decAM l w).map (.sta p (Fin.ofNat 4 op))
    else if op / 4 == 4 then (decAM l w).map (.ldv p (Fin.ofNat 4 op))
    else if op / 4 == 5 then (decAM l w).map (.ldvs p (Fin.ofNat 4 op))
    else if op / 4 == 6 then (decAG l w).map (.ldg p (Fin.ofNat 4 op))
    else if op / 4 == 7 then (decAM l w).map (.stv p (Fin.ofNat 4 op))
    else if op / 4 == 8 then (decAM l w).map (.stvs p (Fin.ofNat 4 op))
    else if op / 4 == 9 then (decAG l w).map (.stg p (Fin.ofNat 4 op))
    else if op % 16 ≤ 10 then
      match op / 16 with
      | 3 => (decAT l w).map (.amo32 p (Fin.ofNat 11 (op % 16)))
      | 4 => (decAT l w).map (.amo64 p (Fin.ofNat 11 (op % 16)))
      | 5 => (decAT l w).map (.amos32 p (Fin.ofNat 11 (op % 16)))
      | 6 => (decAT l w).map (.amos64 p (Fin.ofNat 11 (op % 16)))
      | _ => none
    else none

/-- The formats of R86 shared by several instructions. -/
def decMS (w : Nat) : Option MS :=
  if fld w 3 3 == 0 then some { sa := r6 w 15, sb := r6 w 9, sc := r3 w 6 } else none
def decMP (w : Nat) : Option MP :=
  if fld w 3 1 == 0 then some { va := r5 w 16, sa := r6 w 10, sb := r6 w 4 } else none
def decMN (w : Nat) : Option (Fin 256) := if fld w 3 10 == 0 then some (Fin.ofNat 256 (w / 2 ^ 13)) else none
def decMN16 (w : Nat) : Option (Fin 16) :=
  if fld w 3 10 == 0 && fld w 17 4 == 0 then some (r4 w 13) else none

/-- The M unit map (R92). All its formats take E = 0. -/
def decodeM (l : Lend) (p : Syl) (op w : Nat) : Option Instr :=
  if l.e != 0 then none else
  match op with
  | 0x00 => if fld w 3 11 == 0 then some (.cpy p (r5 w 16) (Fin.ofNat 4 (w / 2 ^ 14))) else none
  | 0x01 => if fld w 3 7 == 0 then some (.cpyq p (r5 w 16) (r6 w 10)) else none
  | 0x02 => if fld w 3 15 == 0 then some (.drain p (r3 w 18)) else none
  | 0x03 => (decMS w).map (.cwait p) | 0x04 => (decMS w).map (.cadd p) | 0x05 => (decMS w).map (.cset p)
  | 0x20 => (decMS w).map (.shdw p) | 0x21 => (decMS w).map (.publ p)
  | 0x22 => if fld w 3 14 == 0 then some (.sdef p (r4 w 17)) else none
  | 0x23 =>
    if fld w 3 6 == 0 && fld w 15 2 != 3 then
      some (.ssub p { sid := r4 w 17, pt := Fin.ofNat 3 (fld w 15 2), sa := r6 w 9 })
    else none
  | 0x24 => if fld w 3 7 == 0 then some (.sfeed p { sid := r4 w 17, va := r5 w 12, ch := Fin.ofNat 4 (w / 2 ^ 10) })
            else none
  | 0x25 => if fld w 3 14 == 0 then some (.srel p (r4 w 17)) else none
  | 0x28 => (decMS w).map (.mload p)
  | 0x29 => if fld w 3 6 == 0 then some (.mcall p (Fin.ofNat 4096 (w / 2 ^ 9))) else none
  | 0x2A => if fld w 3 18 == 0 then some (.mwait p) else none
  | 0x2B => if fld w 3 2 == 0 then
              some (.mrdaVector p { vd := r5 w 16, tl := r4 w 12, row := r6 w 6, qd := bitOf w 5 })
            else none
  | 0x2C => if fld w 3 2 == 0 then some (.mrdaScratchpad p { tl := r4 w 17, sa := r6 w 11, sb := r6 w 5 }) else none
  | 0x2D => (decMN16 w).map (.mzro p)
  | 0x2E => some (.engw p (r6 w 15) (fld w 3 12))
  | 0x30 => (decMN16 w).map (.bar p) | 0x31 => (decMN16 w).map (.bara p) | 0x32 => (decMN16 w).map (.barw p)
  | 0x33 => (decMS w).map (.waitev p)
  | 0x34 => if fld w 3 7 == 0 then some (.lnch p (r5 w 16) (r6 w 10)) else none
  | 0x38 => (decMS w).map (.csave p) | 0x39 => (decMS w).map (.cload p) | 0x3A => (decMS w).map (.freeze p)
  | 0x3B => if fld w 3 12 == 0 then some (.vdrain p (r6 w 15)) else none
  | 0x3C => if fld w 3 12 == 0 then some (.hinvv p (r6 w 15)) else none
  | 0x3D => (decMS w).map (.scrub p)
  | 0x3E => (decMN w).map (.trig p)
  | op =>
    if op / 8 == 1 && op % 8 < 6 then (decMP w).map (.put p (Fin.ofNat 6 (op % 8)))
    else if op / 8 == 2 && op % 8 < 6 then (decMP w).map (.putm p (Fin.ofNat 6 (op % 8)))
    else if op / 8 == 3 && op % 8 < 6 then (decMP w).map (.putmO p (Fin.ofNat 6 (op % 8)))
    else none

/-- The B unit map (R93) but for BRT. -/
def decodeB (l : Lend) (p : Syl) (op w : Nat) : Option Instr :=
  let bn (i : Instr) : Option Instr := if l.e == 0 && fld w 3 18 == 0 then some i else none
  match op with
  | 0x00 => bn (.nop p)
  | 0x02 => (immField l w 3 13).map fun off => .brc p { pc := r4 w 17, v := bitOf w 16, off := off }
  | 0x03 => if l.e == 0 then some (.jmp p (sx 18 (fld w 3 18))) else none
  | 0x04 => if l.e == 0 && fld w 3 12 == 0 then some (.jmpi p (r6 w 15)) else none
  | 0x05 => (immField l w 3 12).map fun off => .call p (r6 w 15) off
  | 0x06 => if l.e == 0 && fld w 3 12 == 0 then some (.ret p (r6 w 15)) else none
  | 0x07 => if l.e == 0 then some (.loop p (sx 18 (fld w 3 18))) else none
  | 0x08 => if l.e == 0 && fld w 6 9 == 0 then some (.lset p (r6 w 15) (r3 w 3)) else none
  | 0x09 => bn (.exit p) | 0x0A => bn (.yield p)
  | 0x0B => if l.e == 0 && fld w 3 10 == 0 then some (.trap p (Fin.ofNat 256 (w / 2 ^ 13))) else none
  | 0x0C => bn (.eret p) | 0x0D => bn (.halt p)
  | _ => none

/-- BRT (R80, R87): its targets and shape come from the TREE header. -/
def decodeBRT (l : Lend) (p : Syl) (w : Nat) : Except DecErr Instr :=
  match l with
  | .tree shape l0 l1 l2 l3 =>
    if fld w 3 2 == 0 then
      .ok (.brt p { t0 := r4 w 17, t1 := r4 w 13, t2 := r4 w 9, t3 := r4 w 5, shape := shape, l0 := l0, l1 := l1,
                    l2 := l2, l3 := l3 })
    else .error .notInstruction
  | .none => .error .tree
  | .leaf _ => .error .tree
  | .wide _ => .error .tree

/-- A candidate that meets the operand limits, or the refusal. -/
def accept : Option Instr → Except DecErr Instr
  | some i => if wellFormed i then .ok i else .error .notInstruction
  | none => .error .notInstruction

/-- Decode one syllable w under what its bundle lends it. -/
def decodeSyl (l : Lend) (w : Nat) : Except DecErr Instr :=
  if 6 ≤ l.lt then .error .notInstruction else
  let p := sylOf l w
  let op := fld w 21 7
  match fld w 28 3 with
  | 0 => accept (decodeX l p op w)
  | 1 => accept (decodeV l p (op / 8) (op % 8) w)
  | 2 => accept (decodeA l p op w)
  | 3 => accept (decodeM l p op w)
  | 4 =>
    if op == 1 then
      match decodeBRT l p w with
      | .ok i => accept (some i)
      | .error e => .error e
    else accept (decodeB l p op w)
  | 5 => .error .header
  | _ => .error .badUnit

/-- Decode one word of the microprogram store (R94, R291); none where a field is not defined. -/
def decodeMicro (w : Nat) : Option Instr :=
  let j := bitOf w 27
  let i := match fld w 28 4 with
    | 0 => if fld w 0 28 == 0 then some .uend else none
    | 1 => if fld w 0 16 == 0 then some (.step j { fa := r5 w 22, fb := r5 w 17, sat := bitOf w 16 }) else none
    | 2 => if fld w 0 27 == 0 then some (.scl j) else none
    | 3 => if fld w 0 26 == 0 then some (.band j (bitOf w 26)) else none
    | 4 =>
      if bitOf w 26 then if fld w 0 23 == 0 then some (.accselG j (r3 w 23)) else none
      else if fld w 0 19 == 0 && fld w 23 3 == 0 then some (.accsel j (r4 w 19)) else none
    | 5 =>
      if j then none
      else if bitOf w 26 then
        if fld w 11 12 == 0 then some (.uloopG (r3 w 23) (Fin.ofNat 2048 w)) else none
      else if fld w 23 3 == 0 then some (.uloop (Fin.ofNat 4096 (w / 2 ^ 11)) (Fin.ofNat 2048 w)) else none
    | 6 => if fld w 0 17 == 0 then some (.skip j (Fin.ofNat 4 (w / 2 ^ 25)) (Fin.ofNat 256 (w / 2 ^ 17))) else none
    | 7 => if fld w 0 24 == 0 then some (.sig j (r3 w 24)) else none
    | 8 => if fld w 0 17 == 0 then some (.waits j (Fin.ofNat 4 (w / 2 ^ 25)) (Fin.ofNat 256 (w / 2 ^ 17))) else none
    | _ => none
  match i with
  | some i => if wellFormed i then some i else none
  | none => none

/-- The instruction the decoder reads from the table's word: a syllable alone in its bundle, a BRT under a TREE header
of shape 0 with targets 0 (R80 gives it no meaning elsewhere), or else a micro-op word. -/
def decodeTableWord (_nbits w : Nat) : Option Instr :=
  match decodeSyl .none w with
  | .ok i => some i
  | .error .tree => (decodeSyl (.tree 0 0 0 0 0) w).toOption
  | .error _ => decodeMicro w

/-! The encoder. -/

/-- x modulo 2^n as a field. -/
def encI (n : Nat) (x : Int) : Nat := (x % ((2 : Int) ^ n)).toNat

def b2n (b : Bool) : Nat := if b then 1 else 0

/-- What the bundle must lend a syllable that needs the extension value e, or a WIDE byte (R79). -/
def lendOf (p : Syl) (wide : Bool) (e : Nat) : Lend :=
  if wide then .wide e
  else if p.plain && e == 0 then .none
  else .leaf (128 * (p.guard.val / 8) + 16 * p.leaf.val + e)

/-- The syllable word (R76). -/
def sylWord (p : Syl) (unit op x : Nat) : Nat :=
  b2n p.stop * 2 ^ 31 + unit * 2 ^ 28 + op * 2 ^ 21 + x + p.guard.val % 8

/-- A syllable with no immediate and the extension value e. -/
def encE (p : Syl) (unit op x e : Nat) : Lend × Nat := (lendOf p false e, sylWord p unit op x)

/-- A syllable with the operands x and an n-bit immediate at bit 3, widened where it does not fit. -/
def encImm (p : Syl) (unit op x n : Nat) (imm : Int) : Lend × Nat :=
  (lendOf p (!fits n imm) (if fits n imm then 0 else encI (n + 8) imm / 2 ^ n),
   sylWord p unit op (x + encI (n + 8) imm % 2 ^ n * 8))

def XR.enc (o : XR) (p : Syl) (op : Nat) : Lend × Nat :=
  encE p 0 op (o.sd.val * 2 ^ 15 + o.sa.val * 2 ^ 9 + o.sb.val * 8) (b2n o.qs + 2 * b2n o.qd + 4 * b2n o.qb)
def XU.enc (o : XU) (p : Syl) (op : Nat) : Lend × Nat :=
  encE p 0 op (o.sd.val * 2 ^ 15 + o.sa.val * 2 ^ 9) (b2n o.qs + 2 * b2n o.qd)
def XH.enc (o : XH) (p : Syl) (op : Nat) : Lend × Nat :=
  encE p 0 op (o.sd.val * 2 ^ 15 + o.sa.val * 2 ^ 9 + o.n.val * 8) 0
def XS.enc (o : XS) (p : Syl) (op : Nat) : Lend × Nat := encE p 0 op (o.s.val * 2 ^ 15 + o.srn * 8) 0
def XL.enc (o : XL) (p : Syl) (op : Nat) : Lend × Nat :=
  encE p 0 op (o.d.val * 2 ^ 17 + o.a.val * 2 ^ 13 + o.b.val * 2 ^ 9 + o.fn.val * 2 ^ 5) 0
def XQ.enc (o : XQ) (p : Syl) (op : Nat) : Lend × Nat := encE p 0 op (o.sd.val * 2 ^ 15 + o.ka.val * 2 ^ 11) 0

def VTy.idx : VTy → Nat
  | .f32 => 0 | .f16 => 1 | .bf16 => 2 | .i32 => 3 | .ui32 => 4 | .i16 => 5 | .ui16 => 6

def VR.enc (o : VR) (p : Syl) (op : Nat) : Lend × Nat :=
  encE p 1 op (o.vd.val * 2 ^ 16 + o.va.val * 2 ^ 11 + o.vb.val * 2 ^ 6 + b2n o.qd * 32 + b2n o.qs * 16 + b2n o.md * 8)
    o.km.val

/-- VABS exists for five types, VSCALE for three (R90). -/
def vabsOp : VTy → Nat
  | .f32 => 0x48 | .f16 => 0x49 | .bf16 => 0x4A | .i32 => 0x4B | .i16 => 0x4C | .ui32 => 0 | .ui16 => 0
def vscaleOp : VTy → Nat
  | .f32 => 0x4D | .f16 => 0x4E | .bf16 => 0x4F | .i32 => 0 | .i16 => 0 | .ui32 => 0 | .ui16 => 0

def AM.fields (o : AM) (x : Nat) : Nat := b2n o.m * 2 ^ 20 + o.base.val * 2 ^ 16 + x + o.fe.val * 2 ^ 8
def AM.encAt (o : AM) (p : Syl) (op x : Nat) : Lend × Nat :=
  if o.kr == 0 then encImm p 2 op (o.fields x) 5 o.imm
  else encE p 2 op (o.fields x + encI 13 o.imm % 32 * 8) o.kr.val
def AM.enc (o : AM) (p : Syl) (op : Nat) : Lend × Nat := o.encAt p op (o.sx.val * 2 ^ 10)
def AM.encG (o : AM) (p : Syl) (op : Nat) : Lend × Nat := o.encAt p op (o.sx.val * 2 ^ 11)
def AT.enc (o : AT) (p : Syl) (op : Nat) : Lend × Nat :=
  encImm p 2 op (b2n o.m * 2 ^ 20 + o.base.val * 2 ^ 16 + o.sx.val * 2 ^ 10 + b2n o.t * 2 ^ 8) 5 o.imm
def AY.enc (o : AY) (p : Syl) (op : Nat) : Lend × Nat :=
  encImm p 2 op (b2n o.m * 2 ^ 20 + o.base.val * 2 ^ 16 + o.sx.val * 2 ^ 10 + o.sc.val * 2 ^ 7) 4 o.imm
def AP.enc (o : AP) (p : Syl) (op : Nat) : Lend × Nat :=
  encE p 2 op (2 ^ 20 + o.h.val * 2 ^ 16 + o.sx.val * 2 ^ 10 + o.sl.val * 2 ^ 4) 0
def AF.enc (o : AF) (p : Syl) (op : Nat) : Lend × Nat := encE p 2 op (o.k.val * 2 ^ 19 + o.sc.val * 2 ^ 16) 0
def AH.enc (o : AH) (p : Syl) (op : Nat) : Lend × Nat :=
  encE p 2 op (o.h.val * 2 ^ 17 + o.sa.val * 2 ^ 11 + o.kr.val * 2 ^ 7) 0
def AA.enc (o : AA) (p : Syl) (op : Nat) : Lend × Nat := encImm p 2 op (o.bd.val * 2 ^ 18 + o.sa.val * 2 ^ 12) 9 o.imm
def MS.enc (o : MS) (p : Syl) (op : Nat) : Lend × Nat :=
  encE p 3 op (o.sa.val * 2 ^ 15 + o.sb.val * 2 ^ 9 + o.sc.val * 2 ^ 6) 0
def MP.enc (o : MP) (p : Syl) (op : Nat) : Lend × Nat :=
  encE p 3 op (o.va.val * 2 ^ 16 + o.sa.val * 2 ^ 10 + o.sb.val * 2 ^ 4) 0

/-- A micro-op word (R291). -/
def micro (op : Nat) (j : Bool) (x : Nat) : Lend × Nat := (.none, op * 2 ^ 28 + b2n j * 2 ^ 27 + x)

/-- The header's loan and the word of an instruction that has an encoding; none for a machine event. -/
def encode : Instr → Option (Lend × Nat)
  | .add p o => some (o.enc p 0x00) | .sub p o => some (o.enc p 0x01) | .mul p o => some (o.enc p 0x02)
  | .mulh p o => some (o.enc p 0x03) | .mulhU p o => some (o.enc p 0x04) | .div p o => some (o.enc p 0x05)
  | .divU p o => some (o.enc p 0x06) | .rem p o => some (o.enc p 0x07) | .remU p o => some (o.enc p 0x08)
  | .abs p o => some (o.enc p 0x09) | .and p o => some (o.enc p 0x0A) | .or p o => some (o.enc p 0x0B)
  | .xor p o => some (o.enc p 0x0C) | .andn p o => some (o.enc p 0x0D) | .shl p o => some (o.enc p 0x0E)
  | .shr p o => some (o.enc p 0x0F) | .sra p o => some (o.enc p 0x10) | .rotl p o => some (o.enc p 0x11)
  | .clz p o => some (o.enc p 0x12) | .popc p o => some (o.enc p 0x13) | .extb p o => some (o.enc p 0x14)
  | .extbS p o => some (o.enc p 0x15) | .depb p o => some (o.enc p 0x16) | .min p o => some (o.enc p 0x17)
  | .max p o => some (o.enc p 0x18) | .minU p o => some (o.enc p 0x19) | .maxU p o => some (o.enc p 0x1A)
  | .mov p o => some (encE p 0 0x1B (o.d.val * 2 ^ 15 + o.s.val * 2 ^ 9 + o.dc.val * 2 ^ 6 + o.sc.val * 8)
      (b2n o.qs + 2 * b2n o.qd))
  | .lea p n o => some (o.enc p (0x1C + n.val))
  | .addi p o => some (encImm p 0 0x20 (o.sd.val * 2 ^ 15 + o.sa.val * 2 ^ 9) 6 o.imm)
  | .shlImm p o => some (o.enc p 0x21) | .shrImm p o => some (o.enc p 0x22)
  | .sraImm p o => some (o.enc p 0x23) | .rotlImm p o => some (o.enc p 0x24)
  | .movi p o => some (encImm p 0 0x25 (o.sd.val * 2 ^ 15) 12 o.imm)
  | .mfsr p o => some (o.enc p 0x26) | .mtsr p o => some (o.enc p 0x27)
  | .cmp p o => some (encE p 0 (0x28 + o.cond.val)
      (o.pd.val * 2 ^ 17 + o.sa.val * 2 ^ 11 + o.sb.val * 2 ^ 5 + o.pm.val * 8) 0)
  | .cmpi p o => some (encImm p 0 (0x30 + o.cond.val) (o.pd.val * 2 ^ 17 + o.sa.val * 2 ^ 11) 8 o.imm)
  | .plog p o => some (o.enc p 0x38)
  | .pset p o => some (encE p 0 0x39 (o.d.val * 2 ^ 17 + b2n o.v * 2 ^ 16) 0)
  | .klog p o => some (o.enc p 0x3A) | .kpopc p o => some (o.enc p 0x3B) | .kfirst p o => some (o.enc p 0x3C)
  | .sel p n o => some (o.enc p (0x40 + n.val))
  | .vadd p t o => some (o.enc p (0x00 + t.idx)) | .vsub p t o => some (o.enc p (0x08 + t.idx))
  | .vmul p t o => some (o.enc p (0x10 + t.idx)) | .vmin p t o => some (o.enc p (0x18 + t.idx))
  | .vmax p t o => some (o.enc p (0x20 + t.idx)) | .vfma p t o => some (o.enc p (0x28 + t.idx))
  | .vfmaNa p t o => some (o.enc p (0x30 + t.idx))
  | .vcmp p t o => some (encE p 1 (0x38 + t.idx)
      (o.cond.val / 4 * 2 ^ 20 + o.kd.val * 2 ^ 16 + o.va.val * 2 ^ 11 + o.vb.val * 2 ^ 6 + o.cond.val / 2 % 2 * 32 +
        b2n o.qs * 16 + o.cond.val % 2 * 8) o.km.val)
  | .vand p o => some (o.enc p 0x40) | .vor p o => some (o.enc p 0x41) | .vxor p o => some (o.enc p 0x42)
  | .vsel p o => some (o.enc p 0x43) | .vshl p o => some (o.enc p 0x44) | .vshr p o => some (o.enc p 0x45)
  | .vsra p o => some (o.enc p 0x46) | .vmov p o => some (o.enc p 0x47)
  | .vabs p t o => some (o.enc p (vabsOp t)) | .vscale p t o => some (o.enc p (vscaleOp t))
  | .vcvt p o => some (encE p 1 (0x50 + o.tf.val / 4)
      (o.vd.val * 2 ^ 16 + o.va.val * 2 ^ 11 + o.ff.val * 2 ^ 6 + o.tf.val / 2 % 2 * 32 + b2n o.qs * 16 +
        o.tf.val % 2 * 8) o.km.val)
  | .vrcp p o => some (o.enc p 0x58) | .vrsq p o => some (o.enc p 0x59) | .vexp2 p o => some (o.enc p 0x5A)
  | .vlog2 p o => some (o.enc p 0x5B) | .vperm p o => some (o.enc p 0x60) | .vbcast p o => some (o.enc p 0x61)
  | .vrot p o => some (o.enc p 0x62) | .vext p o => some (o.enc p 0x63) | .vins p o => some (o.enc p 0x64)
  | .viota p o => some (o.enc p 0x65) | .vpack p o => some (o.enc p 0x66) | .vunpk p o => some (o.enc p 0x67)
  | .vred p t o => some (o.enc p (0x68 + t.idx)) | .vscan p t o => some (o.enc p (0x70 + t.idx))
  | .vdot p src o => some (o.enc p (0x78 + src.val))
  | .lda p n o => some (o.enc p n.val) | .sta p n o => some (o.enc p (0x08 + n.val))
  | .ldv p w o => some (o.enc p (0x10 + w.val)) | .ldvs p w o => some (o.enc p (0x14 + w.val))
  | .ldg p w o => some (o.encG p (0x18 + w.val)) | .stv p w o => some (o.enc p (0x1C + w.val))
  | .stvs p w o => some (o.enc p (0x20 + w.val)) | .stg p w o => some (o.encG p (0x24 + w.val))
  | .bind p o => some (encE p 2 0x0C
      (b2n o.m * 2 ^ 20 + o.base.val * 2 ^ 16 + o.sl.val * 2 ^ 10 + o.so.val * 2 ^ 4 + b2n o.u * 8) 0)
  | .fence p o => some (o.enc p 0x0D) | .pfence p o => some (o.enc p 0x0E)
  | .aadd p o => some (o.enc p 0x28) | .bset p o => some (o.enc p 0x29)
  | .trans p o => some (o.enc p 0x2A) | .hrel p o => some (o.enc p 0x2B)
  | .hchk p o => some (o.enc p 0x2C) | .preq p o => some (o.enc p 0x2D)
  | .feset p o => some (o.enc p 0x2E) | .fewait p o => some (o.enc p 0x2F)
  | .amo32 p op o => some (o.enc p (0x30 + op.val)) | .amo64 p op o => some (o.enc p (0x40 + op.val))
  | .amos32 p op o => some (o.enc p (0x50 + op.val)) | .amos64 p op o => some (o.enc p (0x60 + op.val))
  | .cas p n o => some (o.enc p (0x70 + n.val))
  | .acqX p o => some (o.enc p 0x73) | .acqSh p o => some (o.enc p 0x74) | .acqEv p o => some (o.enc p 0x75)
  | .relUn p o => some (o.enc p 0x76) | .relPost p o => some (o.enc p 0x77)
  | .pcmdAddI32 p o => some (o.enc p 0x78) | .pcmdAddF32 p o => some (o.enc p 0x79)
  | .pcmdAxpyF32 p o => some (o.enc p 0x7A) | .pcmdMaxF32 p o => some (o.enc p 0x7B)
  | .pcmdCvtBf16 p o => some (o.enc p 0x7C) | .pcmdFill p o => some (o.enc p 0x7D)
  | .pcmdCopy p o => some (o.enc p 0x7E) | .pcmdAcc p o => some (o.enc p 0x7F)
  | .cpy p va ch => some (encE p 3 0x00 (va.val * 2 ^ 16 + ch.val * 2 ^ 14) 0)
  | .cpyq p va sa => some (encE p 3 0x01 (va.val * 2 ^ 16 + sa.val * 2 ^ 10) 0)
  | .lnch p va sa => some (encE p 3 0x34 (va.val * 2 ^ 16 + sa.val * 2 ^ 10) 0)
  | .drain p chs => some (encE p 3 0x02 (chs.val * 2 ^ 18) 0)
  | .cwait p o => some (o.enc p 0x03) | .cadd p o => some (o.enc p 0x04) | .cset p o => some (o.enc p 0x05)
  | .put p n o => some (o.enc p (0x08 + n.val)) | .putm p n o => some (o.enc p (0x10 + n.val))
  | .putmO p n o => some (o.enc p (0x18 + n.val))
  | .shdw p o => some (o.enc p 0x20) | .publ p o => some (o.enc p 0x21)
  | .sdef p sid => some (encE p 3 0x22 (sid.val * 2 ^ 17) 0) | .srel p sid => some (encE p 3 0x25 (sid.val * 2 ^ 17) 0)
  | .ssub p o => some (encE p 3 0x23 (o.sid.val * 2 ^ 17 + o.pt.val * 2 ^ 15 + o.sa.val * 2 ^ 9) 0)
  | .sfeed p o => some (encE p 3 0x24 (o.sid.val * 2 ^ 17 + o.va.val * 2 ^ 12 + o.ch.val * 2 ^ 10) 0)
  | .mload p o => some (o.enc p 0x28)
  | .mcall p en => some (encE p 3 0x29 (en.val * 2 ^ 9) 0)
  | .mwait p => some (encE p 3 0x2A 0 0)
  | .mrdaVector p o => some (encE p 3 0x2B
      (o.vd.val * 2 ^ 16 + o.tl.val * 2 ^ 12 + o.row.val * 2 ^ 6 + b2n o.qd * 32) 0)
  | .mrdaScratchpad p o => some (encE p 3 0x2C (o.tl.val * 2 ^ 17 + o.sa.val * 2 ^ 11 + o.sb.val * 2 ^ 5) 0)
  | .mzro p t => some (encE p 3 0x2D (t.val * 2 ^ 13) 0)
  | .engw p sa ix => some (encE p 3 0x2E (sa.val * 2 ^ 15 + ix * 8) 0)
  | .bar p n => some (encE p 3 0x30 (n.val * 2 ^ 13) 0) | .bara p n => some (encE p 3 0x31 (n.val * 2 ^ 13) 0)
  | .barw p n => some (encE p 3 0x32 (n.val * 2 ^ 13) 0)
  | .waitev p o => some (o.enc p 0x33)
  | .csave p o => some (o.enc p 0x38) | .cload p o => some (o.enc p 0x39)
  | .freeze p o => some (o.enc p 0x3A) | .thaw p o => some (o.enc p 0x3A) | .discard p o => some (o.enc p 0x3A)
  | .vdrain p sa => some (encE p 3 0x3B (sa.val * 2 ^ 15) 0) | .hinvv p sa => some (encE p 3 0x3C (sa.val * 2 ^ 15) 0)
  | .scrub p o => some (o.enc p 0x3D)
  | .trig p n => some (encE p 3 0x3E (n.val * 2 ^ 13) 0)
  | .nop p => some (encE p 4 0x00 0 0)
  | .brt p o => some (.tree o.shape o.l0 o.l1 o.l2 o.l3, sylWord p 4 0x01
      (o.t0.val * 2 ^ 17 + o.t1.val * 2 ^ 13 + o.t2.val * 2 ^ 9 + o.t3.val * 2 ^ 5))
  | .brc p o => some (encImm p 4 0x02 (o.pc.val * 2 ^ 17 + b2n o.v * 2 ^ 16) 13 o.off)
  | .jmp p off => some (encE p 4 0x03 (encI 18 off * 8) 0)
  | .jmpi p sa => some (encE p 4 0x04 (sa.val * 2 ^ 15) 0) | .ret p sa => some (encE p 4 0x06 (sa.val * 2 ^ 15) 0)
  | .call p sd off => some (encImm p 4 0x05 (sd.val * 2 ^ 15) 12 off)
  | .loop p off => some (encE p 4 0x07 (encI 18 off * 8) 0)
  | .lset p sa sm => some (encE p 4 0x08 (sa.val * 2 ^ 15 + sm.val * 8) 0)
  | .exit p => some (encE p 4 0x09 0 0) | .yield p => some (encE p 4 0x0A 0 0)
  | .trap p code => some (encE p 4 0x0B (code.val * 2 ^ 13) 0)
  | .eret p => some (encE p 4 0x0C 0 0) | .halt p => some (encE p 4 0x0D 0 0)
  | .uend => some (micro 0 false 0)
  | .step j o => some (micro 1 j (o.fa.val * 2 ^ 22 + o.fb.val * 2 ^ 17 + b2n o.sat * 2 ^ 16))
  | .scl j => some (micro 2 j 0)
  | .band j side => some (micro 3 j (b2n side * 2 ^ 26))
  | .accsel j tile => some (micro 4 j (tile.val * 2 ^ 19))
  | .accselG j i => some (micro 4 j (2 ^ 26 + i.val * 2 ^ 23))
  | .uloop count len => some (micro 5 false (count.val * 2 ^ 11 + len.val))
  | .uloopG i len => some (micro 5 false (2 ^ 26 + i.val * 2 ^ 23 + len.val))
  | .skip j pt n => some (micro 6 j (pt.val * 2 ^ 25 + n.val * 2 ^ 17))
  | .sig j i => some (micro 7 j (i.val * 2 ^ 24))
  | .waits j pt n => some (micro 8 j (pt.val * 2 ^ 25 + n.val * 2 ^ 17))
  | _ => none

end Sys2Proof
end

