-- ==== Sys2Proof/Machine/Report.lean ====
section
/-!
DEFINITION. Fault records: writing, parking, batching and resuming them (R349 to R352, R457), the asynchronous traps they
pend (R346), and dropped held requests (R202, R361).
-/
namespace Sys2Proof.Machine

/-- The registers and the ring of a record: a VF's (R351) or a steward core's (R342). -/
def frOn (s : State) (r : FRec) : Bool :=
  match r.steward with
  | some n => rbit s (sqcfg n + 8) 0
  | none => rbit s (frcfg r.vf) 0
def frLog (s : State) (r : FRec) : Nat :=
  match r.steward with
  | some _ => 6
  | none => rfld s (frcfg r.vf) 1 5
def frBase (s : State) (r : FRec) : Nat :=
  match r.steward with
  | some n => rfld s (sqcfg n + 8) 13 37 * 2 ^ 13
  | none => rfld s (frcfg r.vf) 6 44 * 64
/-- The word that holds WIDX in [31:0] and RIDX in [63:32]. -/
def frIdx (r : FRec) : Nat :=
  match r.steward with
  | some n => sqcfg n + 16
  | none => frcfg r.vf + 8

/-- Unconsumed records of a ring's index word, modulo 2^32. -/
def unread (s : State) (a : Nat) : Nat := (rfld s a 0 32 + 2 ^ 32 - rfld s a 32 32) % 2 ^ 32

/-- The ring has a free place. -/
def frFree (s : State) (r : FRec) : Bool := frOn s r && decide (unread s (frIdx r) < 2 ^ frLog s r)

/-- Where the next record and its companion stand. -/
def frPlace (s : State) (r : FRec) : Nat × Nat :=
  let i := rfld s (frIdx r) 0 32
  let n := 2 ^ frLog s r
  (frBase s r + 64 * (i % n), match r.steward with
    | some _ => frBase s r + 4096 + 64 * (i % 64)
    | none => frBase s r + 64 * n + 64 * (i % n))

/-- The record can be written now. -/
def frRoom (s : State) (r : FRec) : Bool :=
  frFree s r && hwReady s (frPlace s r).1 64 && hwReady s (frPlace s r).2 64

/-- The key of a ring in the tables of `Faults`. -/
def frKey (r : FRec) : Nat :=
  match r.steward with
  | some n => 128 + n
  | none => r.vf

/-- A context's engine fault traps become pending (R346). -/
def pendFault (s : State) (g ix : Nat) : State :=
  modCtx s g fun c =>
    if c.undel = 0 then { c with undel := 1, apinfo := BitVec.ofNat 64 (ix % 2 ^ 32) }
    else
      let n := c.undel + 1
      { c with undel := n, apinfo := setField c.apinfo 32 16 (min (n - 1) 0xFFFF) }

/-- Write a record and its companion, then WIDX; then pend the trap, or post event 0x06 for a queue's record. A range record's
commands are parked under its index (R352). -/
def frWrite (s : State) (r : FRec) : State :=
  let i := rfld s (frIdx r) 0 32
  let s1 := hwPutWords s (frPlace s r).1 [r.w0, r.w1, r.w2, r.w3, r.w4, r.w5, 0, 0]
  let s2 := hwPut s1 (frPlace s r).2 (bytesOf r.comp 64)
  let s3 := rsetF s2 (frIdx r) 0 32 (i + 1)
  if r.w0.getLsbD 8 then
    { s3 with faults := { s3.faults with ranges := s3.faults.ranges ++ [{ vf := r.vf, ix := i, cmds := r.range }] } }
  else if r.w0.getLsbD 9 then postPlain s3 0x06 r.vf (BitVec.ofNat 64 i) 0
  else match r.g with
    | some g => pendFault s3 g i
    | none => s3

/-- Raise PARKED (R351); a range record counts no command of its own, and a steward ring has no such field (R342). -/
def parkCount (s : State) (r : FRec) (n : Int) : State :=
  match r.steward with
  | some _ => s
  | none => if r.w0.getLsbD 8 then s else rsetF s (frcfg r.vf + 16) 32 16 (((rfld s (frcfg r.vf + 16) 32 16 : Nat) + n).toNat)

/-- A record that finds no room waits, its command parked; event 0x08 is posted once (R351). -/
def frWait (s : State) (r : FRec) : State :=
  let s1 := parkCount { s with faults := { s.faults with wait := s.faults.wait ++ [r] } } r 1
  if tget false s.faults.full (frKey r) || frFree s r then s1
  else
    let v := if r.steward.isSome then 0 else r.vf
    postPlain { s1 with faults := { s1.faults with full := tset s1.faults.full (frKey r) true } } 0x08 v
      (BitVec.ofNat 64 v) 0

/-- Batching is on (R352): it starts at half and ends below a quarter of the ring. -/
def batching (s : State) (r : FRec) : Bool :=
  r.steward.isNone && rbit s (frcfg r.vf + 16) 0 &&
  (decide (2 ^ (frLog s r - 1) ≤ unread s (frIdx r)) ||
   (rbit s (frcfg r.vf + 16) 1 && decide (2 ^ (frLog s r - 2) ≤ unread s (frIdx r))))

/-- The record is written, or waits behind those of its ring that wait; the answer's second part says that it waits. -/
def frPost (s0 : State) (r : FRec) : State × Bool :=
  if (s0.faults.wait.all fun q => frKey q != frKey r) && frRoom s0 r then (frWrite s0 r, false) else (frWait s0 r, true)

/-- The cause of a record. -/
def FRec.cause (r : FRec) : Nat := r.w0.toNat % 256

/-- What becomes of a record (R349, R351, R352). The answer's second part says whether its command is parked. -/
def report (s : State) (r : FRec) : State × Bool :=
  if r.cmd.isSome && (r.cause == 3 || r.cause == 4) && batching s r then
    let page := r.w3.toNat / 2 ^ 16
    let l := tget [] s.faults.batch r.vf
    let cmds := match r.cmd with
      | some k => [k]
      | none => []
    let l' := if l.any (fun e => e.cause == r.cause && e.page == page) then
        l.map fun e => if e.cause == r.cause && e.page == page then { e with cmds := e.cmds ++ cmds } else e
      else l ++ [{ cause := r.cause, page := page, cmds := cmds }]
    let s1 := { s with faults := { s.faults with batch := tput [] s.faults.batch r.vf l' } }
    let s2 := rsetF (parkCount s1 r 1) (frcfg r.vf + 16) 1 1 1
    let s3 := if l.isEmpty then
        after { s2 with faults := { s2.faults with bstart := tset s2.faults.bstart r.vf s.clock } }
          (20 * Config.cyclesPerUs) (.faultBatchFlush r.vf)
      else if 64 ≤ l'.length then after s2 0 (.faultBatchFlush r.vf) else s2
    (s3, true)
  else
    frPost (if r.steward.isNone && !batching s r then rsetF s (frcfg r.vf + 16) 1 1 0 else s) r

/-- DW0 of a record. -/
def recW0 (cause : Nat) (range queue : Bool) (eng g ch vf : Nat) : Word64 :=
  BitVec.ofNat 64 (cause + (if range then 256 else 0) + (if queue then 512 else 0) + eng * 2 ^ 10 +
    gctxField g * 2 ^ 14 + ch * 2 ^ 26 + vf * 2 ^ 28)

/-- The steward core of a context, if it is one. -/
def stewOf (g : Nat) : Option Nat := if isSteward g then some ((g - 4096) / 4) else none

/-- The VF of a context (R18, R341, R365). -/
def vfOf (s : State) (g : Nat) : Nat := if isSteward g then 0 else (groupOf s g).vf

/-- A companion of three words. -/
def comp3 (a b c : Word64) : Flit := (c ++ b ++ a).zeroExtend 512

/-- The word of an A syllable, as records and save areas hold it. -/
def sylWordOf (i : Instr) : Word64 :=
  match Sys2Proof.encode i with
  | some (_, w) => BitVec.ofNat 64 w
  | none => 0

/-- R457: a context's request without an LDQ entry received an error completion. -/
def reqError (s : State) (g : Nat) (q : Req) (cause addr len : Nat) (sdq0 : Word64) : State :=
  (report s
    { vf := vfOf s g, steward := stewOf g, w0 := recW0 cause false false 8 g 0 (vfOf s g), w1 := BitVec.ofNat 64 q.ipc,
      w2 := 0, w3 := BitVec.ofNat 64 (addr % 2 ^ 57), w4 := 0, w5 := BitVec.ofNat 64 (len % 2 ^ 32),
      comp := comp3 (sylWordOf q.op) (BitVec.ofNat 64 addr) sdq0, g := some g, cmd := none, range := [] }).1

/-- The whole-ring events of R352: sort the buffer, merge contiguous pages, write the range records. -/
def insBatch (e : BatchEnt) : List BatchEnt → List BatchEnt
  | [] => [e]
  | x :: r => if e.page < x.page then e :: x :: r else x :: insBatch e r

/-- Runs of one cause over contiguous pages: cause, first page, pages, commands. -/
def batchRuns : List BatchEnt → List (Nat × Nat × Nat × List (Nat × Nat))
  | [] => []
  | e :: r =>
    match batchRuns r with
    | (c, p, n, k) :: t =>
      if c = e.cause ∧ p = e.page + 1 then (c, e.page, n + 1, e.cmds ++ k) :: t
      else (e.cause, e.page, 1, e.cmds) :: (c, p, n, k) :: t
    | [] => [(e.cause, e.page, 1, e.cmds)]

/-- Write the range records of VF v, each with the commands that it parks; event 0x07 with the first index. -/
def flushBatch (s : State) (v : Nat) : State :=
  match tget [] s.faults.batch v with
  | [] => s
  | l =>
    let sorted := l.foldl (fun acc e => insBatch e acc) []
    let byCause := ([3, 4].map fun c => batchRuns (sorted.filter fun e => e.cause == c)).flatten
    let runs := byCause.foldl (fun (acc : List (Nat × Nat × Nat × List (Nat × Nat))) x =>
      acc.filter (fun y => decide (y.2.1 ≤ x.2.1)) ++ [x] ++ acc.filter (fun y => decide (x.2.1 < y.2.1))) []
    let first := rfld s (frcfg v + 8) 0 32 + (s.faults.wait.filter fun r => frKey r == v).length
    let s0 := { s with faults := { s.faults with batch := tdel s.faults.batch v } }
    let s1 := runs.foldl (fun s x =>
      let r : FRec :=
        { vf := v, steward := none, w0 := recW0 x.1 true false 0 4096 0 v, w1 := 0,
          w2 := BitVec.ofNat 64 x.2.2.2.length, w3 := BitVec.ofNat 64 (x.2.1 * 2 ^ 16), w4 := 0,
          w5 := BitVec.ofNat 64 (x.2.2.1 * 2 ^ 16 % 2 ^ 32), comp := 0, g := none, cmd := none,
          range := x.2.2.2 }
      (frPost s r).1) s0
    postPlain s1 0x07 v (BitVec.ofNat 64 (first % 2 ^ 32)) 0

/-- A held request dropped at its resumption: an asynchronous trap with the check's cause (R202, R361). -/
def pendAsync (s : State) (g cause : Nat) (info : Word64) : State :=
  modCtx s g fun c => { c with apq := c.apq ++ [(cause, info)] }

end Sys2Proof.Machine
end

