-- ==== Sys2Proof/Machine/Translate.lean ====
section
/-!
DEFINITION. Virtual memory: table walks (R188 to R191), handles (R198), the checks of an access (R200, R236 to R238),
what reaches the register space (R182), twins (R274, R275), format descriptors (R194), bindings (R192, R217).
-/
namespace Sys2Proof.Machine

/-- A table or record read by hardware: fails on a spoiled word or a stopped pseudo-channel (R183, R206). -/
def hwRead (s : State) (a n : Nat) : Option Nat :=
  let l := (List.range n).map (a + ·)
  if l.all fun b => (tierOf b == some 0 || tierOf b == some 1) && !inSpoiled s b && !stopped s b then
    some (natOfBytes (l.map (mread s)))
  else none

/-- The range [a, a + n) lies wholly in tier 0, or wholly in tier 1. -/
def inDram (a n : Nat) : Bool :=
  (tierOf a == some 0 && tierOf (a + n - 1) == some 0) || (tierOf a == some 1 && tierOf (a + n - 1) == some 1)

def tierSize (t : Nat) : Nat :=
  match t with
  | 0 => 2 ^ 39 | 1 => 0x018000000000 | 2 => 2 ^ 29 | 3 => 0x0C8000000000 | _ => 2 ^ 44

/-- Page size by PSZ code. -/
def pageBytes (psz : Nat) : Nat :=
  match psz with
  | 0 => 2 ^ 16 | 1 => 2 ^ 21 | _ => 2 ^ 30

/-- Index and entries of level l (R189). -/
def walkIndex (l va : Nat) : Nat :=
  match l with
  | 0 => va / 2 ^ 43 % 2 ^ 14 | 1 => va / 2 ^ 30 % 2 ^ 13 | 2 => va / 2 ^ 21 % 2 ^ 9 | _ => va / 2 ^ 16 % 2 ^ 5
def walkBytes (l : Nat) : Nat :=
  match l with
  | 0 => 2 ^ 18 | 1 => 2 ^ 17 | 2 => 2 ^ 13 | _ => 2 ^ 9

/-- Bits [lo + n - 1 : lo] of a number. -/
def nf (x lo n : Nat) : Nat := x / 2 ^ lo % 2 ^ n

/-- The conditions of R191 on a leaf entry e of 128 bits with page size code psz. -/
def leafOk (s : State) (vf e psz : Nat) : Bool :=
  let tier := nf e 3 3
  let pages := if nf e 15 1 = 1 then 2 else 1
  let off := nf e 16 28 * 2 ^ 16
  let red := nf e 76 3
  decide (tier < 5) && decide (nf e 12 3 < 4) && decide (red < 4) && nf e 58 6 == 0 && nf e 103 25 == 0 &&
  off % (pages * pageBytes psz) == 0 && decide (off + pages * pageBytes psz ≤ tierSize tier) &&
  (tier != 2 || psz == 0) &&
  (red == 0 || (if nf e 79 1 = 0 then tier == 2 else tier == 0)) &&
  (nf e 64 12 == 0 || decide (nf e 64 12 < rfld s (vmcfg vf + 24) 0 13)) &&
  (nf e 80 16 == 0 || decide (nf e 80 16 < rfld s (vmcfg vf + 24) 32 16))

/-- The walk from level l with n levels left: the leaf entry and its page size code (R189, R191). -/
def walkFrom (s : State) (vf va : Nat) : Nat → Nat → Nat → Option (Nat × Nat)
  | 0, _, _ => none
  | n + 1, l, table =>
    if table % walkBytes l == 0 && inDram table (walkBytes l) then
      match hwRead s (table + 16 * walkIndex l va) 16 with
      | none => none
      | some e =>
        if nf e 0 1 = 0 then none
        else if nf e 1 1 = 1 then
          if l == 0 then none
          else let psz := 3 - l; if leafOk s vf e psz then some (e, psz) else none
        else if nf e 2 7 == 0 && nf e 50 14 == 0 && nf e 64 64 == 0 then walkFrom s vf va n (l + 1) (nf e 9 41 * 2 ^ 9)
        else none
    else none

/-- The leaf entry of a virtual address under VF vf's tables. -/
def walkEntry (s : State) (vf va : Nat) : Option (Nat × Nat) :=
  walkFrom s vf va 4 0 (rfld s (vmcfg vf) 18 32 * 2 ^ 18)

/-- The addresses that the walk reads, in order. -/
def walkReads (s : State) (va : Nat) : Nat → Nat → Nat → List Nat
  | 0, _, _ => []
  | n + 1, l, table =>
    if table % walkBytes l == 0 && inDram table (walkBytes l) then
      let a := table + 16 * walkIndex l va
      match hwRead s a 16 with
      | none => [a]
      | some e => if nf e 0 1 = 0 || nf e 1 1 = 1 then [a] else a :: walkReads s va n (l + 1) (nf e 9 41 * 2 ^ 9)
    else []

/-- A handle's fields (R198). -/
def hf (h : HWord) (lo n : Nat) : Nat := nf h.toNat lo n
def hBit (h : HWord) (k : Nat) : Bool := h.getLsbD k
def hTier (h : HWord) : Nat := hf h 4 3
def hPage (h : HWord) : Nat := pageBytes (hf h 11 2)
def hTwin (h : HWord) : Bool := hBit h 18
def hRed (h : HWord) : Nat := hf h 19 3
def hFdi (h : HWord) : Nat := hf h 23 12
def hVa (h : HWord) : Nat := hf h 64 41 * 2 ^ 16
def hHome (h : HWord) : Nat := hf h 105 14
def hVf (h : HWord) : Nat := hf h 119 7
def hMig (h : HWord) : Nat := hf h 15 3

/-- The module that a handle's requests go to: a page at its source or in transit lies on this one (R422). -/
def homeMod (s : State) (h : HWord) : Nat := if hMig h == 1 || hMig h == 2 then moduleNo s else hHome h

/-- A handle without a mapping. -/
def noMap (va vf : Nat) : HWord := BitVec.ofNat 128 (1 + 4 + nf va 16 41 * 2 ^ 64 + vf * 2 ^ 119)

/-- The handle of a leaf entry. -/
def handleOf (va e psz : Nat) : HWord :=
  BitVec.ofNat 128 (1 + nf e 2 1 * 2 ^ 3 + nf e 3 3 * 2 ^ 4 + nf e 6 4 * 2 ^ 7 + psz * 2 ^ 11 + nf e 10 2 * 2 ^ 13 +
    nf e 12 3 * 2 ^ 15 + nf e 15 1 * 2 ^ 18 + nf e 76 3 * 2 ^ 19 + nf e 79 1 * 2 ^ 22 + nf e 64 12 * 2 ^ 23 +
    nf e 16 28 * 2 ^ 35 + nf va 16 41 * 2 ^ 64 + nf e 44 14 * 2 ^ 105 + nf e 96 7 * 2 ^ 119)

/-- The handle that R188 gives where EN = 0. A steward core's alias is a tier 2 address to it (R341). -/
def plainHandle (s : State) (steward : Bool) (va vf : Nat) : HWord :=
  let tier := if steward && decide (stewAlias ≤ va) && decide (va < stewAlias + 2 ^ 21) then some 2 else tierOf va
  match tier with
  | some t =>
    if va < 2 ^ 50 then
      BitVec.ofNat 128 (1 + 8 + t * 2 ^ 4 + 7 * 2 ^ 7 + (va - tierBase t) / 2 ^ 16 * 2 ^ 35 + nf va 16 41 * 2 ^ 64 +
        moduleNo s * 2 ^ 105 + vf * 2 ^ 119)
    else noMap va vf
  | none => noMap va vf

/-- A translation by VF vf (R188, R189); a steward context's addresses are untranslated (R341). -/
def translate (s : State) (steward : Bool) (vf va : Nat) : HWord :=
  if !steward && rbit s (vmcfg vf) 0 then
    match walkEntry s vf va with
    | some (e, psz) => handleOf va e psz
    | none => noMap va vf
  else plainHandle s steward va vf

/-- The local physical address of virtual address a on the handle's page. -/
def handlePa (h : HWord) (a : Nat) : Nat := tierBase (hTier h) + hf h 35 29 * 2 ^ 16 + a % hPage h

/-- A steward context's alias resolved (R341). -/
def aliasPa (g pa : Nat) : Nat :=
  if isSteward g ∧ stewAlias ≤ pa ∧ pa < stewAlias + 2 ^ 21 then stewBase ((g - 4096) / 4) + (pa - stewAlias) else pa

/-- The outcome of a check at issue. -/
inductive Chk where
  | ok
  | stall
  | trap (cause : Nat) (info : Word64)
deriving DecidableEq, Repr

def Chk.and : Chk → Chk → Chk
  | .ok, y => y
  | .stall, _ => .stall
  | .trap c i, _ => .trap c i

/-- Steps 1 to 3 of R200. -/
def chkHandle (n : Nat) (h : HWord) (a : Nat) : Chk :=
  if !hBit h 0 then .trap 0x02 (BitVec.ofNat 64 n)
  else if hBit h 1 then .stall
  else if hBit h 2 then .trap 0x04 (BitVec.ofNat 64 a)
  else .ok

/-- The page of a handle: its first virtual address. -/
def hPageVa (h : HWord) : Nat := hVa h / hPage h * hPage h

/-- Step 4 of R200: n bytes at a; the trap names the first byte outside. -/
def chkPage (h : HWord) (a n : Nat) : Chk :=
  let b := hPageVa h
  if n = 0 then .ok
  else if a < b ∨ b + hPage h ≤ a then .trap 0x03 (BitVec.ofNat 64 a)
  else if b + hPage h < a + n then .trap 0x03 (BitVec.ofNat 64 (b + hPage h))
  else .ok

/-- A load or a store passes step 5 of R200. The VF comparison does not reach stewards (R341). -/
def permOk (h : HWord) (needR needW sys steward : Bool) (vf : Nat) : Bool :=
  (!needR || hBit h 7) && (!needW || hBit h 8) && (!hBit h 10 || sys) && (steward || hVf h == vf)

/-- Steps 5 and 6 of R200, and the partition check (R362). -/
def chkPerm (s : State) (g : Nat) (h : HWord) (needR needW resLoad sys : Bool) (a : Nat) : Chk :=
  let vf := vfOf s g
  if !permOk h needR needW sys (isSteward g) vf then .trap 0x05 (BitVec.ofNat 64 a)
  else if !hBit h 3 then (if resLoad then .ok else .trap 0x04 (BitVec.ofNat 64 a))
  else if !isSteward g && homeMod s h == moduleNo s && !partOk s vf (handlePa h a) then .trap 0x05 (BitVec.ofNat 64 a)
  else .ok

/-- What a user-mode context of VF v reaches of the register space (R182), with the access it may make. -/
def userReg (s : State) (v pa : Nat) (write : Bool) (n : Nat) : Bool :=
  let o := pa - regBase
  if decide (0x240000 ≤ o) && decide (o < 0x240000 + 128 * 128) then write && n == 8 && (o - 0x240000) / 128 == v
  else if decide (0x300000 ≤ o) && decide (o < 0x300000 + 256 * 1024) && decide ((o - 0x300000) % 1024 < 512) then
    (!write || n == 8) && s.groups.any fun e => e.2.cluster == (o - 0x300000) / 1024 && e.2.vf == v
  else if decide (0x50000 ≤ o) && decide (o < 0x50000 + 8 * 128) then !write && (o - 0x50000) / 8 == v
  else false

/-- A register access by a context (R182, R238). -/
def chkReg (s : State) (g : Nat) (sys : Bool) (pa : Nat) (write : Bool) (n a : Nat) : Chk :=
  if (n == 4 || n == 8) && (sys || userReg s (vfOf s g) pa write n) then .ok else .trap 0x05 (BitVec.ofNat 64 a)

/-! Twins (R274, R275). -/

/-- The enabled entry of VF v's table that holds pa: its number and its page size. -/
def twrFind (s : State) (v pa : Nat) : Option (Nat × Nat) :=
  (List.range 16).findSome? fun i =>
    let w := rget s (twr v i)
    let psz := pageBytes (w.toNat / 4 % 4)
    let base := rfld s (twr v i + 8) 0 50
    if w.getLsbD 0 && decide (base ≤ pa) && decide (pa < base + 2 * psz * rfld s (twr v i + 16) 0 20) then some (i, psz)
    else none

/-- Where an access to a twin page of page size psz lands: the current frame, or the shadow for an engine write with SH.
Outside every entry FRAME is the current frame. -/
def twinPa (s : State) (v pa psz : Nat) (shadow : Bool) : Nat :=
  match twrFind s v pa with
  | some (i, sz) => if rbit s (twr v i) 1 != shadow then pa + sz else pa
  | none => if shadow then pa + psz else pa

/-! Formats on the page (R194, R195). -/

/-- The word j of format descriptor i of VF v. -/
def fdWord (s : State) (v i j : Nat) : Nat :=
  ((hwRead s (rfld s (vmcfg v + 8) 5 45 * 32 + 32 * i + 8 * j) 8)).getD 0
/-- The FMT of format descriptor i; none where it is invalid. -/
def fdFmt (s : State) (v i : Nat) : Option Nat :=
  let f := fdWord s v i 0 % 32
  if f == 0 || decide (28 ≤ f) then none else some f
/-- Stored bits of an element (R194). -/
def storedBits (f : Nat) : Nat :=
  match elemCode f with
  | 3 => 32 | 6 => 8 | 7 => 8 | c => codeBits c
/-- The lane type T of R195 for the width index w (0 .w32, 1 .w16, 2 .w8). -/
def laneFmt (f w : Nat) : Nat :=
  let c := elemCode f
  match c with
  | 9 => [28, 9, 11].getD w 28 | 11 => [28, 9, 11].getD w 28 | 13 => [28, 9, 11].getD w 28 | 15 => [28, 9, 11].getD w 28
  | 10 => [29, 10, 12].getD w 29 | 12 => [29, 10, 12].getD w 29 | 14 => [29, 10, 12].getD w 29
  | 1 => [0, 1, 5].getD w 0
  | 4 => [0, 2, 4].getD w 0
  | _ => [0, 2, 5].getD w 0

/-! Bindings (R192, R217). -/

/-- The object bound to the region of va for VF v; 0 for none. -/
def boundObj (s : State) (v va : Nat) : Nat :=
  match s.binds.find? fun b => b.vf == v && decide (b.hva + b.off ≤ va) && decide (va < b.hva + b.off + b.len) with
  | some b => b.obj
  | none =>
    if rbit s (vmcfg v) 0 then
      match walkEntry s v va with
      | some (e, _) =>
        if nf e 80 16 = 0 then 0
        else nf ((hwRead s (rfld s (vmcfg v + 16) 3 47 * 8 + 8 * nf e 80 16) 8).getD 0) 4 53 * 16
      | none => 0
    else 0

end Sys2Proof.Machine
end

