-- ==== Sys2Proof/Machine/Access.lean ====
section
/-!
DEFINITION. The requests of the A unit: what an A syllable asks for, its address and elements (R85, R236, R242, R243), its
checks at issue (R200, R237, R238), and its push into LAQ (R38, R239).
-/
namespace Sys2Proof.Machine

/-- The form of a vector access (R242, R243). -/
inductive VForm where
  | contig | strided | gather
deriving DecidableEq, Repr

/-- What an A request does. Vector widths w: 0 .w32, 1 .w16, 2 .w8, 3 .raw. -/
inductive AOp where
  | lda (n : Nat) (sgn : Bool)
  | sta (n : Nat)
  | ldv (w : Nat) (f : VForm)
  | stv (w : Nat) (f : VForm)
  | amo (ret : Bool) (op n : Nat) (t : Bool)
  | cas (n : Nat) (t : Bool)
  | acq (k sc : Nat)
  | rel (post : Bool) (sc : Nat)
  | feset (full : Bool)
  | fewait (full : Bool)
  | bind (u : Bool)
  | fence (k sc : Nat)
  | pfence (sc : Nat)
  | hchk
  | preq
  | pcmd (op : Nat)
  | none
deriving DecidableEq, Repr

/-- The size and sign of LDA by index (R241). -/
def ldaSize (n : Nat) : Nat :=
  match n with
  | 0 => 1 | 1 => 1 | 2 => 2 | 3 => 2 | 4 => 4 | 5 => 4 | _ => 8

def aop : Instr → AOp
  | .lda _ n _ => .lda (ldaSize n.val) (n.val % 2 == 1)
  | .sta _ n _ => .sta (2 ^ n.val)
  | .ldv _ w _ => .ldv w.val .contig
  | .ldvs _ w _ => .ldv w.val .strided
  | .ldg _ w _ => .ldv w.val .gather
  | .stv _ w _ => .stv w.val .contig
  | .stvs _ w _ => .stv w.val .strided
  | .stg _ w _ => .stv w.val .gather
  | .amo32 _ op o => .amo true op.val 4 o.t
  | .amo64 _ op o => .amo true op.val 8 o.t
  | .amos32 _ op o => .amo false op.val 4 o.t
  | .amos64 _ op o => .amo false op.val 8 o.t
  | .cas _ n o => .cas (4 * 2 ^ n.val) o.t
  | .acqX _ o => .acq 0 o.sc.val
  | .acqSh _ o => .acq 1 o.sc.val
  | .acqEv _ o => .acq 2 o.sc.val
  | .relUn _ o => .rel false o.sc.val
  | .relPost _ o => .rel true o.sc.val
  | .feset _ o => .feset (o.fe != 0)
  | .fewait _ o => .fewait (o.fe != 0)
  | .bind _ o => .bind o.u
  | .fence _ o => .fence o.k.val o.sc.val
  | .pfence _ o => .pfence o.sc.val
  | .hchk _ _ => .hchk
  | .preq _ _ => .preq
  | .pcmdAddI32 _ _ => .pcmd 0
  | .pcmdAddF32 _ _ => .pcmd 1
  | .pcmdAxpyF32 _ _ => .pcmd 2
  | .pcmdMaxF32 _ _ => .pcmd 3
  | .pcmdCvtBf16 _ _ => .pcmd 4
  | .pcmdFill _ _ => .pcmd 5
  | .pcmdCopy _ _ => .pcmd 6
  | .pcmdAcc _ _ => .pcmd 7
  | _ => .none

/-- Column Q of R91: takes its data from SDQ; pushes its result to LDQ. -/
def AOp.takesSdq : AOp → Bool
  | .sta _ => true | .stv _ _ => true | .amo _ _ _ _ => true | .cas _ _ => true | .acq k _ => k == 2
  | .rel post _ => post | .pcmd _ => true | _ => false
def AOp.pushesLdq : AOp → Bool
  | .lda _ _ => true | .ldv _ _ => true | .amo ret _ _ _ => ret | .cas _ _ => true | .hchk => true | _ => false

/-- Format AM's operands, if the syllable has them. -/
def amOf : Instr → Option AM
  | .lda _ _ o => some o | .sta _ _ o => some o | .ldv _ _ o => some o | .ldvs _ _ o => some o | .ldg _ _ o => some o
  | .stv _ _ o => some o | .stvs _ _ o => some o | .stg _ _ o => some o | .feset _ o => some o | .fewait _ o => some o
  | _ => none
def feOf (i : Instr) : Nat :=
  match i with
  | .feset _ _ => 0
  | .fewait _ _ => 0
  | _ => match amOf i with
    | some o => o.fe.val
    | none => 0
/-- The residency mask a request names, or HCHK's kJ; 0 names k0. -/
def krOf (i : Instr) : Nat :=
  match i with
  | .hchk _ o => o.kr.val
  | _ => match amOf i with
    | some o => o.kr.val
    | none => 0

/-- The unit of an immediate (R85). -/
def AOp.unit : AOp → Nat
  | .lda n _ => n | .sta n => n
  | .ldv w _ => [4, 2, 1, 1].getD w 1 | .stv w _ => [4, 2, 1, 1].getD w 1
  | .amo _ _ n _ => n | .cas n _ => n | .acq _ _ => 16 | .rel _ _ => 16 | .feset _ => 16 | .fewait _ => 16
  | _ => 1

/-- The base of an address: b register (none) or handle number, the offset, the stride, and whether lanes add to it. -/
structure AForm where
  h    : Option Nat
  base : Word64
  off  : Word64
  step : Word64
  vx   : Option Nat
deriving DecidableEq, Repr

/-- The address form of a syllable under its context's registers (R236). -/
def aForm (c : Ctx) (i : Instr) : AForm :=
  let mk (m : Bool) (base : Nat) (off step : Word64) (vx : Option Nat) : AForm :=
    if m then { h := some base, base := BitVec.ofNat 64 (hVa (c.rdH base)), off := off, step := step, vx := vx }
    else { h := none, base := c.rdB base, off := off, step := step, vx := vx }
  let im (imm : Int) : Word64 := BitVec.ofInt 64 (imm * (aop i).unit)
  let am (o : AM) : AForm :=
    match aop i with
    | .ldv _ .strided => mk o.m o.base.val (im o.imm) (c.rdS o.sx.val) none
    | .stv _ .strided => mk o.m o.base.val (im o.imm) (c.rdS o.sx.val) none
    | .ldv _ .gather => mk o.m o.base.val (im o.imm) 0 (some o.sx.val)
    | .stv _ .gather => mk o.m o.base.val (im o.imm) 0 (some o.sx.val)
    | _ => mk o.m o.base.val (im o.imm + c.rdS o.sx.val) 0 none
  let at' (o : AT) : AForm := mk o.m o.base.val (im o.imm + c.rdS o.sx.val) 0 none
  let ay (o : AY) : AForm := mk o.m o.base.val (im o.imm + c.rdS o.sx.val) 0 none
  let ap (o : AP) : AForm := mk true o.h.val (c.rdS o.sx.val) 0 none
  let ah (o : AH) : AForm := mk true o.h.val (c.rdS o.sa.val) 0 none
  match i with
  | .amo32 _ _ o => at' o | .amo64 _ _ o => at' o | .amos32 _ _ o => at' o | .amos64 _ _ o => at' o | .cas _ _ o => at' o
  | .acqX _ o => ay o | .acqSh _ o => ay o | .acqEv _ o => ay o | .relUn _ o => ay o | .relPost _ o => ay o
  | .pcmdAddI32 _ o => ap o | .pcmdAddF32 _ o => ap o | .pcmdAxpyF32 _ o => ap o | .pcmdMaxF32 _ o => ap o
  | .pcmdCvtBf16 _ o => ap o | .pcmdFill _ o => ap o | .pcmdCopy _ o => ap o | .pcmdAcc _ o => ap o
  | .hchk _ o => ah o | .preq _ o => ah o
  | .bind _ o => mk o.m o.base.val ((c.rdS o.sl.val) &&& 0xFFFFFFFF) 0 none
  | _ =>
    match amOf i with
    | some o => am o
    | none => { h := none, base := 0, off := 0, step := 0, vx := none }

/-- The length operand of a PCMD, the range of a BIND (x) and its object (y). -/
def extraX (c : Ctx) : Instr → Word64
  | .pcmdAddI32 _ o => c.rdS o.sl.val | .pcmdAddF32 _ o => c.rdS o.sl.val | .pcmdAxpyF32 _ o => c.rdS o.sl.val
  | .pcmdMaxF32 _ o => c.rdS o.sl.val | .pcmdCvtBf16 _ o => c.rdS o.sl.val | .pcmdFill _ o => c.rdS o.sl.val
  | .pcmdCopy _ o => c.rdS o.sl.val | .pcmdAcc _ o => c.rdS o.sl.val
  | .bind _ o => c.rdS o.sl.val
  | _ => 0
def extraY (c : Ctx) : Instr → Word64
  | .bind _ o => c.rdS o.so.val
  | _ => 0

/-- The stored width of a vector request's elements in bits, and the page's format where it acts (R194 to R197). A descriptor that is not
valid reads as code 0 (DESIGN CHOICE, log 129). -/
def vecFmt (s : State) (vf : Nat) (h : Option HWord) (w : Nat) : Option Nat :=
  match h with
  | some x => if hFdi x = 0 ∨ w = 3 then none else some ((fdFmt s vf (hFdi x)).getD 0)
  | none => none
def vecBits (s : State) (vf : Nat) (h : Option HWord) (w : Nat) : Nat :=
  match vecFmt s vf h w with
  | some f => storedBits f
  | none => [32, 16, 8, 8].getD w 8

/-- Elements of a vector request: 64, 128 or 256 by width; 64 for a gather (R242, R243). -/
def vecCount (w : Nat) (f : VForm) : Nat :=
  match f with
  | .gather => 64
  | _ => [64, 128, 256, 256].getD w 256

/-- The address of element i of stored width wb (R236, R242, R243). -/
def elemAddr (a step : Word64) (lanes : VWord) (f : VForm) (wb i : Nat) : Nat :=
  match f with
  | .contig => (a + BitVec.ofNat 64 (i * wb / 8)).toNat
  | .strided => (a + BitVec.ofNat 64 i * step).toNat
  | .gather => (a + (laneOf lanes i).signExtend 64).toNat

/-- Bytes of an element: at least 1. -/
def elemBytes (wb : Nat) : Nat := max 1 (wb / 8)

/-- The elements of a request: number, address and bytes, in element order. -/
def elemsOf (s : State) (vf : Nat) (h : Option HWord) (op : AOp) (a step : Word64) (lanes : VWord) (x : Word64) :
    List (Nat × Nat × Nat) :=
  match op with
  | .lda n _ => [(0, a.toNat, n)]
  | .sta n => [(0, a.toNat, n)]
  | .ldv w f =>
    let wb := vecBits s vf h w
    (List.range (vecCount w f)).map fun i => (i, elemAddr a step lanes f wb i, elemBytes wb)
  | .stv w f =>
    let wb := vecBits s vf h w
    (List.range (vecCount w f)).map fun i => (i, elemAddr a step lanes f wb i, elemBytes wb)
  | .amo _ _ n _ => [(0, a.toNat, n)]
  | .cas n _ => [(0, a.toNat, n)]
  | .acq _ _ => [(0, a.toNat, 16)]
  | .rel _ _ => [(0, a.toNat, 16)]
  | .feset _ => [(0, a.toNat / 16 * 16, 16)]
  | .fewait _ => [(0, a.toNat / 16 * 16, 16)]
  | .pcmd _ => [(0, a.toNat, x.toNat)]
  | _ => []

/-! Checks at issue. -/

/-- The alignment that step 2 of R237 asks of an element on a tier. -/
def alignOf (op : AOp) (tier n : Nat) : Nat :=
  match op with
  | .lda m _ => if 3 ≤ tier then m else 1
  | .sta m => if 3 ≤ tier then m else 1
  | .amo _ _ m _ => m
  | .cas m _ => m
  | .acq _ _ => 16
  | .rel _ _ => 16
  | .ldv _ _ => n
  | .stv _ _ => n
  | _ => 1

/-- The bytes lie in the group's window (R38, R154); the trap names the first failing byte. -/
def chkWindow (size a n : Nat) : Chk :=
  if size ≤ a then .trap 0x03 (BitVec.ofNat 64 a)
  else if size < a + n then .trap 0x03 (BitVec.ofNat 64 size)
  else .ok

/-- The operations of R227 on the host window: add and swap, and CAS. -/
def amoHost (op : Nat) : Bool := op == 0 || op == 8

/-- An atomic is supported on a tier and page (R227, R238). -/
def atomicOk (op : AOp) (tier red : Nat) : Bool :=
  match op with
  | .amo _ k _ _ => red == 0 && (decide (tier < 3) || (tier == 4 && amoHost k))
  | .cas _ _ => red == 0 && (decide (tier < 3) || tier == 4)
  | _ => true

def AOp.isStore : AOp → Bool
  | .sta _ => true | .stv _ _ => true | _ => false
/-- What step 5 of R200 asks of the page; FEWAIT needs R and FESET needs W (DEDUCED, log 132). -/
def AOp.needsR : AOp → Bool
  | .lda _ _ => true | .ldv _ _ => true | .acq _ _ => true | .fewait _ => true | _ => false
def AOp.needsW : AOp → Bool
  | .sta _ => true | .stv _ _ => true | .amo _ _ _ _ => true | .cas _ _ => true | .acq _ _ => true | .rel _ _ => true
  | .feset _ => true | .pcmd _ => true | _ => false
/-- A load proceeds on a page with RES = 0 (R200 step 6). -/
def AOp.resLoad : AOp → Bool
  | .lda _ _ => true | .ldv _ _ => true | _ => false

/-- A store into a reduce page in whole words (R280). -/
def chkRed (op : AOp) (a n : Nat) : Chk :=
  match op with
  | .sta _ => if a % 4 = 0 ∧ n % 4 = 0 then .ok else .trap 0x03 (BitVec.ofNat 64 a)
  | .stv _ .contig => if a % 4 = 0 then .ok else .trap 0x03 (BitVec.ofNat 64 a)
  | .stv _ _ => if a % 4 = 0 ∧ n % 4 = 0 then .ok else .trap 0x03 (BitVec.ofNat 64 a)
  | _ => .ok

/-- The availability of R238 through a handle. -/
def chkAvail (s : State) (g : Nat) (sys : Bool) (op : AOp) (fe : Nat) (h : HWord) (a n : Nat) : Chk :=
  let tier := hTier h
  let red := hRed h
  let perm : Chk := .trap 0x05 (BitVec.ofNat 64 a)
  let unsup : Chk := .trap 0x06 (BitVec.ofNat 64 a)
  if fe != 0 && (tier != 2 || red != 0) then perm
  else
    match op with
    | .lda m _ => if tier == 3 then (if m == 4 || m == 8 then chkReg s g sys (handlePa h a) false m a else perm) else .ok
    | .sta m =>
      if tier == 3 then (if m == 4 || m == 8 then chkReg s g sys (handlePa h a) true m a else perm)
      else if red != 0 then chkRed op a n else .ok
    | .ldv _ _ => if tier == 3 then perm else .ok
    | .stv _ _ => if tier == 3 then perm else if red != 0 then chkRed op a n else .ok
    | .amo _ _ _ t => if !atomicOk op tier red && t then unsup else .ok
    | .cas _ t => if !atomicOk op tier red && t then unsup else .ok
    | .acq _ _ => if 3 ≤ tier then unsup else if hFdi h != 0 || hTwin h || red != 0 then perm else .ok
    | .rel _ _ => if 3 ≤ tier then unsup else if hFdi h != 0 || hTwin h || red != 0 then perm else .ok
    | .feset _ => if tier != 2 || red != 0 then perm else .ok
    | .fewait _ => if tier != 2 || red != 0 then perm else .ok
    | .pcmd k => if tier != 0 || (k == 7 && red == 0) then perm else .ok
    | _ => .ok

/-- Alignment of an element (R237 step 2). -/
def chkAlign (op : AOp) (tier a n : Nat) : Chk :=
  if a % alignOf op tier n != 0 then .trap 0x03 (BitVec.ofNat 64 a) else .ok

/-- A Pump command's own alignment, of its target and its length, after everything else (R260). -/
def chkPump (op : AOp) (a n : Nat) : Chk :=
  match op with
  | .pcmd k =>
    let m := if k == 4 || k == 7 then 256 else 4
    if a % m != 0 || n % m != 0 then .trap 0x03 (BitVec.ofNat 64 a) else .ok
  | _ => .ok

/-- The whole access of a contiguous vector form, from its first element. -/
def chkWhole (op : AOp) (tier a : Nat) : Chk :=
  match op with
  | .ldv _ .contig => if tier == 4 && a % 256 != 0 then .trap 0x03 (BitVec.ofNat 64 a) else .ok
  | .stv _ .contig => if tier == 4 && a % 256 != 0 then .trap 0x03 (BitVec.ofNat 64 a) else .ok
  | _ => .ok

/-- The first failing element decides. -/
def chkAll (l : List (Nat × Nat × Nat)) (f : Nat → Nat → Chk) : Chk :=
  l.foldl (fun acc e => match acc with
    | .ok => f e.2.1 e.2.2
    | .stall => .stall
    | .trap c i => .trap c i) .ok

/-- Element checks in their order. Each is made of the whole access before the next (R237); a gather checks element by
element (R243). -/
def chkStages (op : AOp) (el : List (Nat × Nat × Nat)) (fs : List (Nat → Nat → Chk)) : Chk :=
  let whole := fs.foldl (fun acc f => match acc with
    | .ok => chkAll el f
    | .stall => .stall
    | .trap c i => .trap c i) .ok
  let each := chkAll el fun b n => fs.foldl (fun acc f => match acc with
    | .ok => f b n
    | .stall => .stall
    | .trap c i => .trap c i) .ok
  match op with
  | .ldv _ .gather => each
  | .stv _ .gather => each
  | _ => whole

/-- The elements whose target the availability check reads: of a contiguous form the first alone, which its base decides (R280). -/
def availOf (op : AOp) (el : List (Nat × Nat × Nat)) (b : Nat) : Bool :=
  match op with
  | .ldv _ .contig => (el.headD (0, b, 0)).2.1 == b
  | .stv _ .contig => (el.headD (0, b, 0)).2.1 == b
  | _ => true

/-- Every check of a memory syllable at issue (R237). -/
def chkAccess (s : State) (g : Nat) (i : Instr) (fm : AForm) (h : HWord) : Chk :=
  let c := getCtx s g
  let op := aop i
  let a := fm.base + fm.off
  let lanes := match fm.vx with
    | some v => c.rdV v
    | none => 0
  let x := extraX c i
  match fm.h with
  | none =>
    chkStages op (elemsOf s (vfOf s g) none op a fm.step lanes x) [chkAlign op 2, chkWindow (groupOf s g).size]
  | some hn =>
    (chkHandle hn h a.toNat).and
      (let el := elemsOf s (vfOf s g) (some h) op a fm.step lanes x
       (chkWhole op (hTier h) a.toNat).and
         (chkStages op el
           [chkAlign op (hTier h), chkPage h, fun b _ => chkPerm s g h op.needsR op.needsW op.resLoad c.mode b,
            fun b n => if availOf op el b then chkAvail s g c.mode op (feOf i) h b n else .ok, chkPump op]))

/-- HCHK's status word (R248). -/
def hchkWord (s : State) (g : Nat) (a : Nat) (sys : Bool) (h : HWord) : Word64 :=
  if !hBit h 0 then 0
  else
    let b (x : Bool) (n : Nat) : Nat := if x then 2 ^ n else 0
    let inb := match chkPage h a 1 with
      | .ok => true | .stall => false | .trap _ _ => false
    let ok (r w : Bool) : Bool := permOk h r w sys (isSteward g) (vfOf s g)
    BitVec.ofNat 64 (1 + b (hBit h 1) 1 + b (hBit h 2) 2 + b (hBit h 3) 3 + b inb 4 + b (ok true false) 5 +
      b (ok false true) 6 + hf h 11 2 * 2 ^ 7 + hMig h * 2 ^ 9 + hTier h * 2 ^ 12 + b (hTwin h) 15 + hFdi h * 2 ^ 16)

/-! The push into LAQ. -/

/-- The random values a store or a float add captures under SR (R63, R196, R252). -/
def drawsRandom (s : State) (g : Nat) (i : Instr) (h : Option HWord) : Bool :=
  fmRM (getCtx s g).fmode == rmSR &&
  match aop i with
  | .stv w _ => (vecFmt s (vfOf s g) h w).isSome
  | .amo _ op _ _ => op == 9
  | _ => false

/-- Push the request of syllable i (R38), pairing it with the next SDQ entry where it takes one (R239). -/
def pushReq (s : State) (i : Instr) (fm : AForm) (h : Option HWord) : State :=
  let g := s.iss.g
  let c := getCtx s g
  let sr := drawsRandom s g i h
  let gens := if sr then stepGens c.gens else c.gens
  let r : Req :=
    { op := i, seq := c.reqSeq, addr := fm.base + fm.off, step := fm.step,
      lanes := match fm.vx with
        | some v => c.rdV v
        | none => 0
      x := extraX c i
      y := match i with
        | .hchk _ _ => hchkWord s g (fm.base + fm.off).toNat c.mode (h.getD 0)
        | _ => extraY c i
      h := h, sdq := if (aop i).takesSdq then some c.stSeq else none,
      fmode := c.fmode, seed := c.seed, rnd := if sr then gens else 0, ipc := s.iss.pc, sys := c.mode, trap := false,
      due := s.clock, slot := false, done := 0 }
  setCtx s g
    { c with laq := c.laq ++ [r], reqSeq := c.reqSeq + 1, gens := gens,
             stSeq := if (aop i).takesSdq then c.stSeq + 1 else c.stSeq }

/-- A memory syllable: stall on a full LAQ, check, push. -/
def runA (p : Syl) (i : Instr) (s : State) : Res :=
  issue p s fun s =>
    let c := issuer s
    let fm := aForm c i
    let h := match fm.h with
      | some n => some (c.rdH n)
      | none => none
    if laqFull c then stall s
    else
      match chkAccess s s.iss.g i fm (h.getD 0) with
      | .stall => stall s
      | .trap cause info => trapNow s cause info
      | .ok => .next (pushReq s i fm h)

end Sys2Proof.Machine
end

