-- ==== Sys2Proof/Machine/Home.lean ====
section
/-!
DEFINITION. What happens at the home of a location: reads and writes with their errors (R183, R209, R211), the
remote-data caches (R180, R226), reduce-on-store (R280 to R283), atomics (R252, R253), sync objects (R216), the banks'
command queues and Pump parts (R229 to R235, R260), and the filling of LDQ entries (R40, R195, R201, R240).
-/
namespace Sys2Proof.Machine

/-- The outcome of a request at its home: performed, in a bank's queue and performed when it executes there, an error completion
with its cause, or it waits. -/
inductive Perf where
  | done (s : State)
  | queued (s : State)
  | err (s : State) (cause : Nat)
  | wait (s : State)

/-- An engine's write to the shadow of a twin page (R275); what it reads is the current frame. -/
def Txn.shadow (t : Txn) : Bool := t.eng && t.sh && t.kind != .load
/-- Where a part's byte lies, a twin resolved at the time it is performed (R275). -/
def Txn.home (s : State) (t : Txn) (pa : Nat) : Nat :=
  if t.twin = 0 || t.peer.isSome then pa else twinPa s t.vf pa t.twin t.shadow

/-- A byte that cannot be read: unmapped, stopped or spoiled. -/
def badByte (s : State) (pa : Nat) : Bool := (tierOf pa).isNone || stopped s pa || inSpoiled s pa

/-! The remote-data caches. -/

/-- The key of a line: local address, or the peer's module above all local ones. -/
def lineKey (peer : Option Nat) (pa : Nat) : Nat :=
  pa / 128 * 128 + match peer with
    | none => 0
    | some m => (m + 1) * 2 ^ 65

/-- Die d may hold the line (R180): homed elsewhere, tier 0 or 1. -/
def rdcCan (d : Nat) (peer : Option Nat) (pa : Nat) : Bool :=
  decide (d < 4) && (tierOf pa == some 0 || tierOf pa == some 1) && (peer.isSome || homeDie pa != d)

def rdcFind (s : State) (d key : Nat) : Option RdcLine := s.rdc.find? fun l => l.die == d && l.line == key
def rdcDrop (s : State) (f : RdcLine → Bool) : State := { s with rdc := s.rdc.filter fun l => !f l }

/-- The cells of a store that lie in a line. -/
def RdcLine.cells (l : RdcLine) (peer : Option Nat) (wr : List WCell) : List WCell :=
  wr.filter fun c => lineKey peer c.pa == l.line
/-- The cells write ECC word k of a line whole, or touch it. -/
def wordWhole (wr : List WCell) (k : Nat) : Bool :=
  (List.range 32).all fun j => wr.any fun c => c.pa % 128 == 32 * k + j && c.msk == 0xFF
def wordTouched (wr : List WCell) (k : Nat) : Bool := wr.any fun c => c.pa % 128 / 32 == k

/-- A store of die d updates the line it holds (R180); a spoiled ECC word that it writes whole is good again (R183). -/
def rdcStore (s : State) (d : Nat) (peer : Option Nat) (wr : List WCell) : State :=
  { s with rdc := s.rdc.map fun l =>
      if l.die == d then
        let mine := l.cells peer wr
        { l with
          bad := (List.range 4).foldl (fun b k => if l.bad.testBit k && !wordWhole mine k then b + 2 ^ k else b) 0
          bytes := mine.foldl (fun b c =>
              let k := 8 * (c.pa % 128)
              (b &&& ~~~ (BitVec.ofNat 1024 (c.msk.toNat * 2 ^ k))) |||
                BitVec.ofNat 1024 ((c.val &&& c.msk).toNat * 2 ^ k)) l.bytes }
      else l }

/-- A store of die d would write a part of a spoiled ECC word of the line that the die holds: it ends in error (R183). -/
def rdcSpoils (s : State) (d : Nat) (peer : Option Nat) (wr : List WCell) : Bool :=
  s.rdc.any fun l => l.die == d && l.bad != 0 && (let mine := l.cells peer wr
    (List.range 4).any fun k => l.bad.testBit k && wordTouched mine k && !wordWhole mine k)

/-- An atomic, a PCMD or a store into a reduce page invalidates the line in the issuer's die (R180). -/
def rdcInval (s : State) (d : Nat) (peer : Option Nat) (pas : List Nat) : State :=
  rdcDrop s fun l => l.die == d && pas.any fun a => lineKey peer a == l.line

/-- The bytes a part names at its home. -/
def Txn.touches (t : Txn) : List Nat :=
  match t.kind with
  | .load => t.rd.map (·.1)
  | .store => t.wr.map (·.pa)
  | _ => (List.range t.len).map (t.pa + ·)
/-- The keys of the lines of some bytes. -/
def keysOf (peer : Option Nat) (l : List Nat) : List Nat :=
  (l.foldl (fun (t : Tab Unit) a => tset t (lineKey peer a) ()) []).map (·.1)
/-- The keys of the lines that a part names. -/
def Txn.keys (s : State) (t : Txn) : List Nat := keysOf t.peer (t.touches.map (t.home s))
def Txn.onLines (s : State) (t : Txn) (keys : List Nat) : Bool := (t.keys s).any keys.contains

/-- Loads of die d that are still on their way deliver their bytes and fill no line: what they have read may by then be older than
what the die has seen (R209, R221). -/
def noFill (s : State) (d : Nat) (f : Txn → Bool) : State :=
  { s with txns := s.txns.map fun e =>
      if e.2.kind == .load && e.2.die == d && f e.2 then (e.1, { e.2 with lmask := 1 }) else e }

/-- The bytes of one load that the remote-data cache holds, and those it must fetch (R180); the second answer says that a spoiled
word is among the former. -/
def rdcSplit (s : State) (t : Txn) : List (Nat × Byte) × Bool × List (Nat × Nat) :=
  t.rd.foldr (fun x acc =>
    let pa := t.home s x.1
    match if rdcCan t.die t.peer pa then rdcFind s t.die (lineKey t.peer pa) else none with
    | some l => ((x.2, byteAt l.bytes (pa % 128)) :: acc.1, acc.2.1 || l.bad.testBit (pa % 128 / 32), acc.2.2)
    | none => (acc.1, acc.2.1, x :: acc.2.2)) ([], false, [])

/-- An acquire of VF v in die d (R226, R272): every line of the VF, or those that `f` chooses, leaves. -/
def rdcAcquire (s : State) (d v : Nat) (f : RdcLine → Bool) : State :=
  noFill (rdcDrop s fun l => l.die == d && l.vf == v && f l) d fun t => t.vf == v
/-- Every line, and the code that a context of the VF has fetched there. -/
def rdcAcquireAll (s : State) (d v : Nat) : State :=
  let s1 := rdcAcquire s d v fun _ => true
  { s1 with ctxs := s1.ctxs.map fun e =>
      if dieOfCore (coreOf e.1) == d && vfOf s e.1 == v then
        (e.1, { e.2 with codeLn := e.2.codeLn.filter fun l => decide (2 ^ 81 ≤ l.1) })
      else e }

/-- Lines that the remote-data cache of a die holds: 32 MiB (R1). -/
def rdcLines : Nat := 262144

/-- Which lines of die d leave its cache for a new one: any of them may, and one does where the cache would be full; the spec
gives no replacement rule, so each choice is free (log 5). -/
def rdcEvict (s : State) (d : Nat) : State :=
  let n := s.rdc.length
  let kept := (((List.range n).zip s.rdc).filter fun x => x.2.die != d || Config.freeNat (s.ctr + x.1) % 2 == 0).map (·.2)
  let mine := kept.filter fun l => l.die == d
  let out := (mine[Config.freeNat (s.ctr + n) % max 1 mine.length]?).map (·.line)
  { s with ctr := s.ctr + n + 1
           rdc := if rdcLines ≤ mine.length then kept.filter fun l => l.die != d || some l.line != out else kept }
/-- Allocate the line from its bytes. -/
def rdcFill (s : State) (d key vf obj : Nat) (bytes : List Byte) : State :=
  let s1 := rdcEvict (rdcDrop s fun l => l.die == d && l.line == key) d
  { s1 with rdc := s1.rdc ++ [{ die := d, line := key, bytes := BitVec.ofNat 1024 (natOfBytes bytes), vf := vf,
                                obj := obj, bad := 0 }] }

/-! The L2 (R179). -/

/-- Lines that a request other than a no-allocate one has brought in; which of them are still there is free. -/
def l2Add (s : State) (cp : Nat) (pas : List Nat) : State :=
  let ks := (keysOf none (pas.filter fun a => tierOf a == some 0 || tierOf a == some 1)).filter fun k => (pendingAt s k).isEmpty
  if cp == 2 then s else { s with l2 := (ks.filter fun k => !s.l2.contains k) ++ s.l2 }
/-- Lines of a granule leave when a part is appended to its bank (R230). -/
def l2Drop (s : State) (pa : Nat) : State := { s with l2 := s.l2.filter fun k => k / 256 != pa / 256 }

/-! Writes. -/

/-- Set full the granules of tier 2 that an engine write or a .sf store touches (R44, R269). -/
def fillGranules (s : State) (pas : List Nat) : State :=
  (granules (pas.filter fun a => tierOf a == some 2)).foldl (fun s a => feSet s a true) s

/-! Reduce-on-store. -/

/-- One word combined (R280): RM is RNE, FTZ 0, OVF the writer's. -/
def redWord (red : Nat) (m : Word32) (x c : Nat) : Nat × BitVec 5 :=
  let ovf := m &&& 8
  match red with
  | 1 => ((x + c) % 2 ^ 32, 0)
  | 2 => fAdd 0 ovf 0 x c
  | _ => fMinMax 0 ovf true x c

def mread4 (s : State) (a : Nat) : Nat := natOfBytes (mreadN s a 4)
def mwrite4 (s : State) (a x : Nat) : State := mwriteL s a (bytesOf (BitVec.ofNat 32 x) 4)

/-- The words of a reducing write, address and value, in the order written: each byte that follows the one before it in
one word belongs to it, as do the further elements of one byte (R196, R280). -/
def wordsOf (wr : List WCell) : List (Nat × Nat) :=
  ((wr.foldl (fun (acc : List (Nat × Nat × Nat)) c =>
    let y := (c.val &&& c.msk).toNat * 2 ^ (8 * (c.pa % 4))
    let part : Bool := c.msk != (0xFF : Byte)
    match acc with
    | (k, x, last) :: r =>
      if k = c.pa / 4 * 4 ∧ (c.pa = last + 1 ∨ (c.pa = last ∧ part)) then (k, x + y, c.pa) :: r else (c.pa / 4 * 4, y, c.pa) :: acc
    | [] => [(c.pa / 4 * 4, y, c.pa)]) []).map fun w => (w.1, w.2.1)).reverse

/-- Combine words. -/
def combine (s : State) (red : Nat) (m : Word32) (ws : List (Nat × Nat)) : State × BitVec 5 :=
  ws.foldl (fun (acc : State × BitVec 5) w =>
    let y := redWord red m (mread4 acc.1 w.1) w.2
    (mwrite4 acc.1 w.1 y.1, acc.2 ||| y.2)) (s, 0)

/-- The armed entry of VF v that covers scratchpad offset o of cluster c (R282). -/
def armedAt (s : State) (c v o : Nat) : Option Nat :=
  (List.range 16).find? fun i =>
    rbit s (rarm c i) 0 && rfld s (rarm c i) 1 7 == v &&
    decide (rfld s (rarm c i + 8) 0 21 ≤ o) && decide (o < rfld s (rarm c i + 8) 0 21 + rfld s (rarm c i + 8) 21 21)

/-- Count one combined word toward its tile; a full count sets the tile's flag granule and starts again (R282). -/
def countWord (s : State) (c i o : Nat) : State :=
  let tile := rfld s (rarm c i + 8) 42 10
  let t := (o - rfld s (rarm c i + 8) 0 21) / (256 * max 1 tile)
  let k := i * 2 ^ 16 + t
  let n := tget 0 (getClu s c).counts k + 1
  if tile * 64 * rfld s (rarm c i + 16) 32 16 ≤ n then
    let s1 := modClu s c fun x => { x with counts := tdel x.counts k }
    feSet s1 (cluBase c + rfld s (rarm c i + 16) 0 21 + 16 * t) true
  else modClu s c fun x => { x with counts := tset x.counts k n }

/-- The armed entry that covers a record of the Sump: its cluster and number. -/
def sumpCover (s : State) (r : SumpRec) : Option (Nat × Nat) :=
  (armedAt s (clusterOfPa r.pa) r.vf (r.pa % 2 ^ 21)).map fun i => (clusterOfPa r.pa, i)
/-- A write of VF v meets a range whose records are still being replayed (R283). -/
def replaying (s : State) (v : Nat) (ws : List (Nat × Nat)) : Bool :=
  ws.any fun w => match armedAt s (clusterOfPa w.1) v (w.1 % 2 ^ 21) with
    | some i => s.sump.any fun r => sumpCover s r == some (clusterOfPa w.1, i)
    | none => false

/-- Words in runs of one record each: at most 12, in ascending addresses, of one 256-byte unit, so that a record lies in one
range whole. -/
def sumpRuns (l : List (Nat × Nat)) : List (List (Nat × Nat)) :=
  (l.foldl (fun (acc : List (List (Nat × Nat))) w =>
    match acc with
    | (x :: r) :: t =>
      if w.1 = x.1 + 4 ∧ w.1 / 256 = x.1 / 256 ∧ r.length < 11 then (w :: x :: r) :: t else [w] :: acc
    | _ => [w] :: acc) []).reverse.map List.reverse

def cellsOfWords (ws : List (Nat × Nat)) : List WCell :=
  ws.flatMap fun w => (List.range 4).map fun j => { pa := w.1 + j, val := BitVec.ofNat 8 (w.2 / 2 ^ (8 * j)), msk := 0xFF }

/-- A write to a tier 2 reduce page: armed words combine and count, once the records of their range have; the others go to the Sump
or wait (R282, R283). -/
def reduceStore (s : State) (v red : Nat) (m : Word32) (wr : List WCell) : Perf × BitVec 5 :=
  let ws := wordsOf wr
  let cl (a : Nat) : Nat := clusterOfPa a
  let armed := ws.filter fun w => (armedAt s (cl w.1) v (w.1 % 2 ^ 21)).isSome
  let loose := ws.filter fun w => (armedAt s (cl w.1) v (w.1 % 2 ^ 21)).isNone
  let used := rfld s (sumpcfg + 8) 0 32
  let runs := sumpRuns loose
  if replaying s v armed then (.wait s, 0)
  else if armed.any fun w => inSpoiled s w.1 then (.err s 9, 0)
  else if loose.isEmpty || (rbit s sumpcfg 0 && decide (used + runs.length ≤ 2 ^ rfld s sumpcfg 1 5)) then
    let (s1, fl) := combine s red m armed
    let s2 := armed.foldl (fun s w =>
      match armedAt s (cl w.1) v (w.1 % 2 ^ 21) with
      | some i => countWord s (cl w.1) i (w.1 % 2 ^ 21)
      | none => s) s1
    let recs : List SumpRec := runs.map fun r =>
      { pa := (r.headD (0, 0)).1, vf := v, wr := cellsOfWords r, red := red, ovf := fmOVF m }
    let s3 := { s2 with sump := s2.sump ++ recs }
    (.done (if recs.isEmpty then s3 else rsetF s3 (sumpcfg + 8) 0 32 (used + recs.length)), fl)
  else (.wait s, 0)

/-- Replay a record under entry i of cluster c, and free it (R283); a word whose ECC word is spoiled by now is lost. -/
def replayRec (s : State) (c i : Nat) (r : SumpRec) : State :=
  let ws := (wordsOf r.wr).filter fun w => !inSpoiled s w.1
  let s0 := banksTake { s with sump := s.sump.erase r } c (bankCounts (r.wr.map (·.pa)))
  let s1 := ws.foldl (fun s w => countWord s c i (w.1 % 2 ^ 21)) (combine s0 r.red (if r.ovf then 8 else 0) ws).1
  rsetF s1 (sumpcfg + 8) 0 32 (rfld s1 (sumpcfg + 8) 0 32 - 1)
/-- Replay covered records in the order in which they were made, as many as the banks serve in this cycle (R43, R283); `late` lists the
clusters with a record that waits. -/
def replayFrom : List SumpRec → List Nat → State → State
  | [], _, s => s
  | r :: l, late, s =>
    match sumpCover s r with
    | none => replayFrom l late s
    | some (c, i) =>
      if late.contains c || !banksFree s c (bankCounts (r.wr.map (·.pa))) then replayFrom l (c :: late) s
      else replayFrom l late (replayRec s c i r)
/-- The records that entry i of cluster c covers. -/
def sumpReplay (s : State) (c i : Nat) : State := replayFrom (s.sump.filter fun r => sumpCover s r == some (c, i)) [] s

/-! Stores. -/

/-- A store at its home on this module, tiers 0, 1, 2 and 4. The flags are those of reduce-on-store. One that joins a bank's queue
behind a granule's pending parts is performed when it executes there (R231; DESIGN CHOICE, log 123), a Pump part of R281 when it is
appended (R230). The granules of a write that the Sump records are full with the record (DESIGN CHOICE, log 135). -/
def storeHome (s : State) (t : Txn) : Perf × BitVec 5 :=
  let wr := t.wr.map fun c => { c with pa := t.home s c.pa }
  if wr.any fun c => (tierOf c.pa).isNone || stopped s c.pa then (.err s 9, 0)
  else if t.red != 0 && t.rland then
    match enqueue s { t with wr := wr, pa := (wr.headD { pa := t.pa, val := 0, msk := 0 }).pa } with
    | some s1 => (.done s1, 0)
    | none => (.wait s, 0)
  else if t.red != 0 then
    match reduceStore s t.vf t.red t.req.fmode wr with
    | (.done s1, fl) => (.done (if t.full then fillGranules s1 (wr.map (·.pa)) else s1), fl)
    | r => r
  else if wr.any fun c => !(pendingAt s c.pa).isEmpty then
    match enqueue s { t with wr := wr, pa := (wr.headD { pa := t.pa, val := 0, msk := 0 }).pa } with
    | some s1 => (.queued s1, 0)
    | none => (.wait s, 0)
  else
    match writeCells s wr with
    | some s1 => (.done (if t.full then fillGranules s1 (wr.map (·.pa)) else s1), 0)
    | none => (.err s 9, 0)

/-! Pump parts. -/

def pcmdOp (t : Txn) : Nat :=
  match aop t.req.op with
  | .pcmd k => k
  | _ => 0

/-- One 4-byte element of a PCMD (R260): x the element, e its number in the command. -/
def pcmdElem (t : Txn) (op e x lane : Nat) : Nat × BitVec 5 :=
  let m := t.req.fmode &&& ~~~ (16 : Word32)
  let r := if fmRM m == rmSR then engineRnd t.req.seed e else 0
  let c := elemOf t.entry 32 0
  let d := elemOf t.entry 32 1
  match op with
  | 0 => ((x + c) % 2 ^ 32, 0)
  | 1 => fAdd 0 m r x c
  | 2 => fFma 0 m r false false c x d
  | 3 => fMinMax 0 m true x c
  | 5 => (c, 0)
  | _ => match t.red with
    | 1 => ((x + lane) % 2 ^ 32, 0)
    | 2 => fAdd 0 m r x lane
    | _ => fMinMax 0 m true x lane

/-- An elementwise part: elements it can read are written; the answer says whether one was not (R235). -/
def pcmdElems (s : State) (t : Txn) (op : Nat) : State × BitVec 5 × Bool :=
  (List.range (t.len / 4)).foldl (fun (acc : State × BitVec 5 × Bool) j =>
    let a := t.pa + 4 * j
    if op == 7 && !t.lmask.getLsbD j then acc
    else if inSpoiled acc.1 a then (acc.1, acc.2.1, true)
    else
      let y := pcmdElem t op (t.ix + j) (mread4 acc.1 a) (elemOf t.entry 32 j)
      (mwrite4 acc.1 a y.1, acc.2.1 ||| y.2, acc.2.2)) (s, 0, false)

/-- A .fill part: whole ECC words that it covers become good (R183). -/
def pcmdFill (s : State) (t : Txn) : State × Bool :=
  let c := elemOf t.entry 32 0
  let cells := cellsOfWords ((List.range (t.len / 4)).map fun j => (t.pa + 4 * j, c))
  let part := (spoiledTouched s cells).filter fun x => !x.2
  let good := cells.filter fun x => !(part.any fun w => (eccWord x.pa).map (·.1) == some w.1)
  ((writeCells s good).getD s, !part.isEmpty)

/-- A .cvt.bf16 part: 64 f32 elements scaled and packed (R260). -/
def pcmdCvt (s : State) (t : Txn) : State × BitVec 5 :=
  let m := t.req.fmode &&& ~~~ (16 : Word32)
  let sig := decode 0 (elemOf t.entry 32 0)
  let l := (List.range 64).map fun j =>
    let x := decode 0 (mread4 s (t.pa + 4 * j))
    let r := if fmRM m == rmSR then engineRnd t.req.seed (t.ix + j) else 0
    finish 2 m r [x, sig] (x.mul sig)
  (mwriteL s t.pa (bytesOf (vecOf (l.map (·.1)) 16) 256), orAll l)

/-- The source granule of a .copy part lies in the same pseudo-channel and bank (R260). -/
def copySource (s : State) (t : Txn) : Option Nat :=
  let a : Int := (t.pa : Int) + (t.entry.truncate 64 : Word64).toInt
  if a < 0 then none
  else if tierOf a.toNat == some 0 && sliceOf s a.toNat == sliceOf s t.pa && bankOf s a.toNat == bankOf s t.pa then
    some a.toNat
  else none

/-- Execute a part: the new state, its flags, and an error cause (0 none). -/
def partApply (s : State) (t : Txn) : State × BitVec 5 × Nat :=
  match t.kind with
  | .store =>
    if t.red != 0 then
      let ws := wordsOf t.wr
      let ok := ws.filter fun w => !inSpoiled s w.1
      let (s1, fl) := combine s t.red t.req.fmode ok
      (s1, fl, if ok.length = ws.length then 0 else 9)
    else match writeCells s t.wr with
      | some s1 => (s1, 0, 0)
      | none => (s, 0, 9)
  | _ =>
    let bytes := (List.range t.len).map (t.pa + ·)
    match pcmdOp t with
    | 4 => if bytes.any (inSpoiled s) then (s, 0, 9) else let (s1, fl) := pcmdCvt s t; (s1, fl, 0)
    | 5 => let (s1, bad) := pcmdFill s t; (s1, 0, if bad then 9 else 0)
    | 6 =>
      match copySource s t with
      | none => (s, 0, 0x14)
      | some a =>
        if (List.range 256).any fun j => inSpoiled s (a / 256 * 256 + j) then (s, 0, 9)
        else
          match writeCells s ((List.range t.len).map fun j => { pa := t.pa + j, val := mread s (a + j), msk := 0xFF }) with
          | some s1 => (s1, 0, 0)
          | none => (s, 0, 9)
    | op => let (s1, fl, bad) := pcmdElems s t op; (s1, fl, if bad then 9 else 0)

/-- The first element of a part that failed, as an offset: the first whose bytes, or whose source's bytes, could not be
read, or of a word that a .fill covers in part. -/
def partFailedAt (s : State) (t : Txn) : Nat :=
  let at_ (j : Nat) : Bool :=
    match pcmdOp t with
    | 5 => inSpoiled s (t.pa + j) && match eccWord (t.pa + j) with
      | some (w, n) => decide (w < t.pa) || decide (t.pa + t.len < w + n)
      | none => false
    | 6 => match copySource s t with
      | some a => inSpoiled s (a + j)
      | none => true
    | 7 => t.lmask.getLsbD (j / 4) && inSpoiled s (t.pa + j)
    | _ => inSpoiled s (t.pa + j)
  ((List.range t.len).find? at_).getD 0 / 4 * 4

/-! Loads. -/

/-- The agent of R208 that a source stands for: a channel's commands are one agent, as are a launch engine's, the dispatcher's
queues and the host's requests. -/
def Agent.whole : Agent → Agent
  | .chan k _ => .chan k 0
  | .eng core _ => .eng core 0
  | .disp _ => .disp 0
  | .host _ => .host 0
  | a => a


/-- The memories before and after each pending part of a granule (R231). -/
def pumpStates (s : State) (pa : Nat) : List State :=
  (pendingAt s pa).foldl (fun (acc : List State) p => acc ++ [(partApply (acc.getLastD s) p.txn).1]) [s]

/-- The agent that a load reads for: the tags of a peer's requests name none (R208). -/
def Txn.reader (t : Txn) : Agent := match t.src with
  | .peer m _ => .peer m 0
  | a => a.whole
/-- How many of some pending parts the agent has seen at a byte: it reads no value from before them (R209). -/
def seenUpTo (ps : List PumpPart) (a : Agent) (pa : Nat) : Nat :=
  ((List.range ps.length).zip ps).foldl (fun n p => if p.2.seen.contains (a, pa) then p.1 + 1 else n) 0
/-- The agent has read, at each byte listed, the result of the part numbered beside it. -/
def markSeen (s : State) (a : Agent) (l : List (Nat × Nat)) : State :=
  { s with banks := s.banks.map fun b => (b.1, b.2.map fun p =>
      { p with seen := p.seen ++ (l.filter fun x => x.1 == p.id).map fun x => (a, x.2) }) }

/-- Read the bytes of a load. Of a pending granule each element returns the value before the parts or one that they
write, but none older than its agent has read there (R209, R231): a free choice per element of `esz` bytes. -/
def loadBytes (s : State) (t : Txn) (esz : Nat) : Option (State × List (Nat × Byte)) :=
  let rd := t.rd.map fun x => (t.home s x.1, x.2)
  if rd.any fun x => badByte s x.1 then none
  else
    match rd with
    | [] => some (s, [])
    | (a, _) :: _ =>
      if (pendingAt s a).isEmpty then some (s, rd.map fun x => (x.2, mread s x.1))
      else
        let l := pumpStates s a
        let ps := pendingAt s a
        let el (i : Nat) : Nat := i / max 1 esz
        let lo (e : Nat) : Nat := rd.foldl (fun n x => if el x.2 = e then max n (seenUpTo ps t.reader x.1) else n) 0
        let k (e : Nat) : Nat := lo e + Config.freeNat (s.ctr + e) % (l.length - lo e)
        let marks := rd.filterMap fun x => (ps[k (el x.2) - 1]?).bind fun p => if k (el x.2) = 0 then none else some (p.id, x.1)
        some (markSeen { s with ctr := s.ctr + 2048 } t.reader marks, rd.map fun x => (x.2, mread (l.getD (k (el x.2)) s) x.1))

/-! Filling LDQ. -/

/-- Element codes from raw bytes: element e of stored width wb, its bits within a byte by its place. -/
def rawCode (raw : Tab Byte) (f : VForm) (wb e : Nat) : Nat :=
  let n := elemBytes wb
  let x := natOfBytes ((List.range n).map fun j => tget 0 raw (e * n + j))
  if wb < 8 then (match f with
    | .contig => x / 2 ^ (e * wb % 8)
    | _ => x) % 2 ^ wb
  else x

/-- The value of a load, with its conversion flags (R195, R241 to R243). -/
def loadValue (s : State) (vf : Nat) (q : Req) (raw : Tab Byte) : VWord × BitVec 5 :=
  match aop q.op with
  | .lda n sgn =>
    let x := natOfBytes ((List.range n).map (tget 0 raw ·))
    (((if sgn then (BitVec.ofInt 64 (iVal true (8 * n) x)) else BitVec.ofNat 64 x : Word64)).zeroExtend 2048, 0)
  | .ldv w f =>
    let wb := vecBits s vf q.h w
    let n := vecCount w f
    let lw := [32, 16, 8, 8].getD w 8
    match vecFmt s vf q.h w with
    | none => (vecOf ((List.range n).map fun e => rawCode raw f wb e) lw, 0)
    | some fmt =>
      let m := if fmRM q.fmode == rmSR then q.fmode &&& ~~~ (7 : Word32) else q.fmode
      let l := (List.range n).map fun e =>
        let c := rawCode raw f wb e
        convert (elemCode fmt) (laneFmt fmt w) m 0 (if elemCode fmt == 3 then c / 2 ^ 13 else c)
      (vecOf (l.map (·.1)) lw, orAll l)
  | .amo _ _ n _ => (BitVec.ofNat 2048 (natOfBytes ((List.range n).map (tget 0 raw ·))), 0)
  | .cas n _ => (BitVec.ofNat 2048 (natOfBytes ((List.range n).map (tget 0 raw ·))), 0)
  | _ => (0, 0)

/-- The residency mask of a non-resident load: the lanes that hold elements, bit 0 for LDA (R201, R244). -/
def resMask (q : Req) : Word64 :=
  match aop q.op with
  | .ldv w f =>
    let lanes := vecCount w f * [32, 16, 8, 8].getD w 8 / 32
    BitVec.ofNat 64 (ones lanes)
  | _ => 1

/-- The entry of a request in LDQ changes. -/
def modLdq (s : State) (g seq : Nat) (f : LdqEntry → LdqEntry) : State :=
  modCtx s g fun c => { c with ldq := c.ldq.map fun e => if e.req.seq = seq && !e.filled then f e else e }

/-- A part's bytes arrive; the entry fills no earlier than the next core cycle (R40), nor than its path's time (R185). -/
def deposit (s : State) (g seq : Nat) (bytes : List (Nat × Byte)) : State :=
  modLdq s g seq fun e =>
    { e with raw := bytes.foldl (fun r x => tset r x.1 x.2) e.raw, left := e.left - 1,
             due := max e.due (localTime s (coreOf g) + 1) }
def depositFail (s : State) (g seq : Nat) : State :=
  modLdq s g seq fun e => { e with left := e.left - 1, failed := true, due := max e.due (localTime s (coreOf g) + 1) }

/-! Atomics and sync objects. -/

def chop (n : Nat) (x : Int) : Nat := (x % (2 ^ n : Nat)).toNat

/-- AMO on n bits (R252): the new value and the flags. -/
def amoApply (op n : Nat) (m r : Word32) (x c : Nat) : Nat × BitVec 5 :=
  let m' := m &&& ~~~ (16 : Word32)
  let lt (a b : Nat) : Bool := decide (iVal true n a < iVal true n b)
  match op with
  | 0 => ((x + c) % 2 ^ n, 0)
  | 1 => (x &&& c, 0)
  | 2 => (x ||| c, 0)
  | 3 => (x ^^^ c, 0)
  | 4 => (if lt c x then c else x, 0)
  | 5 => (if lt x c then c else x, 0)
  | 6 => (min x c, 0)
  | 7 => (max x c, 0)
  | 8 => (c, 0)
  | 9 => fAdd 0 m' r x c
  | _ => fMinMax 0 m' true x c

/-- The new value of an atomic's location (R252, R253). -/
def atomicNew (op : AOp) (m : Word32) (r : Word32) (entry : VWord) (x : Nat) : Nat × BitVec 5 :=
  match op with
  | .amo _ k n _ => amoApply k (8 * n) m r x (entry.toNat % 2 ^ (8 * n))
  | .cas n _ => (if x = entry.toNat % 2 ^ (8 * n) then entry.toNat / 2 ^ (8 * n) % 2 ^ (8 * n) else x, 0)
  | _ => (x, 0)
def AOp.size : AOp → Nat
  | .amo _ _ n _ => n | .cas n _ => n | _ => 0

/-- A sync object's words. -/
def holdOf (s : State) (a : Nat) : Nat := (mread8 s a).toNat % 2 ^ 32
/-- An acquire's condition (R216): k 0 exclusive, 1 shared, 2 event. -/
def acqReady (s : State) (a k : Nat) (n : Word64) : Bool :=
  match k with
  | 0 => holdOf s a == 0
  | 1 => decide (holdOf s a < 0x7FFFFFFF)
  | _ => decide (n.toNat ≤ (mread8 s (a + 8)).toNat)
/-- An acquire's step; owner is 4096 * module + global context number. -/
def acqStep (s : State) (a k owner : Nat) : State :=
  match k with
  | 0 => mwrite8 s a (setField (setField (mread8 s a) 0 32 0x80000000) 32 26 owner)
  | 1 => mwrite8 s a (setField (mread8 s a) 0 32 (holdOf s a + 1))
  | _ => s
/-- A release's step, and whether an unlock found the object free (R216, R256). -/
def relStep (s : State) (a : Nat) (post : Bool) (n : Word64) : State × Bool :=
  if post then (mwrite8 s (a + 8) (mread8 s (a + 8) + n), false)
  else
    let h := holdOf s a
    if 0x80000000 ≤ h then (mwrite8 s a (setField (setField (mread8 s a) 0 32 0) 32 26 0), false)
    else if 0 < h then (mwrite8 s a (setField (mread8 s a) 0 32 (h - 1)), false)
    else (s, true)

/-- The owner field of a context (R215, R255). -/
def ownerOf (s : State) (g : Nat) : Nat := 4096 * moduleNo s + g % 4096

/-! What precedes what. -/

/-- Every request of context g pushed before seq has been performed: none of them in LAQ, none on its way. A PCMD
counts as performed when its parts are appended (R230). -/
def earlierDone (s : State) (g seq : Nat) : Bool :=
  ((getCtx s g).laq.all fun q => decide (seq ≤ q.seq)) &&
  (s.txns.all fun e => e.2.src != .ctx g || decide (seq ≤ e.2.req.seq)) &&
  (getCore s (coreOf g)).rels.all fun r => r.g != g || decide (seq ≤ r.req.seq)

/-- Two parts name a common byte, or registers, which keep their order (R181). -/
def overlap (t u : Txn) : Bool :=
  t.peer == u.peer && ((tierOf t.pa == some 3 && tierOf u.pa == some 3) || (let l := u.touches; t.touches.any fun a => l.contains a))

/-- The bytes a part of an engine still has to read, and those it will write, by module (R268); an atomic, a counter's add among them,
does both. -/
def Txn.reads (t : Txn) : List (Option Nat × Nat) :=
  match t.kind with
  | .load => t.rd.map fun x => (t.peer, x.1)
  | .atomic => t.touches.map fun a => (t.peer, a)
  | _ => []
def Txn.writes (t : Txn) : List (Option Nat × Nat) :=
  match t.kind with
  | .load => t.wr.map fun c => (t.dst.peer, c.pa)
  | .store => t.wr.map fun c => (t.peer, c.pa)
  | _ => t.touches.map fun a => (t.peer, a)
def meet (l k : List (Option Nat × Nat)) : Bool := l.any fun x => k.contains x

/-- A part of a request of the host. -/
def Txn.ofHost (t : Txn) : Bool :=
  match t.src with
  | .part _ => decide (13 ≤ t.fe)
  | _ => false

/-- A part of a whole (R410, R432) stands for the source of the whole: a channel, the host, a peer. -/
def Txn.owner (s : State) (t : Txn) : Agent :=
  match t.src with
  | .part p => match tfind s.txns p with
    | some w => w.src
    | none => t.src
  | a => a
def Txn.agent (s : State) (t : Txn) : Agent := if t.ofHost then .host 0 else (t.owner s).whole

/-- The VF that a request is tagged with; none for a steward's (R341). -/
def Txn.tag (s : State) (t : Txn) : Option Nat :=
  let stew := match t.owner s with
    | .ctx g => isSteward g
    | .chan k _ => decide (4096 ≤ k) && decide (k < 8192)
    | .eng core _ => decide (1024 ≤ core)
    | .mx core => decide (1024 ≤ core)
    | .disp lid => match tfind s.launches lid with
      | some l => decide (256 ≤ l.q)
      | none => decide (256 ≤ lid) && decide (lid < 261)
    | .fetch g => isSteward g
    | _ => false
  if stew then none else some t.vf

/-- A write that waits at its cluster for room in the Sump (R283). -/
def sumpWaits (t : Txn) : Bool := t.held && t.kind == .store && t.red != 0 && !t.rland && tierOf t.pa == some 2 && t.peer.isNone

/-- Two requests come by one path of their sender (R283): a peer's requests come by its module's. -/
def samePath (s : State) (t u : Txn) : Bool := t.agent s == u.agent s || match t.src, u.src with
  | .peer m _, .peer n _ => m == n
  | _, _ => false

/-- An earlier part of the same agent must be performed first (R181, R187, R208, R232, R268), a write that the Sump holds back
before what follows it on its path (R283); copies of one ordered multicast group, marked 12 with the group in `scope`, are
performed in their order (R410); a host request with Relaxed Ordering clear, marked 14, waits for the host's earlier writes
(R432; log 23). -/
def behind (s : State) (id : Nat) (t : Txn) : Bool :=
  s.txns.any fun e =>
    decide (e.1 < id) &&
    ((t.fe == 12 && e.2.fe == 12 && t.vf == e.2.vf && t.scope == e.2.scope) ||
     (sumpWaits e.2 && t.peer.isNone && tierOf t.pa == some 2 && clusterOfPa t.pa == clusterOfPa e.2.pa && samePath s t e.2) ||
     (t.agent s == e.2.agent s &&
      ((tierOf t.pa == some 3 && tierOf e.2.pa == some 3 && t.peer == e.2.peer) ||
       (match t.owner s, e.2.owner s with
        | .host _, .host _ => (t.fe == 14 && e.2.kind == .store) || overlap t e.2
        | .ctx _, .ctx _ => overlap t e.2 || (t.kind == .pcmd && e.2.kind == .pcmd &&
            t.peer == e.2.peer && bankOf s t.pa == bankOf s e.2.pa)
        | .eng _ _, .eng _ _ => overlap t e.2
        | .chan _ i, .chan _ j =>
          i != j &&
          (meet t.reads e.2.writes || (t.kind != .load && (meet t.writes e.2.writes || meet t.writes e.2.reads)))
        | _, _ => false))))

def getTxn (s : State) (id : Nat) : Option Txn := tfind s.txns id
def setTxn (s : State) (id : Nat) (t : Txn) : State := { s with txns := tset s.txns id t }
def delTxn (s : State) (id : Nat) : State := { s with txns := tdel s.txns id }

/-! Ways that requests share (R186). -/

/-- The die-to-die way of a part: none within a die. -/
def Txn.way (t : Txn) : Option (Nat × Nat) :=
  let h := homeDie t.pa
  if h == t.die then none else some (min h t.die, max h t.die)

/-- Another request uses the same slice (which has one pseudo-channel and its banks), die-to-die link or cluster bank. -/
def sharesWay (s : State) (t u : Txn) : Bool :=
  u.peer.isNone &&
  ((t.way.isSome && t.way == u.way) ||
   (match tierOf t.pa, tierOf u.pa with
    | some 2, some 2 => clusterOfPa t.pa == clusterOfPa u.pa &&
        (let l := u.touches.map fun a => a / 16 % 64
         t.touches.any fun a => l.contains (a / 16 % 64))
    | some a, some b => a < 2 && b < 2 && sliceOf s t.pa == sliceOf s u.pa
    | _, _ => false))

/-- The greatest latency of a path that no other request uses (R186). -/
def pathMax (die pa : Nat) : Nat :=
  let own := homeDie pa == die
  match tierOf pa with
  | some 0 => if own then 320 else 424
  | some 1 => if own then 640 else 744
  | some 2 => if own then 72 else 180
  | _ => 400

/-- How long a part takes to its home: at most R186's figure where nothing else shares its way when it is sent, free without
limit under load, and to the host, for which there is no figure (log 5). -/
def drawLat (s : State) (t : Txn) : Nat × State :=
  if t.peer.isNone && tierOf t.pa != some 4 && !(s.txns.any fun e => sharesWay s t e.2) then drawIn s 1 (pathMax t.die t.pa)
  else let (n, s1) := draw s; (1 + n, s1)

end Sys2Proof.Machine
end

