-- ==== Sys2Proof/Machine/AMem.lean ====
section
/-!
DEFINITION. The A unit's syllables at issue: loads and stores (R241 to R243), scratchpad bases (R245), handles (R246 to
R249), full/empty bits (R250), atomics (R251 to R254), sync objects (R255), BIND (R257), fences (R258, R259), Pump
commands (R260).
-/
namespace Sys2Proof.Machine

def execLda (p : Syl) (n : Fin 7) (o : AM) (s : State) : Res := runA p (.lda p n o) s
def execSta (p : Syl) (n : Fin 4) (o : AM) (s : State) : Res := runA p (.sta p n o) s
def execLdv (p : Syl) (w : Fin 4) (o : AM) (s : State) : Res := runA p (.ldv p w o) s
def execLdvs (p : Syl) (w : Fin 4) (o : AM) (s : State) : Res := runA p (.ldvs p w o) s
def execLdg (p : Syl) (w : Fin 4) (o : AM) (s : State) : Res := runA p (.ldg p w o) s
def execStv (p : Syl) (w : Fin 4) (o : AM) (s : State) : Res := runA p (.stv p w o) s
def execStvs (p : Syl) (w : Fin 4) (o : AM) (s : State) : Res := runA p (.stvs p w o) s
def execStg (p : Syl) (w : Fin 4) (o : AM) (s : State) : Res := runA p (.stg p w o) s
def execFeset (p : Syl) (o : AM) (s : State) : Res := runA p (.feset p o) s
def execFewait (p : Syl) (o : AM) (s : State) : Res := runA p (.fewait p o) s
def execAmo32 (p : Syl) (op : Fin 11) (o : AT) (s : State) : Res := runA p (.amo32 p op o) s
def execAmo64 (p : Syl) (op : Fin 11) (o : AT) (s : State) : Res := runA p (.amo64 p op o) s
def execAmos32 (p : Syl) (op : Fin 11) (o : AT) (s : State) : Res := runA p (.amos32 p op o) s
def execAmos64 (p : Syl) (op : Fin 11) (o : AT) (s : State) : Res := runA p (.amos64 p op o) s
def execCas (p : Syl) (n : Fin 3) (o : AT) (s : State) : Res := runA p (.cas p n o) s
def execAcqX (p : Syl) (o : AY) (s : State) : Res := runA p (.acqX p o) s
def execAcqSh (p : Syl) (o : AY) (s : State) : Res := runA p (.acqSh p o) s
def execAcqEv (p : Syl) (o : AY) (s : State) : Res := runA p (.acqEv p o) s
def execRelUn (p : Syl) (o : AY) (s : State) : Res := runA p (.relUn p o) s
def execRelPost (p : Syl) (o : AY) (s : State) : Res := runA p (.relPost p o) s
def execPcmdAddI32 (p : Syl) (o : AP) (s : State) : Res := runA p (.pcmdAddI32 p o) s
def execPcmdAddF32 (p : Syl) (o : AP) (s : State) : Res := runA p (.pcmdAddF32 p o) s
def execPcmdAxpyF32 (p : Syl) (o : AP) (s : State) : Res := runA p (.pcmdAxpyF32 p o) s
def execPcmdMaxF32 (p : Syl) (o : AP) (s : State) : Res := runA p (.pcmdMaxF32 p o) s
def execPcmdCvtBf16 (p : Syl) (o : AP) (s : State) : Res := runA p (.pcmdCvtBf16 p o) s
def execPcmdFill (p : Syl) (o : AP) (s : State) : Res := runA p (.pcmdFill p o) s
def execPcmdCopy (p : Syl) (o : AP) (s : State) : Res := runA p (.pcmdCopy p o) s
def execPcmdAcc (p : Syl) (o : AP) (s : State) : Res := runA p (.pcmdAcc p o) s

/-- Push without an access check: FENCE and PFENCE hold the head of LAQ (R258, R259). -/
def runPush (p : Syl) (i : Instr) (s : State) : Res :=
  issue p s fun s =>
    if laqFull (issuer s) then stall s
    else .next (pushReq s i { h := none, base := 0, off := 0, step := 0, vx := none } none)

def execFence (p : Syl) (o : AF) (s : State) : Res := runPush p (.fence p o) s
def execPfence (p : Syl) (o : AF) (s : State) : Res := runPush p (.pfence p o) s

/-- A b register's new value, visible a cycle on (R245). -/
def putB (s : State) (bd : Nat) (x : Word64) : State :=
  emit s (dstB (issuer s) bd) (wide64 (x &&& 0x1FFFFF)) 1 1 0
def execAadd (p : Syl) (o : AA) (s : State) : Res :=
  issue p s fun s =>
    let c := issuer s
    .next (putB s o.bd.val (c.rdB o.bd.val + c.rdS o.sa.val + BitVec.ofInt 64 o.imm))
def execBset (p : Syl) (o : AA) (s : State) : Res :=
  issue p s fun s => .next (putB s o.bd.val ((issuer s).rdS o.sa.val + BitVec.ofInt 64 o.imm))

/-- A handle whose walk has not finished (R199). Its FRAME field carries the walk's number meanwhile. -/
def pendHandle (va id : Nat) : HWord :=
  BitVec.ofNat 128 (3 + id % 2 ^ 29 * 2 ^ 35 + nf va 16 41 * 2 ^ 64)

/-- How long a walk takes: its table reads one after the other, each on its own path (R199, R186). -/
def walkTime (s : State) (g va : Nat) : Nat × State :=
  let vf := vfOf s g
  (walkReads s va 4 0 (rfld s (vmcfg vf) 18 32 * 2 ^ 18)).foldl (fun acc a =>
    let (d, s1) := drawLat acc.2 (Txn.base .load (.fetch g) Req.blank (dieOfCore (coreOf g)) vf a)
    (acc.1 + d, s1)) (1, s)

/-- TRANS (R246): the handle lands 24 cycles on. -/
def execTrans (p : Syl) (o : AH) (s : State) : Res :=
  issue p s fun s =>
    let g := s.iss.g
    let va := ((issuer s).rdS o.sa.val).toNat % 2 ^ 57
    let vf := vfOf s g
    if !isSteward g && rbit s (vmcfg vf) 0 then
      let (id, s1) := fresh s
      let (d, s2) := walkTime s1 g va
      let w : Walk := { g := g, hn := o.h.val, va := va, vf := vf, dead := false, res := 0 }
      let s3 := after { s2 with walks := tset s2.walks id w } d (.tableWalkComplete id)
      .next (emit s3 (.h o.h.val) ((pendHandle va id).zeroExtend 2048) 1 24 0)
    else .next (emit s (.h o.h.val) ((translate s (isSteward g) vf va).zeroExtend 2048) 1 24 0)

/-- HREL (R247): VALID becomes 0 a cycle on. -/
def execHrel (p : Syl) (o : AH) (s : State) : Res :=
  issue p s fun s =>
    .next (emit s (.h o.h.val) (((issuer s).rdH o.h.val &&& ~~~ (1 : HWord)).zeroExtend 2048) 1 1 0)

/-- HCHK (R248): neither traps nor stalls on the outcome. -/
def execHchk (p : Syl) (o : AH) (s : State) : Res :=
  issue p s fun s =>
    let c := issuer s
    if laqFull c then stall s else .next (pushReq s (.hchk p o) (aForm c (.hchk p o)) (some (c.rdH o.h.val)))

/-- PREQ (R249): steps 1 to 4 of R200; nothing more where the page is resident. -/
def execPreq (p : Syl) (o : AH) (s : State) : Res :=
  issue p s fun s =>
    let c := issuer s
    let h := c.rdH o.h.val
    let fm := aForm c (.preq p o)
    let a := (fm.base + fm.off).toNat
    if laqFull c then stall s
    else
      match (chkHandle o.h.val h a).and (chkPage h a 1) with
      | .stall => stall s
      | .trap cause info => trapNow s cause info
      | .ok => if hBit h 3 then .next s else .next (pushReq s (.preq p o) fm (some h))

/-- BIND's checks in order (R257). -/
def chkBind (s : State) (o : AB) (h : HWord) (a : Nat) (x y : Word64) : Chk :=
  let off := x.toNat % 2 ^ 32
  let len := x.toNat / 2 ^ 32
  (chkHandle o.base.val h a).and
    (if off % 256 ≠ 0 ∨ len % 256 ≠ 0 ∨ len = 0 ∨ (!o.u ∧ y.toNat % 16 ≠ 0) then .trap 0x03 (BitVec.ofNat 64 a)
     else (chkPage h a len).and
       (if !o.u && decide (64 ≤ (s.binds.filter fun b => b.vf == vfOf s s.iss.g).length) then
          .trap 0x05 (BitVec.ofNat 64 a)
        else .ok))

def execBind (p : Syl) (o : AB) (s : State) : Res :=
  issue p s fun s =>
    let c := issuer s
    if !o.m then .next s
    else if laqFull c then stall s
    else
      let fm := aForm c (.bind p o)
      let h := c.rdH o.base.val
      match chkBind s o h (fm.base + fm.off).toNat (extraX c (.bind p o)) (extraY c (.bind p o)) with
      | .stall => stall s
      | .trap cause info => trapNow s cause info
      | .ok => .next (pushReq s (.bind p o) fm (some h))

end Sys2Proof.Machine
end

