-- ==== Sys2Proof/Machine/Barrier.lean ====
section
/-!
DEFINITION. Barrier slots (R156 to R159) and the end of a context (R143, R159).
-/
namespace Sys2Proof.Machine

/-- A slot without a group. -/
def BarSlot.free : BarSlot := { gid := 0, exp := 0, arr := 0, phase := false }

/-- The physical slot that group gid names n. -/
def barKey (s : State) (gid n : Nat) : Nat := (getGroup s gid).slots.getD n 16
def getBar (s : State) (gid n : Nat) : BarSlot :=
  tget BarSlot.free (getClu s (getGroup s gid).cluster).bars (barKey s gid n)
def modBar (s : State) (gid n : Nat) (f : BarSlot → BarSlot) : State :=
  modClu s (getGroup s gid).cluster fun c => { c with bars := tset c.bars (barKey s gid n) (f (getBar s gid n)) }

/-- Context c has arrived in the open phase of slot n. -/
def Ctx.hasArrived (c : Ctx) (n : Nat) : Bool := c.arrived.getLsbD n

/-- CompletePhase (R157). -/
def completePhase (s : State) (gid n : Nat) : State :=
  let s1 := modBar s gid n fun b => { b with arr := 0, phase := !b.phase }
  (getGroup s gid).ctxs.foldl
    (fun s x => modCtx s x fun c => { c with arrived := setField c.arrived n 1 0 }) s1

/-- The arrival is marked now and counted after the requests pushed before the course (R157). -/
def arrive (s : State) (g n : Nat) : State :=
  modCtx s g fun c => { c with arrived := setField c.arrived n 1 1, uncounted := c.uncounted ++ [(n, c.reqSeq)] }

/-- Count an arrival (R157). -/
def countArrival (s : State) (g n : Nat) : State :=
  let gid := (getCtx s g).gid
  let s1 := modBar s gid n fun b => { b with arr := b.arr + 1 }
  let b := getBar s1 gid n
  if b.arr = b.exp then completePhase s1 gid n else s1

/-- An exiting context leaves slot n (R159); `arrived` says whether its counted arrival stands in the open phase. -/
def leaveSlot (s : State) (g n : Nat) (arrived : Bool) : State :=
  let gid := (getCtx s g).gid
  let s1 := modBar s gid n fun b => { b with exp := b.exp - 1, arr := if arrived then b.arr - 1 else b.arr }
  let b := getBar s1 gid n
  if 0 < b.exp ∧ b.arr = b.exp then completePhase s1 gid n else s1

/-- An arrival in slot n is still to be counted. -/
def Ctx.toCount (c : Ctx) (n : Nat) : Bool := c.uncounted.any fun x => x.1 == n

/-- Leave every slot but those in which an arrival is still to be counted: the context leaves them once it has been, so that
what it pushed before arriving is performed before the phase completes (R158, R159; log 13). -/
def leaveBarriers (s : State) (g : Nat) : State :=
  (List.range (groupOf s g).slots.length).foldl
    (fun s n => if (getCtx s g).toCount n then s else leaveSlot s g n ((getCtx s g).hasArrived n)) s

/-- A request that takes an SDQ operand has its entry (R143). -/
def Ctx.hasEntry (c : Ctx) (q : Req) : Bool :=
  match q.sdq with
  | some n => c.sdq.any fun e => e.seq == n
  | none => true

/-- What of LAQ is still performed after EXIT (R143). -/
def Ctx.survives (c : Ctx) (q : Req) : Bool :=
  match aop q.op with
  | .lda _ _ => false
  | .ldv _ _ => false
  | .hchk => false
  | _ => c.hasEntry q

/-- A discarded .fw or .fwc load that has not yet gone to its peer makes no access (R143). -/
def dropUnsent (s : State) (g : Nat) : State :=
  let gone (id : Nat) : Bool := match tfind s.txns id with
    | some t => t.src == .ctx g && t.kind == .fe && (t.fe == 1 || t.fe == 2) && t.sent == 0
    | none => false
  { s with txns := s.txns.filter fun e => !(s.fab.inject.contains e.1 && gone e.1)
           fab := { s.fab with inject := s.fab.inject.filter fun id => !gone id } }

/-- The context executes EXIT (R143, R159): what a trap entry held of its results and requests goes on as if it had returned. -/
def exitContext (s : State) (g : Nat) : State :=
  let now := localTime s (coreOf g)
  let s1 := modCtx (dropUnsent s g) g fun c =>
    { c.release now true with phase := .exited, ldq := [], barAt := none, hld := false,
                              laq := (c.laq.filter c.survives).map fun q => { q with trap := false } }
  leaveBarriers s1 g

/-- The slot N of a barrier syllable is the group's (R157). -/
def withSlot (p : Syl) (n : Nat) (s : State) (f : State → Res) : Res :=
  issue p s fun s => if (groupOf s s.iss.g).slots.length ≤ n then trapFree s 0x03 else f s

/-- The course waits, and what its M syllable has already done stays. -/
def waitWith (s : State) : Res := .next { s with iss := { s.iss with fate := .stall } }

/-- BAR (R157): arrive, then wait. `barAt` remembers that this course has arrived. -/
def execBar (p : Syl) (n : Fin 16) (s : State) : Res :=
  withSlot p n.val s fun s =>
    let c := issuer s
    if c.barAt = some s.iss.pc then
      if c.hasArrived n.val then waitWith s else .next (modIssuer s fun c => { c with barAt := none })
    else if c.hasArrived n.val then waitWith s
    else waitWith (modCtx (arrive s s.iss.g n.val) s.iss.g fun c => { c with barAt := some s.iss.pc })

/-- BARA (R157): arrive without waiting, but for an arrival in a phase still open. -/
def execBara (p : Syl) (n : Fin 16) (s : State) : Res :=
  withSlot p n.val s fun s => if (issuer s).hasArrived n.val then waitWith s else .next (arrive s s.iss.g n.val)

/-- BARW (R157): wait for the phase in which the context last arrived. -/
def execBarw (p : Syl) (n : Fin 16) (s : State) : Res :=
  withSlot p n.val s fun s => if (issuer s).hasArrived n.val then waitWith s else .next s

/-- BARRIER_ARRIVAL_COUNT (R157, R159, R224): once every earlier request has been performed; a context that has exited then
leaves the slot. -/
def execBarrierArrivalCount (g slot : Nat) (s : State) : Res :=
  let c := getCtx s g
  match c.uncounted.find? fun u => u.1 == slot with
  | none => .next s
  | some (_, seq) =>
    if earlierDone s g seq then
      let s1 := modCtx s g fun c => { c with uncounted := c.uncounted.filter fun u => u.1 != slot }
      let s2 := countArrival s1 g slot
      .next (if c.phase == .exited then leaveSlot s2 g slot ((getCtx s2 g).hasArrived slot) else s2)
    else .next s

end Sys2Proof.Machine
end

