-- ==== Sys2Proof/Machine/Route.lean ====
section
/-!
DEFINITION. The fabric's wiring (R380), virtual channels (R397), weights (R398), routes (R396, R399) and the escape
channel (R400, R402). A message is queued here with its output port; the flits are sent in Machine/Links.lean.
-/
namespace Sys2Proof.Machine

/-! Ports. -/

/-- STATE of a port (R393): 2 is up. -/
def portState (s : State) (p : Nat) : Nat := rfld s (rport p) 1 3
def portUp (s : State) (p : Nat) : Bool := portState s p == 2
def txMap (s : State) (p : Nat) : Nat := rfld s (rport p) 4 8
def rxMap (s : State) (p : Nat) : Nat := rfld s (rport p) 12 8
def portPeer (s : State) (p : Nat) : Nat := rfld s (rport p) 20 14
def laneReg (p i : Nat) : Nat := rport p + 64 + 8 * i
def laneScore (s : State) (p i : Nat) : Nat := rfld s (laneReg p i) 0 8
/-- Ordinals of a lane map: its lanes in ascending order (R385). -/
def lanesOf (map : Nat) : List Nat := (List.range 8).filter fun i => map.testBit i

/-- FABCFG.EN: the module routes and has joined the fabric (R411). -/
def fabOn (s : State) : Bool := rbit s fabcfg 0
/-- NG; 0 is taken as 1 (R411). -/
def numGroups (s : State) : Nat := max 1 (rfld s fabcfg 15 10)

/-- The local port of position x toward position q (R380). -/
def localPort (x q : Nat) : Nat := if q < x then q else q - 1
/-- Parallel links per pair of groups. -/
def parLinks (ng : Nat) : Nat := if ng < 2 then 0 else 512 / (ng - 1)
/-- The global links of group g toward group h: the link here and the link there. -/
def linksTo (ng g h : Nat) : List (Nat × Nat) :=
  let k := (h + ng - g % ng - 1) % ng
  (List.range (parLinks ng)).map fun c => (c * (ng - 1) + k, c * (ng - 1) + (ng - 2 - k))

/-- The peer that R380 wires to port p of module m: its number and its port. -/
def wiredPeer (ng m p : Nat) : Option (Nat × Nat) :=
  let x := m % 32
  if p < 31 then
    let q := if p < x then p else p + 1
    some (m / 32 * 32 + q, if x < q then x else x - 1)
  else
    let l := 16 * x + (p - 31)
    if ng < 2 ∨ 512 < (l / (ng - 1) + 1) * (ng - 1) then none
    else
      let k := l % (ng - 1)
      let l' := l / (ng - 1) * (ng - 1) + (ng - 2 - k)
      some (32 * ((m / 32 + 1 + k) % ng) + l' / 16, 31 + l' % 16)

/-! Messages. -/

/-- Requests have OP below 0x10 and the PULL, PAGEDATA, collective and REDIRACK messages; 0x10 to 0x1F respond (R394,
R434). -/
def msgResp (m : Msg) : Bool := decide (0x10 ≤ m.op) && decide (m.op < 0x20)
def msgCls (m : Msg) : Nat := if msgResp m then 1 else 0
/-- Data bytes that travel: a READ only names how many it wants (log 14). -/
def msgDataLen (m : Msg) : Nat := if m.op = 1 then 0 else m.len
/-- Flits of a message (R394). -/
def msgFlits (m : Msg) : Nat := 1 + (msgDataLen m + 47) / 48

/-- A message without content. -/
def msgBlank (dst src op : Nat) : Msg :=
  { dst := dst, src := src, op := op, len := 0, vf := 0, dl := false, esc := false, ep := false, hops := 0, ph := 0,
    nm := false, tag := 0, ig := 0, sub := 0, size := 0, sq := 0, addr := 0, cnt := 0, cu := false, opa := 0, opb := 0,
    data := 0 }

/-! Weights and candidates. -/

/-- Q(p) of a class (R398). -/
def queuedFlits (s : State) (p cls : Nat) : Nat :=
  min 1023 ((s.fab.queue.filter fun q => q.port == some p && q.vc / 4 == cls && decide (q.vc % 4 < 3)).foldl
    (fun n q => n + (msgFlits q.m - q.sent)) 0)

/-- W(p) (R398). -/
def weight (s : State) (p cls : Nat) : Nat :=
  let ls := lanesOf (txMap s p)
  ((queuedFlits s p cls + 1) * 8) / max 1 ls.length + (ls.foldl (fun h i => max h (laneScore s p i)) 0) / 16

/-- A candidate: cost, first port. -/
def bestOf (l : List (Nat × Nat)) : Option (Nat × Nat) :=
  l.foldl (fun acc x =>
    match acc with
    | none => some x
    | some y => if x.1 < y.1 ∨ (x.1 = y.1 ∧ x.2 < y.2) then some x else acc) none

/-- The first port at position x toward link l of the own group. -/
def firstPort (x l : Nat) : Nat := if l / 16 = x then 31 + l % 16 else localPort x (l / 16)

/-- Hops from position x to position d of the group behind the link pair. -/
def hopsVia (x d : Nat) (l : Nat × Nat) : Nat :=
  (if l.1 / 16 = x then 1 else 2) + (if l.2 / 16 = d then 0 else 1)

/-- The fewest hops from position x of group g to position d of group h. -/
def minHops (ng g x h d : Nat) : Nat :=
  (linksTo ng g h).foldl (fun n l => min n (hopsVia x d l)) 3

/-- One draw of the Ridge die's generator (R399). -/
def drawRoute (s : State) : Nat × State :=
  let x := stepGen s.fab.gen
  (x.toNat, { s with fab := { s.fab with gen := x } })

/-- The n-th group other than a and b. -/
def otherThan (n lim a b : Nat) : Nat := ((List.range lim).filter fun g => g != a && g != b).getD n 0

/-- The route chosen at the source (R399): port, non-minimal, intermediate group; none for the escape VC. -/
def sourceRoute (s : State) (m : Msg) : State × Option (Nat × Bool × Nat) :=
  let me := moduleNo s
  let ng := numGroups s
  let g := me / 32
  let x := me % 32
  let h := m.dst / 32
  let d := m.dst % 32
  let bias := rfld s (fabcfg + 8) 0 16
  let up (l : List (Nat × Nat)) : List (Nat × Nat) := l.filter fun c => portUp s c.2
  let choose (best : Option (Nat × Nat)) (alts : List (Nat × Nat × Nat)) : Option (Nat × Bool × Nat) :=
    let alt := alts.foldl (fun (acc : Option (Nat × Nat × Nat)) a =>
      match acc with
      | none => some a
      | some b => if a.1 < b.1 ∨ (a.1 = b.1 ∧ a.2.1 < b.2.1) then some a else acc) none
    match best, alt with
    | some b, some a => if a.1 + bias < b.1 then some (a.2.1, true, a.2.2) else some (b.2, false, 0)
    | some b, none => some (b.2, false, 0)
    | none, some a => some (a.2.1, true, a.2.2)
    | none, none => none
  if g = h then
    let p := localPort x d
    let best := bestOf (up [(weight s p (msgCls m), p)])
    let (r1, s1) := drawRoute s
    let (r2, s2) := drawRoute s1
    let alts := up ([r1, r2].map fun r => let q := localPort x (otherThan (r % 30) 32 x d); (2 * weight s q (msgCls m), q))
    (s2, choose best (alts.map fun a => (a.1, a.2, 0)))
  else
    let best := bestOf (up ((linksTo ng g h).map fun l =>
      let p := firstPort x l.1
      (weight s p (msgCls m) * hopsVia x d l, p)))
    if ng < 3 then (s, choose best [])
    else
      let (r1, s1) := drawRoute s
      let (r2, s2) := drawRoute s1
      let alts := [r1, r2].filterMap fun r =>
        let i := otherThan (r % (ng - 2)) ng g h
        (bestOf (up ((linksTo ng g i).map fun l =>
          let p := firstPort x l.1
          (weight s p (msgCls m) * ((if l.1 / 16 = x then 1 else 2) + minHops ng i (l.2 / 16) h d), p)))).map
            fun c => (c.1, c.2, i)
      (s2, choose best alts)

/-- The next port of a message in transit (R399): at the entry to a group the link of least weight, elsewhere as the
route fixes it. `glob` says that it came by a global hop. A local hop toward another group leads to one of its links here, that of the
fewest hops left, then the lowest: the candidate that the choice has kept (log 45). -/
def transitPort (s : State) (m : Msg) (glob : Bool) : Option Nat :=
  let me := moduleNo s
  let ng := numGroups s
  let g := me / 32
  let x := me % 32
  let t := if m.nm && m.ph == 0 && m.src / 32 != m.dst / 32 then m.ig else m.dst / 32
  if g = t then
    let p := localPort x (m.dst % 32)
    if portUp s p then some p else none
  else
    let ls := linksTo ng g t
    let left (l : Nat × Nat) : Nat :=
      if t = m.dst / 32 then (if l.2 / 16 = m.dst % 32 then 0 else 1) else minHops ng t (l.2 / 16) (m.dst / 32) (m.dst % 32)
    match if glob then none else bestOf ((ls.filter fun l => l.1 / 16 == x).map fun l => (left l, firstPort x l.1)) with
    | some (_, p) => if portUp s p then some p else none
    | none => (bestOf ((ls.map fun l => let p := firstPort x l.1; (weight s p (msgCls m), p)).filter fun c => portUp s c.2)).map (·.2)

/-- The phase of the hop through port p (R397): a global hop, and the second hop of a non-minimal route within a group,
raise it. -/
def hopPhase (m : Msg) (p : Nat) (source : Bool) : Nat :=
  if 31 ≤ p then min 2 (m.ph + 1) else if !source && m.nm && m.src / 32 == m.dst / 32 then 1 else m.ph

/-! The escape channel. -/

/-- The installed table of a parity. -/
def escTable (s : State) (ep : Bool) : Option ETable := s.fab.tree.tabs.find? fun t => (t.epoch % 2 == 1) == ep
/-- An epoch is installed. -/
def escInstalled (s : State) : Bool := rbit s (fabcfg + 16) 50
/-- The next hop of a table toward a module: the child that holds it, else the parent. -/
def escNext (t : ETable) (d : Nat) : Option Nat :=
  match t.kids.find? fun k => k.2.getLsbD d with
  | some k => some k.1
  | none => if t.parent = 63 then none else some t.parent

/-- Virtual channels and credit channels (R388): VCs 3 and 7 have a channel of their own at epoch parity 1. -/
def creditChan (vc : Nat) (ep : Bool) : Nat := if vc % 4 = 3 && ep then 8 + vc / 4 else vc
/-- Buffers of a channel. -/
def chanBuffers (ch : Nat) : Nat := if 8 ≤ ch || ch % 4 = 3 then 16 else 64
/-- n buffers of the channel are free at the peer. -/
def creditsFree (s : State) (p ch n : Nat) : Bool :=
  decide (tget 0 (getPort s p).given ch + n ≤ tget 0 (getPort s p).ret ch + chanBuffers ch)
/-- A buffer of the channel is free at the peer. -/
def creditFree (s : State) (p ch : Nat) : Bool := creditsFree s p ch 1

/-- Epoch e is later than f, modulo 2^16 (R401). -/
def laterEpoch (e f : Nat) : Bool := e % 65536 != f % 65536 && decide ((e + 65536 - f % 65536) % 65536 < 32768)

/-- The hop of a message on the escape VC (R400, R402): on its own table, else on a newer one with a free buffer; else it
waits, for at most 50 microseconds. -/
def escHop (s : State) (q : QMsg) : State × QMsg :=
  let vc := 4 * msgCls q.m + 3
  let via (t : ETable) : Option Nat := match escNext t q.m.dst with
    | some p => if portUp s p then some p else none
    | none => none
  let own := escTable s q.m.ep
  match own.bind via with
  | some p => (s, { q with port := some p, vc := vc, head := 0 })
  | none =>
    let newer := s.fab.tree.tabs.find? fun t =>
      (match own with
       | some o => laterEpoch t.epoch o.epoch
       | none => true) &&
      (match via t with
       | some p => creditFree s p (creditChan vc (t.epoch % 2 == 1))
       | none => false)
    match newer with
    | some t => (s, { q with m := { q.m with ep := t.epoch % 2 == 1 }, port := via t, vc := vc, head := 0 })
    | none =>
      if q.port.isNone && q.head ≠ 0 then (s, { q with vc := vc })
      else
        (after s (50 * Config.cyclesPerUs) (.escapeTableWaitExpire q.id), { q with port := none, vc := vc, head := s.clock + 1 })

/-- Enter the escape VC under the installed table; without one the message waits on its adaptive VC (R400). -/
def enterEscape (s : State) (q : QMsg) : State × QMsg :=
  let ep := rfld s (fabcfg + 16) 0 16 % 2 == 1
  if escInstalled s then escHop s { q with m := { q.m with esc := true, ep := ep }, port := none, head := 0 }
  else (s, { q with port := none, head := 0 })

/-- Choose the port of a message: at its source, in transit, or on the escape VC. -/
def chooseRoute (s : State) (q : QMsg) : State × QMsg :=
  if q.m.esc then escHop s q
  else if q.m.src = moduleNo s ∧ q.m.hops = 0 then
    match sourceRoute s { q.m with nm := false, ig := 0 } with
    | (s1, some (p, nm, ig)) =>
      (s1, { q with m := { q.m with nm := nm, ig := ig }, port := some p, vc := 4 * msgCls q.m + hopPhase q.m p true, head := 0 })
    | (s1, none) => enterEscape s1 q
  else
    match transitPort s q.m q.glob with
    | some p => (s, { q with port := some p, vc := 4 * msgCls q.m + hopPhase q.m p false, head := 0 })
    | none => enterEscape s q

/-- The message with its route at the end of the queue. -/
def addQueue (s : State) (q : QMsg) : State := { s with fab := { s.fab with queue := s.fab.queue ++ [q] } }

/-- Queue a message with a number of its own. -/
def queueMsg (s : State) (m : Msg) (glob : Bool) (inp : Option (Nat × Nat)) : State :=
  let (id, s1) := fresh s
  let (s2, q) := chooseRoute s1
    { id := id, m := m, port := none, vc := 4 * msgCls m, sent := 0, seqs := [], head := 0, glob := glob, inp := inp }
  addQueue s2 q

/-- Send a message of this module's: one for the module itself never reaches the fabric (R176). -/
def sendMsg (s : State) (m : Msg) : State :=
  if m.dst = moduleNo s then { s with fab := { s.fab with arrived := s.fab.arrived ++ [m] } } else queueMsg s m false none

/-- A response to request m (R395): it goes back under its TAG; nothing goes to another module that is fenced (R405). -/
def respond (s : State) (m : Msg) (op : Nat) (len : Nat) (opa opb : Word64) (data : VWord) : State :=
  if m.src != moduleNo s && rbit s (fencedMap + m.src / 64 * 8) (m.src % 64) then s
  else sendMsg s { msgBlank m.src (moduleNo s) op with
                   len := len, vf := m.vf, dl := m.dl, tag := m.tag, opa := opa, opb := opb, data := data }

/-- An ERROR response with its status. -/
def respondError (s : State) (m : Msg) (status : Nat) : State := respond s m 0x1F 0 (BitVec.ofNat 64 status) 0 0

end Sys2Proof.Machine
end

