-- ==== Sys2Proof/Machine/Registers.lean ====
section
/-!
DEFINITION. The registers of tier 3 as software reads and writes them (R11, R181, R182): which bits a write changes, what
a read returns, and what a write starts. A start is put on the agenda as the machine event of the table that performs it.
-/
namespace Sys2Proof.Machine

/-- Bits [lo + n - 1 : lo]. -/
def bitsM (lo n : Nat) : Nat := ones n * 2 ^ lo

/-- What a write does to a register word: bits it replaces, bits that a 1 clears. -/
structure RegSpec where
  rw  : Nat
  w1c : Nat
deriving DecidableEq, Repr

def rwOnly (m : Nat) : Option RegSpec := some { rw := m, w1c := 0 }
def readOnly : Option RegSpec := rwOnly 0

/-- The word j of a block of registers: entries of a list. -/
def wordSpec (l : List Nat) (j : Nat) : Option RegSpec := rwOnly (l.getD j 0)

/-- The writable bits of the word at offset o (a multiple of 8) of the register space; none where no chapter assigns a
register. -/
def regSpec (o : Nat) : Option RegSpec :=
  let all := ones 64
  if o < 16 * 7 then readOnly
  else if 0x10000 ≤ o ∧ o < 0x10000 + 8 * 256 then rwOnly all
  else if 0x20000 ≤ o ∧ o < 0x20000 + 32 * 128 then
    wordSpec [1 + bitsM 18 32, bitsM 5 45, bitsM 3 47, bitsM 0 13 + bitsM 32 16] (o % 32 / 8)
  else if 0x30000 ≤ o ∧ o < 0x30020 then wordSpec [bitsM 16 41, bitsM 16 41, bitsM 0 7] (o % 32 / 8)
  else if 0x40000 ≤ o ∧ o < 0x40000 + 16 * 512 then
    (if o % 16 = 0 then readOnly else some { rw := 0, w1c := 1 })
  else if 0x50000 ≤ o ∧ o < 0x50000 + 8 * 128 then rwOnly all
  else if 0x60000 ≤ o ∧ o < 0x60000 + 16 * 128 then wordSpec [bitsM 0 50, bitsM 32 32] (o % 16 / 8)
  else if 0x70000 ≤ o ∧ o < 0x70000 + 8 * 64 then rwOnly (bitsM 0 57)
  else if 0x90000 ≤ o ∧ o < 0x90010 then wordSpec [bitsM 0 50] (o % 16 / 8)
  else if 0xA0000 ≤ o ∧ o < 0xA0000 + 32 * 1024 then wordSpec [bitsM 0 20] (o % 32 / 8)
  else if 0xB0000 ≤ o ∧ o < 0xB0000 + 512 * 128 then
    wordSpec [bitsM 0 15 + bitsM 16 16, bitsM 1 49] (o % 32 / 8)
  else if o = 0xC0000 then rwOnly 3
  else if 0xC0100 ≤ o ∧ o < 0xC0100 + 32 * 24 then wordSpec [all, bitsM 0 41] (o % 32 / 8)
  else if 0xC1000 ≤ o ∧ o < 0xC1000 + 16 * 128 then
    (if o % 16 = 0 then some { rw := bitsM 0 6, w1c := 64 } else rwOnly (bitsM 0 57))
  else if 0xD0000 ≤ o ∧ o < 0xD0000 + 32 * 128 then wordSpec [bitsM 0 50, bitsM 32 32, 1] (o % 32 / 8)
  else if 0xE0000 ≤ o ∧ o < 0xE0020 then wordSpec [bitsM 0 50, 0, all, 0] (o % 32 / 8)
  else if 0xF0000 ≤ o ∧ o < 0xF0000 + 32 * 4 then
    (if o % 32 = 0 then some { rw := 1 + bitsM 2 15, w1c := 2 } else wordSpec [0, bitsM 0 50, bitsM 0 32] (o % 32 / 8))
  else if 0x100000 ≤ o ∧ o < 0x100000 + 64 * 1024 then wordSpec [bitsM 0 57, bitsM 0 22] (o % 16 / 8)
  else if 0x120000 ≤ o ∧ o < 0x120000 + 128 * 47 then
    wordSpec [1 + bitsM 40 12, 0, 0, bitsM 0 16] (o % 128 / 8)
  else if 0x130000 ≤ o ∧ o < 0x130020 then wordSpec [bitsM 0 25, bitsM 0 48] (o % 32 / 8)
  else if 0x131000 ≤ o ∧ o < 0x132000 then readOnly
  else if 0x140000 ≤ o ∧ o < 0x140000 + 512 * 128 then wordSpec [bitsM 0 9, bitsM 4 46, bitsM 3 47] (o % 32 / 8)
  else if 0x150000 ≤ o ∧ o < 0x150000 + 64 * 128 then
    wordSpec [1 + bitsM 5 21, bitsM 16 41, bitsM 16 41, bitsM 0 50] (o % 64 / 8)
  else if 0x152000 ≤ o ∧ o < 0x152000 + 64 * 128 then wordSpec [bitsM 0 23, bitsM 16 41, bitsM 16 41] (o % 64 / 8)
  else if 0x160000 ≤ o ∧ o < 0x160000 + 32 * 128 then wordSpec [1, bitsM 16 41] (o % 32 / 8)
  else if 0x170000 ≤ o ∧ o < 0x170020 then wordSpec [3, bitsM 12 52] (o % 32 / 8)
  else if 0x180000 ≤ o ∧ o < 0x180010 then wordSpec [bitsM 5 1] (o % 16 / 8)
  else if 0x190000 ≤ o ∧ o < 0x190000 + 32 * 12 then readOnly
  else if 0x1A0000 ≤ o ∧ o < 0x1A0010 then wordSpec [bitsM 0 16 + bitsM 32 24] (o % 16 / 8)
  else if 0x1B0000 ≤ o ∧ o < 0x1B0108 then readOnly
  else if 0x1C0000 ≤ o ∧ o < 0x1C0020 then readOnly
  else if 0x1C0040 ≤ o ∧ o < 0x1C0080 then readOnly
  else if 0x1D0000 ≤ o ∧ o < 0x1D0000 + 32 * 5 then
    wordSpec [1 + bitsM 6 51, 1 + bitsM 13 37, bitsM 32 32] (o % 32 / 8)
  else if 0x200000 ≤ o ∧ o < 0x200000 + 512 * 128 then
    wordSpec [bitsM 0 4, bitsM 0 50, bitsM 0 20, bitsM 0 50] (o % 32 / 8)
  else if 0x300000 ≤ o ∧ o < 0x300000 + 1024 * 256 ∧ o % 1024 < 512 then
    wordSpec [bitsM 0 8, bitsM 0 52, bitsM 0 21 + bitsM 32 16] (o % 32 / 8)
  else if 0x400000 ≤ o ∧ o < 0x400000 + 1024 * 1024 then
    wordSpec [bitsM 0 57 + bitsM 63 1, all, all, all, all, all, all, all] (o % 64 / 8)
  else none

/-- The capability list (R450): seven records, placed one after another (log 15). -/
def capWord (o : Nat) : Nat :=
  let i := o / 16
  if o % 16 = 0 then
    (i + 1) + Config.capabilityVersion i % 256 * 2 ^ 16 + (if i = 6 then 0 else 16 * (i + 1)) * 2 ^ 32
  else RA ([0x130000, 0x140000, 0x150000, 0x160000, 0x190000, 0x1B0000, 0x1C0000].getD i 0)

/-- Write-only ports: ARCONT and REDIRACK. -/
def isArcont (o : Nat) : Bool := decide (0x240000 ≤ o) && decide (o < 0x240000 + 128 * 128)
def isRedirack (o : Nat) : Bool := decide (0x154000 ≤ o) && decide (o < 0x154000 + 8 * 128)

/-- A message of this module belongs to a steward's request, which carries no VF tag (R341). -/
def stewUse (s : State) (u : Use) : Bool :=
  match u with
  | .txn id => match tfind s.txns id with
    | some t => (t.tag s).isNone
    | none => false
  | _ => false
def stewMsg (s : State) (m : Msg) : Bool :=
  m.src == moduleNo s && match tfind s.fab.outst m.tag with
    | some o => o.m.op == m.op && stewUse s o.use
    | none => false

/-- MIGS.QUIET (R423): no request tagged v remains; what a hold keeps in LAQ has not left. -/
def migQuiet (s : State) (v : Nat) : Bool :=
  (s.txns.all fun e => e.2.tag s != some v) && (s.banks.all fun b => b.2.all fun p => p.txn.tag s != some v) &&
  (s.walks.all fun e => e.2.vf != v) && (s.fab.outst.all fun e => e.2.m.vf != v || stewUse s e.2.use) &&
  (s.fab.queue.all fun q => q.m.vf != v || stewMsg s q.m) &&
  (s.cores.all fun c => c.2.rels.all fun r => vfOf s r.g != v || isSteward r.g) &&
  s.ctxs.all fun c => c.2.frozen || c.2.laq.isEmpty || isSteward c.1 || vfOf s c.1 != v

/-- Read n bytes (4 or 8) of a register: a register no chapter assigns, and a port without a read value, give free bits
(log 6). -/
def regRead (s : State) (pa n : Nat) : Nat × State :=
  let o := (pa - regBase) / 8 * 8
  let cut (x : Nat) : Nat := if n = 4 then x / 2 ^ (8 * (pa % 8)) % 2 ^ 32 else x
  if o < 16 * 7 then (cut (capWord o), s)
  else
    match regSpec o with
    | some _ =>
      -- command slots that a pseudo-channel has borrowed since it was last read (R205, R207; log 88)
      let s := if 0x40000 ≤ o ∧ o < 0x40000 + 16 * 512 ∧ o % 16 = 0 then
          (let (n, s1) := draw s; rsetF s1 (regBase + o) 48 16 ((rfld s (regBase + o) 48 16 + n) % 2 ^ 16))
        else s
      let x := rget s (regBase + o)
      if 0x150000 ≤ o ∧ o < 0x150000 + 64 * 128 ∧ o % 64 = 0 then
        (cut (setField x 1 1 (if migQuiet s ((o - 0x150000) / 64) then 1 else 0)).toNat, s)
      else (cut x.toNat, s)
    | none =>
      let (x, s1) := drawBits s
      (x.toNat % 2 ^ (8 * n), s1)

/-- Only the host's physical function and steward contexts write ISOCFG and PART (R362). -/
def mayWrite (src : ReqSrc) (o : Nat) : Bool :=
  if 0xC0000 ≤ o ∧ o < 0xC0400 then
    match src with
    | .ctx g _ => isSteward g
    | .host _ => true
    | .hw => true
  else true

/-- R182 for a register access. A host function of VF v reaches ARCONT of its own VF (R415; log 105). -/
def regAllowed (s : State) (src : ReqSrc) (pa : Nat) (write : Bool) (n : Nat) : Bool :=
  (n == 4 || n == 8) &&
  match src with
  | .ctx g sys => sys || userReg s (vfOf s g) pa write n
  | .host none => true
  | .host (some v) => write && n == 8 && isArcont (pa - regBase) && (pa - regBase - 0x240000) / 128 == v
  | .hw => true

/-- A user-mode write of an arming entry whose VF field is not the writer's own is refused (R182, R282). -/
def foreignArm (s : State) (src : ReqSrc) (pa c : Nat) : Bool :=
  match src with
  | .ctx g false => RA 0x300000 ≤ pa && pa % 32 == 0 && c / 2 % 2 ^ 7 != vfOf s g
  | _ => false

/-- The units of VF v's migration range whose leaves name a reserved frame of this module (R422, R424). -/
def migScan (s : State) (v : Nat) : List MigUnit :=
  let lo := rfld s (migd v + 8) 16 41
  let hi := rfld s (migd v + 16) 16 41
  ((List.range (hi - lo)).map (lo + ·)).filterMap fun u =>
    match walkEntry s v (u * 2 ^ 16) with
    | some (e, _) =>
      let h := handleOf (u * 2 ^ 16) e 0
      if hMig h == 1 || hMig h == 2 then
        some { v := v, unit := u, frame := handlePa h (u * 2 ^ 16) / 2 ^ 16, pulled := false, got := 0, bits := 0, stamp := 0 }
      else none
    | none => none

/-- The event that performs a part at its home. -/
def performEvent (t : Txn) (id : Nat) : Instr :=
  match t.kind with
  | .load => .loadPerform id
  | .store => match t.src with
    | .chan _ _ => .copyPartLand id
    | _ => .storePerform id
  | .atomic => .atomicPerform id
  | .acquire => .syncAcquireStep id
  | .release => .syncReleaseStep id
  | .pcmd => .pumpPartEnqueue id
  | .fe => .loadPerform id
  | .pageData => .storePerform id

/-- Requests leave the list of those held for units of VF v. -/
def heldDrop (s : State) (v : Nat) (l : List Nat) : State :=
  let s1 := { s with mig := { s.mig with held := s.mig.held.filter fun id => !l.contains id } }
  rsetF s1 (migd v + 24) 32 32 (rfld s1 (migd v + 24) 32 32 - l.length)
/-- Requests held for units of VF v go on in their order (R422). -/
def unhold (s : State) (v : Nat) (l : List Nat) : State :=
  l.foldl (fun s id => match tfind s.txns id with
    | some t => after { s with txns := tset s.txns id { t with held := false } } 0 (performEvent t id)
    | none => s) (heldDrop s v l)

/-- The requests held for a unit, in arrival order. -/
def heldOf (s : State) (u : MigUnit) : List Nat :=
  s.mig.held.filter fun id => match tfind s.txns id with
    | some t =>
      match t.kind with
      | .load => t.rd.any fun x => x.1 / 2 ^ 16 == u.frame
      | .store => t.wr.any fun c => c.pa / 2 ^ 16 == u.frame
      | _ => t.pa / 2 ^ 16 == u.frame
    | none => false

/-- MIGD.EN changes: the units that are served, and PEND. Where EN is cleared nothing is held any more (log 106). -/
def migServe (s : State) (v : Nat) (on : Bool) : State :=
  let l := if on then migScan s v else []
  let old := s.mig.units.filter fun u => u.v == v
  let s1 := { s with mig := { s.mig with units := (s.mig.units.filter fun u => u.v != v) ++ l } }
  unhold (rsetF s1 (migd v + 24) 0 32 l.length) v (if on then [] else old.flatMap (heldOf s))

/-- BMAP's byte of a unit (R423). -/
def bmapAt (s : State) (v u : Nat) : Nat := rfld s (migs v + 24) 0 50 + (u - rfld s (migs v + 8) 16 41)
/-- Every unit of the source's range is sent. -/
def unitsSent (s : State) (v : Nat) : Bool :=
  let lo := rfld s (migs v + 8) 16 41
  let hi := rfld s (migs v + 16) 16 41
  decide (lo < hi) && (List.range (hi - lo)).all fun i => mread s (bmapAt s v (lo + i)) == 2

/-- A write of MIGS: ALLSENT says whether the range as it now stands is sent; EN set again begins with forwarding open, EN cleared
ends the redirections of the seals (R423; log 106). -/
def migsWritten (s : State) (v : Nat) (was now : Bool) : State :=
  let s1 := rsetF s (migs v) 2 1 (if now && unitsSent s v then 1 else 0)
  if was && !now then { s1 with mig := { s1.mig with seals := s1.mig.seals.filter fun x => x.v != v } }
  else if !was && now then rsetF s1 (migs v) 4 1 0
  else s1

/-- What a write of the word at offset o starts, once the word holds its new value. `w` is the value written, 0 in bits that the
access does not cover, `new` the word as the access leaves it before reserved and read-only bits are put back; `low` says
that it covers bits [31:0]. -/
def regEffects (s : State) (src : ReqSrc) (o : Nat) (old w new : Word64) (low : Bool) : State :=
  let v (base size : Nat) : Nat := (o - base) / size
  if 0x10000 ≤ o ∧ o < 0x10000 + 8 * 256 then
    (if w.getLsbD 0 && !old.getLsbD 0 then
       { s with disp := { s.disp with fresh := tset s.disp.fresh ((o - 0x10000) / 8) true } }
     else s)
  else if o = 0x30010 then (if w.getLsbD 8 then after (rset s (hinval + 16) (rget s (hinval + 16) ||| 0x100)) 0 .hinvalStart else s)
  else if 0xD0000 ≤ o ∧ o < 0xD0000 + 32 * 128 then
    (if o % 32 = 24 then (if low then after s 0 (.faultResume (v 0xD0000 32) (w.toNat % 2 ^ 32)) else s)
     else after s 0 (.faultRingRoom (v 0xD0000 32)))
  else if 0xE0000 ≤ o ∧ o < 0xE0020 then after s 0 .eventRingRoom
  else if 0xF0000 ≤ o ∧ o < 0xF0080 ∧ o % 32 = 0 then
    (if w.getLsbD 0 && !old.getLsbD 0 then rset s (RA o + 24) 0 else s)
  else if 0x120000 ≤ o ∧ o < 0x120000 + 128 * 47 then
    let p := v 0x120000 128
    if o % 128 = 0 then (if new.getLsbD 0 != old.getLsbD 0 then after s 0 (.portEnableWrite p (new.getLsbD 0)) else s)
    else if 64 ≤ o % 128 ∧ w.getLsbD 18 then after s 0 (.laneHoldRelease p (o % 128 / 8 - 8)) else s
  else if o = 0x130000 then (if w.getLsbD 0 && !old.getLsbD 0 then after s 0 .fabricJoin else s)
  else if 0x140000 ≤ o ∧ o < 0x140000 + 512 * 128 then
    (if o % 32 = 0 && !low then s else after s 0 (.arcfgWrite (v 0x140000 512) (o % 512 / 32) (o % 32 / 8) new))
  else if 0x150000 ≤ o ∧ o < 0x150000 + 64 * 128 then
    (if o % 64 = 0 then
       let s1 := migsWritten s (v 0x150000 64) (old.getLsbD 0) (new.getLsbD 0)
       if w.getLsbD 3 then after s1 0 (.migsClose (v 0x150000 64)) else s1
     else
       let on := rbit s (migs (v 0x150000 64)) 0
       migsWritten s (v 0x150000 64) on on)
  else if 0x152000 ≤ o ∧ o < 0x152000 + 64 * 128 ∧ o % 64 = 0 then
    let s1 := if new.getLsbD 0 != old.getLsbD 0 then migServe s (v 0x152000 64) (new.getLsbD 0) else s
    (if w.getLsbD 1 then after s1 0 (.migrationPrefetch (v 0x152000 64)) else s1)
  else if 0x160000 ≤ o ∧ o < 0x160000 + 32 * 128 then
    (if o % 32 = 8 then
       (if w.getLsbD 0 then after (rsetF s (RA o) 1 3 0) 0 (.harbGo (v 0x160000 32)) else s)
     else if o % 32 = 16 then after s 0 (.harbDone (v 0x160000 32) (w.toNat / 2 ^ 16 % 2 ^ 41)) else s)
  else if o = 0x180000 then
    let s1 := rsetF s startst 5 1 (if old.getLsbD 5 && new.getLsbD 5 then 1 else 0)
    -- how far the new attempt comes is free
    if w.getLsbD 6 then (let (k, s2) := drawIn s1 1 7; after s2 0 (.startstGo { s.start.input with upto := k })) else s1
  else if 0x1D0000 ≤ o ∧ o < 0x1D0000 + 32 * 5 then after s 0 (.faultRingRoom (128 + v 0x1D0000 32))
  else if 0x300000 ≤ o ∧ o < 0x300000 + 1024 * 256 ∧ o % 32 = 0 then
    (if w.getLsbD 0 then { s with turn := (s.cur, .rarmArm (v 0x300000 1024) (o % 1024 / 32)) :: s.turn } else s)
  else if isArcont o then after s 0 (.arcontWrite src ((o - 0x240000) / 128) ((o - 0x240000) % 128 / 8) w)
  else if isRedirack o then after s 0 (.redirackWrite ((o - 0x154000) / 8) w)
  else s

/-- The service state holds every fabric port's EN at 0 (R449). -/
def heldEn (s : State) (o : Nat) : Bool := rbit s startst 3 && decide (0x120000 ≤ o) && decide (o < 0x120000 + 128 * 47) && o % 128 == 0

/-- Write n bytes (4 or 8) of a register (R11): reserved and read-only bits keep their value. -/
def regWrite (s : State) (src : ReqSrc) (pa : Nat) (c : Word64) (n : Nat) : State :=
  let o := (pa - regBase) / 8 * 8
  let sh := 8 * (pa % 8)
  let m := if n = 4 then bitsM sh 32 else ones 64
  let w0 : Word64 := BitVec.ofNat 64 (if n = 4 then c.toNat % 2 ^ 32 * 2 ^ sh else c.toNat)
  let w := if heldEn s o then w0 &&& ~~~ (1 : Word64) else w0
  let low := n != 4 || sh == 0
  if !mayWrite src o then s
  else if 0x30000 ≤ o ∧ o < 0x30020 ∧ rbit s (hinval + 16) 8 then s
  else
    match regSpec o with
    | some r =>
      let old := rget s (regBase + o)
      let k : Word64 := BitVec.ofNat 64 (r.rw &&& m)
      let z : Word64 := BitVec.ofNat 64 (r.w1c &&& m)
      regEffects (rset s (regBase + o) (((old &&& ~~~ k) ||| (w &&& k)) &&& ~~~ (w &&& z))) src o old w
        ((old &&& ~~~ (BitVec.ofNat 64 m)) ||| w) low
    | none => regEffects s src o 0 w w low

end Sys2Proof.Machine
end

