-- ==== Sys2Proof/Machine/Leave.lean ====
section
/-!
DEFINITION. Requests on their way out of LAQ (R39, R184, R187, R203): scratchpad accesses by b registers (R38 to R44),
parts in calendar slots, full/empty forms (R44, R250), refused atomics (R254), PREQ (R249), held requests checked again
(R202), and the agents' parts on their way to a home.
-/
namespace Sys2Proof.Machine

/-! Bytes of a request. -/

/-- The bytes a load reads: address and raw index, in element order. `place` gives a byte's physical address. -/
def loadItems (s : State) (g : Nat) (q : Req) (place : Nat → Nat) : List (Nat × Nat) :=
  (elemsOf s (vfOf s g) q.h (aop q.op) q.addr q.step q.lanes q.x).flatMap fun e =>
    (List.range e.2.2).map fun j => (place (e.2.1 + j), e.1 * e.2.2 + j)

/-- One element of a vector store as it is written (R196): its code in its container, its flags, for which no trap is taken (DESIGN
CHOICE, log 102). -/
def storeElem (s : State) (vf : Nat) (q : Req) (w i x : Nat) : Nat × BitVec 5 :=
  match vecFmt s vf q.h w with
  | none => (x, 0)
  | some f =>
    let r := convert (laneFmt f w) (elemCode f) q.fmode (rndE q.rnd ([32, 16, 8, 8].getD w 8) i) x
    (if elemCode f == 3 then r.1 * 2 ^ 13 else r.1, r.2)

/-- The bytes a store writes with the flags of their element: scalar bytes, or the elements of the lanes that the entry's
mask selects (R239). -/
def storeItems (s : State) (g : Nat) (q : Req) (e : SdqEntry) (place : Nat → Nat) : List (WCell × BitVec 5) :=
  match aop q.op with
  | .sta n => (List.range n).map fun j => ({ pa := place (q.addr.toNat + j), val := byteAt e.val j, msk := 0xFF }, 0)
  | .stv w f =>
    let lw := [32, 16, 8, 8].getD w 8
    let wb := vecBits s (vfOf s g) q.h w
    (List.range (vecCount w f)).flatMap fun i =>
      if activeE e.mask lw i then
        let (y, fl) := storeElem s (vfOf s g) q w i (elemOf e.val lw i)
        let a := elemAddr q.addr q.step q.lanes f wb i
        let sh := if wb < 8 && f == .contig then i * wb % 8 else 0
        let msk := if wb < 8 then ones wb * 2 ^ sh else 0xFF
        (List.range (elemBytes wb)).map fun j =>
          ({ pa := place (a + j), val := BitVec.ofNat 8 (y * 2 ^ sh / 2 ^ (8 * j)), msk := BitVec.ofNat 8 msk }, fl)
      else []
  | _ => []

/-- The physical address of a byte of the group's window (R154). -/
def winPlace (s : State) (g a : Nat) : Nat := cluBase (groupOf s g).cluster + (groupOf s g).base + a
/-- The physical address of a byte through a handle, before a twin is resolved. -/
def hPlace (g : Nat) (h : HWord) (a : Nat) : Nat := aliasPa g (handlePa h a)

/-! The head of LAQ. -/

def popHead (s : State) (g : Nat) : State := modCtx s g fun c => { c with laq := c.laq.drop 1 }
def modHead (s : State) (g : Nat) (f : Req → Req) : State :=
  modCtx s g fun c =>
    match c.laq with
    | q :: r => { c with laq := f q :: r }
    | [] => c
def dropSdq (s : State) (g : Nat) (q : Req) : State :=
  match q.sdq with
  | some n => modCtx s g fun c => { c with sdq := c.sdq.filter fun e => e.seq != n }
  | none => s
def sdqOf (s : State) (g : Nat) (q : Req) : SdqEntry :=
  (((getCtx s g).sdq.find? fun e => some e.seq == q.sdq).getD { seq := 0, filled := false, val := 0, mask := 0 })

/-- The head has left for good: its SDQ entry is free again. -/
def leaveHead (s : State) (g : Nat) (q : Req) : State := popHead (dropSdq s g q) g

/-- Reserve an LDQ entry (R40), its data due no earlier than `lat` cycles on. -/
def reserveLdq (s : State) (g : Nat) (q : Req) (lat left : Nat) : State :=
  if (aop q.op).pushesLdq && (getCtx s g).phase == .resident then
    modCtx s g fun c =>
      { c with ldq := c.ldq ++
          [{ req := q, raw := [], left := left, due := localTime s (coreOf g) + lat, filled := false, failed := false,
             val := 0, kval := 0, flags := 0 }] }
  else s

/-- Parts of this context's PCMDs that their slice has not accepted block the head (R230). -/
def pumpBlocked (s : State) (g : Nat) : Bool := s.txns.any fun e => e.2.src == .ctx g && e.2.kind == .pcmd && e.2.held

/-- What a full/empty form waits for: full, empty, or nothing. -/
def feNeeds (q : Req) : Option Bool :=
  match aop q.op with
  | .fewait f => some f
  | .lda _ _ => some true
  | .ldv _ _ => some true
  | _ => none

/-- A full/empty form that waits at the head of LAQ for its granules: FEWAIT, .fw, .fwc. -/
def Req.waits (q : Req) : Bool := (feNeeds q).isSome && (feOf q.op != 0 || !(aop q.op).resLoad)

/-- The head may go (R39, R219, R239, R345): nothing holds it, LDQ has room, its data has come. A request of which a part
has left has left, and its other parts follow. -/
def headReady (s : State) (g : Nat) : Option Req :=
  let c := getCtx s g
  match c.laq with
  | [] => none
  | q :: _ =>
    let op := aop q.op
    if ((c.frozen || q.trap) && (q.done == 0 || q.slot || q.waits)) || c.acqWait || pumpBlocked s g then none
    else if op.pushesLdq && !q.slot && q.done == 0 && decide (32 ≤ c.ldq.length) then none
    else if op.takesSdq && !(sdqOf s g q).filled then none
    else some q

/-! Calendar slots (R184). -/

/-- Core k of its cluster; a steward core is core 0 of its own. A frozen core takes no slot (R303). -/
def slotParity (core : Nat) : Nat := if core < 1024 then core % 2 else 0
def slotFree (s : State) (g : Nat) : Bool :=
  !coreFrozen s (coreOf g) && s.clock % 2 == slotParity (coreOf g) && (getCore s (coreOf g)).slotAt != s.clock + 1
def takeSlot (s : State) (g : Nat) : State :=
  modCore s (coreOf g) fun k => { k with slotTurn := g % 4, slotAt := s.clock + 1 }

/-! Times. -/

/-- The part of a sync object's operation. -/
def syncTxn (s : State) (g : Nat) (kind : TxnKind) (q : Req) (entry : VWord) : Txn :=
  let t := Txn.base kind (.ctx g) q (dieOfCore (coreOf g)) (vfOf s g) 0
  match q.h with
  | none => { t with pa := winPlace s g q.addr.toNat, len := 16, entry := entry }
  | some h =>
    { t with pa := hPlace g h q.addr.toNat, len := 16, entry := entry, twin := if hTwin h then hPage h else 0,
             peer := if homeMod s h = moduleNo s then none else some (homeMod s h) }

/-- A release of the context that waits in its core's buffer names a common byte of the object it is to change (R187): `hand` says by
which kind of path. -/
def relFirst (s : State) (g seq : Nat) (hand : Bool) (peer : Option Nat) (l : List Nat) : Bool :=
  (getCore s (coreOf g)).rels.any fun r =>
    r.g == g && decide (r.req.seq < seq) && r.req.h.isSome == hand && (match aop r.req.op with
      | .rel _ _ =>
        let t := syncTxn s g .release r.req 0
        t.peer == peer && l.any fun a => decide (t.pa ≤ a) && decide (a < t.pa + 16)
      | _ => false)

/-- A request may not be performed yet: an earlier one of its agent comes first. -/
def heldBack (s : State) (id : Nat) (t : Txn) : Bool :=
  behind s id t || match t.src with
    | .ctx g => relFirst s g t.req.seq t.req.h.isSome t.peer t.touches
    | _ => false

/-- An earlier request of the agent that reads or writes a common byte is still on its way: its die's cache answers no later one, which
might read an older value (R187, R209). -/
def ownWrite (s : State) (t : Txn) : Bool :=
  (s.txns.any fun e => e.2.agent s == t.agent s && (overlap t e.2 || meet t.reads e.2.writes)) || heldBack s s.ids t

/-- What a load of an agent other than a context finds in its die's remote-data cache (R180) is in `raw` when it goes; a load that
finds everything there goes no further. -/
def Txn.lookup (s : State) (t : Txn) : Txn :=
  match t.kind, t.src with
  | .load, .ctx _ => t
  | .load, _ =>
    if ownWrite s t then t
    else
      let (hits, bad, rest) := rdcSplit s t
      if hits.isEmpty then t
      else if bad then { t with rd := [], peer := none, err := 9 }
      else { t with rd := rest, raw := hits.foldl (fun r x => tset r x.1 x.2) t.raw, peer := if rest.isEmpty then none else t.peer }
  | _, _ => t

/-- What a part on its way means for its die's remote-data cache (R180): a store updates the line; an atomic, a PCMD and a store into a
reduce page invalidate it, as does a store that finds another write to the line on its way, so that no reader meets the two in the
wrong order (R209). A load beside a write to the same lines fills none, nor do the loads that a write finds on their way. -/
def fillRules (s : State) (t : Txn) : State × Txn :=
  if !rdcCan t.die t.peer t.pa then (s, t)
  else
    let keys := t.keys s
    let beside := s.txns.any fun e => e.2.kind != .load && e.2.die == t.die && e.2.onLines s keys
    if t.kind == .load then (s, if beside then { t with lmask := 1 } else t)
    else
      let s1 := noFill s t.die fun u => u.onLines s keys
      (if t.kind == .store && t.red == 0 && !beside then rdcStore s1 t.die t.peer (t.wr.map fun c => { c with pa := t.home s c.pa })
       else rdcDrop s1 fun l => l.die == t.die && keys.contains l.line, t)

/-- Book the next free slot of a cluster's engines (R184): how many cycles from now it comes. -/
def bookSlot (s : State) (clu : Nat) : Nat × State :=
  let at_ := max s.clock (getClu s clu).engAt
  (at_ - s.clock, modClu s clu fun u => { u with engAt := at_ + 1 })

/-- Send a part toward its home, where it is performed within n cycles of its slot, `late` cycles on; a part for a peer waits from then
on to be injected (R412). -/
def sendTxn (s : State) (t : Txn) (n : Nat) (late : Nat := 0) : State × Nat :=
  let (id, s1) := fresh s
  let (s2, t1) := fillRules s1 (t.lookup s)
  let s3 := setTxn s2 id { t1 with sent := 0, left := 0, born := s.clock + late }
  match t1.peer with
  | some _ => ({ s3 with fab := { s3.fab with inject := s3.fab.inject ++ [id] } }, id)
  | none =>
    let (d, s4) := drawIn s3 1 (if t1.kind == .load && t1.rd.isEmpty then 64 else n)
    (after s4 (late + d) (performEvent t1 id), id)

/-! Accesses by b registers. -/

/-- Read bytes of this module; none where one cannot be read. -/
def readItems (s : State) (l : List (Nat × Nat)) : Option (List (Nat × Byte)) :=
  if l.any fun x => badByte s x.1 then none else some (l.map fun x => (x.2, mread s x.1))

/-- A load performed now, its entry due `lat` cycles on. -/
def loadNow (s : State) (g : Nat) (q : Req) (items : List (Nat × Nat)) (lat : Nat) : State :=
  let s1 := reserveLdq s g q lat 1
  match readItems s items with
  | some b => deposit s1 g q.seq b
  | none => depositFail s1 g q.seq

/-- An atomic performed now on n bytes at pa (R252, R253): the old bytes, the flags; none on an error. -/
def atomicNow (s : State) (q : Req) (entry : VWord) (pa : Nat) : Option (State × List Byte × BitVec 5) :=
  let n := (aop q.op).size
  let l := (List.range n).map (pa + ·)
  if l.any (badByte s) then none
  else
    let old := mreadN s pa n
    let (y, fl) := atomicNew (aop q.op) q.fmode (laneOf q.rnd 0) entry (natOfBytes old)
    some (mwriteL s pa (bytesOf (BitVec.ofNat 128 y) n), old, fl)

/-- Number bytes from 0. -/
def indexed (l : List Byte) : List (Nat × Byte) := (List.range l.length).zip l

/-- Finish an atomic of a context: LDQ or, for AMOS, its flags now (R252). The flags of a returning one come with the
entry. -/
def atomicDone (s : State) (g : Nat) (q : Req) (old : List Byte) (fl : BitVec 5) : State :=
  if (aop q.op).pushesLdq then
    modLdq (deposit s g q.seq (indexed old)) g q.seq fun e => { e with flags := fl }
  else engineFlags s g fl

/-- A request without an LDQ entry ends in an error completion (R457); one with an entry fails it (R240). -/
def requestFails (s : State) (g : Nat) (q : Req) (cause len : Nat) (data : Word64) : State :=
  if (aop q.op).pushesLdq then depositFail s g q.seq else reqError s g q cause q.addr.toNat len data

/-! Full/empty forms at a bank of this module (R44, R250). -/

/-- An earlier request of the context to one of the bytes is still on its way (R187). -/
def ownBusy (s : State) (g seq : Nat) (l : List Nat) : Bool :=
  (s.txns.any fun e => e.2.src == .ctx g && e.2.peer.isNone && (e.2.touches.any fun a => l.contains (e.2.home s a))) ||
    relFirst s g seq true none l

/-- Take the granules in ascending order while each is ready and its bank free (R43), and none has an earlier request of the
context on its way through a handle (R187); `.fwc` empties it. The answer counts the granules taken. -/
def feRun (g : Nat) (q : Req) (items : List (Nat × Nat)) : List Nat → State → State × Nat
  | [], s => (s, 0)
  | a :: r, s0 =>
    let n := bankCounts [a]
    if feNeeds q == some (feGet s0 a) && banksFree s0 (clusterOfPa a) n &&
        !(q.h.isSome && ownBusy s0 g q.seq ((List.range 16).map (a + ·))) then
      let s := banksTake s0 (clusterOfPa a) n
      let mine := items.filter fun x => x.1 / 16 == a / 16
      let s1 := match readItems s mine with
        | some b => modLdq s g q.seq fun e => { e with raw := b.foldl (fun t x => tset t x.1 x.2) e.raw }
        | none => modLdq s g q.seq fun e => { e with failed := true }
      let s2 := if feOf q.op == 2 then feSet s1 a false else s1
      let (s3, n) := feRun g q items r s2
      (s3, n + 1)
    else (s0, 0)

/-- The byte places of a head request: its window or its handle's page, a twin resolved now. -/
def headPlace (s : State) (g : Nat) (q : Req) (a : Nat) : Nat :=
  match q.h with
  | none => winPlace s g a
  | some h => let p := hPlace g h a; if hTwin h then twinPa s (vfOf s g) p (hPage h) false else p

/-- The waiting form at the head takes what it can; it leaves once every granule is done. The first of its granules not
yet taken has index `done`. -/
def feStep (s : State) (g : Nat) (q : Req) : State :=
  let items := match aop q.op with
    | .fewait _ => [(headPlace s g q (q.addr.toNat / 16 * 16), 0)]
    | _ => loadItems s g q (headPlace s g q)
  let gr := granules (items.map (·.1))
  let (s1, n) := feRun g q items (gr.drop q.done) s
  if q.done + n < gr.length then modHead s1 g fun q => { q with done := q.done + n }
  else
    let t := Txn.base .load (.ctx g) q (dieOfCore (coreOf g)) (vfOf s g) (gr.headD 0)
    let (lat, s2) := if q.h.isNone then (8, s1) else drawLat s1 t
    popHead (modLdq s2 g q.seq fun e => { e with left := 0, due := localTime s (coreOf g) + lat }) g

/-- The LDQ entry of a waiting form; one that CLOAD has restored with granules taken has its entry already (R361). -/
def feReserve (s : State) (g : Nat) (q : Req) : State := if q.done = 0 then reserveLdq s g q 0 1 else s

/-- Begin a waiting form at the head. -/
def feBegin (s : State) (g : Nat) (q : Req) : State :=
  let s1 := feReserve s g q
  feStep (modHead s1 g fun q => { q with slot := true }) g { q with slot := true }

/-! Releases and acquires. -/

/-- Releases in the core's buffer; page-request records wait beside them (R249). -/
def numRels (s : State) (g : Nat) : Nat :=
  ((getCore s (coreOf g)).rels.filter fun r => aop r.req.op != .preq).length
/-- Enter a release in the core's buffer (R255). -/
def pushRel (s : State) (g : Nat) (q : Req) : State :=
  let (id, s1) := fresh s
  after (modCore s1 (coreOf g) fun k => { k with rels := k.rels ++ [{ id := id, g := g, req := q }] }) 1
    (.releasePerform (coreOf g) id)

/-- An acquire leaves; what is behind it waits (R219). -/
def leaveAcquire (s : State) (g : Nat) (q : Req) : State :=
  let e := sdqOf s g q
  let t := syncTxn s g .acquire q e.val
  let (d, s1) := drawLat s t
  let (s2, _) := sendTxn (leaveHead s1 g q) t d
  modCtx s2 g fun c => { c with acqWait := true }

/-- A release leaves for the release buffer, its number of posts in y. -/
def leaveRelease (s : State) (g : Nat) (q : Req) : State :=
  pushRel (leaveHead s g q) g { q with y := (sdqOf s g q).val.truncate 64 }

/-- The bytes that a request by b register names. -/
def winBytes (s : State) (g : Nat) (q : Req) : List Nat :=
  (elemsOf s (vfOf s g) q.h (aop q.op) q.addr q.step q.lanes q.x).flatMap fun e =>
    (List.range e.2.2).map fun j => winPlace s g (e.2.1 + j)
/-- An earlier release by b register, in the buffer or on its way, changes a byte that the head names (R187). -/
def winRelFirst (s : State) (g : Nat) (q : Req) : Bool :=
  let l := winBytes s g q
  relFirst s g q.seq false none l ||
    s.txns.any fun e => e.2.src == .ctx g && e.2.kind == .release && e.2.req.h.isNone && e.2.touches.any l.contains

/-- The head, a request by b register (R38 to R44). -/
def leaveWindow (s : State) (g : Nat) (q : Req) : State :=
  let c := (groupOf s g).cluster
  let place := winPlace s g
  let a := q.addr.toNat
  if winRelFirst s g q then s
  else
  match aop q.op with
  | .fewait _ => if q.slot then s else feBegin s g q
  | .feset f =>
    let n := bankCounts [place a]
    if banksFree s c n then leaveHead (feSet (banksTake s c n) (place (a / 16 * 16)) f) g q else s
  | .acq _ _ => leaveAcquire s g q
  | .rel _ _ => if numRels s g < 8 then leaveRelease s g q else s
  | op =>
    if op.resLoad && feOf q.op != 0 then (if q.slot then s else feBegin s g q)
    else
      let e := sdqOf s g q
      let ld := if op.resLoad then loadItems s g q place else []
      let st := storeItems s g q e place
      let pas := if op.resLoad then ld.map (·.1) else if op.isStore then st.map (·.1.pa) else [place a]
      let n := bankCounts pas
      if banksFree s c n then
        let s0 := banksTake s c n
        if op.resLoad then popHead (loadNow s0 g q ld (7 + bankCycles n)) g
        else if op.isStore then
          match writeCells s0 (st.map (·.1)) with
          | some s1 => leaveHead (if feOf q.op != 0 then fillGranules s1 pas else s1) g q
          | none => leaveHead (requestFails s0 g q 9 (st.length) (e.val.truncate 64)) g q
        else
          let s1 := reserveLdq s0 g q 12 1
          match atomicNow s1 q e.val (place a) with
          | some (s2, old, fl) => leaveHead (atomicDone s2 g q old fl) g q
          | none => leaveHead (requestFails s1 g q 9 op.size (e.val.truncate 64)) g q
      else s

/-! Requests through handles. -/

/-- A held request whose handle lost VALID is walked and checked again (R202, R361). -/
def recheck (s : State) (g : Nat) (q : Req) (h : HWord) : Chk :=
  let op := aop q.op
  (chkHandle 0 h q.addr.toNat).and
    (chkStages op (elemsOf s (vfOf s g) (some h) op q.addr q.step q.lanes q.x)
      [chkPage h, fun b _ => chkPerm s g h op.needsR op.needsW op.resLoad q.sys b])

/-- The attributes that a handle gives a part. -/
def Txn.through (s : State) (t : Txn) (g : Nat) (h : HWord) : Txn :=
  { t with
    peer := if homeMod s h = moduleNo s then none else some (homeMod s h)
    twin := if hTwin h then hPage h else 0
    red := hRed h, rland := hBit h 22, cp := hf h 13 2, g := g }

/-- The virtual address of a physical one on a handle's page. -/
def vaOf (h : HWord) (pa : Nat) : Nat := hPageVa h + pa % hPage h
/-- The object bound to the region of a part's byte (R217). -/
def Txn.objAt (s : State) (t : Txn) (pa : Nat) : Nat :=
  match t.req.h with
  | some h => boundObj s t.vf (vaOf h pa)
  | none => 0

/-- The granules of a PCMD (R230): each with its address and length. -/
def pcmdParts (pa len : Nat) : List (Nat × Nat) :=
  if len = 0 then []
  else
    let lo := pa / 256
    let hi := (pa + len - 1) / 256
    (List.range (hi - lo + 1)).map fun i =>
      let a := max pa (256 * (lo + i))
      (a, min (pa + len) (256 * (lo + i + 1)) - a)

/-- Bytes of a transaction: a strided or indexed access to the host window is one per element. -/
def splitParts {α : Type} (one : Option Nat) (key : α → Nat) (l : List α) : List (List α) :=
  match one, l with
  | some n, x :: _ => if tierOf (key x) == some 4 then chunks l.length (max 1 n) l else splitUnits key l
  | _, l => splitUnits key l
where
  chunks {α : Type} : Nat → Nat → List α → List (List α)
    | 0, _, _ => []
    | k + 1, n, l => if l.isEmpty then [] else l.take n :: chunks k n (l.drop n)

/-- The element size by which an access to the host window is cut (R243). -/
def hostCut (op : AOp) (wb : Nat) : Option Nat :=
  match op with
  | .ldv _ .contig => none
  | .stv _ .contig => none
  | .ldv _ _ => some (elemBytes wb)
  | .stv _ _ => some (elemBytes wb)
  | _ => none

/-- The bytes that a request names, those of inactive lanes among them: a host-window transaction has the access's size (R181). -/
def reqSize (s : State) (g : Nat) (q : Req) : Nat :=
  let l := (elemsOf s (vfOf s g) q.h (aop q.op) q.addr q.step q.lanes q.x).map fun e => (e.2.1, e.2.1 + e.2.2)
  (l.foldl (fun n x => max n x.2) 0) - (l.headD (0, 0)).1

/-- The parts of the head request, in ascending address order (R203). -/
def partsOf (s : State) (g : Nat) (q : Req) (h : HWord) : List Txn :=
  let op := aop q.op
  let e := sdqOf s g q
  let t0 := { (Txn.base .load (.ctx g) q (dieOfCore (coreOf g)) (vfOf s g) 0).through s g h with entry := e.val }
  let cut := match op with
    | .ldv w _ => hostCut op (vecBits s (vfOf s g) q.h w)
    | .stv w _ => hostCut op (vecBits s (vfOf s g) q.h w)
    | _ => none
  if op.resLoad then
    (splitParts cut (·.1) (loadItems s g q (hPlace g h))).map fun l =>
      { t0 with kind := .load, rd := l, pa := (l.headD (0, 0)).1, len := l.length }
  else if op.isStore then
    (splitParts cut (·.1.pa) (storeItems s g q e (hPlace g h))).map fun l =>
      let pa := (l.headD ({ pa := 0, val := 0, msk := 0 }, 0)).1.pa
      let whole := tierOf pa == some 4 && cut.isNone
      { t0 with kind := .store, wr := l.map (·.1), flags := orAll (l.map fun x => (0, x.2)),
                pa := if whole then hPlace g h q.addr.toNat else pa
                len := if whole then reqSize s g q else l.length }
  else
    match op with
    | .pcmd _ =>
      (pcmdParts (hPlace g h q.addr.toNat) q.x.toNat).map fun p =>
        { t0 with kind := .pcmd, flags := q.rnd.truncate 5, pa := p.1, len := p.2, ix := (p.1 - hPlace g h q.addr.toNat) / 4, lmask := e.mask }
    | _ => [{ t0 with kind := .atomic, pa := hPlace g h q.addr.toNat, len := op.size }]

/-- A request hits in a slice of its own die: its lines are there (R179, R185; which of those brought in have stayed is free), and
nothing of its context to the same bytes is still on its way. -/
def l2Hit (s : State) (t : Txn) : Bool × State :=
  let own := t.peer.isNone && homeDie t.pa == t.die && (tierOf t.pa == some 0 || tierOf t.pa == some 1)
  if own && (t.keys s).all s.l2.contains && !(s.txns.any fun e => e.2.src == t.src && overlap t e.2) && !heldBack s s.ids t then drawBool s
  else (false, s)

/-- A load's part goes: what the remote-data cache holds is delivered within 64 cycles, the rest comes from the home (R180,
R185, R186). A request of this context still on its way to a common byte prevents a hit (R187). -/
def sendLoad (s : State) (g : Nat) (t : Txn) : State :=
  let (hits, bad, rest) := if ownWrite s t then ([], false, t.rd) else rdcSplit s t
  let give (s : State) : State :=
    modLdq s g t.req.seq fun e =>
      { e with raw := hits.foldl (fun r x => tset r x.1 x.2) e.raw, failed := e.failed || bad }
  let wait (s : State) (n left : Nat) : State :=
    modLdq s g t.req.seq fun e => { e with due := max e.due (localTime s (coreOf g) + n), left := e.left - left }
  if rest.isEmpty then
    let (d, s1) := drawIn s 1 64
    wait (give s1) d 1
  else
    let t1 := { t with rd := rest }
    let (hit, s1) := l2Hit s t1
    let (d, s2) := if hit then (96, s1) else drawLat s1 t1
    (wait (give (sendTxn s2 { t1 with hit := hit } (max 1 (d - 1))).1) d 0)

/-- A store's part goes; one that would write a part of a spoiled word in its die's cache ends in error (R183). -/
def sendStore (s : State) (g : Nat) (t : Txn) : State :=
  let wr := t.wr.map fun c => { c with pa := t.home s c.pa }
  if t.red == 0 && rdcSpoils s t.die t.peer wr then
    requestFails s g t.req 9 wr.length (BitVec.ofNat 64 (natOfBytes ((wr.take 8).map (·.val))))
  else
    let (d, s1) := drawLat s t
    (sendTxn s1 t d).1

/-- An atomic goes: 12 cycles at the own cluster, 104 at a hit of an own slice, else as R186 has it. -/
def sendAtomic (s : State) (g : Nat) (t : Txn) : State :=
  let mine := t.peer.isNone && tierOf t.pa == some 2 && clusterOfPa t.pa == cluOf (coreOf g)
  let (hit, s1) := l2Hit s t
  let (d, s2) := if mine then (12, s1) else if hit then (104, s1) else drawLat s1 t
  let s3 := (sendTxn s2 { t with hit := hit } (max 1 (d - 1))).1
  modLdq s3 g t.req.seq fun e => { e with due := max e.due (localTime s (coreOf g) + d) }

/-- A Pump part goes (R230). -/
def sendPcmd (s : State) (t : Txn) : State :=
  let (d, s1) := drawLat s t
  (sendTxn s1 t d).1

def sendPart (s : State) (g : Nat) (t : Txn) : State :=
  match t.kind with
  | .load => sendLoad s g t
  | .store => sendStore s g t
  | .atomic => sendAtomic s g t
  | _ => sendPcmd s t

/-- The fault record of a PCMD part (R235, R260, R349). -/
def pcmdFault (s : State) (g : Nat) (q : Req) (cause pa rem : Nat) (entry : VWord) : State :=
  (report s
    { vf := vfOf s g, steward := stewOf g, w0 := recW0 cause false false 4 g 0 (vfOf s g), w1 := BitVec.ofNat 64 q.ipc,
      w2 := 0, w3 := BitVec.ofNat 64 (pa % 2 ^ 57), w4 := 0, w5 := BitVec.ofNat 64 (rem % 2 ^ 32),
      comp := comp3 (sylWordOf q.op) q.addr (entry.truncate 64), g := some g, cmd := none, range := [] }).1

/-- PREQ (R249, R430): a record in the ring, a PRI request to the host, or a drop. -/
def prqDrop (s : State) (vf : Nat) : State := rincHold s (mistat vf) 32 32
/-- Where the next record stands. -/
def prqSlot (s : State) (vf : Nat) : Nat :=
  rfld s (prqcfg vf) 6 44 * 64 + 32 * (rfld s (prqcfg vf + 8) 0 32 % 2 ^ rfld s (prqcfg vf) 2 4)
def prqRecord (s : State) (g vf va : Nat) : State :=
  if unread s (prqcfg vf + 8) = 2 ^ rfld s (prqcfg vf) 2 4 then prqDrop s vf
  else
    rsetF (hwPutWords s (prqSlot s vf) [BitVec.ofNat 64 (va % 2 ^ 57), BitVec.ofNat 64 (vf + gctxField g * 2 ^ 8), 0, 0])
      (prqcfg vf + 8) 0 32 (rfld s (prqcfg vf + 8) 0 32 + 1)

/-- A state of the arbiter that lasts: its entry with a fresh stamp (R430). -/
def harbPut (s : State) (v u : Nat) (st : HarbState) : State :=
  let (k, s1) := fresh s
  { s1 with harb := (s1.harb.filter fun e => !(e.v == v && e.unit == u)) ++ [{ v := v, unit := u, st := st, stamp := k }] }
def harbFind (s : State) (v u : Nat) : Option HarbEnt := s.harb.find? fun e => e.v == v && e.unit == u

/-- The device's request at the arbiter (R430). -/
def harbDevice (s : State) (v va : Nat) : State :=
  let u := va / 2 ^ 16
  let no := rincHold s (harbReg v + 24) 0 32
  match harbFind s v u with
  | none => if 256 ≤ s.harb.length then no else emitOut (harbPut s v u .movingD) (.pri (hostPort s v) v va)
  | some e =>
    match e.st with
    | .movingD => s
    | .dwellD => s
    | .movingH => no
    | .dwellH => no

def leavePreq (s : State) (g : Nat) (q : Req) : State :=
  let vf := vfOf s g
  let va := q.addr.toNat
  if !rbit s (prqcfg vf) 0 then prqDrop s vf
  else if !rbit s (prqcfg vf) 1 then pushRel s g q
  else if rbit s (harbReg vf) 0 then harbDevice s vf va
  else emitOut s (.pri (hostPort s vf) vf va)

/-- A full/empty form on its way to a peer's scratchpad. -/
def feTxn (s : State) (g : Nat) (q : Req) (h : HWord) : Txn :=
  let t := { (Txn.base .fe (.ctx g) q (dieOfCore (coreOf g)) (vfOf s g) 0).through s g h with len := 16 }
  match aop q.op with
  | .fewait f => { t with pa := hPlace g h (q.addr.toNat / 16 * 16), fe := if f then 5 else 4 }
  | .feset f => { t with pa := hPlace g h (q.addr.toNat / 16 * 16), fe := if f then 7 else 6 }
  | _ =>
    let l0 := loadItems s g q (hPlace g h)
    let left := (granules (l0.map (·.1))).drop q.done
    let l := l0.filter fun x => left.contains (16 * (x.1 / 16))
    { t with pa := (l.headD (0, 0)).1, len := l.length, rd := l, fe := feOf q.op }

/-- The format descriptor that a vector access needs cannot be read (R183, R194). -/
def fdBad (s : State) (vf : Nat) (h : HWord) (op : AOp) : Bool :=
  match op with
  | .ldv w _ => hFdi h != 0 && w != 3 && (hwRead s (rfld s (vmcfg vf + 8) 5 45 * 32 + 32 * hFdi h) 8).isNone
  | .stv w _ => hFdi h != 0 && w != 3 && (hwRead s (rfld s (vmcfg vf + 8) 5 45 * 32 + 32 * hFdi h) 8).isNone
  | _ => false

/-- The head, a request through a handle that reads VALID. -/
def leaveHandle (s : State) (g : Nat) (q : Req) (h : HWord) : State :=
  let op := aop q.op
  let entry := (sdqOf s g q).val
  if !q.slot && !slotFree s g then s
  else
    let s0 := if q.slot then s else takeSlot s g
    match op with
    | .preq => popHead (leavePreq s0 g q) g
    | .acq _ _ => leaveAcquire s0 g q
    | .rel _ _ => if numRels s g < 8 then leaveRelease s0 g q else s
    | .feset f =>
      if homeMod s h ≠ moduleNo s then
        popHead (sendTxn s0 (feTxn s g q h) 1).1 g
      else
        let a := headPlace s g q (q.addr.toNat / 16 * 16)
        let n := bankCounts [a]
        if ownBusy s g q.seq ((List.range 16).map (a + ·)) || !banksFree s (clusterOfPa a) n then s
        else popHead (feSet (banksTake s0 (clusterOfPa a) n) a f) g
    | _ =>
      if fdBad s (vfOf s g) h op then leaveHead (requestFails (reserveLdq s0 g q 1 1) g q 9 0 0) g q
      else if op.resLoad && !hBit h 3 then popHead (reserveLdq s0 g q 8 0) g
      else if !atomicOk op (hTier h) (hRed h) then leaveHead (reserveLdq s0 g q 8 0) g q
      else if q.waits then
        if q.slot then s
        else if homeMod s h ≠ moduleNo s then
          let s1 := modHead (feReserve s0 g q) g fun q => { q with slot := true }
          (sendTxn s1 (feTxn s g q h) 1).1
        else feBegin s0 g q
      else
        match op with
        | .pcmd k =>
          if q.x = 0 then leaveHead s0 g q
          else if k == 6 && (entry.truncate 64 : Word64).toNat % 256 ≠ 0 then
            leaveHead (pcmdFault s0 g q 6 q.addr.toNat q.x.toNat entry) g q
          else
            let parts := partsOf s g q h
            match parts[q.done]? with
            | none => leaveHead s g q
            | some t =>
              let s1 := sendPart s0 g t
              if q.done + 1 = parts.length then leaveHead s1 g q
              else modHead s1 g fun q => { q with done := q.done + 1 }
        | _ =>
          let parts := partsOf s g q h
          match parts[q.done]? with
          | none => leaveHead (if q.done == 0 then reserveLdq s0 g q 1 0 else s0) g q
          | some t =>
            let s1 := if q.done == 0 then reserveLdq s0 g q 1 parts.length else s0
            let t' := if op.isStore && feOf q.op != 0 then { t with full := true } else t
            let s2 := sendPart s1 g t'
            if q.done + 1 = parts.length then leaveHead s2 g q
            else modHead s2 g fun q => { q with done := q.done + 1 }

/-- LAQ_REQUEST_LEAVE (R39, R184): the head of LAQ leaves, a part of it, or it waits. -/
def execLaqRequestLeave (g : Nat) (s : State) : Res :=
  match headReady s g with
  | none => .next s
  | some q =>
    match aop q.op with
    | .fence k _ =>
      if 2 ≤ k && !q.slot && numRels s g < 8 then
        let (id, s1) := fresh s
        .next (modHead (modCore s1 (coreOf g) fun c => { c with rels := c.rels ++ [{ id := id, g := g, req := q }] }) g
          fun q => { q with slot := true })
      else .next s
    | .pfence _ => .next s
    | .bind _ => .next s
    | .hchk =>
      .next (popHead (modLdq (reserveLdq s g q 2 0) g q.seq fun e =>
        { e with raw := indexed (bytesOf q.y 8) }) g)
    | _ =>
      match q.h with
      | none => .next (leaveWindow s g q)
      | some h =>
        if hBit h 0 then .next (leaveHandle s g q h)
        else
          let h' := translate s (isSteward g) (vfOf s g) (hVa h)
          match recheck s g q h' with
          | .trap cause info => .next (pendAsync (leaveHead s g q) g cause info)
          | _ => .next (modHead s g fun q => { q with h := some h' })

/-- FULL_EMPTY_WAIT_END (R44, R250): a form that waits at the head of LAQ goes on. -/
def execFullEmptyWaitEnd (g : Nat) (s : State) : Res :=
  match headReady s g with
  | none => .next s
  | some q =>
    let here := match q.h with
      | none => true
      | some h => homeMod s h == moduleNo s
    if q.slot && here && (feNeeds q).isSome then .next (feStep s g q) else .next s

end Sys2Proof.Machine
end

