-- ==== Sys2Proof/Machine/Perform.lean ====
section
/-!
DEFINITION. Requests performed at their homes: what holds one back (R187, R378, R379, R422, R425, R426), loads, stores
and atomics (R209, R211, R227, R228), sync objects (R216, R218, R256), Pump parts (R230 to R235), and what each agent
receives.
-/
namespace Sys2Proof.Machine

/-! Paths inside the module (R378, R379). -/

/-- A link between dies; die 4 is the Ridge die. -/
def linkUp (s : State) (d e : Nat) : Bool := !(s.fab.links.contains (d, e) || s.fab.links.contains (e, d))
/-- A path is left between two dies. -/
def pathOk (s : State) (d e : Nat) : Bool :=
  if d == e then true
  else if d < 4 && e < 4 then linkUp s d e || (linkUp s d 4 && linkUp s e 4)
  else
    let c := min d e
    linkUp s c 4 || (match (List.range 4).find? fun x => linkUp s x 4 with
      | some x => linkUp s c x
      | none => false)

/-! What a request finds before its home acts. -/

inductive Gate where
  | pass | later
  | moved (x : Sealed)
  | closed
  | reserved (u : MigUnit)
  | fail (cause : Nat)
deriving DecidableEq, Repr

/-- The addresses a part names on this module. -/
def Txn.here (s : State) (t : Txn) : List Nat :=
  match t.kind with
  | .load => t.rd.map fun x => t.home s x.1
  | .store => t.wr.map fun c => t.home s c.pa
  | _ => [t.home s t.pa]

/-- The gate, in the order: earlier requests, the path, migration, the partition. -/
def gate (s : State) (id : Nat) (t : Txn) : Gate :=
  if heldBack s id t then .later
  else
    let l := t.here s
    match s.mig.seals.find? fun x => l.any fun a => a / 2 ^ 16 == x.frame with
    | some x => if rbit s (migs x.v) 4 then .closed else .moved x
    | none =>
      match s.mig.units.find? fun u => l.any fun a => a / 2 ^ 16 == u.frame with
      | some u =>
        let m := rfld s (migd u.v) 2 14
        if rbit s (fencedMap + m / 64 * 8) (m % 64) then .fail 0x0A else .reserved u
      | none =>
        if l.any fun a => !pathOk s t.die (homeDie a) then .fail 9
        else
          match t.src with
          | .ctx _ => .pass
          | .fetch _ => .pass
          | _ => if isSteward t.g || t.ofHost || l.all fun a => partOk s t.vf a then .pass else .fail 5

/-! What each agent receives. -/

/-- The event that goes on with an engine's or the dispatcher's work. -/
def agentEvent (s : State) (a : Agent) (id : Nat) : Option Instr :=
  match a with
  | .chan _ _ => some (.copyPartLand id)
  | .eng core cid =>
    match (getCore s core).leng.find? fun c => c.id == cid with
    | none => none
    | some c =>
      match c.op with
      | .cadd _ _ => some (.counterAddPerform core cid)
      | .cset _ _ => some (.counterSetPerform core cid)
      | .shdw _ _ => some (.shdwPerform core cid)
      | _ => some (.launchEngineAppend core cid)
  | .mx core => some (.matrixCommandBegin core)
  | .disp q => some (.launchComplete q)
  | _ => none

/-- A copy of a multicast has ended: its whole counts it (R410), and each that failed (R316). -/
def memberDone (s : State) (p cause : Nat) (fl : BitVec 5) : State :=
  match getTxn s p with
  | some t => setTxn s p { t with left := t.left - 1, err := max t.err cause, flags := t.flags ||| fl,
                                  errs := if cause = 0 then t.errs else t.errs ++ [cause] }
  | none => s

/-- The request a peer's part answers (R395). -/
def Txn.asked (s : State) (t : Txn) (m tag : Nat) : Msg :=
  { msgBlank (moduleNo s) m 1 with vf := t.vf, tag := tag, dl := t.dl }

/-- Drop the oldest beyond two lines: what a context has fetched from a peer. -/
def keepLines (l : List (Nat × BitVec 1024)) : List (Nat × BitVec 1024) := l.drop (l.length - 2)

/-- The bytes a load's part has read reach its requester, beside those that its die's cache held (R180). -/
def loaded (s : State) (id : Nat) (t : Txn) (b : List (Nat × Byte)) : State :=
  let raw := b.foldl (fun r x => tset r x.1 x.2) t.raw
  let line : BitVec 1024 := BitVec.ofNat 1024 (natOfBytes ((List.range 128).map (tget 0 raw)))
  match t.src with
  | .ctx g => deposit (delTxn s id) g t.req.seq b
  | .host k => hostAnswer (delTxn s id) k true (b.map (·.2))
  | .peer m tag =>
    respond (delTxn s id) (t.asked s m tag) 0x11 b.length 0 0 (BitVec.ofNat 2048 (natOfBytes (b.map (·.2))))
  | .part p =>
    let s1 := match getTxn s p with
      | some w => setTxn s p { w with raw := raw.foldl (fun r x => tset r x.1 x.2) w.raw }
      | none => s
    after (memberDone (delTxn s1 id) p 0 0) 0 (.storePerform p)
  | .fetch g =>
    modCtx (delTxn s id) g fun c =>
      { c with codeLn := keepLines (c.codeLn ++ [(t.cnt, line)]) }
  | .disp q =>
    let s1 := delTxn s id
    { s1 with disp := { s1.disp with got := s1.disp.got ++ [(q, t.orig, some line)] } }
  | _ =>
    let s1 := setTxn s id { t with raw := raw, out := true }
    match agentEvent s t.src id with
    | some e => after s1 0 e
    | none => delTxn s id

/-- A write or an atomic has been performed: the old bytes of an atomic, the flags. A peer's put goes on to its post
(R409), an atomic marked 9. -/
def written (s : State) (id : Nat) (t : Txn) (old : List Byte) (fl : BitVec 5) : State :=
  match t.src with
  | .ctx g =>
    let s1 := delTxn s id
    match t.kind with
    | .atomic => atomicDone s1 g t.req old fl
    | _ => engineFlags s1 g (t.flags ||| fl)
  | .host k => if t.sh then delTxn s id else hostAnswer (delTxn s id) k true old
  | .peer m tag =>
    let f := t.flags ||| fl
    if t.kind == .store && t.cnt != 0 then
      after (setTxn s id { t with kind := .atomic, pa := t.cnt, len := 8, wr := [], cnt := 0, ix := 0, fe := 9, red := 0, twin := 0,
                                  held := false, out := false, flags := f }) 0 (.atomicPerform id)
    else if t.kind == .atomic && t.fe != 9 then
      respond (delTxn s id) (t.asked s m tag) 0x12 0 (BitVec.ofNat 64 (natOfBytes (old.take 8)))
        (BitVec.ofNat 64 (if t.len ≤ 8 then f.toNat else natOfBytes (old.drop 8))) 0
    else respond (delTxn s id) (t.asked s m tag) 0x10 0 (BitVec.ofNat 64 f.toNat) 0 0
  | .fetch _ => delTxn s id
  | .part p =>
    if t.kind == .store && t.cnt != 0 && t.peer.isNone then
      after (setTxn s id { t with kind := .atomic, pa := t.cnt, len := 8, wr := [], cnt := 0, ix := 0, fe := 9, red := 0, twin := 0,
                                  held := false, out := false, flags := t.flags ||| fl }) 0 (.atomicPerform id)
    else
      let s1 := match getTxn s p, t.kind with
        | some w, .atomic => setTxn s p { w with raw := indexed old }
        | _, _ => s
      after (memberDone (delTxn s1 id) p 0 (t.flags ||| fl)) 0 (.storePerform p)
  | _ =>
    let s1 := setTxn s id { t with raw := indexed old, out := true, flags := t.flags ||| fl }
    match agentEvent s t.src id with
    | some e => after s1 0 e
    | none => delTxn s id

/-- The ERROR status that a home answers a peer with: 3, a bad address, for what the list of statuses does not name. -/
def peerStatus (cause : Nat) : Nat := if cause == 0x0A then 1 else 3

/-- The first byte of a part's trouble and what remains, for a record. -/
def Txn.dataWord (t : Txn) : Word64 :=
  match t.kind with
  | .store => BitVec.ofNat 64 (natOfBytes ((t.wr.take 8).map (·.val)))
  | _ => t.entry.truncate 64

/-- Bytes of a request without an LDQ entry (R457). -/
def reqLen (s : State) (g : Nat) (q : Req) : Nat :=
  (elemsOf s (vfOf s g) q.h (aop q.op) q.addr q.step q.lanes q.x).foldl (fun n e => n + e.2.2) 0

/-- The parts of a context's PCMD that have not completed take the flags of those that have; when none is left the command completes
and they reach the context (R75, R260). -/
def pcmdFlags (s : State) (g seq : Nat) (fl : BitVec 5) : State :=
  let mine (t : Txn) : Bool := t.src == .ctx g && t.kind == .pcmd && t.req.seq == seq
  match s.txns.find? fun e => mine e.2 with
  | some e => setTxn s e.1 { e.2 with flags := e.2.flags ||| fl }
  | none =>
    match s.banks.find? fun b => b.2.any fun p => mine p.txn with
    | some b => setBankQ s b.1 ((bankQ s b.1).map fun p => if mine p.txn then { p with txn := { p.txn with flags := p.txn.flags ||| fl } } else p)
    | none =>
      match (getCtx s g).laq with
      | q :: _ =>
        if q.seq = seq then modHead s g fun q => { q with rnd := q.rnd ||| fl.zeroExtend 2048 } else engineFlags s g fl
      | [] => engineFlags s g fl

/-- A part ends in an error completion (R183, R235, R407, R457). -/
def partFails (s : State) (id : Nat) (t : Txn) (cause : Nat) : State :=
  match t.src with
  | .ctx g =>
    let s1 := delTxn s id
    match t.kind with
    | .pcmd =>
      let fva := match t.req.h with
        | some h => vaOf h t.pa
        | none => t.pa
      pcmdFault (pcmdFlags s1 g t.req.seq t.flags) g t.req cause fva (t.req.addr.toNat + t.req.x.toNat - fva) t.entry
    | .acquire =>
      let s2 := reqError s1 g t.req (if cause == 5 then 9 else cause) t.req.addr.toNat 16 (t.entry.truncate 64)
      modCtx s2 g fun c => { c with acqWait := false }
    | _ => requestFails s1 g t.req (if cause == 5 then 9 else cause) (reqLen s g t.req) t.dataWord
  | .host k => hostAnswer (delTxn s id) k false []
  | .peer m tag =>
    respond (delTxn s id) (t.asked s m tag) 0x1F 0 (BitVec.ofNat 64 (peerStatus cause))
      (BitVec.ofNat 64 (t.errs.length * 2 ^ 16)) 0
  | .fetch g =>
    modCtx (delTxn s id) g fun c => { c with codeLn := keepLines (c.codeLn ++ [(2 ^ 80 + t.cnt, 0)]) }
  | .disp q =>
    let s1 := delTxn s id
    if t.kind == .load then { s1 with disp := { s1.disp with got := s1.disp.got ++ [(q, t.orig, none)] } }
    else after (setTxn s id { t with out := true, err := cause }) 0 (.launchComplete q)
  | .part p => after (memberDone (delTxn s id) p cause 0) 0 (.storePerform p)
  | _ =>
    let s1 := setTxn s id { t with out := true, err := cause }
    match agentEvent s t.src id with
    | some e => after s1 0 e
    | none => delTxn s id

/-! The outstanding table (R404). -/

def setOutst (s : State) (t : Tab Outst) : State :=
  rsetF { s with fab := { s.fab with outst := t } } (fabcfg + 24) 0 32 t.length

/-- RTO in core cycles (R404). -/
def rtoCycles (s : State) : Nat := rfld s (fabcfg + 8) 32 16 * Config.cyclesPerUs

/-- A free index at or after k. -/
def freeTag (t : Tab Outst) (k : Nat) : Nat → Nat
  | 0 => k
  | n + 1 => if (tfind t k).isNone then k else freeTag t ((k + 1) % 65536) n

/-- A request to the same granule of the peer by the same agent is outstanding (R408). -/
def granuleBusy (s : State) (a : Agent) (m : Msg) : Bool :=
  s.fab.outst.any fun e => e.2.agent == a && e.2.m.dst == m.dst && e.2.m.addr / 256 == m.addr / 256

/-- The redirect cache (R426); an ordered multicast's address names nothing at its ROOT. -/
def redirected (s : State) (m : Msg) : Msg :=
  match if m.op == 7 then none else s.fab.redir.find? fun r => r.m == m.dst && r.frame == m.addr / 2 ^ 16 with
  | some r => { m with dst := r.dest, addr := r.dframe * 2 ^ 16 + m.addr % 2 ^ 16 }
  | none => m

/-- Enter a request and send it in the way given. -/
def enterBy (send : State → Msg → State) (s : State) (m : Msg) (use : Use) (a : Agent) : State :=
  let (k, s0) := draw s
  let tag := freeTag s0.fab.outst (k % 65536) 65536
  let (stamp, s1) := fresh s0
  let m1 := { redirected s m with tag := tag }
  let tries := match use with
    | .txn id => ((getTxn s id).map (·.tries)).getD 0
    | _ => 0
  let s2 := setOutst s1 (tset s1.fab.outst tag { m := m1, use := use, agent := a, orig := m.addr, stamp := stamp, tries := tries })
  let timer := match use with
    | .page _ _ => Instr.pagedataTimeout tag stamp
    | _ => Instr.requestTimeout tag stamp
  send (after s2 (rtoCycles s) timer) m1
/-- Enter a request and send it on its route. -/
def enter (s : State) (m : Msg) (use : Use) (a : Agent) : State := enterBy sendMsg s m use a

/-- What the source checks (R405, R458): 0, or the status of the answer. -/
def dstStatus (s : State) (d : Nat) : Nat :=
  if d = moduleNo s then 0
  else if 32 * numGroups s ≤ d then 8
  else if rbit s (fencedMap + d / 64 * 8) (d % 64) then 1
  else if escInstalled s && !rbit s (livemap + d / 64 * 8) (d % 64) then 7
  else 0

/-- Enter a request that the source's check answers at once (R405, R458): its ERROR is here. -/
def enterRefused (s : State) (m : Msg) (use : Use) (a : Agent) (status : Nat) : State :=
  enterBy (fun s m =>
    { s with fab := { s.fab with arrived := s.fab.arrived ++
        [{ msgBlank (moduleNo s) m.dst 0x1F with vf := m.vf, tag := m.tag, opa := BitVec.ofNat 64 status }] } }) s m use a

/-- Enter a request that the Ridge die itself makes, by the way given. -/
def enterOwn (send : State → Msg → State) (s : State) (m : Msg) (use : Use) (a : Agent) : State :=
  let st := dstStatus s (redirected s m).dst
  if st = 0 then enterBy send s m use a else enterRefused s m use a st

/-- A request that the Ridge die itself makes: it waits where the table is full. -/
def sendReq (s : State) (m : Msg) (use : Use) (a : Agent) : State :=
  if s.fab.waiting.isEmpty && decide (s.fab.outst.length < 65536) then enterOwn sendMsg s m use a
  else { s with fab := { s.fab with waiting := s.fab.waiting ++ [(m, use, a)] } }

/-! Migration (R422, R425, R426). -/

/-- A PULL for a unit (R424, R425): repeated after twice RTO. -/
def sendPull (s : State) (u : MigUnit) : State :=
  let (k, s1) := fresh s
  let m : Msg := { msgBlank (rfld s (migd u.v) 2 14) (moduleNo s) 0x23 with
                   vf := u.v, addr := u.frame * 2 ^ 16, opa := BitVec.ofNat 64 (u.unit * 2 ^ 16),
                   opb := BitVec.ofNat 64 (rfld s (migd u.v) 16 7) }
  let s2 := sendReq s1 m (.pull u.v u.unit) (.peer (moduleNo s) 65539)
  let s3 := { s2 with mig := { s2.mig with units := s2.mig.units.map fun x =>
    if x.v == u.v && x.unit == u.unit then { x with pulled := true, stamp := k } else x } }
  after s3 (2 * rtoCycles s) (.pullTimeout u.v u.unit k)

/-- The frame's lines leave every remote-data cache of the module (R426). -/
def dropFrame (s : State) (peer : Option Nat) (frame : Nat) : State :=
  rdcDrop s fun l => (List.range 512).any fun i => lineKey peer (frame * 2 ^ 16 + 128 * i) == l.line

/-- Enter a redirection of source VF `svf`, the oldest leaving a full cache, and post event 0x11 (R426, R435). Frames are in units of
64 KiB. -/
def redirectTo (s : State) (m frame dest dframe vf svf : Nat) : State :=
  let l := s.fab.redir.filter fun r => !(r.m == m && r.frame == frame)
  let l' := (if 1024 ≤ l.length then l.drop 1 else l) ++ [{ m := m, frame := frame, dest := dest, dframe := dframe, vf := svf }]
  let s1 := dropFrame { s with fab := { s.fab with redir := l' } } (if m == moduleNo s then none else some m) frame
  postPlain s1 0x11 vf (BitVec.ofNat 64 (m + frame * 2 ^ 16)) (BitVec.ofNat 64 (dest + dframe * 2 ^ 16))

/-- A write whose bytes go to another module than its counter's posts there by itself (R427). -/
def Txn.splitPost (t : Txn) : Txn := if t.kind == .store && t.cnt != 0 && t.post.isNone then { t with post := some t.peer } else t

/-- A part's addresses moved from one frame to another. -/
def Txn.reframe (t : Txn) (frame dframe : Nat) : Txn :=
  let f (a : Nat) : Nat := if a / 2 ^ 16 == frame then dframe * 2 ^ 16 + a % 2 ^ 16 else a
  { t with pa := f t.pa, rd := t.rd.map fun x => (f x.1, x.2), wr := t.wr.map fun c => { c with pa := f c.pa } }

/-- A request met a frame that has moved (R426): an own one goes after it, at most 4 times, as does the post of a peer's put
whose write has been performed here; a peer's request is told, with the source's VF in the header (log 128). -/
def onMoved (s : State) (id : Nat) (t : Txn) (x : Sealed) : State :=
  match t.src, t.fe == 9 with
  | .peer m tag, false =>
    let s1 := rsetF (delTxn s id) (migs x.v + 32) 32 32 (rfld s (migs x.v + 32) 32 32 + 1)
    let s2 := if s1.mig.peers.contains (x.v, m, t.vf) then s1
      else rsetF { s1 with mig := { s1.mig with peers := s1.mig.peers ++ [(x.v, m, t.vf)] } } (migs x.v + 32) 0 32
        (rfld s1 (migs x.v + 32) 0 32 + 1)
    respond s2 { t.asked s m tag with vf := x.v } 0x1F 0 (BitVec.ofNat 64 (x.dest + x.dframe * 2 ^ 16)) 10 0
  | _, _ =>
    if 4 ≤ t.tries then partFails s id t 0x0A
    else
      let t' := { t.splitPost.reframe x.frame x.dframe with peer := some x.dest, tries := t.tries + 1, held := false, sent := 0, left := 0 }
      let s1 := redirectTo (setTxn s id t') (moduleNo s) x.frame x.dest x.dframe t.vf x.v
      { s1 with fab := { s1.fab with inject := s1.fab.inject ++ [id] } }

/-- A request to a frame whose unit is not yet here is held, in arrival order, and its unit is pulled (R422, R424). -/
def onReserved (s : State) (id : Nat) (t : Txn) (u : MigUnit) : State :=
  let s1 := { setTxn s id { t with held := true } with mig := { s.mig with held := s.mig.held ++ [id] } }
  let s2 := rsetF s1 (migd u.v + 24) 32 32 (rfld s (migd u.v + 24) 32 32 + 1)
  if u.pulled then s2 else sendPull s2 u

/-- Try again in the next cycle. -/
def retry (s : State) (id : Nat) (t : Txn) : State := after (setTxn s id { t with held := true }) 1 (performEvent t id)

/-- An atomic or a sync object's operation waits at the slice for the granule's earlier parts alone (R231): `ix` numbers them. -/
def holdPart (s : State) (id : Nat) (t : Txn) : State := retry s id { t with ix := if t.ix = 0 then s.ids + 1 else t.ix }

/-- The full/empty forms of a peer at this module's scratchpad: what each waits for, at the first granule left (R44). -/
def feWaiting (s : State) (t : Txn) : Bool :=
  match t.fe with
  | 1 => !((granules (t.rd.map (·.1))).take 1).all (feGet s)
  | 2 => !((granules (t.rd.map (·.1))).take 1).all (feGet s)
  | 4 => feGet s t.pa
  | 5 => !feGet s t.pa
  | _ => false

/-- An access of tier 2 has its banks in this cycle (R43), each for as many cycles as it serves granules of it; what waits for a bit
or for the Sump takes none. -/
def withBanks (s : State) (t : Txn) : Option State :=
  let l := t.here s
  match l.filter fun a => tierOf a == some 2 with
  | [] => some s
  | a :: _ =>
    if (t.kind == .load && feWaiting s t) || sumpWaits t then some s
    else
      let n := bankCounts (if t.kind == .load && (t.fe == 1 || t.fe == 2) then (granules l).take 1 else l)
      if banksFree s (clusterOfPa a) n then some (banksTake s (clusterOfPa a) n) else none

/-- Run an effect behind its gate; a request for a peer, or one already answered, is not performed here. -/
def atHome (s : State) (id : Nat) (kind : TxnKind) (f : State → Txn → State) : State :=
  match getTxn s id with
  | none => s
  | some t =>
    if t.kind != kind || t.peer.isSome || t.out || s.mig.held.contains id then s
    else
      match gate s id t with
      | .pass =>
        match withBanks s t with
        | some s1 => f s1 t
        | none => after s 1 (performEvent t id)
      | .later => after s 1 (performEvent t id)
      | .moved x => onMoved s id t x
      | .closed =>
        match t.src with
        | .peer m tag => respondError (delTxn s id) (t.asked s m tag) 13
        | _ => partFails s id t 0x0A
      | .reserved u => onReserved s id t u
      | .fail c => partFails s id t c

/-- A deadline-class request to the HBM is served (R204): later than 2,048 L2 cycles after it was sent it may also be later than that
after its arrival at the controller, which counts in DLMISS (log 88). -/
def served (s : State) (t : Txn) : State :=
  let a := t.home s t.pa
  if t.dl && tierOf a == some 0 && decide (t.born + 1600 < s.clock) then
    let (late, s1) := drawBool s
    if late then rincHold s1 (mcstat (sliceOf s a)) 32 16 else s1
  else s

/-! Loads. -/

/-- The element size of a load, for the free choice of R231; 8 aligned bytes may be one access of a peer's (R211). -/
def loadEsz (s : State) (t : Txn) : Nat :=
  match t.src with
  | .ctx g =>
    match aop t.req.op with
    | .ldv w _ => elemBytes (vecBits s (vfOf s g) t.req.h w)
    | .lda n _ => n
    | _ => 1
  | _ => if t.rd.length = 8 ∧ t.pa % 8 = 0 then 8 else 4

/-- The requester of a register access. -/
def Txn.reqSrc (t : Txn) : ReqSrc :=
  match t.src with
  | .ctx g => .ctx g t.req.sys
  | _ => if t.ofHost then .host (if t.req.sys then none else some t.vf) else .ctx t.g t.req.sys

/-- The PCI Express address of a host-window address before ATS (R433). -/
def hostLin (s : State) (pa : Nat) : Nat := rfld s (hostcfg + 8) 12 52 * 4096 + (pa - tierBase 4)
/-- The frame that the host has answered for a 4 KiB page of the host window. -/
def atsFind (s : State) (vf page : Nat) : Option Nat := (s.ats.find? fun e => e.1 == page && e.2.1 == vf).map (·.2.2)
/-- The PCI Express address of a host-window address (R433): with ATS, in the frame that the host has answered. -/
def hostAddr (s : State) (vf pa : Nat) : Nat :=
  match if rbit s hostcfg 1 then atsFind s vf ((pa - tierBase 4) / 4096) else none with
  | some f => f * 4096 + pa % 4096
  | none => hostLin s pa
/-- With ATS, the 4 KiB pages of an access that are not cached: a Translation Request goes for each, and its answer, which is the
host's, is kept (R433). None where nothing is missing. -/
def atsAsk (s : State) (vf pa n : Nat) : Option State :=
  let miss := if rbit s hostcfg 1 then
      ((cutAt 4096 pa (max 1 n)).map fun p => (p.1 - tierBase 4) / 4096).filter fun p => (atsFind s vf p).isNone else []
  if miss.isEmpty then none
  else some (miss.foldl (fun s p =>
    let (f, s1) := draw s
    emitOut { s1 with ats := s1.ats ++ [(p, vf, f % 2 ^ 52)] } (.atsRequest (hostPort s vf) p vf)) s)
/-- A host-window read: one transaction, cut at 4 KiB (R181, R431). -/
def hostRead (s : State) (id vf pa n : Nat) : State :=
  (cutAt 4096 pa n).foldl (fun s p => emitOut s (.pcieRead (hostPort s vf) (id % 1024) (hostAddr s vf p.1) p.2 vf)) s
/-- A host-window write of the bytes [pa, pa + n), of which the cells are written: one transaction, cut at 512 bytes (R181, R431). -/
def hostWrite (s : State) (vf pa n : Nat) (wr : List WCell) : State :=
  let m := mergeCells wr
  (cutAt 512 pa n).foldl (fun s p =>
    emitOut s (.pcieWrite (hostPort s vf) (hostAddr s vf p.1) ((List.range p.2).map fun i => tget (0, 0) m (p.1 + i)) vf)) s
/-- The first byte of some addresses and how many bytes they span. -/
def spanOf (pa : Nat) (l : List Nat) : Nat := l.foldl (fun n a => max n (a + 1 - pa)) 0

/-- Lines that a load of die d fetches are allocated (R179, R180), from homes on this module. -/
def rdcKeep (s : State) (t : Txn) (pas : List Nat) : State :=
  if t.cp < 2 && t.lmask == 0 && t.peer.isNone then
    let lines := (pas.foldl (fun (l : Tab Unit) a => tset l (a / 128) ()) []).map fun e => 128 * e.1
    lines.foldl (fun s a =>
      let b := (List.range 128).map (a + ·)
      if rdcCan t.die none a && !(b.any (badByte s)) && (pendingAt s a).isEmpty then
        rdcFill s t.die (lineKey none a) t.vf (t.objAt s a) (b.map (mread s))
      else s) s
  else s

/-- A peer's full/empty load takes its first granule, and goes on with the rest in the next cycle (R44). -/
def performFull (s : State) (id : Nat) (t : Txn) : State :=
  let a := ((granules (t.rd.map (·.1))).headD 0)
  let mine := t.rd.filter fun x => x.1 / 16 == a / 16
  let t1 := { t with rd := t.rd.filter fun x => x.1 / 16 != a / 16 }
  match readItems s mine with
  | none => partFails s id t 9
  | some b =>
    let s1 := if t.fe == 2 then feSet s a false else s
    if t1.rd.isEmpty then loaded s1 id t1 (b.foldl (fun r x => tset r x.1 x.2) t.raw)
    else retry s1 id { t1 with raw := b.foldl (fun r x => tset r x.1 x.2) t.raw }

def performLoad (s : State) (id : Nat) (t : Txn) : State :=
  let a := t.home s t.pa
  if t.err ≠ 0 then partFails s id t t.err
  else
  match tierOf a with
  | none => partFails s id t 9
  | some 3 =>
    let (x, s1) := regRead s a t.rd.length
    loaded s1 id t (t.rd.map fun r => (r.2, BitVec.ofNat 8 (x / 2 ^ (8 * (r.1 - t.pa)))))
  | some tier =>
    if feWaiting s t then retry s id t
    else if t.fe == 1 || t.fe == 2 then performFull s id t
    else
      let n := spanOf a (t.rd.map (·.1))
      match if tier == 4 then atsAsk s t.vf a n else none with
      | some s1 => retry s1 id t
      | none =>
      match loadBytes s t (loadEsz s t) with
      | none => partFails s id t 9
      | some (s1, b) =>
        let s3 := if tier == 4 then hostRead s1 id t.vf a n else s1
        let pas := t.rd.map fun r => t.home s r.1
        loaded (l2Add (rdcKeep s3 t pas) t.cp pas) id t b

/-- LOAD_PERFORM (R209, R211). -/
def execLoadPerform (id : Nat) (s : State) : Res := .next (atHome s id .load fun s t => performLoad (served s t) id t)

/-! Stores. -/

/-- Stores of a die that an agent of it may have read in the die's cache before they reached their homes (R218 point
3). -/
def dieStores (s : State) (d : Nat) : Bool := s.txns.any fun e => e.2.die == d && e.2.kind == .store && rdcCan d e.2.peer e.2.pa

/-- A write of ARCONT is a release of all memory at .dom scope (R416): everything that its agent did before has been performed. -/
def arcontMay (s : State) (t : Txn) : Bool :=
  (match t.src with
   | .ctx g => earlierDone s g t.req.seq
   | _ => !s.txns.any fun e => decide (e.1 < t.orig) && e.2.agent s == t.agent s && (e.2.kind != .load || !e.2.wr.isEmpty)) &&
  !dieStores s t.die

/-- A store's effect at its home: registers, the host, memory. -/
def storeAt (s : State) (t : Txn) : Perf × BitVec 5 :=
  let a := t.home s t.pa
  match tierOf a with
  | some 3 =>
    let n := t.wr.length
    if isArcont (a - regBase) && !arcontMay s t then (.wait s, 0)
    else if regAllowed s t.reqSrc a true n && !foreignArm s t.reqSrc a (natOfBytes (t.wr.map (·.val))) then
      (.done (regWrite s t.reqSrc a (BitVec.ofNat 64 (natOfBytes (t.wr.map (·.val)))) n), 0)
    else (.err s 5, 0)
  | some 4 =>
    let n := max t.len (spanOf a (t.wr.map (·.pa)))
    (match atsAsk s t.vf a n with
     | some s1 => (.wait s1, 0)
     | none => storeHome (hostWrite s t.vf a n t.wr) t)
  | _ => storeHome s t

/-- After a write of die d: its line in that die's cache (R180, R269). -/
def afterStore (s : State) (t : Txn) : State :=
  let wr := t.wr.map fun c => { c with pa := t.home s c.pa }
  if t.red != 0 then rdcInval s t.die t.peer (wr.map (·.pa)) else rdcStore s t.die t.peer wr

/-- A store has changed its home: its lines in the L2 (R179), its granule's bit where it is a peer's FESET, its die's cache. -/
def storeDone (s : State) (t : Txn) : State :=
  if t.fe == 6 || t.fe == 7 then feSet s t.pa (t.fe == 7)
  else afterStore (if t.red != 0 then s else l2Add s t.cp (t.wr.map fun c => t.home s c.pa)) t

/-- Perform a store. One in a bank's queue is performed when it executes there (R231), as is a reducing one of another agent than a
context (R281, R409). One that waits for room in the Sump, and not for its enable, counts in FULL once (R283). -/
def performStore (s : State) (id : Nat) (t : Txn) : State :=
  if t.red == 0 && rdcSpoils s t.die t.peer (t.wr.map fun c => { c with pa := t.home s c.pa }) then partFails s id t 9
  else
  match storeAt s { t with orig := id } with
  | (.done s1, fl) =>
    let s2 := storeDone s1 t
    match t.src with
    | .ctx _ => written s2 id t [] fl
    | _ => if t.red != 0 && t.rland then setTxn s2 id { t with held := true, out := true } else written s2 id t [] fl
  | (.queued s1, _) => setTxn s1 id { t with out := true }
  | (.err s1 c, _) => partFails s1 id t c
  | (.wait s1, _) =>
    let full := t.red != 0 && !t.rland && rbit s sumpcfg 0 && !t.hit &&
      !replaying s t.vf (wordsOf (t.wr.map fun c => { c with pa := t.home s c.pa }))
    retry (if full then rincHold s1 (sumpcfg + 8) 32 32 else s1) id (if full then { t with hit := true } else t)

/-- CSAVE's or CLOAD's whole, of which the parts in frames of a migration are requests: its course waits for it (R357, R422). -/
def Txn.isArea (t : Txn) : Bool := t.kind == .fe && match t.req.op with
  | .csave _ _ => true
  | .cload _ _ => true
  | _ => false

/-- STORE_PERFORM (R209). A multicast as a whole, of kind `fe`, ends with its last copy (R410). -/
def execStorePerform (id : Nat) (s : State) : Res :=
  match getTxn s id with
  | none => .next s
  | some t =>
    if t.kind == .fe && t.peer.isNone then
      .next (if t.left ≠ 0 then s
        else if t.isArea then setTxn s id { t with out := true }
        else if t.err = 0 then written s id t (t.raw.map (·.2)) 0
        else partFails s id t t.err)
    else .next (atHome s id .store fun s t => performStore (served s t) id t)

/-! Atomics. -/

/-- An atomic whose new value is computed from its request, or a counter's add (R271, R312). -/
def performAtomic (s : State) (id : Nat) (t : Txn) : State :=
  let a := t.home s t.pa
  if pendingBefore s a t.ix then holdPart s id t
  else match if tierOf a == some 4 then atsAsk s t.vf a t.len else none with
  | some s1 => retry s1 id t
  | none =>
    let l := (List.range t.len).map (a + ·)
    if l.any (badByte s) then partFails s id t 9
    else
      let old := mreadN s a t.len
      let x := natOfBytes old
      let (y, fl) := match aop t.req.op with
        | .none => ((x + t.add) % 2 ^ (8 * t.len), 0)
        | op => atomicNew op t.req.fmode (laneOf t.req.rnd 0) t.entry x
      let s1 := mwriteL s a (bytesOf (BitVec.ofNat 128 y) t.len)
      let s2 := if tierOf a == some 4 then
          emitOut s1 (.pcieAtomic (hostPort s t.vf) (hostAddr s t.vf a)
            (match aop t.req.op with
             | .cas _ _ => 2
             | .amo _ 8 _ _ => 1
             | _ => 0) t.len t.entry t.vf)
        else s1
      written (l2Add s2 t.cp l) id t old fl

/-- ATOMIC_PERFORM (R227, R228, R252). -/
def execAtomicPerform (id : Nat) (s : State) : Res := .next (atHome s id .atomic fun s t => performAtomic (served s t) id t)

/-! Sync objects. -/

/-- The kind of an acquire: 0 exclusive, 1 shared, 2 event; and its scope. -/
def acqKind (i : Instr) : Nat × Nat :=
  match aop i with
  | .acq k sc => (k, sc)
  | _ => (0, 0)

/-- Where an object named by a virtual address of VF v lies: its module and address. -/
def objPlace (s : State) (v va : Nat) : Option (Option Nat × Nat) :=
  let h := translate s false v va
  if hBit h 2 then none else some (if homeMod s h = moduleNo s then none else some (homeMod s h), handlePa h va)
/-- The object bound to a region is the one at a place. -/
def boundTo (s : State) (v obj : Nat) (peer : Option Nat) (pa : Nat) : Bool := obj != 0 && objPlace s v obj == some (peer, pa)

/-- An acquire completes for its context: its object's line is not read old again (R209); at .pkg or .dom scope the lines bound to
the object leave (R226), or, for an event, every line of the VF (R272); then what is behind it may go (R219). -/
def acquired (s : State) (g : Nat) (t : Txn) : State :=
  let (k, sc) := acqKind t.req.op
  let own := lineKey t.peer t.pa
  let s0 := noFill (rdcDrop s fun l => l.die == t.die && l.line == own) t.die fun u => u.onLines s [own]
  let s1 := if 4 ≤ sc then
      (if k = 2 then rdcAcquireAll s0 t.die t.vf else rdcAcquire s0 t.die t.vf fun l => boundTo s t.vf l.obj t.peer t.pa)
    else s0
  modCtx s1 g fun c => { c with acqWait := false }

/-- An acquire at the object: which of several waiting ones is served is free (R216). A peer's kind is in `fe`, its
owner in `add`. -/
def performAcquire (s : State) (id : Nat) (t : Txn) : State :=
  let k := match t.src with
    | .peer _ _ => t.fe
    | _ => (acqKind t.req.op).1
  let owner := match t.src with
    | .ctx g => ownerOf s g
    | _ => t.add
  let a := t.home s t.pa
  let l := (List.range 16).map (a + ·)
  if l.any (badByte s) then partFails s id t 9
  else if pendingBefore s a t.ix then holdPart s id t
  else if !acqReady s a k (t.entry.truncate 64) then retry s id t
  else
    let others := s.txns.any fun e => e.1 != id && e.2.kind == .acquire && e.2.pa == t.pa && e.2.peer.isNone
    let (now, s1) := if others then drawBool s else (true, s)
    if !now then retry s1 id t
    else
      let s2 := acqStep s1 a k owner
      match t.src with
      | .ctx g => acquired (delTxn s2 id) g t
      | .peer m tag => respond (delTxn s2 id) (t.asked s m tag) 0x10 0 0 0 0
      | _ => delTxn s2 id

/-- SYNC_ACQUIRE_STEP (R216, R219, R220). -/
def execSyncAcquireStep (id : Nat) (s : State) : Res := .next (atHome s id .acquire fun s t => performAcquire s id t)

/-- An unlock of a free object is counted, at the object's home (R256; DESIGN CHOICE, log 131). -/
def performRelease (s : State) (id : Nat) (t : Txn) : State :=
  let post := match t.src with
    | .peer _ _ => t.fe == 4
    | _ => aop t.req.op == .rel true (match aop t.req.op with
      | .rel _ sc => sc
      | _ => 0)
  let a := t.home s t.pa
  let l := (List.range 16).map (a + ·)
  if l.any (badByte s) then partFails s id t 9
  else if pendingBefore s a t.ix then holdPart s id t
  else
    let (s1, idle) := relStep s a post (t.entry.truncate 64)
    written (if idle then rincHold s1 (mistat t.vf) 0 32 else s1) id t [] 0

/-- SYNC_RELEASE_STEP (R216, R256). -/
def execSyncReleaseStep (id : Nat) (s : State) : Res := .next (atHome s id .release fun s t => performRelease s id t)

/-! Releases, fences, bindings at the core. -/

/-- A write that a release waits for. -/
def Txn.isWrite (t : Txn) : Bool := match t.kind with
  | .load => t.src != .ctx t.g && !t.wr.isEmpty
  | _ => true

/-- A write of the context still on its way to a region that `f` chooses by the object bound to it (R217, R218); a part of
several regions counts. -/
def carriedBy (s : State) (g seq : Nat) (f : Nat → Bool) : Bool :=
  s.txns.any fun e =>
    e.2.src == .ctx g && decide (e.2.req.seq < seq) && e.2.isWrite &&
    (let l := e.2.touches
     f (e.2.objAt s e.2.pa) || l.any fun a => a / 256 != e.2.pa / 256)

/-- RELEASE_PERFORM (R218): a release of the core's buffer whose writes have been performed goes to its object, in a slot of
the core's where it leaves through a handle (R184); a page-request record (R249), which releases all memory, is written where
no Pump part is pending. -/
def execReleasePerform (core id : Nat) (s : State) : Res :=
  match (getCore s core).rels.find? fun r => r.id == id with
  | none => .next s
  | some r =>
    let t := syncTxn s r.g .release r.req (r.req.y.zeroExtend 2048)
    let gone (s : State) : State := modCore s core fun k => { k with rels := k.rels.filter fun r => r.id != id }
    let later : Res := .next (after s 1 (.releasePerform core id))
    match aop r.req.op with
    | .preq =>
      let vf := vfOf s r.g
      if carriedBy s r.g r.req.seq (fun _ => true) || !hwReady s (prqSlot s vf) 32 then later
      else .next (prqRecord (gone s) r.g vf r.req.addr.toNat)
    | op =>
      let sc := match op with
        | .rel _ sc => sc
        | _ => 0
      if carriedBy s r.g r.req.seq (fun o => boundTo s t.vf o t.peer t.pa) || (sc == 5 && dieStores s (dieOfCore core)) ||
          (r.req.h.isSome && !slotFree s r.g) then later
      else
        let s1 := if r.req.h.isSome then takeSlot (gone s) r.g else gone s
        let (d, s2) := drawLat s1 t
        .next (sendTxn s2 t d).1

/-- The loads before seq have filled their LDQ entries (R222). -/
def loadsFilled (c : Ctx) (seq : Nat) : Bool := c.ldq.all fun e => e.filled || decide (seq ≤ e.req.seq)

/-- FENCE_COMPLETE (R222, R225, R226, R258). -/
def execFenceComplete (g : Nat) (s : State) : Res :=
  match headReady s g with
  | none => .next s
  | some q =>
    match aop q.op with
    | .fence k sc =>
      let rel := decide (2 ≤ k)
      let acq := k % 2 == 1
      let core := coreOf g
      if earlierDone s g q.seq && (!rel || q.slot) && (!acq || loadsFilled (getCtx s g) q.seq) &&
          !(rel && sc == 5 && dieStores s (dieOfCore core)) then
        let s1 := popHead (modCore s core fun c => { c with rels := c.rels.filter fun r =>
          !(r.g == g && r.req.seq == q.seq) }) g
        .next (if acq && decide (4 ≤ sc) then rdcAcquireAll s1 (dieOfCore core) (vfOf s g) else s1)
      else .next s
    | _ => .next s

/-- Pump parts of a context still queued in a bank (R233). -/
def pumpQueued (s : State) (g : Nat) : Bool :=
  s.banks.any fun b => b.2.any fun p => p.txn.src == .ctx g && p.txn.kind == .pcmd

/-- PFENCE_COMPLETE (R233, R259): every earlier PCMD part has completed. The lines of their targets, and with them every tier 0 line
of the own die's remote-data cache, leave. -/
def execPfenceComplete (g : Nat) (s : State) : Res :=
  match headReady s g with
  | none => .next s
  | some q =>
    match aop q.op with
    | .pfence _ =>
      if (s.txns.any fun e => e.2.src == .ctx g && e.2.kind == .pcmd && decide (e.2.req.seq < q.seq)) || pumpQueued s g then
        .next s
      else
        let d := dieOfCore (coreOf g)
        .next (popHead (noFill (rdcDrop s fun l => l.die == d && tierOf (l.line % 2 ^ 65) == some 0) d fun t => tierOf t.pa == some 0) g)
    | _ => .next s

/-- BIND_PERFORM (R257): once every earlier request has been performed. The range counts from VPAGE's 64 KiB unit (DESIGN CHOICE,
log 130). -/
def execBindPerform (g : Nat) (s : State) : Res :=
  match headReady s g with
  | none => .next s
  | some q =>
    match aop q.op, q.h with
    | .bind u, some h =>
      if !earlierDone s g q.seq then .next s
      else
        let vf := vfOf s g
        let off := q.x.toNat % 2 ^ 32
        let len := q.x.toNat / 2 ^ 32
        let ent : BindEnt := { vf := vf, hva := hVa h, off := off, len := len, obj := q.y.toNat }
        let s1 := if u then
            { s with binds := s.binds.filter fun b => !(b.vf == vf && b.hva + b.off == hVa h + off && b.len == len) }
          else if (s.binds.filter fun b => b.vf == vf).length < 64 then { s with binds := ent :: s.binds }
          else s
        let peer := if homeMod s h = moduleNo s then none else some (homeMod s h)
        let pa := hPlace g h (hVa h + off)
        -- on a twin page the current frame's lines are those of the range
        let lo := lineKey peer (if hTwin h && peer.isNone then twinPa s vf pa (hPage h) false else pa)
        let in_ (k : Nat) : Bool := decide (lo ≤ k) && decide (k < lo + len)
        let s2 := (List.range 4).foldl (fun s d => noFill s d fun t => (t.keys s).any in_) (rdcDrop s1 fun l => in_ l.line)
        .next (popHead s2 g)
    | _, _ => .next s

/-! Pump parts. -/

/-- PUMP_PART_ENQUEUE (R230). -/
def execPumpPartEnqueue (id : Nat) (s : State) : Res :=
  .next (atHome s id .pcmd fun s t =>
    let pa := t.home s t.pa
    if stopped s pa then partFails s id t 9
    else
      match enqueue s { t with orig := id, pa := pa, twin := 0 } with
      | some s1 => delTxn (l2Drop s1 pa) id
      | none => retry s id t)

/-- A part that has executed reaches its requester; `bad` is the offset of its first failing element. -/
def partDone (s : State) (t : Txn) (fl : BitVec 5) (cause bad : Nat) : State :=
  match t.src with
  | .ctx g =>
    let s1 := rdcInval s t.die t.peer ((List.range (max 1 t.len)).map (t.pa + ·))
    if t.kind == .store && t.red == 0 then queued
    else if t.kind == .pcmd then
      let s2 := pcmdFlags s1 g t.req.seq (fl ||| t.flags)
      let fva := match t.req.h with
        | some h => vaOf h (t.pa + bad)
        | none => t.pa + bad
      if cause == 0 then s2 else pcmdFault s2 g t.req cause fva (t.req.addr.toNat + t.req.x.toNat - fva) t.entry
    else if cause == 0 then engineFlags s1 g fl
    else requestFails (engineFlags s1 g fl) g t.req cause (reqLen s g t.req) t.dataWord
  | .peer m tag =>
    if t.kind == .pcmd then
      if cause == 0 then respond s (t.asked s m tag) 0x10 0 (BitVec.ofNat 64 fl.toNat) 0 0
      else respondError s (t.asked s m tag) 3
    else queued
  | _ => queued
where
  /-- A store that waited in the bank's queue. -/
  queued : State :=
    match getTxn s t.orig with
    | some u => if cause == 0 then written (if t.red == 0 then storeDone s u else s) t.orig u [] fl else partFails s t.orig u cause
    | none => s

/-- PUMP_PART_EXECUTE (R230, R232, R235): the bank executes its oldest part; the holding area's next part for the bank
follows into the queue. -/
def execPumpPartExecute (bank : Nat) (s : State) : Res :=
  match bankQ s bank with
  | [] => .next s
  | p :: r =>
    let (s1, fl, cause) := partApply s p.txn
    let hk := holdKey (bank / 16)
    let hold := bankQ s1 hk
    let s2 := match hold.find? fun x => bankOf s x.txn.pa == bank with
      | some x =>
        setBankQ (setBankQ s1 bank (r ++ [x])) hk (hold.eraseP fun y => bankOf s y.txn.pa == bank)
      | none => setBankQ s1 bank r
    .next (partDone s2 p.txn fl cause (partFailedAt s p.txn))

end Sys2Proof.Machine
end

