-- ==== Sys2Proof/Machine/MemEvents.lean ====
section
/-!
DEFINITION. LDQ entries fill (R40, R195, R201, R240, R248, R254), walks end (R199), and handles are invalidated (R202).
-/
namespace Sys2Proof.Machine

/-- What an entry holds once filled: the value, the flags, the mask for the register that its request names. -/
def entryValue (s : State) (g : Nat) (e : LdqEntry) : VWord × BitVec 5 × Word64 :=
  let q := e.req
  let op := aop q.op
  let h := q.h.getD 0
  match op with
  | .hchk =>
    let w := natOfBytes ((List.range 8).map (tget 0 e.raw ·))
    (BitVec.ofNat 2048 w, 0, if w % 64 = 57 then -1 else 0)
  | _ =>
    if q.h.isSome && op.resLoad && !hBit h 3 then (0, 0, resMask q)
    else if q.h.isSome && !atomicOk op (hTier h) (hRed h) then
      (BitVec.ofNat 2048 (ones (8 * max 8 op.size) + 2 ^ 248), 0, 0)
    else
      let (v, fl) := loadValue s (vfOf s g) q e.raw
      (v, fl ||| e.flags, 0)

/-- The oldest entries that have everything fill, in LAQ order; the second answer is what lands with them: the mask named, and the
flags of a formatted page's load, which are ORed without a trap (DESIGN CHOICE, log 102). -/
def fillFrom (s : State) (g : Nat) : List LdqEntry → List LdqEntry × List Flight
  | [] => ([], [])
  | e :: r =>
    if e.filled then let (l, k) := fillFrom s g r; (e :: l, k)
    else
      let now := localTime s (coreOf g)
      if e.left = 0 && decide (e.due ≤ now) then
        let (v, fl, k) := entryValue s g e
        let (l, ks) := fillFrom s g r
        ({ e with filled := true, val := if e.failed then 0 else v, kval := k, flags := fl, raw := [] } :: l,
          if e.failed then ks
          else { dest := .k (krOf e.req.op), val := k.zeroExtend 2048, mask := 1, due := now, flags := fl, trap := false } :: ks)
      else (e :: r, [])

/-- LDQ_FILL (R40). What lands with the entries lands in this cycle, before the results of what was issued since (R28); a frozen
context has none of those. -/
def execLdqFill (g : Nat) (s : State) : Res :=
  let c := getCtx s g
  let (l, k) := fillFrom s g c.ldq
  let c1 := { c with ldq := l, flight := k ++ c.flight }
  .next (setCtx s g (if c.frozen then c1.landDue (isSteward g) (localTime s (coreOf g)) else c1))

/-- A handle whose walk `id` has not finished. -/
def pendingWalk (h : HWord) (id : Nat) : Bool := hBit h 0 && hBit h 1 && hf h 35 29 == id % 2 ^ 29

/-- TABLE_WALK_COMPLETE (R189, R199): the handle, landed or on its way, gets the walk's result. -/
def execTableWalkComplete (id : Nat) (s : State) : Res :=
  match tfind s.walks id with
  | none => .next s
  | some w =>
    let h := translate s false w.vf w.va
    let fix (f : Flight) : Flight :=
      if f.dest == .h w.hn && pendingWalk (f.val.truncate 128) id then { f with val := h.zeroExtend 2048 } else f
    let s1 := { s with walks := tdel s.walks id }
    .next (modCtx s1 w.g fun c =>
      { c with flight := c.flight.map fix, held := c.held.map fix,
               h := if pendingWalk (c.rdH w.hn) id then tput 0 c.h w.hn h else c.h })

/-! Invalidation. -/

/-- A handle's page meets [lo, hi], in units of 64 KiB. -/
def pageMeets (lo hi : Nat) (h : HWord) : Bool :=
  decide (hPageVa h / 2 ^ 16 ≤ hi) && decide (lo < (hPageVa h + hPage h) / 2 ^ 16)
/-- A handle of VF v whose page meets the range. -/
def affected (v lo hi : Nat) (h : HWord) : Bool := hVf h == v && pageMeets lo hi h
def unvalid (v lo hi : Nat) (h : HWord) : HWord := if affected v lo hi h then h &&& ~~~ (1 : HWord) else h

/-- Clear VALID wherever a handle of the range is held; a walk in flight lands with VALID = 0 (R202). `stew` says whether
steward contexts are reached (R341). -/
def invalidate (s : State) (v lo hi : Nat) (stew : Bool) : State :=
  let cut := unvalid v lo hi
  -- a handle whose walk has not finished names no VF yet: its walk does
  let walkHit (id : Nat) : Bool := s.walks.any fun w =>
    w.1 % 2 ^ 29 == id && w.2.vf == v &&
      ((decide (lo ≤ w.2.va / 2 ^ 16) && decide (w.2.va / 2 ^ 16 ≤ hi)) || pageMeets lo hi (translate s false v w.2.va))
  let cutH (h : HWord) : HWord := if hBit h 1 && walkHit (hf h 35 29) then h &&& ~~~ (1 : HWord) else cut h
  let fl (f : Flight) : Flight := match f.dest with
    | .h _ => { f with val := (cutH (f.val.truncate 128)).zeroExtend 2048 }
    | _ => f
  let ctx (g : Nat) (c : Ctx) : Ctx :=
    { c with
      h := c.h.map fun x => (x.1, cutH x.2)
      flight := c.flight.map fl, held := c.held.map fl
      laq := c.laq.map fun q => if c.frozen || q.trap then { q with h := q.h.map cut } else q
      codeLn := if vfOf s g == v then [] else c.codeLn }
  { s with
    ctxs := s.ctxs.map fun x => if isSteward x.1 && !stew then x else (x.1, ctx x.1 x.2)
    chans := s.chans.map fun x =>
      (x.1, x.2.map fun c => if decide (4096 ≤ c.g) && decide (c.g < 8192) && !stew then c
        else { c with src := c.src.map cut, dst := c.dst.map cut }) }

/-- Requests that a hold has come to keep in LAQ since the start lose VALID too (R202). -/
def invalidateHeld (s : State) (v lo hi : Nat) (stew : Bool) : State :=
  { s with ctxs := s.ctxs.map fun x =>
      if isSteward x.1 && !stew then x
      else (x.1, { x.2 with laq := x.2.laq.map fun q => if x.2.frozen || q.trap then { q with h := q.h.map (unvalid v lo hi) } else q }) }

/-- A request through an affected handle is still to be performed; what a hold keeps is not waited for (R202). -/
def invalPending (s : State) (v lo hi : Nat) : Bool :=
  (s.txns.any fun e => [e.2.req.h, e.2.dst.h].any fun x => match x with
    | some h => affected v lo hi h
    | none => false) ||
  (s.cores.any fun x => x.2.rels.any fun r => match r.req.h with
    | some h => affected v lo hi h
    | none => false) ||
  s.ctxs.any fun x => !x.2.frozen && x.2.laq.any fun q => !q.trap && match q.h with
    | some h => affected v lo hi h
    | none => false

def hinvalArgs (s : State) : Nat × Nat × Nat := (rfld s (hinval + 16) 0 7, rfld s hinval 16 41, rfld s (hinval + 8) 16 41)

/-- HINVAL_START (R202). -/
def execHinvalStart (s : State) : Res :=
  let (v, lo, hi) := hinvalArgs s
  .next (after (invalidate s v lo hi true) 1 .hinvalComplete)

/-- HINVAL_COMPLETE (R202): GO clears once nothing of the old handles is on its way. -/
def execHinvalComplete (s : State) : Res :=
  let (v, lo, hi) := hinvalArgs s
  let s1 := invalidateHeld s v lo hi true
  if invalPending s1 v lo hi then .next (after s1 1 .hinvalComplete) else .next (rsetF s1 (hinval + 16) 8 1 0)

end Sys2Proof.Machine
end

