-- ==== Sys2Proof/Machine/Engines.lean ====
section
/-!
DEFINITION. What the engines share: addresses (R188, R265, R305), the copy packet and its tile (R264 to R267), channels and
their commands (R268), fault records (R349), counters (R271).
-/
namespace Sys2Proof.Machine

/-! Addresses. -/

/-- Who an engine works for: the context (none for a queue), the VF, the mode. -/
structure Who where
  g   : Nat
  vf  : Nat
  sys : Bool
deriving DecidableEq, Repr

/-- The context number of work that no context issued. -/
def noCtx : Nat := 8192
def Who.steward (w : Who) : Bool := decide (4096 ≤ w.g) && decide (w.g < noCtx)

/-- The handle of an address that an engine takes (R188, R305): `whole` says that it comes from a 64-bit register, and
is then a fabric address where the VF does not translate. -/
def engHandle (s : State) (w : Who) (whole : Bool) (va : Nat) : HWord :=
  if !w.steward && rbit s (vmcfg w.vf) 0 then
    (if va < 2 ^ 57 || whole then translate s false w.vf (va % 2 ^ 57) else noMap va w.vf)
  else if whole then
    let m := if va / 2 ^ 50 = 0 then moduleNo s else va / 2 ^ 50
    (plainHandle s w.steward (va % 2 ^ 50) w.vf &&& ~~~ (BitVec.ofNat 128 (ones 14 * 2 ^ 105))) |||
      BitVec.ofNat 128 (m % 2 ^ 14 * 2 ^ 105)
  else plainHandle s w.steward va w.vf

/-- The address as the handle's page counts it. -/
def engVa (s : State) (w : Who) (whole : Bool) (va : Nat) : Nat :=
  if !w.steward && rbit s (vmcfg w.vf) 0 then va % 2 ^ 57 else if whole then va % 2 ^ 50 else va

/-- What an engine access needs of a page. -/
structure Need where
  write : Bool
  sh    : Bool
  n     : Nat
deriving DecidableEq, Repr

/-- The checks of n bytes at va through handle h, whose absence of a mapping is `nomap` (R200, R236, R238, R275, R308):
the cause of the record, or the handle. -/
def engCheck (s : State) (w : Who) (nd : Need) (nomap : Nat) (h : HWord) (va : Nat) : Except Nat HWord :=
  let b := hPageVa h
  let pa := handlePa h va
  if !hBit h 0 then .error 2
  else if hBit h 2 then .error nomap
  else if va < b ∨ b + hPage h < va + nd.n then .error 6
  else if !permOk h (!nd.write) nd.write w.sys w.steward w.vf then .error 5
  else if !hBit h 3 then .error 4
  else if nd.write && (hTwin h != nd.sh) then .error 8
  else if hTier h == 3 && !(homeMod s h == moduleNo s && (nd.n == 4 || nd.n == 8) && va % nd.n == 0 &&
      (w.sys || userReg s w.vf pa nd.write nd.n)) then .error 5
  else if homeMod s h == moduleNo s && !w.steward && !partOk s w.vf pa then .error 5
  else .ok h

/-- Resolve an address: a command's handle copy (walked afresh where it lost VALID: R202), or a translation now. -/
def engResolve (s : State) (w : Who) (nd : Need) (h : Option HWord) (whole : Bool) (va : Nat) : Except Nat HWord :=
  match h with
  | some x =>
    engCheck s w nd 3 (if hBit x 0 then x else translate s w.steward w.vf (hVa x)) va
  | none => engCheck s w nd 7 (engHandle s w whole va) (engVa s w whole va)

/-- The module of a handle's home, none for this one. -/
def peerOf (s : State) (h : HWord) : Option Nat := if homeMod s h = moduleNo s then none else some (homeMod s h)
/-- The local physical address of va through h. -/
def engPa (s : State) (w : Who) (h : HWord) (whole : Bool) (byHandle : Bool) (va : Nat) : Nat :=
  let pa := handlePa h (if byHandle then va else engVa s w whole va)
  if w.steward then aliasPa w.g pa else pa

/-! The packet. -/

def pfld (p : Flit) (dw lo n : Nat) : Nat := p.toNat / 2 ^ (64 * dw + lo) % 2 ^ n
def signed (n x : Nat) : Int := if x < 2 ^ (n - 1) then x else (x : Int) - 2 ^ n

/-- A tile (R264, R266): element size, the five sizes, LD, VC and strides of the four clipped dimensions. -/
structure Tile where
  esz : Nat
  n   : List Nat
  ld  : List Nat
  vc  : List Nat
  st  : List Int
  out : Bool
  fill : Nat
deriving DecidableEq, Repr

def tileOf (p : Flit) : Tile :=
  let nd := pfld p 0 8 3
  let dim (k : Nat) (d v : Nat) : Nat := if k < nd then v else d
  { esz := 2 ^ pfld p 0 11 3
    n := ((List.range 4).map fun k => dim k 1 (pfld p (4 + k) 36 8 + 1)) ++ [dim 4 1 (pfld p 0 20 8 + 1)]
    ld := (List.range 4).map fun k => dim k 0 (pfld p (4 + k) 44 8)
    vc := (List.range 4).map fun k => dim k 1 (pfld p (4 + k) 52 9)
    st := (List.range 4).map fun k => if k + 1 < nd then signed 36 (pfld p (4 + k) 0 36) else 0
    out := pfld p 0 19 1 = 1
    fill := pfld p 0 32 32 }

def Tile.elems (t : Tile) : Nat := t.n.foldl (· * ·) 1
def Tile.bytes (t : Tile) : Nat := t.esz * t.elems

/-- Validity (R264). A stride S(k+1) belongs to dimension k + 1. Bits [56:37] beside a handle make the packet invalid too (R265; DEDUCED,
log 133). -/
def copyValid (p : Flit) (queue : Bool) : Bool :=
  let nd := pfld p 0 8 3
  pfld p 0 0 8 == 2 && decide (1 ≤ nd) && decide (nd ≤ 5) && decide (pfld p 0 11 3 ≤ 4) && pfld p 0 28 4 == 0 &&
  pfld p 1 57 7 == 0 && pfld p 2 57 7 == 0 && pfld p 3 57 7 == 0 && pfld p 3 0 3 == 0 &&
  (nd == 5 || pfld p 0 20 8 == 0) &&
  ((List.range 4).all fun k =>
    pfld p (4 + k) 61 3 == 0 && (decide (k + 1 < nd) || pfld p (4 + k) 0 36 == 0) &&
    (if k < nd then decide (pfld p (4 + k) 44 8 + pfld p (4 + k) 52 9 ≤ pfld p (4 + k) 36 8 + 1)
     else pfld p (4 + k) 36 8 == 0 && pfld p (4 + k) 44 8 == 0 && pfld p (4 + k) 52 9 == 0)) &&
  (pfld p 0 17 1 == 0 || (!queue && pfld p 1 37 20 == 0)) && (pfld p 0 18 1 == 0 || (!queue && pfld p 2 37 20 == 0))

/-- Coordinates i0 to i4 of an element. -/
def Tile.coords (t : Tile) (e : Nat) : List Nat :=
  (t.n.foldl (fun (acc : List Nat × Nat) n => (acc.1 ++ [acc.2 % n], acc.2 / n)) ([], e)).1
/-- The element lies inside the tensor (R266). -/
def Tile.inside (t : Tile) (i : List Nat) : Bool :=
  (List.range 4).all fun k =>
    decide (t.ld.getD k 0 ≤ i.getD k 0) && decide (i.getD k 0 < t.ld.getD k 0 + t.vc.getD k 1)
/-- The tensor-side offset of an element. -/
def Tile.offset (t : Tile) (i : List Nat) : Int :=
  (List.range 4).foldl (fun (x : Int) k => x + i.getD (k + 1) 0 * t.st.getD k 0) ((i.getD 0 0 * t.esz : Nat) : Int)
/-- Byte b of an element's fill (R267). -/
def Tile.fillByte (t : Tile) (b : Nat) : Byte := BitVec.ofNat 8 (t.fill / 2 ^ (8 * (b % 4)))

/-- A tensor-side address as a number: one that lies below 0 names no page (log 108), and keeps its 57 bits for a record. -/
def placeOf (x : Int) : Nat := if x < 0 then 2 ^ 64 + (x % (2 ^ 57 : Nat)).toNat else x.toNat

/-- Byte `pos` of the tile in tile order: its source and destination addresses, none for what is not read or not
written. `src` and `dst` are the addresses of the packet. -/
def Tile.byteAt (t : Tile) (src dst : Int) (pos : Nat) : Option Nat × Option Nat :=
  let e := pos / t.esz
  let b := pos % t.esz
  let i := t.coords e
  let ten (x : Int) : Nat := placeOf (x + t.offset i + b)
  let den (x : Int) : Nat := placeOf (x + (pos : Int))
  if t.out then (if t.inside i then (some (den src), some (ten dst)) else (none, none))
  else (if t.inside i then some (ten src) else none, some (den dst))

/-! Channels and commands. -/

/-- Channel keys: four per core; shared copy queue q at 8192 + q. -/
def chanKey (core ch : Nat) : Nat := 4 * core + ch
def queueKey (q : Nat) : Nat := 8192 + q
def chanCmds (s : State) (k : Nat) : List CCmd := tget [] s.chans k
def setChan (s : State) (k : Nat) (l : List CCmd) : State := { s with chans := tput [] s.chans k l }
def findCmd (s : State) (k id : Nat) : Option CCmd := (chanCmds s k).find? fun c => c.id == id
def modCmd (s : State) (k id : Nat) (f : CCmd → CCmd) : State :=
  setChan s k ((chanCmds s k).map fun c => if c.id = id then f c else c)
def dropCmd (s : State) (k id : Nat) : State := setChan s k ((chanCmds s k).filter fun c => c.id != id)
def chanFull (s : State) (k : Nat) : Bool := decide (32 ≤ (chanCmds s k).length)
/-- The cluster whose engines execute a channel. -/
def chanClu (s : State) (k : Nat) : Nat := if k < 8192 then cluOf (k / 4) else rfld s (cqcfg (k - 8192)) 8 8

def CCmd.who (c : CCmd) : Who := { g := c.g, vf := c.vf, sys := c.sys }
def CCmd.fromCtx (c : CCmd) : Bool := decide (c.g < noCtx)

/-- A command before anything is set. -/
def CCmd.blank (id kind g : Nat) (pkt : Flit) : CCmd :=
  { id := id, kind := kind, g := g, cidx := 0, ipc := 0, pkt := pkt, src := none, dst := none, fmode := 0, seed := 0, vf := 0,
    sys := false, n := 0, data := 0, stream := 0, entry := 0, seq := 0, next := 0, parts := [], fault := none,
    parked := false, carried := false, posted := false, buf := [], ahead := [] }

/-- The shadow registers count the commands a context has issued and has had completed (R284). -/
def bump (s : State) (g ix : Nat) : State :=
  modCtx s g fun c => c.setShadow ix (setField (c.rdShadow ix) 0 32 ((c.rdShadow ix).toNat % 2 ^ 32 + 1))

/-- A context issues a command on a channel of its core: captured, counted, enqueued (R268, R308). -/
def issueCmd (s : State) (ch : Nat) (f : CCmd → CCmd) : State :=
  let g := s.iss.g
  let c := issuer s
  let (id, s1) := fresh s
  let cmd := { CCmd.blank id 0 g 0 with
    cidx := (c.rdShadow ch).toNat % 2 ^ 32, ipc := s.iss.pc, fmode := c.fmode, seed := c.seed, vf := vfOf s g,
    sys := c.mode, seq := c.reqSeq }
  let k := chanKey (coreOf g) ch
  bump (setChan s1 k (chanCmds s1 k ++ [f cmd])) g ch

/-! Faults. -/

/-- ENG of a record, by command kind (R349). -/
def engOf (kind : Nat) : Nat := if kind < 3 then kind - 1 else if kind = 3 then 2 else 3

/-- The virtual addresses that a command's packet or operands name. -/
def CCmd.srcVa (c : CCmd) : Int :=
  match c.src with
  | some h => (hVa h : Int) + signed 33 (pfld c.pkt 1 4 33)
  | none => (pfld c.pkt 1 0 57 : Nat)
def CCmd.dstVa (c : CCmd) : Int :=
  match c.dst with
  | some h => (hVa h : Int) + signed 33 (pfld c.pkt 2 4 33)
  | none => (pfld c.pkt 2 0 57 : Nat)

/-- The record of a command (R349): the fault's cause, its position in tile bytes, its address. -/
def cmdRecord (s : State) (k : Nat) (c : CCmd) (cause pos fva : Nat) : FRec :=
  let t := tileOf c.pkt
  let copy := decide (c.kind < 3)
  let coord := if copy then (t.coords (pos / t.esz)).foldr (fun i acc => acc * 256 + i % 256) 0 else 0
  let rem := if copy then t.elems - pos / t.esz else c.n
  { vf := c.vf, steward := if c.who.steward then stewOf c.g else none,
    w0 := recW0 cause false (8192 ≤ k) (engOf c.kind) c.g (if k < 8192 then k % 4 else 0) c.vf, w1 := BitVec.ofNat 64 c.ipc,
    w2 := BitVec.ofNat 64 c.cidx, w3 := BitVec.ofNat 64 (fva % 2 ^ 57), w4 := BitVec.ofNat 64 (coord % 2 ^ 40),
    w5 := BitVec.ofNat 64 (rem % 2 ^ 32), comp := c.pkt, g := if c.fromCtx then some c.g else none,
    cmd := some (k, c.id), range := [] }

/-- A command leaves its channel: completed or faulted (R284). A feed also leaves its stream's count. -/
def endCmd (s : State) (k : Nat) (c : CCmd) : State :=
  let s1 := dropCmd s k c.id
  let s2 := if c.fromCtx && k < 8192 then bump s1 c.g (4 + k % 4) else s1
  if c.kind == 2 then
    let gr := groupOf s c.g
    let slot := gr.slots.getD c.stream 16
    let s3 := modClu s2 gr.cluster fun u =>
      { u with streams := u.streams.map fun x =>
          if x.1 = slot then (x.1, { x.2 with feeds := x.2.feeds.filter fun f => f != (k, c.id) }) else x }
    match tfind (getClu s2 gr.cluster).streams slot with
    | none => s3
    | some st => modCtx s3 st.ctx fun u =>
      let ix := 0x10 + c.stream
      u.setShadow ix (setField (u.rdShadow ix) 32 8 ((u.rdShadow ix).toNat / 2 ^ 32 % 256 - 1))
  else s2

/-- A failing command reports once nothing of it is out: it ends, or is parked at its first failing element (R349, R351,
R352). -/
def failCmd (s : State) (k : Nat) (c : CCmd) (f : Nat × Nat × Nat) : State :=
  let (s1, parked) := report s (cmdRecord s k c f.1 f.2.1 f.2.2)
  if parked then modCmd s1 k c.id fun c =>
      -- what a feed has read stands in its buffer and is not read again (R279)
      let kept := if c.kind == 2 then c.buf else []
      { c with parked := true, carried := c.carried || (getCtx s c.g).frozen, next := f.2.1, fault := none, buf := kept
               ahead := (kept.filter fun x => decide (f.2.1 ≤ x.1)).map (·.1) }
  else endCmd s1 k c

/-- A part's trouble is noted, the earliest position first. -/
def noteFault (s : State) (k id cause pos fva : Nat) : State :=
  modCmd s k id fun c =>
    match c.fault with
    | none => { c with fault := some (cause, pos, fva) }
    | some f => if pos < f.2.1 then { c with fault := some (cause, pos, fva) } else c

/-- The event that looks whether a command is done. -/
def doneEvent (k : Nat) (c : CCmd) : Instr := if c.kind < 3 then .copyComplete k c.id else .putComplete k c.id
def askDone (s : State) (k id : Nat) : State :=
  match findCmd s k id with
  | some c => after s 0 (doneEvent k c)
  | none => s

/-! Parts. -/

/-- The most bytes that one part of a copy moves: the spec splits at interleave boundaries alone (log 16). A part moves whole
elements (R269), and what it must read beyond them to read a granule once is kept in the command's buffer. -/
def partCap : Nat := 4096

/-- One side of a run: the handle, the page, the unit of its first byte. -/
structure Side where
  h    : HWord
  page : Nat
  unit : Nat
deriving DecidableEq, Repr

/-- The run of bytes that a part moves, as it grows. -/
structure Run where
  src : Option Side
  dst : Option Side
  rd  : List (Nat × Nat)
  wr  : List WCell
  n   : Nat
deriving DecidableEq, Repr

/-- Place one byte of one side: on the side's page and in its unit, or on a page resolved now. -/
def sidePlace (s : State) (w : Who) (nd : Need) (h : Option HWord) (cur : Option Side) (va : Nat) :
    Except (Option Nat) (Side × Nat) :=
  let pa (x : HWord) : Nat := engPa s w x false h.isSome va
  let v := if h.isSome then va else engVa s w false va
  match cur with
  | some x =>
    if va < 2 ^ 58 ∧ v / hPage x.h = x.page ∧ unitBase (pa x.h) = x.unit then .ok (x, pa x.h) else .error none
  | none =>
    match engResolve s w nd h false va with
    | .error c => .error (some c)
    | .ok x => .ok ({ h := x, page := v / hPage x, unit := unitBase (pa x) }, pa x)

/-- Grow a run from tile byte `pos` (R203, R268): it ends at a unit, page or tile boundary, after one element of a register, where
an output tile leaves its tensor, or before a byte that has been asked for and has not come. Bytes that have come stand in
`wr` (a copy's) or are passed over (a feed's). The answer's second part is a fault at its first byte. -/
def growRun (s : State) (c : CCmd) (t : Tile) : Nat → Nat → Run → Run × Option (Nat × Nat)
  | 0, _, r => (r, none)
  | fuel + 1, pos, r =>
    if t.bytes ≤ pos then (r, none)
    else
      let (sv0, dv) := t.byteAt c.srcVa c.dstVa pos
      let feed := c.kind == 2
      let had := c.ahead.contains pos
      let sv := if had then none else sv0
      let byte := ((if had then tfind c.buf pos else none).getD (t.fillByte (pos % t.esz)))
      if had && !feed && (tfind c.buf pos).isNone then (r, none)
      else if r.n ≠ 0 && sv0.isNone && dv.isNone then (r, none)
      else
      let al := pos % t.esz == 0
      let n := if al then t.esz else 1
      let fits (va : Nat) : Nat := if va % t.esz = 0 then n else 1
      let sp : Except (Option Nat) (Option (Side × Nat)) := match sv with
        | none => .ok none
        | some va => (sidePlace s c.who { write := false, sh := false, n := fits va } c.src r.src va).map some
      let dp : Except (Option Nat) (Option (Side × Nat)) := match dv with
        | none => .ok none
        | some va => if feed then .ok none
          else (sidePlace s c.who { write := true, sh := pfld c.pkt 0 14 1 == 1, n := fits va } c.dst r.dst va).map some
      match sp, dp with
      | .error (some x), _ => if r.n = 0 then (r, some (x, sv.getD 0)) else (r, none)
      | .error none, _ => (r, none)
      | _, .error (some x) => if r.n = 0 then (r, some (x, dv.getD 0)) else (r, none)
      | _, .error none => (r, none)
      | .ok a, .ok b =>
        let reg (x : Option (Side × Nat)) : Bool := match x with
          | some y => hTier y.1.h == 3
          | none => false
        let r1 : Run :=
          { src := match a with
              | some x => some x.1
              | none => r.src
            dst := match b with
              | some x => some x.1
              | none => r.dst
            rd := match a with
              | some x => r.rd ++ [(x.2, r.n)]
              | none => r.rd
            wr := match b with
              | some x => r.wr ++ [{ pa := x.2, val := byte, msk := 0xFF }]
              | none => r.wr
            n := r.n + 1 }
        if (reg a || reg b) && (pos + 1) % t.esz == 0 then (r1, none) else growRun s c t fuel (pos + 1) r1

def Run.empty : Run := { src := none, dst := none, rd := [], wr := [], n := 0 }

/-- A part may end before tile byte q: the tile or a row ends there, or it cuts no element that must be written in one step
(R269), nor, on a reduce page, a word (R280). -/
def cutOk (t : Tile) (c : CCmd) (red q : Nat) : Bool :=
  decide (t.bytes ≤ q) ||
  match (t.byteAt c.srcVa c.dstVa q).2 with
  | none => true
  | some a =>
    (q % t.esz == 0 || (a - q % t.esz) % t.esz != 0) &&
    (red == 0 || a % 4 == 0 || (t.byteAt c.srcVa c.dstVa (q - 1)).2 != some (a - 1))

/-- How many of a run's bytes are written now. -/
def cutRun (t : Tile) (c : CCmd) (red pos n : Nat) : Nat :=
  (((List.range (n + 1)).reverse.find? fun w => cutOk t c red (pos + w))).getD 0

/-- Bytes that the tile moves beyond a run and that lie in granules the run reads: they are read with it, so that a granule of
scratchpad is read in one step (R269), and a granule of a feed's source once (R279). -/
def readAhead (s : State) (c : CCmd) (t : Tile) (r : Run) (pos : Nat) : List (Nat × Nat) :=
  match r.src with
  | none => []
  | some x =>
    if hTier x.h == 2 || c.kind == 2 then
      let gr := granules (r.rd.map (·.1))
      let plain := t.out || (t.n.drop 1).all (· == 1)
      (List.range (min (if plain then 16 else t.bytes) (t.bytes - (pos + r.n)))).filterMap fun i =>
        let p := pos + r.n + i
        if c.ahead.contains p then none
        else
          match (t.byteAt c.srcVa c.dstVa p).1 with
          | none => none
          | some va =>
            match sidePlace s c.who { write := false, sh := false, n := 1 } c.src (some x) va with
            | .ok y => if gr.contains (y.2 / 16 * 16) then some (y.2, r.n + i) else none
            | .error _ => none
    else []

/-- The words of a reducing write are whole (R280). -/
def wholeWords (wr : List WCell) : Bool := 4 * (wordsOf wr).length == wr.length

/-- The first byte at or after pos that the copy moves; bytes outside a tensor destination are passed over. -/
def skipOutside (t : Tile) : Nat → Nat → Nat
  | 0, pos => pos
  | fuel + 1, pos =>
    if t.bytes ≤ pos || !t.out || t.inside (t.coords (pos / t.esz)) then pos else skipOutside t fuel (pos + t.esz)

/-- Send a part of a command: its number joins the command's. -/
def sendChan (s : State) (k id : Nat) (t : Txn) : State :=
  let (d, s1) := drawLat s t
  let (late, s2) := bookSlot s1 (chanClu s1 k)
  let (s2, tid) := sendTxn s2 t d late
  modCmd s2 k id fun c => { c with parts := c.parts ++ [tid] }

/-- A blank part of a command. -/
def cmdTxn (s : State) (k : Nat) (c : CCmd) (kind : TxnKind) : Txn :=
  { Txn.base kind (.chan k c.id) { Req.blank with fmode := c.fmode, seed := c.seed, sys := c.sys }
      (dieOfClu (chanClu s k)) c.vf 0 with
      g := c.g, eng := true, full := true,
      dl := (if c.kind < 3 then pfld c.pkt 0 15 1 == 1 else pfld c.pkt 1 57 1 == 1) }

/-- The attributes of a destination (R268, R275, R280). -/
def dstOf (s : State) (h : HWord) (pa : Nat) : TDst :=
  { peer := peerOf s h, pa := pa, twin := if hTwin h then hPage h else 0, red := hRed h, rland := hBit h 22, cp := hf h 13 2,
    h := some h }
/-- A part in its second half: it writes at its destination. -/
def Txn.toStore (t : Txn) : Txn :=
  { t with kind := .store, peer := t.dst.peer, pa := t.dst.pa, twin := t.dst.twin, red := t.dst.red, rland := t.dst.rland,
           cp := t.dst.cp, req := { t.req with h := t.dst.h }, out := false, held := false, rd := [], sent := 0, left := 0,
           wr := (List.range t.wr.length).zip t.wr |>.map fun x =>
             { x.2 with val := tget x.2.val t.raw x.1 }, raw := [] }

/-- Issue the next part of a copy or a feed. -/
def issueCopyPart (s : State) (k : Nat) (c : CCmd) : State :=
  let t := tileOf c.pkt
  let pos := skipOutside t 65536 c.next
  if t.bytes ≤ pos then askDone (modCmd s k c.id fun c => { c with next := pos }) k c.id
  else
    match growRun s c t (if c.kind = 2 then 256 else partCap) pos Run.empty with
    | (_, some (cause, fva)) => askDone (noteFault s k c.id cause pos fva) k c.id
    | (r, none) =>
      let red := match r.dst with
        | some d => hRed d.h
        | none => 0
      let w := if c.kind = 2 then r.n else cutRun t c red pos r.n
      let more := readAhead s c t r pos
      let wr := r.wr.take w
      -- what is read and not written with this part
      let kept := (r.rd.filter fun x => decide (w ≤ x.2)) ++ more
      if r.n = 0 || (w = 0 && kept.isEmpty) then s
      else
        let s1 := modCmd s k c.id fun c =>
          { c with next := pos + w, ahead := (c.ahead.filter fun p => decide (pos + w ≤ p)) ++ kept.map fun x => pos + x.2 }
        let tx := { cmdTxn s k c .load with rd := r.rd ++ more, wr := wr, ix := pos, len := r.n, sh := pfld c.pkt 0 14 1 == 1 }
        let tx1 := match r.dst with
          | some d => { tx with dst := dstOf s d.h ((wr.headD { pa := 0, val := 0, msk := 0 }).pa) }
          | none => tx
        if r.dst.isSome && red != 0 && !wholeWords wr then askDone (noteFault s k c.id 0x15 pos (c.dstVa.toNat)) k c.id
        else
          -- a feed's bytes that lie outside the tensor
          let fill := if c.kind = 2 then (List.range r.n).filter fun j =>
              (t.byteAt c.srcVa c.dstVa (pos + j)).1.isNone && !c.ahead.contains (pos + j) else []
          match r.src with
          | some x =>
            sendChan s1 k c.id
              { tx1 with peer := peerOf s x.h, pa := (r.rd.headD (0, 0)).1, twin := if hTwin x.h then hPage x.h else 0,
                         cp := hf x.h 13 2, req := { tx1.req with h := some x.h }
                         raw := fill.foldl (fun (m : Tab Byte) j => tset m j (t.fillByte ((pos + j) % t.esz))) [] }
          | none =>
            if c.kind = 2 then
              modCmd s1 k c.id fun c =>
                { c with buf := fill.foldl (fun b j => tset b (pos + j) (t.fillByte ((pos + j) % t.esz))) c.buf }
            else sendChan s1 k c.id tx1.toStore

/-! Counters. -/

/-- Resolve a counter: tier 0, 1 or 2, writable, aligned (R271, R312): its page and address, or the record's cause. One in a twin page
fails as an engine's write with SH = 0 does (DEDUCED, log 134). -/
def counterAt (s : State) (w : Who) (whole : Bool) (va : Nat) : Except Nat (HWord × Nat) :=
  match engResolve s w { write := true, sh := false, n := 8 } none whole va with
  | .error c => .error (if c = 6 || (c = 5 && 3 ≤ hTier (engHandle s w whole va)) then 7 else c)
  | .ok h => if 3 ≤ hTier h then .error 7 else .ok (h, engPa s w h whole false va)

/-- The releasing add of n to a counter (R271). -/
def postTxn (s : State) (k : Nat) (c : CCmd) (h : HWord) (pa n : Nat) : Txn :=
  { cmdTxn s k c .atomic with pa := pa, len := 8, add := n, peer := peerOf s h, full := false,
                              twin := if hTwin h then hPage h else 0, cp := hf h 13 2 }

/-- What is posted: 1, or the bytes (R271). -/
def CCmd.postUnit (c : CCmd) : Nat :=
  if c.kind < 3 then (if pfld c.pkt 0 16 1 = 1 then (tileOf c.pkt).bytes else 1) else if pfld c.pkt 1 2 1 = 1 then c.n else 1
def CCmd.counter (c : CCmd) : Nat := if c.kind < 3 then (if c.kind = 2 then 0 else pfld c.pkt 3 0 57) else pfld c.pkt 1 3 54 * 8

/-- The first bytes that a copy writes of each 64 KiB unit of its destination. -/
def dstUnits (c : CCmd) : List Nat :=
  let t := tileOf c.pkt
  ((List.range t.elems).foldl (fun (m : Tab Nat) e =>
    match (t.byteAt c.srcVa c.dstVa (e * t.esz)).2 with
    | some a => if (tfind m (a / 2 ^ 16)).isSome then m else tset m (a / 2 ^ 16) a
    | none => m) []).map (·.2)

/-- A page that a copy writes lies on a peer, its counter elsewhere (R414). -/
def copyAway (s : State) (c : CCmd) (h : HWord) : Bool :=
  c.kind == 1 && (dstUnits c).any fun a =>
    match engResolve s c.who { write := true, sh := pfld c.pkt 0 14 1 == 1, n := 1 } c.dst false a with
    | .ok d => (peerOf s d).isSome && peerOf s d != peerOf s h
    | .error _ => false

/-- A command with nothing more to send and nothing out: fault, post, end. -/
def finishCmd (s : State) (k : Nat) (c : CCmd) : State :=
  match c.fault with
  | some f => failCmd s k c f
  | none =>
    if c.posted || c.counter = 0 then endCmd s k c
    else
      match counterAt s c.who false c.counter with
      | .error cause => failCmd s k c (cause, c.next, c.counter)
      | .ok (h, pa) =>
        if copyAway s c h then failCmd s k c (7, c.next, c.counter)
        else sendChan (modCmd s k c.id fun c => { c with posted := true }) k c.id (postTxn s k c h pa c.postUnit)

end Sys2Proof.Machine
end

