-- ==== Sys2Proof/Machine/Multicast.lean ====
section
/-!
DEFINITION. Multicasts (R315, R316, R410): the members of a group, a put to one member, the ordered multicast at its root,
and its copies at a member in the order of their sequence numbers.
-/
namespace Sys2Proof.Machine

/-- The number of members, and member j's module (R315). -/
def mcgMembers (s : State) (v i : Nat) : Nat := if rbit s (mcg v i) 0 then rfld s (mcg v i) 16 16 else 0
def mcgMember (s : State) (v i j : Nat) : Option Nat :=
  (hwRead s (rfld s (mcg v i + 8) 1 49 * 2 + 2 * j) 2).map (· % 2 ^ 14)
def mcgRoot (s : State) (v i : Nat) : Nat := rfld s (mcg v i) 1 14

/-- The key of a group's sequence. -/
def omKey (v i : Nat) : Nat := 16 * v + i

/-- A put of bytes at pa on one member, with its post. `red` and `twin` are the page's. -/
def putTxn (src : Agent) (die vf pa : Nat) (bytes : List Byte) (cnt add : Nat) (d : TDst) (peer : Option Nat) : Txn :=
  { Txn.base .store src Req.blank die vf pa with
    peer := peer, len := bytes.length, eng := true, full := true, cnt := cnt, add := add, twin := d.twin, red := d.red,
    rland := d.rland,
    wr := (indexed bytes).map fun x => { pa := pa + x.1, val := x.2, msk := 0xFF } }

/-- A copy of an ordered multicast at a member: performed once every copy before it has been (R410). -/
def omPerform (s : State) (t : Txn) : State := (sendTxn s t 1).1

/-- What a page's attributes are where a copy of a multicast lands, as its sender's translation gave them: OPA holds RED,
RLAND, the twin's page size and SH. -/
def mcPack (red : Nat) (rland : Bool) (twin : Nat) (sh : Bool) : Word64 :=
  BitVec.ofNat 64 (red + (if rland then 4 else 0) + (if sh then 8 else 0) + twin * 16)

/-- ROOT assigns the next number and sends a copy to each member; the whole ends with the last answer (R410). The whole
is transaction `id`, of kind `fe`. -/
def omRoot (s : State) (id : Nat) (t : Txn) : State :=
  let v := t.vf
  let i := t.scope
  let n := mcgMembers s v i
  if n = 0 then partFails s id t 0x0B
  else
    let sq := tget 0 s.fab.omSeq (omKey v i)
    let s1 := { s with fab := { s.fab with omSeq := tset s.fab.omSeq (omKey v i) ((sq + 1) % 2 ^ 32) } }
    let s2 := setTxn s1 id { t with left := n, kind := .fe, peer := none, err := 0, out := false }
    (List.range n).foldl (fun s j =>
      match mcgMember s v i j with
      | none => after (memberDone s id 9 0) 0 (.storePerform id)
      | some m =>
        let c := { t with kind := .store, src := .part id, fe := 12, scope := i, orig := sq, left := 0, err := 0,
                          peer := if m = moduleNo s then none else some m, out := false, held := false }
        (sendTxn s c 1).1) s2

end Sys2Proof.Machine
end

