-- ==== Sys2Proof/Machine/Queues.lean ====
section
/-!
DEFINITION. Rings of packets with their descriptors in memory (R163, R164, R170, R273, R342), as the dispatcher and the
shared copy queues read them.
-/
namespace Sys2Proof.Machine

/-- A queue: the register with its EN, its kind (0 launch, 1 shared copy, 2 steward), its number, its VF. -/
structure QName where
  reg  : Nat
  kind : Nat
  q    : Nat
  vf   : Nat

/-- The number under which the reads of a queue's ring go. -/
def QName.key (n : QName) : Nat := 1024 * (n.kind + 1) + n.q

/-- The outcome of a read by the dispatcher: bytes, failure, or still on its way. -/
inductive Fetch where
  | bytes (x : Nat)
  | bad
  | wait (s : State)

/-- What a queue has read by requests is read anew the next time. -/
def dispForget (s : State) (q : Nat) : State :=
  { s with disp := { s.disp with got := s.disp.got.filter fun x => x.1 != q } }

/-- Read n bytes at a for a queue: what Pump parts are still to write is waited for (R231). In a frame of a migration a request reads
them, behind what the queue itself has written there (R422, R426). -/
def ringRead (s : State) (n : QName) (a len : Nat) : Fetch :=
  if migFrame s a then
    match s.disp.got.find? fun x => x.1 == n.key && x.2.1 == a with
    | some (_, _, some b) => .bytes (b.toNat % 2 ^ (8 * len))
    | some (_, _, none) => .bad
    | none =>
      let busy := s.txns.any fun e => (e.2.src == .disp n.key && e.2.kind == .load) ||
        (e.2.src == .part e.1 && e.2.kind == .store && decide (a ≤ e.2.orig) && decide (e.2.orig < a + len))
      if busy then .wait s
      else
        .wait (sendTxn s { Txn.base .load (.disp n.key) Req.blank 4 n.vf a with
          rd := (List.range len).map fun i => (a + i, i), len := len, orig := a, g := 8192 } 1).1
  else
    match hwRead s a len with
    | none => .bad
    | some x => if hwReady s a len then .bytes x else .wait s

/-- What a look at a queue finds. -/
inductive QPeek where
  | idle
  | unusable
  | stop (err idx : Nat)
  | slot (pkt : Flit) (idx at' : Nat)
  | wait (s : State)

/-- Look at the slot at RIDX. A RING that is not aligned is outside what the descriptor may name: ERR 6 (DESIGN CHOICE, log 109). -/
def queuePeek (s : State) (n : QName) (d : Nat) : QPeek :=
  if !inDram d 64 || d % 64 != 0 then .unusable
  else
    match ringRead s n d 64 with
    | .wait t => .wait t
    | .bad => .unusable
    | .bytes x =>
      let w (j : Nat) : Nat := x / 2 ^ (64 * j) % 2 ^ 64
      let widx := w 0
      let ridx := w 1
      let ring := w 2 % 2 ^ 57
      let lg := w 3 % 32
      let again : QPeek := if migFrame s d then .wait (dispForget s n.key) else .idle
      if w 4 / 256 % 2 = 1 then again
      else if 20 < lg then .stop 6 ridx
      else if !inDram ring (64 * 2 ^ lg) || ring % 64 != 0 then .stop 6 ridx
      else if widx ≤ ridx then again
      else
        let a := ring + 64 * (ridx % 2 ^ lg)
        match ringRead s n a 64 with
        | .wait t => .wait t
        | .bad => .stop 5 ridx
        | .bytes p =>
          if p % 256 = 0 then (if migFrame s d || migFrame s a then .wait (dispForget s n.key) else .idle)
          else .slot (BitVec.ofNat 512 p) ridx a

/-- Take the slot: its KIND becomes 0, RIDX advances (R165). -/
def queueTake (s : State) (n : QName) (d idx a : Nat) : State :=
  hwPut8 (hwPut (dispForget s n.key) a [0]) (d + 8) (BitVec.ofNat 64 (idx + 1))

/-- A descriptor that cannot be used: EN clears, event 0x17 (R163, R353). -/
def queueUnusable (s : State) (n : QName) : State :=
  postPlain (rsetF s n.reg 0 1 0) 0x17 n.vf (BitVec.ofNat 64 (n.kind + n.q * 256)) 0

/-- Stop a queue: ERR, HALT, ERRIDX (R170), where its descriptor can be read and written (R163). -/
def queueStop (s : State) (n : QName) (d err idx : Nat) : State :=
  if !inDram d 64 || d % 64 != 0 || (!migFrame s d && (hwRead s d 64).isNone) then queueUnusable s n
  else
    hwPut8 (hwWrite (dispForget s n.key) [{ pa := d + 32, val := BitVec.ofNat 8 err, msk := 0xFF }, { pa := d + 33, val := 1, msk := 1 }])
      (d + 40) (BitVec.ofNat 64 idx)

/-- A packet that could not be read has been passed over as well: RIDX lies past it (R170). -/
def queueSkip (s : State) (n : QName) (d err idx : Nat) : State :=
  queueStop (if err = 5 then hwPut8 s (d + 8) (BitVec.ofNat 64 (idx + 1)) else s) n d err idx

end Sys2Proof.Machine
end

