-- ==== Sys2Proof/Machine/Copies.lean ====
section
/-!
DEFINITION. Copies, puts and multicasts as a context issues them (R308, R314, R316) and as their channels perform them
(R268 to R271), DRAIN (R310), counter waits (R173, R311), publication (R318) and the shared copy queues (R273).
-/
namespace Sys2Proof.Machine

/-! CPY. -/

/-- The handle that a side of a packet names (R265). -/
def namedHandle (c : Ctx) (p : Flit) (bit dw : Nat) : Option HWord :=
  if pfld p 0 bit 1 = 1 then some (c.rdH (pfld p dw 0 4)) else none
/-- Its walk has not finished (R199). -/
def walkPending (h : Option HWord) : Bool :=
  match h with
  | some x => hBit x 0 && hBit x 1
  | none => false
/-- Steps 1, 3 and 5 of R200 on a handle that a command copies: 0, or the record's cause (R308). -/
def handleFault (w : Who) (h : Option HWord) (write : Bool) : Nat :=
  match h with
  | some x => if !hBit x 0 then 2 else if hBit x 2 then 3 else if permOk x (!write) write w.sys w.steward w.vf then 0 else 5
  | none => 0

/-- The bytes of a packet: lanes 0 to 15 of a vector (R305). -/
def packetOf (x : VWord) : Flit := x.truncate 512

/-- What a copy finds wrong at its start: cause, position, address. -/
def copyFault (c : CCmd) : Option (Nat × Nat × Nat) :=
  if !copyValid c.pkt false then some (1, 0, 0)
  else if handleFault c.who c.src false ≠ 0 then some (handleFault c.who c.src false, 0, c.srcVa.toNat)
  else if handleFault c.who c.dst true ≠ 0 then some (handleFault c.who c.dst true, 0, c.dstVa.toNat)
  else none

/-- CPY (R308). -/
def execCpy (p : Syl) (va : Fin 32) (ch : Fin 4) (s : State) : Res :=
  issue p s fun s =>
    let c := issuer s
    let pkt := packetOf (c.rdV va.val)
    let src := namedHandle c pkt 17 1
    let dst := namedHandle c pkt 18 2
    if chanFull s (chanKey (coreOf s.iss.g) ch.val) || walkPending src || walkPending dst then stall s
    else
      .next (issueCmd s ch.val fun x =>
        let y := { x with kind := 1, g := s.iss.g, pkt := pkt, src := src, dst := dst, buf := [] }
        { y with fault := copyFault y })

/-! PUT, PUTM, PUTM.o. -/

/-- A put's command (R314, R316): the destination and the control word stand in for a packet. -/
def issuePut (p : Syl) (kind : Nat) (n : Fin 6) (o : MP) (s : State) : Res :=
  issue p s fun s =>
    let c := issuer s
    let len := 8 * 2 ^ n.val
    let a := c.rdS o.sa.val
    let w := c.rdS o.sb.val
    let ch := w.toNat % 4
    if chanFull s (chanKey (coreOf s.iss.g) ch) then stall s
    else if a.toNat % len ≠ 0 then trapNow s 0x03 a
    else
      .next (issueCmd s ch fun x =>
        { x with kind := kind, g := s.iss.g, pkt := (w ++ a).zeroExtend 512, n := len,
                 data := c.rdV o.va.val &&& BitVec.ofNat 2048 (ones (8 * len)) })

def execPut (p : Syl) (n : Fin 6) (o : MP) (s : State) : Res := issuePut p 3 n o s
def execPutm (p : Syl) (n : Fin 6) (o : MP) (s : State) : Res := issuePut p 4 n o s
def execPutmO (p : Syl) (n : Fin 6) (o : MP) (s : State) : Res := issuePut p 5 n o s

def CCmd.putVa (c : CCmd) : Nat := pfld c.pkt 0 0 64
def CCmd.putGroup (c : CCmd) : Nat := pfld c.pkt 1 59 4
def CCmd.putSh (c : CCmd) : Bool := pfld c.pkt 1 58 1 == 1
def CCmd.putBytes (c : CCmd) : List Byte := bytesOf c.data c.n

/-! Waits of the core. -/

/-- The number below which commands are covered by the course that waits: those issued before it. It is kept from the
course's first attempt. -/
def markOf (s : State) : Nat :=
  match (issuer s).mark with
  | some (pc, n) => if pc = s.iss.pc then n else s.ids
  | none => s.ids
/-- The course waits with its mark. -/
def waitMark (s : State) : Res := waitWith (modIssuer s fun c => { c with mark := some (s.iss.pc, markOf s) })

/-- Every command of channel k numbered below n has ended; `feeds` says whether feeds count. -/
def chanDone (s : State) (k n : Nat) (feeds : Bool) : Bool :=
  (chanCmds s k).all fun c => decide (n ≤ c.id) || (!feeds && c.kind == 2)

/-- A record of the core's channels waits for room in its ring (R351, R352; DEDUCED, log 140). -/
def recordWaits (s : State) (core : Nat) (chans : List Nat) : Bool :=
  s.faults.wait.any fun r => match r.g with
    | some g => coreOf g == core && decide (r.w0.toNat / 2 ^ 10 % 16 < 4) && chans.contains (r.w0.toNat / 2 ^ 26 % 4)
    | none => false

/-- DRAIN (R270, R310). -/
def execDrain (p : Syl) (chs : Fin 8) (s : State) : Res :=
  issue p s fun s =>
    let core := coreOf s.iss.g
    let chans := if chs.val = 7 then [0, 1, 2, 3] else [chs.val]
    if (chans.all fun ch => chanDone s (chanKey core ch) (markOf s) true) && !recordWaits s core chans then .next s else waitMark s

/-- The check of a counter's address at issue (R311): as a load, but for a page with RES = 0. -/
def chkCounter (s : State) (w : Who) (h : HWord) (va a : Nat) : Chk :=
  match (chkHandle 0 h a).and ((chkPage h va 8).and (chkPerm s w.g h true false false w.sys va)) with
  | .trap c _ => .trap c (BitVec.ofNat 64 a)
  | .stall => .stall
  | .ok => if hTier h == 3 then chkReg s w.g w.sys (handlePa h va) false 8 a else .ok

/-- A word of this module as an engine wait reads it; none where it cannot be read. -/
def pollHere (s : State) (vf : Nat) (h : HWord) (pa : Nat) : Option Nat × State :=
  if hTier h == 3 then let (x, s1) := regRead s pa 8; (some x, s1)
  else
    let a := if hTwin h then twinPa s vf pa (hPage h) false else pa
    if (List.range 8).any fun i => badByte s (a + i) then (none, s) else (some (mread8 s a).toNat, s)

/-- Where a counter of this context is read: at once on its own die, in its scratchpads and among the registers, or by a request: to
a peer, to another die's tier 0 or 1, whose lines the die's cache may hold (R180), or to a frame of a migration (R422). -/
def pollFar (s : State) (g : Nat) (h : HWord) (pa : Nat) : Option (Option Nat) :=
  match peerOf s h with
  | some m => some (some m)
  | none =>
    if decide (hTier h < 3) && migFrame s pa || decide (hTier h < 2) && homeDie pa != dieOfCore (coreOf g) then some none else none

/-- The key under which a polled word of a request arrives in `codeLn`. -/
def pollKey (peer : Option Nat) (pa : Nat) : Nat := lineKey peer pa + pa % 128 + 2 ^ 81

/-- A context has a poll of a peer on its way. -/
def polling (s : State) (g : Nat) : Bool := s.txns.any fun e => e.2.src == .fetch g && e.2.orig == 1

/-- The course waits for its counter; VDRAIN may end that wait (R366). -/
def waitCounter (s : State) : Res := waitWith (modIssuer s fun c => { c with waitEnd := some (s.iss.pc, false) })

/-- CWAIT and WAITEV (R173, R311): each look at the word takes a slot of the core's (R184; log 110); wait until the word is n or more, then
acquire at the scope (R272). A wait that VDRAIN has ended ends without an acquire (R366). -/
def counterWait (p : Syl) (o : MS) (s : State) : Res :=
  issue p s fun s =>
    let c := issuer s
    let g := s.iss.g
    let w : Who := { g := g, vf := vfOf s g, sys := c.mode }
    let a := (c.rdS o.sa.val).toNat
    let n := (c.rdS o.sb.val).toNat
    let h := engHandle s w true a
    let va := engVa s w true a
    let pa := engPa s w h true false a
    let acquire (s : State) : State :=
      if 4 ≤ o.sc.val then rdcAcquireAll s (dieOfCore (coreOf g)) w.vf else s
    if c.waitEnd == some (s.iss.pc, true) then .next s
    else if a % 8 ≠ 0 then trapNow s 0x03 (BitVec.ofNat 64 a)
    else
      match chkCounter s w h va a with
      | .stall => stall s
      | .trap cause info => trapNow s cause info
      | .ok =>
        match pollFar s g h pa with
        | none =>
          if !slotFree s g then waitCounter s
          else
            let (x, s1) := pollHere (takeSlot s g) w.vf h pa
            match x with
            | some y => if n ≤ y then .next (acquire s1) else waitCounter s1
            | none => waitCounter s1
        | some m =>
          let k := pollKey m pa
          match c.codeLn.find? fun l => l.1 == k with
          | some l =>
            let y := natOfBytes ((List.range 8).map fun i => byteAt l.2 i)
            let s1 := modIssuer s fun c => { c with codeLn := c.codeLn.filter fun l => l.1 != k }
            if n ≤ y then .next (acquire s1) else waitCounter s1
          | none =>
            if polling s g || !slotFree s g then waitCounter s
            else
              let die := dieOfCore (coreOf g)
              let t := { (Txn.base .load (.fetch g) { Req.blank with sys := c.mode, h := some h } die w.vf pa).through s
                           g h with rd := (List.range 8).map fun i => (pa + i, i), len := 8, orig := 1, cnt := k }
              -- the line the die's cache may hold leaves, so that each poll reads the counter's home (log 110)
              waitCounter (sendTxn (rdcInval (takeSlot s g) die m [pa]) t 1).1

def execCwait (p : Syl) (o : MS) (s : State) : Res := counterWait p o s
def execWaitev (p : Syl) (o : MS) (s : State) : Res := counterWait p o s

/-! The launch engine's entries. -/

def lengFull (s : State) (core : Nat) : Bool := decide (4 ≤ (getCore s core).leng.length)

/-- The record of a command of the launch engine (R349): ENG 5. Its place among the parked commands has a key of its own
above the channels'. -/
def lengKey (core : Nat) : Nat := 16384 + core
def lengRecord (s : State) (g : Nat) (ipc cause fva : Nat) (comp : Flit) (cmd : Option (Nat × Nat)) : FRec :=
  { vf := vfOf s g, steward := stewOf g, w0 := recW0 cause false false 5 g 0 (vfOf s g), w1 := BitVec.ofNat 64 ipc, w2 := 0,
    w3 := BitVec.ofNat 64 (fva % 2 ^ 57), w4 := 0, w5 := 0, comp := comp, g := some g, cmd := cmd, range := [] }

/-! PUBL. -/

/-- The region of twin entry i of VF v: its first address and its bytes. -/
def twrRange (s : State) (v i : Nat) : Nat × Nat :=
  (rfld s (twr v i + 8) 0 50, 2 * pageBytes (rfld s (twr v i) 2 2) * rfld s (twr v i + 16) 0 20)

/-- The step of R276 at the object, and the lines that leave. -/
def publish (s : State) (v i obj : Nat) : State :=
  let s1 := rsetF s (twr v i) 1 1 (if rbit s (twr v i) 1 then 0 else 1)
  let s2 := hwPut8 s1 (obj + 8) (mread8 s1 (obj + 8) + 1)
  let (b, n) := twrRange s v i
  rdcDrop s2 fun l => decide (b ≤ l.line) && decide (l.line < b + n)

/-- PUBL (R276, R318). -/
def execPubl (p : Syl) (o : MS) (s : State) : Res :=
  issue p s fun s =>
    let c := issuer s
    let g := s.iss.g
    let core := coreOf g
    let v := vfOf s g
    let a := (c.rdS o.sa.val).toNat
    let i := a % 16
    let obj := rfld s (twr v i + 24) 0 50
    if 16 ≤ a then trapFree s 0x03
    else if lengFull s core then stall s
    else if !rbit s (twr v i) 0 then
      .next (report s (lengRecord s g s.iss.pc 8 0 (comp3 (BitVec.ofNat 64 a) 0 0) none)).1
    else if !([0, 1, 2, 3].all fun ch => chanDone s (chanKey core ch) (markOf s) false) then waitMark s
    else if (List.range 16).any fun j => badByte s (obj + j) then
      .next (report s (lengRecord s g s.iss.pc 9 0 (comp3 (BitVec.ofNat 64 a) 0 0) none)).1
    else if holdOf s obj ≠ 0 || !hwReady s obj 16 || migFrame s obj then waitMark s
    else .next (publish s v i obj)

/-! Issuing parts. -/

/-- How many parts a put's command has: one, or one per member. -/
def CCmd.total (s : State) (c : CCmd) : Nat :=
  if c.kind < 3 then (tileOf c.pkt).bytes
  else if c.kind = 4 then max 1 (mcgMembers s c.vf c.putGroup)
  else 1
/-- Nothing more of the command is to be sent. -/
def CCmd.allSent (s : State) (c : CCmd) : Bool := c.fault.isSome || decide (c.total s ≤ c.next)

/-- Note what a put meets at its start. -/
def putFault (s : State) (k : Nat) (c : CCmd) (cause : Nat) : State :=
  askDone (noteFault s k c.id cause 0 c.putVa) k c.id

/-- The destination of a put, resolved once: tier 3 is not written (R314). -/
def putResolve (s : State) (c : CCmd) : Except Nat HWord :=
  let va := engVa s c.who true c.putVa
  let nd : Need := { write := true, sh := c.putSh, n := c.n }
  match engCheck s c.who nd 7 (match c.dst with
    | some h => if hBit h 0 then h else translate s c.who.steward c.vf va
    | none => engHandle s c.who true c.putVa) va with
  | .error e => .error e
  | .ok h => if hTier h == 3 then .error 5 else .ok h

/-- The counter of a put, resolved; none where it has none. -/
def putCounter (s : State) (c : CCmd) : Except Nat (Option (HWord × Nat)) :=
  if c.counter = 0 then .ok none
  else
    match counterAt s c.who false c.counter with
    | .error e => .error e
    | .ok x => .ok (some x)

/-- Send the write of a PUT (R314). To a peer it carries its post, whose counter must lie there (R414). -/
def issuePutOne (s : State) (k : Nat) (c : CCmd) (h : HWord) : State :=
  let pa := engPa s c.who h true false c.putVa
  let d := dstOf s h pa
  let t0 := { putTxn (.chan k c.id) (dieOfClu (chanClu s k)) c.vf pa c.putBytes 0 0 d d.peer with
              g := c.g, dl := pfld c.pkt 1 57 1 == 1, sh := c.putSh,
              req := { Req.blank with h := some h, fmode := c.fmode, seed := c.seed, sys := c.sys } }
  let go (t : Txn) (post : Bool) : State := sendChan (modCmd s k c.id fun c => { c with next := 1, posted := post }) k c.id t
  match putCounter s c with
  | .ok (some (hc, ca)) =>
    if d.peer.isNone then go t0 false
    else if peerOf s hc == d.peer then go { t0 with cnt := ca, add := c.postUnit } true
    else putFault s k c 7
  | _ => go t0 false

/-- Send the copy of a PUTM to its next member, with its post (R316). -/
def issueMember (s : State) (k : Nat) (c : CCmd) (h : HWord) (hc : Option (HWord × Nat)) : State :=
  let pa := engPa s c.who h true false c.putVa
  let d := dstOf s h pa
  let s1 := modCmd s k c.id fun x => { x with next := c.next + 1, posted := true, dst := some h }
  match mcgMember s c.vf c.putGroup c.next with
  | none => askDone (report s1 { cmdRecord s k c 9 0 c.putVa with cmd := none }).1 k c.id
  | some m =>
    let t := { putTxn (.chan k c.id) (dieOfClu (chanClu s k)) c.vf pa c.putBytes
                 (match hc with
                  | some x => x.2
                  | none => 0) c.postUnit d (if m = moduleNo s then none else some m) with
               g := c.g, dl := pfld c.pkt 1 57 1 == 1, sh := c.putSh, ix := c.next,
               req := { Req.blank with fmode := c.fmode, seed := c.seed, sys := c.sys } }
    sendChan s1 k c.id t

/-- Send an ordered multicast to its root, which is this module or a peer. -/
def issueOrdered (s : State) (k : Nat) (c : CCmd) (h : HWord) (hc : Option (HWord × Nat)) : State :=
  let pa := engPa s c.who h true false c.putVa
  let d := dstOf s h pa
  let root := mcgRoot s c.vf c.putGroup
  let t := { putTxn (.chan k c.id) (dieOfClu (chanClu s k)) c.vf pa c.putBytes
               (match hc with
                | some x => x.2
                | none => 0) c.postUnit d (if root = moduleNo s then none else some root) with
             g := c.g, dl := pfld c.pkt 1 57 1 == 1, sh := c.putSh, fe := 10, scope := c.putGroup,
             req := { Req.blank with fmode := c.fmode, seed := c.seed, sys := c.sys } }
  let s1 := modCmd s k c.id fun x => { x with next := 1, posted := true, dst := some h }
  if root = moduleNo s then
    let (tid, s2) := fresh (bookSlot s1 (chanClu s1 k)).2
    let s3 := modCmd (setTxn s2 tid { t with kind := .fe }) k c.id fun c => { c with parts := c.parts ++ [tid] }
    omRoot s3 tid t
  else sendChan s1 k c.id t

/-- Issue the next part of a put, PUTM or PUTM.o. -/
def issuePutPart (s : State) (k : Nat) (c : CCmd) : State :=
  if c.kind ≠ 3 ∧ mcgMembers s c.vf c.putGroup = 0 then putFault s k c 0x0B
  else
    match putResolve s c with
    | .error e => putFault s k c e
    | .ok h =>
      if hRed h != 0 && (c.putVa % 4 ≠ 0 || c.n % 4 ≠ 0) then putFault s k c 0x15
      else if c.kind = 3 then issuePutOne s k c h
      else
        match putCounter s c with
        | .error e => putFault s k c e
        | .ok hc => if c.kind = 4 then issueMember s k c h hc else issueOrdered s k c h hc

/-- The stream slot of a feed: cluster and physical slot. -/
def feedSlot (s : State) (c : CCmd) : Nat × Nat :=
  ((groupOf s c.g).cluster, (groupOf s c.g).slots.getD c.stream 16)
def Stream.free : Stream := { gid := 0, defined := false, ctx := 0, low := 0, filled := 0, entries := [], subs := [], feeds := [] }
def getStream (s : State) (x : Nat × Nat) : Stream := tget Stream.free (getClu s x.1).streams x.2
def modStream (s : State) (x : Nat × Nat) (f : Stream → Stream) : State :=
  modClu s x.1 fun u => { u with streams := tset u.streams x.2 (f (tget Stream.free u.streams x.2)) }

/-- Entry e may be filled (R278). -/
def Stream.room (st : Stream) (e : Nat) : Bool :=
  decide (e < st.low + 256) && st.subs.all fun u => decide (e < u.count + u.window)

/-- The feed is the first of its stream, and the entry that its next byte goes to may be filled. -/
def feedMay (s : State) (k : Nat) (c : CCmd) : Bool :=
  let st := getStream s (feedSlot s c)
  st.feeds.head? == some (k, c.id) && st.room ((if c.next = 0 then st.filled else c.entry) + c.next / 128)

/-- The bytes that a feed has still to read, by module: what a later command of the channel must not write before. -/
def feedReads (s : State) (c : CCmd) : List (Option Nat × Nat) :=
  let t := tileOf c.pkt
  (List.range (t.bytes - c.next)).filterMap fun j =>
    match (t.byteAt c.srcVa c.dstVa (c.next + j)).1 with
    | none => none
    | some va =>
      match engResolve s c.who { write := false, sh := false, n := 1 } c.src false va with
      | .error _ => none
      | .ok h => some (peerOf s h, engPa s c.who h false c.src.isSome va)

/-- Issue a part, unless it would write what an earlier feed of the channel has still to read (R268). -/
def issueAny (s : State) (k : Nat) (before : List CCmd) (c : CCmd) : Option State :=
  let c1 := if c.kind = 2 ∧ c.next = 0 then { c with entry := (getStream s (feedSlot s c)).filled } else c
  let s0 := if c.kind = 2 ∧ c.next = 0 then modCmd s k c.id fun _ => c1 else s
  let s1 := if c.kind < 3 then issueCopyPart s0 k c1 else issuePutPart s k c
  let feeds := before.filter fun x => x.kind == 2 && !x.allSent s
  if feeds.isEmpty then some s1
  else
    let added := s1.txns.filter fun e => decide (s.ids ≤ e.1) && e.2.src == .chan k c.id
    let wr := added.flatMap fun e => e.2.writes
    if feeds.any fun f => meet wr (feedReads s f) then none else some s1

/-- The first command that can send a part sends it. A command that is carried is passed over, as is a feed that waits;
behind any other command that cannot go on, nothing goes. -/
def issueFrom (s : State) (k : Nat) : List CCmd → List CCmd → Option State
  | _, [] => none
  | before, c :: r =>
    let feed := c.kind == 2
    if c.carried || (c.fromCtx && (getCtx s c.g).frozen) || c.allSent s then issueFrom s k (before ++ [c]) r
    else if c.parked || !earlierDone s c.g c.seq || (feed && !feedMay s k c) then
      (if feed then issueFrom s k (before ++ [c]) r else none)
    else issueAny s k before c

/-- Commands that have nothing more to send and nothing out are asked whether they are done. -/
def askAll (s : State) (k : Nat) : State :=
  ((chanCmds s k).filter fun c => c.parts.isEmpty && !c.carried && !c.parked && c.allSent s && c.kind != 2).foldl
    (fun s c => askDone s k c.id) s

/-- ENGINE_PART_ISSUE (R184, R203, R268): one part of the channel in the cluster's slot of this cycle. -/
def execEnginePartIssue (chan : Nat) (s : State) : Res :=
  let s0 := askAll s chan
  let clu := chanClu s chan
  if s.clock < (getClu s clu).engAt then .next s0
  else .next ((issueFrom s0 chan [] (chanCmds s chan)).getD s0)

/-! Parts land. -/

/-- Drop a part from its command. -/
def dropPart (s : State) (k cid id : Nat) : State :=
  modCmd (delTxn s id) k cid fun c => { c with parts := c.parts.filter (· != id) }

/-- The first byte that a part could not read, as an index of its run; 0 where that is not known. -/
def badRead (s : State) (t : Txn) : Nat :=
  match t.rd.find? fun x => badByte s (t.home s x.1) with
  | some x => x.2
  | none => 0
/-- The number of bytes before the first that it could not write. -/
def badWrite (s : State) (t : Txn) : Nat :=
  let wr := t.wr.map fun c => { c with pa := t.home s c.pa }
  let part := (spoiledTouched s wr).filter fun x => !x.2
  wr.findIdx fun c => (tierOf c.pa).isNone || stopped s c.pa || part.any fun w => (eccWord c.pa).map (·.1) == some w.1

/-- The tile position of the j-th byte that a part of a tensor-side destination moves, from ix on. -/
def movedPos (t : Tile) : Nat → Nat → Nat → Nat
  | 0, pos, _ => pos
  | fuel + 1, pos, j =>
    if t.out && !t.inside (t.coords (pos / t.esz)) then movedPos t fuel (pos + 1) j
    else if j = 0 then pos
    else movedPos t fuel (pos + 1) (j - 1)

/-- A part failed: what precedes the first failing element goes again without it, and the fault is noted (R308, R349). -/
def partTrouble (s : State) (k : Nat) (c : CCmd) (id : Nat) (t : Txn) : State :=
  let tl := tileOf c.pkt
  let load := t.kind == .load
  let here := t.err == 9 && t.peer.isNone && c.kind < 3
  let j := if !here then 0 else if load then badRead s t else badWrite s t
  let pos0 := if c.kind < 3 then (if load then t.ix + j else movedPos tl 2097152 t.ix j) else 0
  let pos := if c.kind < 3 then pos0 / tl.esz * tl.esz else 0
  let keep := if load then pos - t.ix else j - (pos0 - pos)
  let fva := if c.kind < 3 then
      (let x := tl.byteAt c.srcVa c.dstVa pos
       match (if load then x.1 else x.2) with
       | some a => a
       | none => 0)
    else c.putVa
  let s1 := noteFault s k c.id t.err pos fva
  if keep = 0 || t.wr.length ≤ keep && !load then askDone (dropPart s1 k c.id id) k c.id
  else
    let rd := t.rd.filter fun x => decide (x.2 < keep)
    let t1 := { t with rd := rd, wr := t.wr.take keep, raw := if load then t.raw.filter fun x => decide (x.1 < keep) else [],
                       out := false, err := 0, len := keep, sent := 0, left := 0 }
    let (late, s2) := bookSlot s1 (chanClu s1 k)
    let s3 := setTxn s2 id { t1 with born := s.clock + late }
    match t1.peer with
    | some _ => { s3 with fab := { s3.fab with inject := s3.fab.inject ++ [id] } }
    | none => after s3 (late + 1) (performEvent t1 id)

/-- A part of a command has been answered. -/
def partLanded (s : State) (k : Nat) (c : CCmd) (id : Nat) (t : Txn) : State :=
  if t.err ≠ 0 then
    if 4 ≤ c.kind then
      -- one record for each member that has failed (R316)
      let causes := if t.errs.isEmpty then [t.err] else t.errs
      let s1 := causes.foldl (fun s e => (report s { cmdRecord s k c e 0 c.putVa with cmd := none }).1) s
      askDone (dropPart s1 k c.id id) k c.id
    else if c.kind = 2 && t.kind == .load && badRead s t = 0 then
      dropPart (noteFault s k c.id t.err t.ix c.srcVa.toNat) k c.id id
    else partTrouble s k c id t
  else
    match t.kind with
    | .load =>
      -- what is not written now stays with the command
      let kept := if c.kind = 2 then t.raw else t.raw.filter fun x => decide (t.wr.length ≤ x.1)
      let keep (s : State) : State :=
        modCmd s k c.id fun c => { c with buf := kept.foldl (fun b x => tset b (t.ix + x.1) x.2) c.buf }
      if t.wr.isEmpty then keep (dropPart s k c.id id)
      else
        let (s0, t1) := fillRules (keep s) t.toStore
        let (late, s1) := bookSlot s0 (chanClu s0 k)
        let s2 := setTxn s1 id { t1 with born := s.clock + late }
        match t1.peer with
        | some _ => { s2 with fab := { s2.fab with inject := s2.fab.inject ++ [id] } }
        | none => after s2 late (.copyPartLand id)
    | .store =>
      if t.cnt ≠ 0 && t.peer.isNone then
        after (setTxn s id { t with kind := .atomic, pa := t.cnt, len := 8, wr := [], cnt := 0, ix := 0, fe := 9, red := 0, twin := 0,
                                    held := false, out := false }) 0 (.atomicPerform id)
      else askDone (dropPart s k c.id id) k c.id
    | _ => askDone (dropPart s k c.id id) k c.id

/-- COPY_PART_LAND (R268, R269): a part that is to be written here is performed; one that has been answered goes on. -/
def execCopyPartLand (id : Nat) (s : State) : Res :=
  match getTxn s id with
  | none => .next s
  | some t =>
    if t.out then
      match t.src with
      | .chan k cid =>
        match findCmd s k cid with
        | none => .next (delTxn s id)
        | some c => .next (partLanded s k c id t)
      | _ => .next (delTxn s id)
    else .next (atHome s id .store fun s t => performStore (served s t) id t)

/-- Nothing of a command is out, and it is not held. -/
def CCmd.quiet (s : State) (c : CCmd) : Bool := c.parts.isEmpty && !c.carried && !c.parked && c.allSent s

/-- The number of entries of a feed. -/
def CCmd.entries (c : CCmd) : Nat := ((tileOf c.pkt).bytes + 127) / 128

/-- COPY_COMPLETE (R268, R271): a copy posts and ends; a feed ends with its last entry, or at its fault once the entries
before it are filled. -/
def execCopyComplete (chan id : Nat) (s : State) : Res :=
  match findCmd s chan id with
  | none => .next s
  | some c =>
    if !c.quiet s then .next s
    else if c.kind = 2 then
      let st := getStream s (feedSlot s c)
      let mine := st.feeds.head? == some (chan, id)
      let start := if c.next = 0 then st.filled else c.entry
      match c.fault with
      | some f =>
        if f.2.1 = 0 || (mine && decide (f.2.1 / 128 ≤ st.filled - start)) then .next (failCmd s chan c f) else .next s
      | none => if mine && decide (start + c.entries ≤ st.filled) && c.next ≠ 0 then .next (endCmd s chan c) else .next s
    else .next (finishCmd s chan c)

/-- PUT_COMPLETE (R314, R316). -/
def execPutComplete (chan id : Nat) (s : State) : Res :=
  match findCmd s chan id with
  | none => .next s
  | some c => if c.quiet s then .next (finishCmd s chan c) else .next s

/-! Feeds fill entries. -/

/-- The format descriptor's FMT that a feed's source page gives its elements, by the byte at va (R286). -/
def feedFmt (s : State) (c : CCmd) (va : Option Nat) : Option Nat :=
  match va with
  | none => none
  | some a =>
    match engResolve s c.who { write := false, sh := false, n := 1 } c.src false a with
    | .error _ => none
    | .ok h => if hFdi h = 0 then none else some ((fdFmt s c.vf (hFdi h)).getD 31)

/-- FEEDER_ENTRY_FILL (R277, R278) of stream slot 16 * cluster + slot: the first feed fills its next entry. Its format is that of the
page of its first byte inside the tile (R287; DESIGN CHOICE, log 136). -/
def execFeederEntryFill (slot : Nat) (s : State) : Res :=
  let x := (slot / 16, slot % 16)
  let st := getStream s x
  match st.feeds with
  | [] => .next s
  | (k, id) :: _ =>
    match findCmd s k id with
    | none => .next s
    | some c =>
      let t := tileOf c.pkt
      let j := st.filled - c.entry
      let lim := match c.fault with
        | some f => f.2.1
        | none => t.bytes
      let n := min 128 (t.bytes - 128 * j)
      let have' := (List.range n).all fun b => (tfind c.buf (128 * j + b)).isSome
      if c.next = 0 || c.carried || c.entries ≤ j || !st.room st.filled || !have' || lim < 128 * j + n then
        .next (askDone s k id)
      else
        let w := BitVec.ofNat 1024 (natOfBytes ((List.range n).map fun b => tget 0 c.buf (128 * j + b)))
        let fmt := feedFmt s c ((List.range n).findSome? fun b => (t.byteAt c.srcVa c.dstVa (128 * j + b)).1)
        let s1 := modStream s x fun u => { u with entries := tset u.entries u.filled (w, fmt), filled := u.filled + 1 }
        let s2 := modCmd s1 k id fun c => { c with buf := c.buf.filter fun b => decide (128 * (j + 1) ≤ b.1) }
        let s3 := modCtx s2 st.ctx fun u =>
          let ix := 0x10 + c.stream
          u.setShadow ix (setField (u.rdShadow ix) 0 32 ((u.rdShadow ix).toNat % 2 ^ 32 + 1))
        .next (askDone s3 k id)

/-! Shared copy queues. -/

/-- SHARED_COPY_PACKET_TAKE (R170, R273). -/
def execSharedCopyPacketTake (q : Nat) (s : State) : Res :=
  let reg := cqcfg q
  let d := rfld s reg 16 41 * 2 ^ 16
  let vf := rfld s reg 1 7
  let name : QName := { reg := reg, kind := 1, q := q, vf := vf }
  let k := queueKey q
  if !rbit s reg 0 || chanFull s k then .next s
  else
    match queuePeek s name d with
    | .idle => .next s
    | .wait t => .next t
    | .unusable => .next (queueUnusable s name)
    | .stop err idx => .next (queueSkip s name d err idx)
    | .slot pkt idx a =>
      -- the take is an acquire (R223, R273)
      let s1 := rdcAcquireAll (queueTake s name d idx a) (dieOfClu (chanClu s k)) vf
      if copyValid pkt true then
        let (id, s2) := fresh s1
        .next (setChan s2 k (chanCmds s2 k ++ [{ CCmd.blank id 1 noCtx pkt with vf := vf, cidx := idx % 2 ^ 32 }]))
      else .next (queueStop s1 name d 1 idx)

end Sys2Proof.Machine
end

