-- ==== Sys2Proof/Machine/Flit.lean ====
section
/-!
DEFINITION. The flit (R382 to R384), its burst-correcting code and CRC (R386), and the message header (R394).
-/
namespace Sys2Proof.Machine

/-! CRC-32C (RFC 3720). -/

/-- n steps of the reflected polynomial. -/
def crcSteps (x : Nat) : Nat → Nat
  | 0 => x
  | n + 1 => crcSteps (if x % 2 = 1 then (x / 2) ^^^ 0x82F63B78 else x / 2) n
def crcByte (x : Nat) (b : Nat) : Nat := crcSteps (x ^^^ b) 8
/-- The CRC of bytes 0 to n - 1 of a number. -/
def crc32c (x n : Nat) : Nat := (List.range n).foldl (fun c i => crcByte c (x / 2 ^ (8 * i) % 256)) 0xFFFFFFFF ^^^ 0xFFFFFFFF

/-! The burst code (R386). Flit bit k is the coefficient of x^(511-k). -/

def burstGen : Nat := 0x1C8A34E27
/-- The remainder of the bits lo to lo + n - 1 of a flit, the first of the highest degree. -/
def burstRem (f : Nat) (n : Nat) : Nat :=
  (List.range n).foldl (fun r k =>
    let y := 2 * r + f / 2 ^ k % 2
    if 2 ^ 32 ≤ y then y ^^^ burstGen else y) 0
/-- The parity: bits 480 to 511, from the remainder of the first 480 bits and 32 zeros. -/
def burstParity (f : Nat) : Nat :=
  let r := burstRem (f % 2 ^ 480) 512
  (List.range 32).foldl (fun p i => p + r / 2 ^ (31 - i) % 2 * 2 ^ i) 0
/-- Divide by x modulo the generator. -/
def burstShift (r : Nat) : Nat := if r % 2 = 1 then (r ^^^ burstGen) / 2 else r / 2
/-- The burst of at most 12 bits whose syndrome is r: its lowest degree from d on and its bits. -/
def burstFind (r d : Nat) : Nat → Option (Nat × Nat)
  | 0 => none
  | n + 1 => if r < 2 ^ 12 ∧ d + r.log2 < 512 then some (d, r) else burstFind (burstShift r) (d + 1) n
/-- The flit bits that a burst of degree d upward flips. -/
def burstBits (d r : Nat) : List Nat := ((List.range 12).filter fun j => r.testBit j).map fun j => 511 - (d + j)
/-- Correct a flit: the flit and the bits flipped; none where nothing was to be corrected. -/
def correct (f : Flit) : Flit × List Nat :=
  let r := burstRem f.toNat 512
  if r = 0 then (f, [])
  else
    match burstFind r 0 512 with
    | none => (f, [])
    | some (d, b) =>
      let l := burstBits d b
      (l.foldl (fun (x : Flit) k => x ^^^ BitVec.ofNat 512 (2 ^ k)) f, l)

/-! Fields. -/

abbrev Payload := BitVec 384

def flitCtl (f : Flit) : Nat := f.toNat / 2 ^ 384 % 2 ^ 64
def flitPayload (f : Flit) : Payload := f.truncate 384
def flitType (f : Flit) : Nat := nf (flitCtl f) 0 4
def flitVc (f : Flit) : Nat := nf (flitCtl f) 4 3
def flitSeq (f : Flit) : Nat := nf (flitCtl f) 7 12
def flitAck (f : Flit) : Nat := nf (flitCtl f) 19 12
def flitCred (f : Flit) : Nat := nf (flitCtl f) 31 8
/-- A defined TYPE; a sequenced one (R384). -/
def typeKnown (t : Nat) : Bool := decide (t ≤ 4) || (decide (8 ≤ t) && decide (t ≤ 12))
def typeSequenced (t : Nat) : Bool := (decide (1 ≤ t) && decide (t ≤ 4)) || t == 11 || t == 12
/-- The flit passes: its CRC, its reserved bits, its TYPE (R382 to R384). -/
def flitPasses (f : Flit) : Bool :=
  crc32c f.toNat 56 == f.toNat / 2 ^ 448 % 2 ^ 32 && flitCtl f / 2 ^ 39 == 0 && typeKnown (flitType f)

/-- A flit from its payload and control word. -/
def makeFlit (p : Payload) (ctl : Nat) : Flit :=
  let x := p.toNat + ctl % 2 ^ 64 * 2 ^ 384
  let y := x + crc32c x 56 * 2 ^ 448
  BitVec.ofNat 512 (y + burstParity y * 2 ^ 480)
def ctlWord (ty vc seq ack cred : Nat) : Nat :=
  ty % 16 + vc % 8 * 2 ^ 4 + seq % 4096 * 2 ^ 7 + ack % 4096 * 2 ^ 19 + cred % 256 * 2 ^ 31

/-- Words of a payload. -/
def pay (l : List Nat) : Payload := BitVec.ofNat 384 (l.foldr (fun x acc => acc * 2 ^ 64 + x % 2 ^ 64) 0)
def payW (p : Payload) (dw lo n : Nat) : Nat := nf p.toNat (64 * dw + lo) n

/-! The header (R394). -/

def header (m : Msg) : Payload :=
  let b (x : Bool) : Nat := if x then 1 else 0
  pay [m.dst + m.src * 2 ^ 14 + m.op * 2 ^ 28 + m.len * 2 ^ 34 + m.vf * 2 ^ 43 + b m.dl * 2 ^ 50 + b m.esc * 2 ^ 51 + b m.ep * 2 ^ 52 +
         m.hops * 2 ^ 53 + m.ph * 2 ^ 56 + b m.nm * 2 ^ 58,
       m.tag + m.ig * 2 ^ 16 + m.sub * 2 ^ 25 + m.size * 2 ^ 29 + m.sq % 2 ^ 32 * 2 ^ 31, m.addr, m.cnt + b m.cu * 2 ^ 50, m.opa.toNat,
       m.opb.toNat]
def parseHeader (p : Payload) : Msg :=
  { dst := payW p 0 0 14, src := payW p 0 14 14, op := payW p 0 28 6, len := min 256 (payW p 0 34 9), vf := payW p 0 43 7,
    dl := payW p 0 50 1 == 1, esc := payW p 0 51 1 == 1, ep := payW p 0 52 1 == 1, hops := payW p 0 53 3, ph := payW p 0 56 2,
    nm := payW p 0 58 1 == 1, tag := payW p 1 0 16, ig := payW p 1 16 9, sub := payW p 1 25 4, size := payW p 1 29 2, sq := payW p 1 31 32,
    addr := payW p 2 0 50, cnt := payW p 3 0 50, cu := payW p 3 50 1 == 1, opa := BitVec.ofNat 64 (payW p 4 0 64),
    opb := BitVec.ofNat 64 (payW p 5 0 64), data := 0 }

/-- The type and payload of flit i of a message (R394). -/
def msgFlit (m : Msg) (i : Nat) : Nat × Payload :=
  if i = 0 then (if msgFlits m = 1 then 4 else 1, header m)
  else (if i + 1 = msgFlits m then 3 else 2, BitVec.ofNat 384 (m.data.toNat % 2 ^ (8 * msgDataLen m) / 2 ^ (384 * (i - 1))))

/-! Striping (R385). -/

/-- The beats of a flit on the lanes of a map: for each beat, lane and byte; idle bytes are 0. -/
def beats (map : Nat) (f : Flit) : List (List (Nat × Byte)) :=
  let ls := lanesOf map
  let n := max 1 ls.length
  (List.range ((64 + n - 1) / n)).map fun b =>
    (List.range ls.length).map fun i => (ls.getD i 0, if b * n + i < 64 then byteAt f (b * n + i) else 0)
/-- The lane that carries a flit bit. -/
def laneOfBit (map k : Nat) : Nat := (lanesOf map).getD (k / 8 % max 1 (lanesOf map).length) 0

end Sys2Proof.Machine
end

