-- ==== Sys2Proof/Machine/Inject.lean ====
section
/-!
DEFINITION. Requests that leave the module (R395, R404, R408, R412, R458): the messages of a transaction, the outstanding
table, what an answer does to the transaction it belongs to.
-/
namespace Sys2Proof.Machine

/-! The messages of a transaction. Where R394 leaves operands open, they stand as the docstrings say (log 20). -/

/-- A run of bytes that one message names: its address, length, and the cells it writes. -/
structure Piece where
  addr : Nat
  len  : Nat
  wr   : List WCell
deriving DecidableEq, Repr

/-- Runs of consecutive bytes of one 256-byte granule, in list order; a byte written in part stands alone. -/
def runs (cells : List WCell) : List Piece :=
  ((cells.foldl (fun (acc : List Piece) c =>
    match acc with
    | p :: r =>
      if c.pa = p.addr + p.len ∧ c.pa / 256 = p.addr / 256 ∧ c.msk = 0xFF ∧ (p.wr.all fun x => x.msk == 0xFF) then
        { p with len := p.len + 1, wr := c :: p.wr } :: r
      else { addr := c.pa, len := 1, wr := [c] } :: acc
    | [] => [{ addr := c.pa, len := 1, wr := [c] }]) []).map fun p => { p with wr := p.wr.reverse }).reverse

/-- The lines or granule spans that a load reads: whole 128-byte lines where the die may keep them (R180). -/
def wholeLines (t : Txn) : Bool := t.kind == .load && decide (t.cp < 2) && t.twin == 0 && rdcCan t.die t.peer t.pa
def loadPieces (t : Txn) : List Piece :=
  if wholeLines t then
    (t.rd.foldl (fun (l : Tab Unit) x => tset l (x.1 / 128) ()) []).map fun e => { addr := 128 * e.1, len := 128, wr := [] }
  else
    (runs ((t.rd.foldl (fun (l : Tab Unit) x => tset l x.1 ()) []).map fun e => { pa := e.1, val := 0, msk := 0xFF })).map fun p =>
      { p with wr := [] }

/-- The page's attributes as a request carries them: [1:0] RED, [2] RLAND, [3] SH, [4] the write sets its granules full, [5]
OVF, [10:6] the base-2 logarithm of a twin's page size. -/
def pageAttr (t : Txn) : Nat :=
  let b (x : Bool) (n : Nat) : Nat := if x then 2 ^ n else 0
  t.red % 4 + b t.rland 2 + b t.shadow 3 + b t.full 4 + b (fmOVF t.req.fmode) 5 + (if t.twin = 0 then 0 else t.twin.log2 * 64)

def dataOf (l : List WCell) : VWord := BitVec.ofNat 2048 (natOfBytes (l.map (·.val)))

/-- CNT's descriptor of a Pump part: [8:0] length, [13:9] the FMODE bits 4 to 0, [15:14] RED, [47:16] the number of its first
element, [48] a twin page. -/
def pcmdDesc (t : Txn) : Nat :=
  t.len % 512 + t.req.fmode.toNat % 32 * 2 ^ 9 + t.red % 4 * 2 ^ 14 + t.ix % 2 ^ 32 * 2 ^ 16 + (if t.twin = 0 then 0 else 2 ^ 48)

/-- SUB of a sync operation: acquires 0 exclusive, 1 shared, 2 event; 3 unlock, 4 post. -/
def syncSub (t : Txn) : Nat :=
  match aop t.req.op with
  | .acq k _ => k
  | .rel true _ => 4
  | _ => 3

/-- The messages of a transaction, in the order sent. -/
def txnMsgs (s : State) (t : Txn) : List Msg :=
  let b (op : Nat) : Msg := { msgBlank (t.peer.getD 0) (moduleNo s) op with vf := t.vf, dl := t.dl, addr := t.pa }
  let attr : Word64 := BitVec.ofNat 64 (pageAttr t)
  let put (op : Nat) (p : Piece) : Msg :=
    { b op with addr := p.addr, len := p.len, data := dataOf p.wr,
                opa := attr ||| BitVec.ofNat 64 ((0xFF - (p.wr.foldl (fun m c => m &&& c.msk.toNat) 0xFF)) * 2 ^ 56) }
  let cnt := if t.post.isSome then 0 else t.cnt
  match t.kind with
  | .load => (loadPieces t).map fun p => { b 1 with addr := p.addr, len := p.len, opa := attr }
  | .store =>
    if t.fe = 10 ∨ t.fe = 12 then
      (runs t.wr).map fun p =>
        { put (if t.fe = 10 then 7 else 8) p with sub := t.scope % 16, sq := t.orig, cnt := cnt, cu := t.add != 1 }
    else (runs t.wr).map fun p => if cnt = 0 then put 2 p else { put 3 p with cnt := cnt, cu := t.add != 1 }
  | .atomic =>
    let a : Msg := { b 4 with sq := pageAttr t }
    match aop t.req.op with
    | .amo _ op n _ =>
      [{ a with sub := op, size := n / 8, opa := BitVec.ofNat 64 (t.entry.toNat % 2 ^ (8 * n)),
                opb := BitVec.ofNat 64 (t.req.fmode.toNat + (laneOf t.req.rnd 0).toNat * 2 ^ 32) }]
    | .cas n _ =>
      if n = 16 then [{ a with sub := 11, size := 2, len := 32, data := BitVec.ofNat 2048 (t.entry.toNat % 2 ^ 256) }]
      else [{ a with sub := 11, size := n / 8, opa := BitVec.ofNat 64 (t.entry.toNat % 2 ^ (8 * n)),
                     opb := BitVec.ofNat 64 (t.entry.toNat / 2 ^ (8 * n) % 2 ^ (8 * n)) }]
    | _ => [{ a with sub := 0, size := 1, opa := BitVec.ofNat 64 t.add }]
  | .acquire =>
    [{ b 5 with sub := syncSub t, sq := pageAttr t, opa := t.entry.truncate 64,
                opb := BitVec.ofNat 64 (match t.src with
                  | .ctx g => ownerOf s g
                  | _ => 0) }]
  | .release => [{ b 5 with sub := syncSub t, sq := pageAttr t, opa := t.entry.truncate 64 }]
  | .pcmd =>
    [{ b 6 with len := 256, data := t.entry, opa := sylWordOf t.req.op, opb := t.lmask, cnt := pcmdDesc t, sq := t.req.seed.toNat }]
  | .fe =>
    if t.fe < 4 then (loadPieces t).map fun p => { b 1 with addr := p.addr, len := p.len, sub := t.fe }
    else if t.fe < 6 then [{ b 1 with len := 16, sub := t.fe }]
    else [{ b 2 with sub := t.fe }]
  | .pageData => []

/-! Answers. -/

/-- The head of LAQ that a full/empty form at a peer keeps there is done. -/
def feAnswered (s : State) (id g : Nat) (t : Txn) (bad : Bool) : State :=
  let s1 := delTxn s id
  if 6 ≤ t.fe then (if bad then requestFails s1 g t.req 0x0A 16 0 else s1)
  else
    let s2 := if bad then depositFail s1 g t.req.seq else deposit s1 g t.req.seq t.raw
    match (getCtx s2 g).laq with
    | q :: _ => if q.seq = t.req.seq then popHead s2 g else s2
    | [] => s2

/-- The add of a write that has landed elsewhere goes to its counter (R427). -/
def ownPost (s : State) (id : Nat) (t : Txn) (m : Option Nat) : State :=
  let s1 := setTxn s id { t with kind := .atomic, peer := m, pa := t.cnt, len := 8, wr := [], cnt := 0, ix := 0, fe := 9, red := 0,
                                 twin := 0, held := false, out := false, sent := 0, left := 0, post := none }
  match m with
  | none => after s1 0 (.atomicPerform id)
  | some _ => { s1 with fab := { s1.fab with inject := s1.fab.inject ++ [id] } }

/-- Every message of the transaction has been answered. `old` is an atomic's old value. -/
def txnDone (s : State) (id : Nat) (t : Txn) (old : List Byte) : State :=
  match t.kind, t.src with
  | .fe, .ctx g => feAnswered s id g t (t.err ≠ 0)
  | _, _ =>
    if t.err ≠ 0 then partFails s id t t.err
    else
      match t.kind with
      | .load => loaded s id t t.raw
      | .atomic => written s id t old t.flags
      | .acquire =>
        match t.src with
        | .ctx g => acquired (delTxn s id) g t
        | _ => delTxn s id
      | .pcmd => partDone (delTxn s id) t t.flags 0 0
      | _ =>
        let s1 := if t.fe = 0 then afterStore s t else s
        match t.post with
        | some m => if t.cnt = 0 then written s1 id t [] 0 else ownPost s1 id t m
        | none => written s1 id t [] 0

/-- One message of the transaction has been answered; its last answer ends it. -/
def msgAnswered (s : State) (id : Nat) (t : Txn) (old : List Byte) : State :=
  let t1 := { t with left := t.left - 1 }
  if t1.left = 0 && (txnMsgs s t1).length ≤ t1.sent then
    txnDone { s with fab := { s.fab with inject := s.fab.inject.filter (· != id) } } id t1 old
  else setTxn s id t1

/-- The bytes that a DATA message gives a load: the offsets of what it asked for. -/
def takeData (t : Txn) (a len : Nat) (d : VWord) : Txn :=
  { t with raw := t.rd.foldl (fun r x => if a ≤ x.1 ∧ x.1 < a + len then tset r x.2 (byteAt d (x.1 - a)) else r) t.raw }

/-- A response to a transaction's message that stood at address `a` (R407, R409). -/
def txnAnswer (s : State) (id a : Nat) (q r : Msg) : State :=
  match getTxn s id with
  | none => s
  | some t =>
    match r.op with
    | 0x11 =>
      let keep := wholeLines t && decide (r.len = 128)
      let s1 := if keep && t.lmask == 0 then
          rdcFill s t.die (lineKey t.peer a) t.vf (t.objAt s a) ((List.range 128).map (byteAt r.data)) else s
      -- another load of the line that is still on its way may be older (R209)
      let s1 := noFill s1 t.die fun u => u.onLines s [lineKey t.peer a]
      msgAnswered s1 id (takeData t a q.len r.data) []
    | 0x12 =>
      let n := 4 * 2 ^ q.size
      let fl : BitVec 5 := if n ≤ 8 then r.opb.truncate 5 else 0
      msgAnswered s id { t with flags := t.flags ||| fl } ((bytesOf r.opa 8 ++ bytesOf r.opb 8).take n)
    | 0x1F => msgAnswered s id { t with err := 0x0A, errs := t.errs ++ List.replicate (max 1 (r.opb.toNat / 2 ^ 16 % 2 ^ 16)) 0x0A } []
    | _ => msgAnswered s id { t with flags := t.flags ||| r.opa.truncate 5 } []

/-- FABRIC_REQUEST_INJECT (R404, R405, R408, R458): the transaction's next message is checked, entered and sent, or waits. One with a
post whose bytes have moved is parted from it first (R427). -/
def execFabricRequestInject (id : Nat) (s : State) : Res :=
  let gone (s : State) : State := { s with fab := { s.fab with inject := s.fab.inject.filter (· != id) } }
  match getTxn s id with
  | none => .next (gone s)
  | some t =>
    if t.peer.isNone || t.out then .next (gone s)
    else
      match (txnMsgs s t)[t.sent]? with
      | none => .next (if t.sent = 0 then txnDone (gone s) id t [] else gone s)
      | some m0 =>
        let m := redirected s m0
        let a := t.agent s
        let t1 := { t with sent := t.sent + 1, left := t.left + 1 }
        if !pathOk s t.die 4 then .next (msgAnswered (setTxn s id t1) id { t1 with err := 9 } [])
        else if dstStatus s m.dst ≠ 0 then .next (msgAnswered (setTxn s id t1) id { t1 with err := 0x0A } [])
        else if heldBack s id t || granuleBusy s a m || decide (65536 ≤ s.fab.outst.length) then .next s
        else if m.dst != m0.dst && t.splitPost != t then .next (setTxn s id t.splitPost)
        else .next (enter (setTxn s id t1) m0 (.txn id) a)

/-- A request may be looked at by the Ridge die: its slot has come, nothing of its agent keeps it back (R232, R408), and the table has room. -/
def injectReady (s : State) (id : Nat) : Bool :=
  match getTxn s id with
  | none => true
  | some t =>
    match (txnMsgs s t)[t.sent]? with
    | some m0 =>
      decide (t.born ≤ s.clock) && (t.peer.isNone || t.out || !pathOk s t.die 4 || dstStatus s (redirected s m0).dst != 0 ||
        (!heldBack s id t && !granuleBusy s (t.agent s) (redirected s m0) && decide (s.fab.outst.length < 65536)))
    | none => true

/-- The request served next (R412): weighted round robin over partitions. -/
def injectNext (s : State) : Option (Nat × State) :=
  let part (id : Nat) : Nat := match getTxn s id with
    | some t => rfld s (vfctl t.vf) 1 5
    | none => 0
  let first (p : Nat) : Option Nat := s.fab.inject.find? fun id => part id == p && injectReady s id
  let w (p : Nat) : Nat := max 1 (rfld s (partReg p + 8) 32 8)
  match first s.fab.turn, decide (s.fab.grants < w s.fab.turn) with
  | some id, true => some (id, { s with fab := { s.fab with grants := s.fab.grants + 1 } })
  | _, _ =>
    match ((List.range 32).map fun i => (s.fab.turn + 1 + i) % 32).findSome? fun p => (first p).map fun id => (id, p) with
    | some (id, p) => some (id, { s with fab := { s.fab with turn := p, grants := 1 } })
    | none => none

end Sys2Proof.Machine
end

