-- ==== Sys2Proof/Machine/Collective.lean ====
section
/-!
DEFINITION. The combining all-reduce (R415 to R419): contributions, partials, results, aborts, records.
-/
namespace Sys2Proof.Machine

/-! Writes of the Ridge die itself. -/

/-- Add to an 8-byte counter; one that cannot be read is not written (R183). In tier 2 (R271), and in a frame of a migration (R427), a
request makes the add. -/
def hwAdd8 (s : State) (pa n : Nat) : State :=
  if tierOf pa == some 2 || migFrame s pa then hwSend s .atomic pa (fun t => { t with len := 8, add := n }) .atomicPerform
  else if (List.range 8).any fun j => badByte s (pa + j) then s
  else hwPut8 s pa (mread8 s pa + BitVec.ofNat 64 n)

/-! The tree (R417). -/

def isNan32 (x : Nat) : Bool := x / 2 ^ 23 % 256 == 255 && x % 2 ^ 23 != 0

/-- Op of R415. -/
def arOp (op : Nat) (a b : Word64) : Word64 :=
  match op with
  | 0 => a + b
  | 1 => if a.slt b then b else a
  | 2 => if b.slt a then b else a
  | 3 => if a.ult b then b else a
  | 4 => if b.ult a then b else a
  | 5 => a &&& b
  | 6 => a ||| b
  | 7 => a ^^^ b
  | _ =>
    let x := a.toNat % 2 ^ 32
    let y := b.toNat % 2 ^ 32
    BitVec.ofNat 64 (if isNan32 x || isNan32 y then 0x7FC00000 else (fMinMax 0 0 true x y).1)

/-- The members of entry i's group, none where it is disabled or its list cannot be read. -/
def arList (s : State) (v i : Nat) : Option (List Nat) :=
  let grp := rfld s (arcfg v i) 5 4
  let n := mcgMembers s v grp
  if n = 0 then none
  else (List.range n).foldr (fun j acc =>
    match acc, mcgMember s v grp j with
    | some l, some m => some (m :: l)
    | _, _ => none) (some [])
/-- This module's index in a list. -/
def arIndex (s : State) (l : List Nat) : Option Nat := l.findIdx? fun m => m == moduleNo s
/-- The children of index j among n members. -/
def arKids (n j : Nat) : List Nat := ((List.range 16).map fun k => 16 * j + 1 + k).filter fun k => decide (k < n)

def arNext (s : State) (v i : Nat) : Nat := rfld s (arcfg v i + 24) 0 32
def arFind (s : State) (v i : Nat) : Option ArSeq := s.ar.find? fun a => a.v == v && a.i == i
def arSet (s : State) (a : ArSeq) : State := { s with ar := (s.ar.filter fun x => !(x.v == a.v && x.i == a.i)) ++ [a] }
def arDel (s : State) (v i : Nat) : State := { s with ar := s.ar.filter fun x => !(x.v == v && x.i == i) }

/-- Send a message of the sequence (R434), of the deadline class (R204). -/
def arSend (s : State) (v i n op dst : Nat) (x : Word64) : State :=
  sendReq s { msgBlank dst (moduleNo s) op with vf := v, sub := i, sq := n, opa := x, dl := true } (.coll v i n) (.peer (moduleNo s) 65536)

/-- The record, NEXT, the counter, the event (R418, R419). A record in a frame of a migration takes the add with it, as a put its
post (R427). -/
def arWrite (s : State) (v i n : Nat) (x : Word64) (status : Nat) : State :=
  let cf := arcfg v i
  let res := rfld s (cf + 8) 4 46 * 16
  let l : List Word64 := [if status = 0 then x else 0, BitVec.ofNat 64 (status + n % 2 ^ 32 * 2 ^ 8)]
  let cnt := rfld s (cf + 16) 3 47 * 8
  let away := migFrame s res
  let s1 := if away then
      hwSend s .store res (fun t => { t with wr := cellsAt res (l.flatMap (bytesOf · 8)), len := 16, cnt := cnt, add := 1 }) .storePerform
    else hwPutWords s res l
  let s2 := arDel (rsetF s1 (cf + 24) 0 32 (n + 1)) v i
  let s3 := if cnt = 0 || away then s2 else hwAdd8 s2 cnt 1
  if status = 0 then s3 else postPlain s3 0x14 v (BitVec.ofNat 64 i) (BitVec.ofNat 64 status)

/-- The record of sequence n, once for each n. It waits while a Pump part is pending on the record or the counter, so that the add
follows the record (R231, R418). -/
def arRecord (s : State) (v i n : Nat) (x : Word64) (status : Nat) : State :=
  let cf := arcfg v i
  if n ≠ arNext s v i then s
  else if hwReady s (rfld s (cf + 8) 4 46 * 16) 16 && hwReady s (rfld s (cf + 16) 3 47 * 8) 8 then arWrite s v i n x status
  else
    let a := (arFind s v i).getD { v := v, i := i, n := n, c := none, parts := [], sentUp := true, since := s.clock,
                                       toWrite := none, redo := false, ends := false }
    after (arSet s { a with toWrite := some (x, status) }) 1 (.allreduceTimeout v i n)

/-- A result or an abort goes down the tree and into the own record. -/
def arDown (s : State) (v i n : Nat) (x : Word64) (status : Nat) : State :=
  let kids := match arList s v i with
    | some l =>
      match arIndex s l with
      | some j => (arKids l.length j).filterMap fun k => l[k]?
      | none => []
    | none => []
  arRecord (kids.foldl (fun s m => arSend s v i n (if status = 0 then 0x21 else 0x22) m x) s) v i n x status

/-- The own contribution and every child's partial are there: up, or at the root down. -/
def arTry (s : State) (v i : Nat) : State :=
  match arFind s v i, arList s v i with
  | some a, some l =>
    match a.c, arIndex s l with
    | some c, some j =>
      let kids := arKids l.length j
      if a.sentUp || !(kids.all fun k => a.parts.any fun p => p.1 == k) then s
      else
        let op := rfld s (arcfg v i) 1 4
        let acc := kids.foldl (fun acc k => arOp op acc (((a.parts.find? fun p => p.1 == k).map (·.2)).getD 0)) c
        if j = 0 then arDown s v i a.n acc 0
        else
          match l[(j - 1) / 16]? with
          | some m => arSend (arSet s { a with sentUp := true }) v i a.n 0x20 m acc
          | none => s
    | _, _ => s
  | _, _ => s

/-- The number of an entry beside all others. -/
def arKey (v i : Nat) : Nat := 16 * v + i

/-- Index 0 sends an abort of sequence n down, once: also where its own record is written, since a member below may have none
(R419). -/
def arAbortDown (s : State) (v i n : Nat) : State :=
  if tget 0 s.arEnd (arKey v i) = n + 1 || 2 ^ 31 ≤ (arNext s v i + 2 ^ 32 - n) % 2 ^ 32 then s
  else arDown { s with arEnd := tset s.arEnd (arKey v i) (n + 1) } v i n 0 2

/-- Abort the sequence (R419): up to index 0, which sends it down. -/
def arAbort (s : State) (v i n : Nat) : State :=
  match arList s v i with
  | some l => if arIndex s l == some 0 then arAbortDown s v i n else arSend s v i n 0x22 (l.headD 0) 0
  | none => s

/-- A message of the sequence, to module `dst`, received an ERROR: an abort goes up (R419). Where that message is the own abort to index
0, it goes up again a microsecond later while this module's record is not written (DESIGN CHOICE, log 117). -/
def collError (s : State) (v i n op dst : Nat) : State :=
  let up := match arList s v i with
    | some l => l.head? == some dst
    | none => false
  if op ≠ 0x22 || !up then arAbort s v i n
  else
    match arFind s v i with
    | some a => if a.n = n then after (arSet s { a with redo := true }) Config.cyclesPerUs (.allreduceTimeout v i n) else s
    | none => s

/-- ARCONT_WRITE (R416). -/
def execArcontWrite (src : ReqSrc) (v i : Nat) (c : Word64) (s : State) : Res :=
  let tag := match src with
    | .ctx g _ => vfOf s g == v
    | .host (some f) => f == v
    | _ => true
  let listed := match arList s v i with
    | some l => (arIndex s l).isSome
    | none => false
  if !rbit s (arcfg v i) 0 || 8 < rfld s (arcfg v i) 1 4 || !listed || !tag || (arFind s v i).isSome then
    .next (rincHold s (arcfg v i + 24) 32 32)
  else
    let n := arNext s v i
    let mine := s.arHeld.filter fun h => h.v == v && h.i == i && h.n == n
    let s1 := arSet { s with arHeld := s.arHeld.filter fun h => !(h.v == v && h.i == i && h.n == n) }
      { v := v, i := i, n := n, c := some c, parts := mine.map fun h => (h.child, h.val), sentUp := false, since := s.clock, toWrite := none,
        redo := false, ends := false }
    .next (arTry (after s1 Config.cyclesPerMs (.allreduceTimeout v i n)) v i)

/-- ARCFG_WRITE (R415): EN := 0 discards what is held and open, and sets NEXT to 0. -/
def execArcfgWrite (v i dw : Nat) (c : Word64) (s : State) : Res :=
  if dw = 0 && !c.getLsbD 0 then
    .next (rsetF (arDel { s with arHeld := s.arHeld.filter fun h => !(h.v == v && h.i == i), arEnd := tdel s.arEnd (arKey v i) } v i)
      (arcfg v i + 24) 0 32 0)
  else .next s

/-- An abort of sequence n goes on at this member: index 0 sends it down, the others pass it on (R419). -/
def arAbortHere (s : State) (v i n : Nat) : State :=
  match arList s v i with
  | some l => if arIndex s l == some 0 then arAbortDown s v i n else arDown s v i n 0 2
  | none => s

/-- ALLREDUCE_TIMEOUT (R419): the contribution to n, made a millisecond ago, has no record yet. A record that waits to be written, and
an abort that is to go again, are looked at here too. -/
def execAllreduceTimeout (v i n : Nat) (s : State) : Res :=
  match arFind s v i with
  | none => .next s
  | some a =>
    if a.n ≠ n then .next s
    else
      match a.toWrite with
      | some (x, st) =>
        let s1 := arRecord s v i n x st
        .next (if a.ends && (arFind s1 v i).isNone then arAbortHere s1 v i ((n + 1) % 2 ^ 32) else s1)
      | none =>
        if a.c.isSome && decide (a.since + Config.cyclesPerMs ≤ s.clock) then .next (arRecord s v i n 0 3)
        else if a.redo then .next (arAbort (arSet s { a with redo := false }) v i n)
        else .next s

/-- ALL_REDUCE_PARTIAL (R417): counted, or held for the sequence that the module has not yet contributed to. -/
def execAllReducePartial (m : Msg) (s : State) : Res :=
  let v := m.vf
  let i := m.sub
  let child := match arList s v i with
    | some l =>
      match arIndex s l, l.findIdx? (fun x => x == m.src) with
      | some j, some k => if (arKids l.length j).contains k then some k else none
      | _, _ => none
    | none => none
  match child with
  | none => .next (respondError s m 8)
  | some k =>
    let ok (s : State) : State := respond s m 0x10 0 0 0 0
    let held := s.arHeld.any fun h => h.v == v && h.i == i && h.child == k
    match arFind s v i with
    | some a =>
      if a.n = m.sq then
        .next (arTry (ok (arSet s { a with parts := (a.parts.filter fun p => p.1 != k) ++ [(k, m.opa)] })) v i)
      else if held || (m.sq + 2 ^ 32 - a.n) % 2 ^ 32 ≠ 1 then .next (respondError s m 12)
      else .next (ok { s with arHeld := s.arHeld ++ [{ v := v, i := i, n := m.sq, child := k, val := m.opa }] })
    | none =>
      if held || (m.sq + 2 ^ 32 - arNext s v i) % 2 ^ 32 ≠ 0 then .next (respondError s m 12)
      else .next (ok { s with arHeld := s.arHeld ++ [{ v := v, i := i, n := m.sq, child := k, val := m.opa }] })

/-- ALL_REDUCE_RESULT (R417). -/
def execAllReduceResult (m : Msg) (s : State) : Res :=
  .next (arDown (respond s m 0x10 0 0 0 0) m.vf m.sub m.sq m.opa 0)

/-- ALL_REDUCE_ABORT (R419). While the record of the sequence before waits for its place (R231), what the abort brings comes after
it. -/
def execAllReduceAbort (m : Msg) (s : State) : Res :=
  let s1 := respond s m 0x10 0 0 0 0
  match arFind s m.vf m.sub with
  | some a =>
    if a.toWrite.isSome && (a.n + 1) % 2 ^ 32 == m.sq % 2 ^ 32 then .next (arSet s1 { a with ends := true })
    else .next (arAbortHere s1 m.vf m.sub m.sq)
  | none => .next (arAbortHere s1 m.vf m.sub m.sq)

end Sys2Proof.Machine
end

