-- ==== Sys2Proof/Machine/Migration.lean ====
section
/-!
DEFINITION. Migration of a virtual function (R422 to R428): seals, pulls, page data, redirections.
-/
namespace Sys2Proof.Machine

/-! Page tables. -/

/-- The address of the leaf entry of a virtual address (R189). -/
def leafFrom (s : State) (va : Nat) : Nat → Nat → Nat → Option Nat
  | 0, _, _ => none
  | n + 1, l, table =>
    match hwRead s (table + 16 * walkIndex l va) 16 with
    | none => none
    | some e =>
      if nf e 0 1 = 0 then none
      else if nf e 1 1 = 1 then some (table + 16 * walkIndex l va)
      else leafFrom s va n (l + 1) (nf e 9 41 * 2 ^ 9)
def leafAt (s : State) (v va : Nat) : Option Nat := leafFrom s va 4 0 (rfld s (vmcfg v) 18 32 * 2 ^ 18)

/-- A leaf may be rewritten now: no Pump part is pending on it (R231). -/
def leafReady (s : State) (v va : Nat) : Bool :=
  match leafAt s v va with
  | some a => hwReady s a 8
  | none => true

/-- Rewrite a leaf's first word: MIG, HOME, and the frame where one is given. -/
def rewriteLeaf (s : State) (v va mig home : Nat) (frame : Option Nat) : State :=
  match leafAt s v va with
  | none => s
  | some a =>
    let w := setField (setField (mread8 s a) 12 3 mig) 44 14 home
    let w1 := match frame with
      | some f =>
        let t := (tierOf (f * 2 ^ 16)).getD 0
        setField (setField w 3 3 t) 16 28 (f - tierBase t / 2 ^ 16)
      | none => w
    hwPut8 s a w1

/-! The source (R425). -/

/-- Write BMAP's byte of a unit, behind the Pump parts pending there (R231). -/
def bmapPut (s : State) (v u : Nat) (x : Byte) : State :=
  let a := bmapAt s v u
  if hwReady s a 1 then hwPut s a [x] else hwBehind s a [x]

/-- Every unit of the range is sent: ALLSENT and event 0x12, once. -/
def allSent (s : State) (v : Nat) : State :=
  if !rbit s (migs v) 2 && unitsSent s v then
    postPlain (rsetF s (migs v) 2 1 1) 0x12 v (BitVec.ofNat 64 v) 0
  else s

/-- One message of a sealed frame's data; a granule that cannot be read is not sent (R183). -/
def sendPage (s : State) (x : Sealed) (i : Nat) : State :=
  let a := x.frame * 2 ^ 16 + 256 * i
  if (List.range 256).any fun j => badByte s (a + j) then s
  else
    sendReq s { msgBlank x.dest (moduleNo s) 0x24 with
        vf := x.v, len := 256, addr := x.dframe * 2 ^ 16 + 256 * i, data := BitVec.ofNat 2048 (natOfBytes (mreadN s a 256)) }
      (.page x.frame i) (.peer (moduleNo s) 65537)

/-- The key of a frame that waits to be sent, beside the 65,536 tags. -/
def frameTimer (f : Nat) : Nat := 65536 + f

/-- Send a sealed unit once everything accepted before the seal has been performed and no granule of it is pending. -/
def sendUnit (s : State) (x : Sealed) : State :=
  if ((List.range 256).any fun i => !(pendingAt s (x.frame * 2 ^ 16 + 256 * i)).isEmpty) || !leafReady s x.v (x.unit * 2 ^ 16) ||
      !hwReady s (bmapAt s x.v x.unit) 1 then
    after s 1 (.pagedataTimeout (frameTimer x.frame) 0)
  else
    let s1 := (List.range 256).foldl (fun s i => sendPage s x i)
      { s with mig := { s.mig with seals := s.mig.seals.map fun y => if y.frame == x.frame then { y with sent := true } else y } }
    let s2 := rewriteLeaf (bmapPut s1 x.v x.unit 2) x.v (x.unit * 2 ^ 16) 3 x.dest (some x.dframe)
    allSent s2 x.v

/-- PULL (R425): a unit of the range is sealed and sent; a sealed or sent one is sent again. -/
def execPull (m : Msg) (s : State) : Res :=
  let v := m.opb.toNat % 128
  let u := m.opa.toNat % 2 ^ 57 / 2 ^ 16
  let ok := rbit s (migs v) 0 && decide (rfld s (migs v + 8) 16 41 ≤ u) && decide (u < rfld s (migs v + 16) 16 41)
  if !ok then .next (respondError s m 11)
  else
    match s.mig.seals.find? fun x => x.v == v && x.unit == u with
    | some x => .next (sendUnit (respond s m 0x10 0 0 0 0) x)
    | none =>
      match walkEntry s v (u * 2 ^ 16) with
      | some (e, 0) =>
        let h := handleOf (u * 2 ^ 16) e 0
        if 2 ≤ hTier h || hTwin h || hMig h == 3 then .next (respondError s m 11)
        else
          let x : Sealed := { frame := handlePa h (u * 2 ^ 16) / 2 ^ 16, v := v, unit := u, dest := rfld s (migs v) 5 14,
                              dframe := m.addr / 2 ^ 16, sent := false }
          let s1 := bmapPut { s with mig := { s.mig with seals := s.mig.seals ++ [x] } } v u 1
          .next (after (respond s1 m 0x10 0 0 0 0) 1 (.pagedataTimeout (frameTimer x.frame) 0))
      | _ => .next (respondError s m 11)

/-- Send a message of page data again (R425). -/
def pageAgain (s : State) (frame i : Nat) : State :=
  match s.mig.seals.find? fun x => x.frame == frame with
  | some x => if rbit s (fencedMap + x.dest / 64 * 8) (x.dest % 64) then s else sendPage s x i
  | none => s

/-- PAGEDATA_TIMEOUT (R425): no ACK within RTO, or a sealed unit that waits to be sent. -/
def execPagedataTimeout (tag stamp : Nat) (s : State) : Res :=
  if 65536 ≤ tag then
    match s.mig.seals.find? fun x => frameTimer x.frame == tag with
    | some x => .next (if x.sent then s else sendUnit s x)
    | none => .next s
  else
    match tfind s.fab.outst tag with
    | some o =>
      match o.use, decide (o.stamp = stamp) with
      | .page f i, true =>
        .next (pageAgain (rincHold (setOutst s (tdel s.fab.outst tag)) (fabcfg + 24) 32 32) f i)
      | _, _ => .next s
    | none => .next s

/-- MIGS_CLOSE (R423). -/
def execMigsClose (v : Nat) (s : State) : Res :=
  if rbit s (migs v) 2 && rfld s (migs v + 32) 0 32 == 0 then .next (rsetF s (migs v) 4 1 1) else .next s

/-- The pair that a REDIRACK of a module for source VF v acknowledges: the one of the VF it is tagged with, else the module's oldest
(R428, R445; log 128). -/
def ackedPair (s : State) (v src vf : Nat) : Option (Nat × Nat × Nat) :=
  if s.mig.peers.contains (v, src, vf) then some (v, src, vf) else s.mig.peers.find? fun p => p.1 == v && p.2.1 == src

/-- REDIRACK (R428): a peer has rewritten its leaves; PEERS falls by one. -/
def execRedirack (m : Msg) (s : State) : Res :=
  let v := m.opa.toNat % 128
  let s1 := respond s m 0x10 0 0 0 0
  match ackedPair s1 v m.src m.vf with
  | some x =>
    .next (rsetF { s1 with mig := { s1.mig with peers := s1.mig.peers.filter fun p => p != x } } (migs v + 32) 0 32
      (rfld s1 (migs v + 32) 0 32 - 1))
  | none => .next s1

/-- REDIRACK_WRITE (R428): the entries of the source module and VF leave the cache, and OP 0x25 goes. -/
def execRedirackWrite (v : Nat) (c : Word64) (s : State) : Res :=
  let m := c.toNat % 2 ^ 14
  let sv := c.toNat / 2 ^ 14 % 128
  let s1 := { s with fab := { s.fab with redir := s.fab.redir.filter fun r => !(r.m == m && r.vf == sv) } }
  .next (sendReq s1 { msgBlank m (moduleNo s) 0x25 with vf := v, opa := BitVec.ofNat 64 sv } .redir
    (.peer (moduleNo s) 65538))

/-! The destination (R424, R425). -/

/-- What is held for a unit ends in error completions with a status (R425, R434). -/
def failHeld (s : State) (u : MigUnit) (status : Nat) : State :=
  let l := heldOf s u
  l.foldl (fun s id => match getTxn s id with
    | some t =>
      match t.src with
      | .peer m tag => respondError (delTxn s id) (t.asked s m tag) status
      | _ => partFails s id t 0x0A
    | none => s) (heldDrop s u.v l)

/-- The unit's source module is fenced: it is not installed (R425). -/
def srcFenced (s : State) (v : Nat) : Bool := let m := rfld s (migd v) 2 14; rbit s (fencedMap + m / 64 * 8) (m % 64)

/-- The unit is here: its leaf is settled, what was held for it goes on in arrival order. -/
def installUnit (s : State) (u : MigUnit) : State :=
  if srcFenced s u.v then s
  else if !leafReady s u.v (u.unit * 2 ^ 16) then after s 1 (.pullTimeout u.v u.unit u.stamp)
  else
  let l := heldOf s u
  let s0 := { s with mig := { s.mig with units := s.mig.units.filter fun x => !(x.v == u.v && x.unit == u.unit) } }
  let s1 := rewriteLeaf s0 u.v (u.unit * 2 ^ 16) 0 (moduleNo s) none
  let s2 := unhold s1 u.v l
  let n := (s2.mig.units.filter fun x => x.v == u.v).length
  let s3 := rsetF s2 (migd u.v + 24) 0 32 n
  if n = 0 then postPlain s3 0x13 u.v (BitVec.ofNat 64 u.v) 0 else s3

/-- PAGEDATA (R425): a unit that is already installed is not written again, nor one whose source is fenced. Data for a granule on which
a Pump part is pending is not yet written, and so not yet answered: the source sends it again. -/
def execPagedata (m : Msg) (s : State) : Res :=
  let s1 := respond s m 0x10 0 0 0 0
  let i := m.addr / 256 % 256
  let a := m.addr / 256 * 256
  match s1.mig.units.find? fun u => u.frame == m.addr / 2 ^ 16 with
  | none => .next s1
  | some u =>
    if srcFenced s u.v then .next s
    else if u.bits.getLsbD i then .next (if u.got = 256 then installUnit s1 u else s1)
    else if !hwReady s a 256 then .next s
    else
      let s2 := hwWriteHere s1 (cellsAt a (bytesOf m.data 256))
      let u1 := { u with bits := u.bits ||| BitVec.ofNat 256 (2 ^ i), got := u.got + 1 }
      let s3 := { s2 with mig := { s2.mig with units := s2.mig.units.map fun x => if x.v == u.v && x.unit == u.unit then u1 else x } }
      .next (if u1.got = 256 then installUnit s3 u1 else s3)

/-- PULL_TIMEOUT (R425): twice RTO has passed and the unit is not here. A unit whose data is all here waits for its leaf. -/
def execPullTimeout (v u stamp : Nat) (s : State) : Res :=
  match s.mig.units.find? fun x => x.v == v && x.unit == u && x.stamp == stamp && x.pulled with
  | some x =>
    .next (if srcFenced s v then s else if x.got = 256 then installUnit s x else sendPull s x)
  | none => .next s

/-- A PULL was answered with an error: outside the range, what is held ends; else it is sent again in time. -/
def pullError (s : State) (v u status : Nat) : State :=
  match s.mig.units.find? fun x => x.v == v && x.unit == u with
  | some x =>
    if status = 11 ∨ status = 1 then
      failHeld { s with mig := { s.mig with units := s.mig.units.map fun y => if y.v == v && y.unit == u then { y with pulled := false }
        else y } } x status
    else s
  | none => s

/-- MIGRATION_PREFETCH (R423): the lowest unit not yet pulled. -/
def execMigrationPrefetch (v : Nat) (s : State) : Res :=
  if rbit s (migd v) 0 && rbit s (migd v) 1 then
    match s.mig.units.find? fun u => u.v == v && !u.pulled with
    | some u =>
      let (d, s1) := drawIn (if srcFenced s v then s else sendPull s u) 1 Config.cyclesPerUs
      .next (after s1 d (.migrationPrefetch v))
    | none => .next s
  else .next s

end Sys2Proof.Machine
end

