-- ==== Sys2Proof/Machine/Answers.lean ====
section
/-!
DEFINITION. Responses and their absence (R404, R407, R410, R426), fencing (R405, R406).
-/
namespace Sys2Proof.Machine

/-- The ERROR status of a response; 14 and 15 are taken as 8 (R434). OPA[13:0] of status 10 holds DEST (R426): OPB[7:0]
says that it is 10 (log 21). -/
def errStatus (m : Msg) : Nat :=
  if m.opb.toNat % 256 = 10 then 10
  else
    let x := m.opa.toNat % 256
    if x = 14 ∨ x = 15 then 8 else x

/-! Fences. -/

def fenced (s : State) (m : Nat) : Bool := rbit s (fencedMap + m / 64 * 8) (m % 64)
def setFenced (s : State) (m : Nat) (b : Bool) : State := rsetF s (fencedMap + m / 64 * 8) (m % 64) 1 (if b then 1 else 0)

/-- Unfence a module: event 0x0E (R406). -/
def unfence (s : State) (m : Nat) : State :=
  if fenced s m then postPlain (setFenced s m false) 0x0E 0 (BitVec.ofNat 64 m) 0 else s

def upPorts (s : State) : List Nat := (List.range 47).filter (portUp s)

/-! Answers to what an entry was for. -/

/-- The entry's request has its answer. -/
def answered (s : State) (tag : Nat) (o : Outst) (r : Msg) : State :=
  let s1 := setOutst s (tdel s.fab.outst tag)
  let bad := r.op == 0x1F
  match o.use with
  | .txn id => txnAnswer s1 id o.orig o.m r
  | .probe m =>
    if bad then s1
    else
      let s2 := { s1 with fab := { s1.fab with probes := s1.fab.probes.filter fun p => p.1 != m } }
      if (upPorts s2).any fun p => portPeer s2 p == m then unfence s2 m else s2
  | .coll v i n => if bad then collError s1 v i n o.m.op o.m.dst else s1
  | .pull v u => if bad then pullError s1 v u (errStatus r) else s1
  | .page f i => if bad then pageAgain s1 f i else s1
  | .redir => s1

/-- An ERROR that the source itself makes for an entry. -/
def synthesise (s : State) (tag : Nat) (o : Outst) (status : Nat) : State :=
  answered s tag o { msgBlank (moduleNo s) o.m.dst 0x1F with tag := tag, opa := BitVec.ofNat 64 status }

/-- Send an entry's message again under its TAG, with a timer of its own, where its destination still passes the source's check (R405,
R456, R458). -/
def sendAgain (s : State) (tag : Nat) (o : Outst) : State :=
  if dstStatus s o.m.dst ≠ 0 then synthesise s tag o (dstStatus s o.m.dst)
  else
    let (stamp, s1) := fresh s
    sendMsg (after (setOutst s1 (tset s1.fab.outst tag { o with stamp := stamp })) (rtoCycles s) (.requestTimeout tag stamp)) o.m

/-- A write with a post whose bytes have moved is resent without it; its transaction posts when they have landed (R427). -/
def partPost (s : State) (o : Outst) : State × Msg :=
  match o.use, o.m.op == 3 || o.m.op == 8 with
  | .txn id, true =>
    (match getTxn s id with
     | some t => setTxn s id { t with post := if t.cnt = 0 then t.post else some (t.post.getD t.peer) }
     | none => s, { o.m with op := if o.m.op = 3 then 2 else 8, cnt := 0 })
  | _, _ => (s, o.m)

/-- A response reaches its entry: a moved frame is followed at most 4 times (R426), a retry is sent again (R410). -/
def response (s : State) (r : Msg) : State :=
  match tfind s.fab.outst r.tag with
  | none => s
  | some o =>
    match o.use, r.op == 0x1F, errStatus r with
    | .txn _, true, 9 => sendAgain s r.tag o
    | .txn _, true, 10 =>
      if 4 ≤ o.tries then answered s r.tag o r
      else
        let dest := r.opa.toNat % 2 ^ 14
        let dframe := r.opa.toNat / 2 ^ 16 % 2 ^ 34
        let s1 := redirectTo s o.m.dst (o.m.addr / 2 ^ 16) dest dframe o.m.vf r.vf
        let (s2, m) := partPost s1 o
        sendAgain s2 r.tag { o with m := { m with dst := dest, addr := dframe * 2 ^ 16 + o.m.addr % 2 ^ 16 }, tries := o.tries + 1 }
    | _, _, _ => answered s r.tag o r

/-- ACK (R409). -/
def execAck (m : Msg) (s : State) : Res := .next (response s m)
/-- DATA (R395). -/
def execData (m : Msg) (s : State) : Res := .next (response s m)
/-- ATOMIC_DATA (R395). -/
def execAtomicData (m : Msg) (s : State) : Res := .next (response s m)
/-- PROBEACK (R405, R406). -/
def execProbeack (m : Msg) (s : State) : Res := .next (response s m)
/-- ERROR (R407, R426). -/
def execError (m : Msg) (s : State) : Res := .next (response s m)

/-- REQUEST_TIMEOUT (R404): status 2. -/
def execRequestTimeout (tag stamp : Nat) (s : State) : Res :=
  match tfind s.fab.outst tag with
  | some o =>
    if o.stamp = stamp then .next (synthesise (rincHold s (fabcfg + 24) 32 32) tag o 2) else .next s
  | none => .next s

/-! Fencing a module (R405). -/

/-- Free the input buffers of n flits of a queued message (R388). -/
def freeBuf (s : State) (inp : Option (Nat × Nat)) (n : Nat) : State :=
  match inp with
  | some (p, ch) => modPort s p fun x => { x with freed := tset x.freed ch (tget 0 x.freed ch + n), owe := max x.owe 10 }
  | none => s

/-- A queued message is not sent: a request is answered with a status, a response is discarded (R405). -/
def dispose (s : State) (q : QMsg) (status : Nat) : State :=
  let s1 := freeBuf { s with fab := { s.fab with queue := s.fab.queue.filter fun x => x.id != q.id } } q.inp (msgFlits q.m - q.sent)
  if msgResp q.m then s1 else respondError s1 q.m status

/-- The messages that a transaction waiting to be injected still has to send are answered at once (R405). -/
def failInject (s : State) (id : Nat) : State :=
  match getTxn s id with
  | none => s
  | some t =>
    let n := (txnMsgs s t).length
    if n ≤ t.sent then s
    else msgAnswered s id { t with sent := n, left := t.left + 1, err := 0x0A, errs := t.errs ++ [0x0A] } []

/-- Act on a fence: the bit, the outstanding entries, the queued messages, the units that the module would have sent, the requests that
wait to be injected (R456). A
port still up to it is probed every 100 microseconds (R406). -/
def fence (s : State) (m : Nat) : State :=
  let s1 := setFenced s m true
  let s2 := (s1.fab.outst.filter fun e => e.2.m.dst == m).foldl (fun s e => synthesise s e.1 e.2 1) s1
  let s3 := (s2.fab.queue.filter fun q => q.m.dst == m && q.sent == 0 && q.m.op != 9 && q.m.op != 0x13).foldl
    (fun s q => if q.m.src = moduleNo s && !msgResp q.m then
        { s with fab := { s.fab with queue := s.fab.queue.filter fun x => x.id != q.id } }
      else dispose s q 1) s2
  let s4 := (s3.mig.units.filter fun u => rfld s3 (migd u.v) 2 14 == m).foldl (fun s u =>
    failHeld { s with mig := { s.mig with units := s.mig.units.map fun y => if y.v == u.v && y.unit == u.unit then { y with pulled := false }
      else y } } u 1) s3
  -- what waits to be injected, and the Ridge die's own requests that wait for the table
  let out (x : Msg) : Bool := (redirected s4 x).dst == m && x.op != 9
  let s5 := (s4.fab.inject.filter fun id => match getTxn s4 id with
    | some t => t.peer.isSome && !t.out && ((txnMsgs s4 t).drop t.sent).any out
    | none => false).foldl (fun s id => failInject s id) s4
  let own := s5.fab.waiting.filter fun w => out w.1
  let s6 := own.foldl (fun s w =>
    synthesise s 65536 { m := w.1, use := w.2.1, agent := w.2.2, orig := w.1.addr, stamp := 0, tries := 0 } 1)
    { s5 with fab := { s5.fab with waiting := s5.fab.waiting.filter fun w => !out w.1 } }
  ((upPorts s6).filter fun p => portPeer s6 p == m).foldl (fun s p => after s (100 * Config.cyclesPerUs) (.probePeriodic p)) s6

/-- Flood a notice on every up port. -/
def flood (s : State) (m : Nat) : State := (upPorts s).foldl (fun s p => emitOut s (.notice p m)) s

/-- FENCE_NOTICE (R405): the bit is set, acted on, and the notice passed on; also where it names this module. -/
def execFenceNotice (m : Nat) (s : State) : Res :=
  if fenced s m then .next s else .next (flood (fence s m) m)

/-- PROBE_TIMEOUT (R405): no PROBEACK within 10 microseconds. -/
def execProbeTimeout (m stamp : Nat) (s : State) : Res :=
  if s.fab.probes.contains (m, stamp) then
    let s1 := { s with fab := { s.fab with probes := s.fab.probes.filter fun p => p.1 != m } }
    if fenced s1 m then .next s1 else .next (postPlain (flood (fence s1 m) m) 0x0D 0 (BitVec.ofNat 64 m) 0)
  else .next s

/-- A PROBE for module m. -/
def probeMsg (s : State) (m : Nat) : Msg := msgBlank m (moduleNo s) 9

/-- Probe a peer by other routes (R405). -/
def probePeer (s : State) (m : Nat) : State :=
  if fenced s m || (s.fab.probes.any fun p => p.1 == m) then s
  else
    let (k, s1) := fresh s
    let s2 := sendReq { s1 with fab := { s1.fab with probes := s1.fab.probes ++ [(m, k)] } } (probeMsg s m) (.probe m)
      (.peer (moduleNo s) 65540)
    after s2 (10 * Config.cyclesPerUs) (.probeTimeout m k)

/-- Queue a message on one port. -/
def queueOn (p : Nat) (s : State) (m : Msg) : State :=
  let (id, s1) := fresh s
  addQueue s1 { id := id, m := m, port := some p, vc := 4 * msgCls m, sent := 0, seqs := [], head := 0, glob := false, inp := none }

/-- PROBE_PERIODIC (R406): a PROBE on an up port to a fenced module, once the table has room for it (R404). -/
def execProbePeriodic (port : Nat) (s : State) : Res :=
  let m := portPeer s port
  if portUp s port && fenced s m then
    if 65536 ≤ s.fab.outst.length then .next (after s 1 (.probePeriodic port))
    else .next (after (enterBy (queueOn port) s (probeMsg s m) (.probe m) (.peer (moduleNo s) 65540)) (100 * Config.cyclesPerUs)
      (.probePeriodic port))
  else .next s

/-- PROBE (R405): answered also to a module that is fenced here, so that it can be unfenced (R406). -/
def execProbe (m : Msg) (s : State) : Res := .next (sendMsg s { msgBlank m.src (moduleNo s) 0x13 with vf := m.vf, dl := m.dl, tag := m.tag })

end Sys2Proof.Machine
end

