-- ==== Sys2Proof/Machine/Control.lean ====
section
/-!
DEFINITION. The B unit (R136 to R143, R153, R347, R348) and the special registers (R18, R339, R340, R347).
-/
namespace Sys2Proof.Machine

/-- A taken branch (R33): the target course issues 3 cycles on, or in the next cycle for a near LOOP. -/
def branchTo (s : State) (target : Nat) (near : Bool) : State :=
  let now := nowOf s
  modIssuer s fun c =>
    { c with pc := target % 2 ^ 57 / 4 * 4, next := now + (if near then 1 else 3), bubble := !near }

/-- The bundle `off` bundles from the one that holds the syllable (R136). -/
def bundleAt (s : State) (off : Int) : Nat := (((s.iss.bundle : Int) + 16 * off) % (2 ^ 57 : Nat)).toNat

/-- NOP (R138). -/
def execNop (p : Syl) (s : State) : Res := issue p s fun s => .next s

/-- The outcome of the tree (R31). -/
def treeOutcome (shape : Nat) (t0 t1 t2 t3 : Bool) : Nat :=
  match shape with
  | 0 => if t0 then 0 else if t1 then 1 else if t2 then 2 else if t3 then 3 else 4
  | 1 => if t0 then (if t1 then 0 else 1) else if t2 then 2 else if t3 then 3 else 4
  | 2 => if t0 then (if t1 then 0 else 1) else if t2 then 2 else 3
  | _ => if t0 then (if t1 then 0 else if t2 then 1 else 2) else if t3 then 3 else 4

/-- The outcome of a BRT: 4 where its guard reads 0. -/
def brtOutcome (c : Ctx) (p : Syl) (o : BT) : Nat :=
  if c.rdP p.guard.val then
    treeOutcome o.shape.val (c.rdP o.t0.val) (c.rdP o.t1.val) (c.rdP o.t2.val) (c.rdP o.t3.val)
  else 4

/-- BRT (R31, R139). -/
def execBrt (p : Syl) (o : BT) (s : State) : Res :=
  issue p s fun s =>
    match brtOutcome (issuer s) p o with
    | 0 => .next (branchTo s (bundleAt s o.l0) false)
    | 1 => .next (branchTo s (bundleAt s o.l1) false)
    | 2 => .next (branchTo s (bundleAt s o.l2) false)
    | 3 => .next (branchTo s (bundleAt s o.l3) false)
    | _ => .next s

/-- BRC (R140). -/
def execBrc (p : Syl) (o : BC) (s : State) : Res :=
  issue p s fun s =>
    if (issuer s).rdP o.pc.val == o.v then .next (branchTo s (bundleAt s o.off) false) else .next s

/-- JMP (R140). -/
def execJmp (p : Syl) (off : Int) (s : State) : Res := issue p s fun s => .next (branchTo s (bundleAt s off) false)

/-- A branch to the byte address a (R140). -/
def jumpTo (p : Syl) (sa : Nat) (s : State) : Res :=
  issue p s fun s => .next (branchTo s ((issuer s).rdS sa).toNat false)
def execJmpi (p : Syl) (sa : Fin 64) (s : State) : Res := jumpTo p sa.val s
def execRet (p : Syl) (sa : Fin 64) (s : State) : Res := jumpTo p sa.val s

/-- CALL (R140): the link is the address just past the course. -/
def execCall (p : Syl) (sd : Fin 64) (off : Int) (s : State) : Res :=
  issue p s fun s => .next (branchTo (putS s sd.val (BitVec.ofNat 64 s.iss.next) 1) (bundleAt s off) false)

/-- A predicate by physical number lands a cycle on. -/
def putPhysP (s : State) (n : Nat) (x : Bool) : State := emit s (.p n) (if x then 1 else 0) 1 1 0
def putSr (s : State) (n x : Nat) : State := emit s (.sr n) (BitVec.ofNat 2048 x) 1 1 0

/-- LOOP (R36, R141): its updates become visible to the next course (R37). -/
def execLoop (p : Syl) (off : Int) (s : State) : Res :=
  issue p s fun s =>
    let c := issuer s
    let t : Int := (c.itr : Int) + c.stg - 1
    let e : Int := (c.eix : Int) + 1
    let rot := (c.rot + 1) % 16
    if e < t then
      let s1 := putSr (putSr s 7 (c.eix + 1)) 3 rot
      .next (branchTo (putPhysP s1 (physP rot 8) (decide (c.eix + 1 < c.itr))) (bundleAt s off)
        (decide (-16 ≤ off) && decide (off ≤ 0)))
    else if e = t then
      let s1 := putSr (putSr s 7 (c.eix + 1)) 3 rot
      .next ((List.range 8).foldl (fun s j => putPhysP s (physP rot (8 + j)) false) s1)
    else .next s

/-- LSET (R35, R142). -/
def execLset (p : Syl) (sa : Fin 64) (sm : Fin 8) (s : State) : Res :=
  issue p s fun s =>
    let n := ((issuer s).rdS sa.val).toNat % 2 ^ 32
    let s1 := putSr (putSr (putSr s 1 n) 2 (sm.val + 1)) 7 0
    .next ((List.range 7).foldl (fun s j => putP s (9 + j) false 1) (putP s1 8 (decide (0 < n)) 1))

/-- EXIT (R143). -/
def execExit (p : Syl) (s : State) : Res := issue p s fun s => .next (exitContext s s.iss.g)

/-- YIELD (R153): the selector passes over this context in the next cycle. -/
def execYield (p : Syl) (s : State) : Res :=
  issue p s fun s => .next (modCore s (coreOf s.iss.g) fun k => { k with yielded := some s.iss.g })

/-- TRAP (R347). -/
def execTrap (p : Syl) (code : Fin 256) (s : State) : Res :=
  issue p s fun s => trapNow s 0x09 (BitVec.ofNat 64 code.val)

/-- ERET (R348): waits for what the handler's earlier courses issued. -/
def execEret (p : Syl) (s : State) : Res :=
  issue p s fun s =>
    needSystem s (if ((issuer s).flight.take s.iss.old).isEmpty then
      .next (modIssuer s fun c => eretCtx c (isSteward s.iss.g) (nowOf s)) else stall s)

/-- HALT (R347). -/
def execHalt (p : Syl) (s : State) : Res :=
  issue p s fun s =>
    needSystem s (.next (postCtx { s with freezes := s.freezes ++ [s.iss.g] } s.iss.g 0x03
      (BitVec.ofNat 64 s.iss.pc) 0))

/-! Special registers. -/

/-- CTX (R18, R341). -/
def ctxReg (s : State) (g : Nat) : Word64 :=
  let m := moduleNo s * 2 ^ 12
  if isSteward g then
    let n := (g - 4096) / 4
    BitVec.ofNat 64 (g % 4 + (if n < 4 then n * 2 ^ 10 else 2 ^ 45) + m + 2 ^ 44)
  else
    BitVec.ofNat 64 (g % 4 + g / 4 % 4 * 2 ^ 2 + g / 16 % 64 * 2 ^ 4 + g / 1024 % 4 * 2 ^ 10 + m +
      (groupOf s g).vf * 2 ^ 32 + (groupOf s g).part * 2 ^ 39)

/-- The special register n as it stands (R18, R339, R340). -/
def srRead (s : State) (n : Nat) : Word64 :=
  let c := issuer s
  match n with
  | 0x000 => BitVec.ofNat 64 s.iss.pc
  | 0x001 => BitVec.ofNat 64 c.itr
  | 0x002 => BitVec.ofNat 64 c.stg
  | 0x003 => BitVec.ofNat 64 c.rot
  | 0x004 => c.fmode.zeroExtend 64
  | 0x005 => c.seed.zeroExtend 64
  | 0x006 => ctxReg s s.iss.g
  | 0x007 => BitVec.ofNat 64 c.eix
  | 0x010 => BitVec.ofNat 64 c.tvec
  | 0x011 => BitVec.ofNat 64 c.tpc
  | 0x012 => BitVec.ofNat 64 c.tnext
  | 0x013 => c.tcause
  | 0x014 => c.tinfo
  | 0x015 => c.tstat
  | 0x016 => c.tsav0
  | 0x017 => c.tsav1
  | 0x018 => c.tsav2
  | 0x019 => c.tsav3
  | 0x01A => BitVec.ofNat 64 c.csa
  | 0x01B => BitVec.ofNat 64 c.scyc
  | 0x01C => c.apinfo
  | _ => 0

/-- What user mode may name (R339). -/
def srUser (n : Nat) (write : Bool) : Bool := decide (n < 0x10) || (n == 0x1B && !write)

/-- MFSR (R347). -/
def execMfsr (p : Syl) (o : XS) (s : State) : Res :=
  issue p s fun s =>
    if system s || srUser o.srn false then .next (putS s o.s.val (srRead s o.srn) 1) else trapNow s 0x05 0

/-- MTSR (R347): a write of PC is a taken branch. -/
def execMtsr (p : Syl) (o : XS) (s : State) : Res :=
  issue p s fun s =>
    let a := (issuer s).rdS o.s.val
    if system s || srUser o.srn true then
      if o.srn = 0 then .next (branchTo s a.toNat false) else .next (emit s (.sr o.srn) (wide64 a) 1 1 0)
    else trapNow s 0x05 0

/-- TRIG (R371). -/
def execTrig (p : Syl) (n : Fin 256) (s : State) : Res :=
  issue p s fun s =>
    let d := dieOfCore (coreOf s.iss.g)
    if system s || (d < 4 && rbit s (trccfg d) 2) then
      let s1 := traceRec s s.iss.g 3 n.val s.iss.pc
      if d < 4 && (rbit s (trccfg d) 8 || rfld s (trccfg d) 9 8 == n.val) then .next (trigger s1 d) else .next s1
    else .next s

end Sys2Proof.Machine
end

