-- ==== Sys2Proof/Machine/LaunchEng.lean ====
section
/-!
DEFINITION. The launch engine of a core (R174, R307): CPYQ (R309), CADD and CSET (R312), SHDW (R317), LNCH (R174).
-/
namespace Sys2Proof.Machine

/-- Enter a command: the course waits while four are held (R307). -/
def lengPush (op : Instr) (a : Word64) (b : Word64) (pkt : Flit) (s : State) : Res :=
  let g := s.iss.g
  let core := coreOf g
  if lengFull s core then stall s
  else
    let c := issuer s
    let (id, s1) := fresh s
    let cmd : LCmd := { op := op, id := id, g := g, ipc := s.iss.pc, a := a, b := b, pkt := pkt, seq := c.reqSeq, sys := c.mode,
                        stage := 0, w := 0, txn := 0 }
    .next (modCore s1 core fun k => { k with leng := k.leng ++ [cmd] })

/-- A packet with its KIND set. -/
def withKind (x : VWord) (k : Nat) : Flit := (packetOf x &&& ~~~ (0xFF : Flit)) ||| BitVec.ofNat 512 k

/-- CPYQ (R309). -/
def execCpyq (p : Syl) (va : Fin 32) (sa : Fin 64) (s : State) : Res :=
  issue p s fun s =>
    let c := issuer s
    lengPush (.cpyq p va sa) (c.rdS sa.val) 0 (withKind (c.rdV va.val) 2) s

/-- LNCH (R174). -/
def execLnch (p : Syl) (va : Fin 32) (sa : Fin 64) (s : State) : Res :=
  issue p s fun s =>
    let c := issuer s
    lengPush (.lnch p va sa) (c.rdS sa.val) 0 (withKind (c.rdV va.val) 1) s

/-- A counter instruction (R312): its address is aligned. -/
def counterOp (p : Syl) (op : Instr) (o : MS) (s : State) : Res :=
  issue p s fun s =>
    let c := issuer s
    let a := c.rdS o.sa.val
    if a.toNat % 8 ≠ 0 then trapNow s 0x03 a else lengPush op a (c.rdS o.sb.val) (comp3 a (c.rdS o.sb.val) 0) s

def execCadd (p : Syl) (o : MS) (s : State) : Res := counterOp p (.cadd p o) o s
def execCset (p : Syl) (o : MS) (s : State) : Res := counterOp p (.cset p o) o s

/-- SHDW (R317). -/
def execShdw (p : Syl) (o : MS) (s : State) : Res :=
  issue p s fun s =>
    let c := issuer s
    let a := c.rdS o.sa.val
    if a.toNat / 16 % 2 ^ 12 ≠ 0 then trapFree s 0x03
    else lengPush (.shdw p o) a (c.rdS o.sb.val) (comp3 a (c.rdS o.sb.val) 0) s

/-! The engine. -/

def lengFind (s : State) (core id : Nat) : Option LCmd := (getCore s core).leng.find? fun c => c.id == id
def lengMod (s : State) (core id : Nat) (f : LCmd → LCmd) : State :=
  modCore s core fun k => { k with leng := k.leng.map fun c => if c.id = id then f c else c }
def lengDrop (s : State) (core id : Nat) : State :=
  modCore s core fun k => { k with leng := k.leng.filter fun c => c.id != id }

/-- The stage of a parked command. -/
def lengParked : Nat := 99

def LCmd.who (s : State) (c : LCmd) : Who := { g := c.g, vf := vfOf s c.g, sys := c.sys }

/-- A command fails (R349): it ends, or is parked. -/
def lengFail (s : State) (core : Nat) (c : LCmd) (cause : Nat) : State :=
  let (s1, parked) := report s (lengRecord s c.g c.ipc cause c.a.toNat c.pkt (some (lengKey core, c.id)))
  if parked then lengMod s1 core c.id fun c => { c with stage := lengParked, txn := 0 } else lengDrop s1 core c.id

/-- A part of a command through handle h. -/
def lengTxn (s : State) (core : Nat) (c : LCmd) (kind : TxnKind) (h : HWord) (pa len : Nat) : Txn :=
  { (Txn.base kind (.eng core c.id) { Req.blank with sys := c.sys, h := some h } (dieOfCore core) (vfOf s c.g) pa).through s c.g h with
    len := len, eng := true }

/-- Send a part in a slot of the cluster's engines (R184); the command goes to a stage in which it waits for it. -/
def lengSend (s : State) (core : Nat) (c : LCmd) (stage : Nat) (t : Txn) : State :=
  let (late, s0) := bookSlot s (cluOf core)
  let (d, s1) := drawLat s0 t
  let (s2, id) := sendTxn s1 t d late
  lengMod s2 core c.id fun c => { c with stage := stage, txn := id + 1 }

/-- The part that a command waits for, once it has been answered. -/
def lengAnswer (s : State) (c : LCmd) : Option (Nat × Txn) :=
  if c.txn = 0 then none
  else
    match getTxn s (c.txn - 1) with
    | some t => if t.out then some (c.txn - 1, t) else none
    | none => none

/-- The 8-byte word at byte j of a part's answer. -/
def Txn.word (t : Txn) (j : Nat) : Nat := natOfBytes ((List.range 8).map fun i => tget 0 t.raw (j + i))

/-- The descriptor of LNCH or CPYQ (R164, R174). -/
def lengDesc (s : State) (c : LCmd) : Except Nat (HWord × Nat) :=
  let w := c.who s
  let a := c.a.toNat
  if a % 64 ≠ 0 then .error 0x13
  else
    match engResolve s w { write := false, sh := false, n := 64 } none true a with
    | .error _ => .error 0x13
    | .ok h =>
      match engCheck s w { write := true, sh := false, n := 64 } 0x13 h (engVa s w true a) with
      | .error _ => .error 0x13
      | .ok _ => if 3 ≤ hTier h then .error 0x13 else .ok (h, engPa s w h true false a)

/-- Where a command that has sent nothing yet will begin: module, address, bytes. -/
def LCmd.place (s : State) (c : LCmd) : Option (Option Nat × Nat × Nat) :=
  let at_ (x : Except Nat (HWord × Nat)) (n : Nat) : Option (Option Nat × Nat × Nat) :=
    match x with
    | .ok (h, pa) => some (peerOf s h, pa, n)
    | .error _ => none
  match c.op with
  | .cadd _ _ => at_ (counterAt s (c.who s) true c.a.toNat) 8
  | .cset _ _ => at_ (counterAt s (c.who s) true c.a.toNat) 8
  | .lnch _ _ _ => at_ (lengDesc s c) 64
  | .cpyq _ _ _ => at_ (lengDesc s c) 64
  | _ => none

/-- An earlier command of the engine that has sent nothing yet begins at a common byte: the engine keeps its own order there
(R208, R209). -/
def lengBehind (s : State) (core : Nat) (c : LCmd) : Bool :=
  match c.place s with
  | none => false
  | some (m, a, n) => (getCore s core).leng.any fun e =>
      decide (e.id < c.id) && e.stage == 0 && match e.place s with
        | some (m', a', n') => m' == m && decide (a < a' + n') && decide (a' < a + n)
        | none => false

/-- Send a store of bytes at pa on the module of an answered part: the ring's words are local physical addresses of the
descriptor's module (R163). -/
def lengStore (s : State) (core : Nat) (c : LCmd) (stage : Nat) (t : Txn) (pa : Nat) (l : List Byte) : State :=
  lengSend s core c stage { t with kind := .store, pa := pa, len := l.length, wr := cellsAt pa l, rd := [], raw := [], out := false,
                                   held := false, twin := 0, red := 0, add := 0, err := 0 }

/-- The next stage of R164 after an answer: 1 the claim of a slot, 2 the look at the ring, 3 the words DW1 to DW7, 4 the
word DW0. -/
def appendNext (s : State) (core : Nat) (c : LCmd) (t : Txn) : State :=
  match c.stage with
  | 1 =>
    let c1 := { c with w := t.word 0 }
    lengSend (rdcInval (lengMod s core c.id fun _ => c1) t.die t.peer [t.pa]) core c1 2
      { t with kind := .load, rd := (List.range 32).map fun i => (t.pa + i, i), len := 32, raw := [], out := false, add := 0 }
  | 2 =>
    let ring := t.word 16 % 2 ^ 57
    let l := t.word 24 % 32
    if (c.w + 2 ^ 64 - t.word 8) % 2 ^ 64 < 2 ^ l then
      let slot := ring + 64 * (c.w % 2 ^ l)
      let c1 := { c with b := BitVec.ofNat 64 slot }
      lengStore (lengMod s core c.id fun _ => c1) core c1 3 t (slot + 8) ((bytesOf c.pkt 64).drop 8)
    else
      -- the line the die's cache may hold leaves, so that each look reads the descriptor's home (log 110)
      lengSend (rdcInval s t.die t.peer [t.pa]) core c 2
        { t with raw := [], out := false, rd := (List.range 32).map fun i => (t.pa + i, i) }
  | 3 => lengStore s core c 4 t c.b.toNat ((bytesOf c.pkt 64).take 8)
  | _ => lengDrop s core c.id

/-- LAUNCH_ENGINE_APPEND (R164, R174, R309): a stage of an append begins or ends. A failing claim or look at the descriptor has cause
0x13, a failing store into the ring its own (DESIGN CHOICE, log 57). -/
def execLaunchEngineAppend (core id : Nat) (s : State) : Res :=
  match lengFind s core id with
  | none => .next s
  | some c =>
    if c.stage = 0 then
      if !earlierDone s c.g c.seq || lengBehind s core c then .next s
      else
        match lengDesc s c with
        | .error e => .next (lengFail s core c e)
        | .ok (h, pa) => .next (lengSend s core c 1 { lengTxn s core c .atomic h pa 8 with add := 1 })
    else
      match lengAnswer s c with
      | none => .next s
      | some (tid, t) =>
        if t.err ≠ 0 then .next (lengFail (delTxn s tid) core c (if c.stage < 3 then 0x13 else t.err))
        -- for a queue on another module the word DW0 is a release at .dom scope (R223)
        else if c.stage = 3 && t.peer.isSome && dieStores s (dieOfCore core) then .next s
        else .next (appendNext (delTxn s tid) core c t)

/-- A counter's command: begin, or end with its answer. -/
def counterStep (core id : Nat) (begin' : LCmd → HWord → Nat → Txn) (ready : LCmd → Bool) (s : State) : Res :=
  match lengFind s core id with
  | none => .next s
  | some c =>
    if c.stage = 0 then
      if !earlierDone s c.g c.seq || !ready c || lengBehind s core c then .next s
      else
        match counterAt s (c.who s) true c.a.toNat with
        | .error e => .next (lengFail s core c e)
        | .ok (h, pa) => .next (lengSend s core c 1 (begin' c h pa))
    else
      match lengAnswer s c with
      | none => .next s
      | some (tid, t) =>
        if t.err ≠ 0 then .next (lengFail (delTxn s tid) core c t.err) else .next (lengDrop (delTxn s tid) core id)

/-- COUNTER_ADD_PERFORM (R312): a release of all memory at .dom scope. -/
def execCounterAddPerform (core id : Nat) (s : State) : Res :=
  counterStep core id (fun c h pa => { lengTxn s core c .atomic h pa 8 with add := c.b.toNat })
    (fun _ => !dieStores s (dieOfCore core)) s

/-- COUNTER_SET_PERFORM (R312): an ordinary store. -/
def execCounterSetPerform (core id : Nat) (s : State) : Res :=
  counterStep core id (fun c h pa => { lengTxn s core c .store h pa 8 with wr := cellsAt pa (bytesOf c.b 8) })
    (fun _ => true) s

/-- The object to which the first region of va is bound, as a local physical address of this module (R274, R317). -/
def shdwObject (s : State) (w : Who) (va : Nat) : Option Nat :=
  let o := boundObj s w.vf va
  if o = 0 then none
  else
    let h := translate s w.steward w.vf o
    if hBit h 0 && !hBit h 2 && homeMod s h == moduleNo s && decide (hTier h < 3) then
      some (engPa s w h false false o)
    else none

/-- The pages that SHDW registers: page size code, FRAME of the first; none where a check of R317 fails. -/
def shdwCheck (s : State) (w : Who) (va npg i : Nat) : Option (Nat × Nat) :=
  let h0 := translate s w.steward w.vf va
  let psz := hPage h0
  let base := handlePa h0 va
  let good := (List.range npg).all fun j =>
    let h := translate s w.steward w.vf (va + j * psz)
    let fr := handlePa h (va + j * psz)
    hBit h 0 && !hBit h 2 && hTwin h && hPage h == psz && homeMod s h == moduleNo s && fr == base + 2 * j * psz &&
    (List.range 16).all fun k =>
      k == i || !rbit s (twr w.vf k) 0 ||
      (let (b, n) := twrRange s w.vf k
       decide (fr + 2 * psz ≤ b) || decide (b + n ≤ fr))
  if va % psz = 0 ∧ good then some (hf h0 11 2, base) else none

/-- SHDW_PERFORM (R317). -/
def execShdwPerform (core id : Nat) (s : State) : Res :=
  match lengFind s core id with
  | none => .next s
  | some c =>
    if c.stage = lengParked || !earlierDone s c.g c.seq then .next s
    else
      let w := c.who s
      let i := c.a.toNat % 16
      let va := c.a.toNat / 2 ^ 16 % 2 ^ 41 * 2 ^ 16
      let npg := c.b.toNat % 2 ^ 20
      let r := twr w.vf i
      if npg = 0 then .next (lengDrop (rsetF s r 0 1 0) core id)
      else
        match shdwCheck s w va npg i, shdwObject s w va with
        | some (psz, base), some obj =>
          let s1 := rset s r (BitVec.ofNat 64 (1 + psz * 4))
          let s2 := rset (rset (rset s1 (r + 8) (BitVec.ofNat 64 base)) (r + 16) (BitVec.ofNat 64 npg)) (r + 24) (BitVec.ofNat 64 obj)
          .next (lengDrop s2 core id)
        | _, _ => .next (lengFail s core c 8)

end Sys2Proof.Machine
end

