-- ==== Sys2Proof/Machine/Groups.lean ====
section
/-!
DEFINITION. Launches and groups: packets and occupancy records (R160 to R162), the dispatcher (R165 to R167, R365), the
start of a context (R20, R169, R306, R341), the steward queues (R342), retirement and completion (R168, R170).
-/
namespace Sys2Proof.Machine

/-! Packets. -/

def pkPrio (p : Flit) : Nat := pfld p 0 8 2
def pkOverlap (p : Flit) : Bool := pfld p 0 10 1 == 1
def pkOrdered (p : Flit) : Bool := pfld p 0 11 1 == 1
def pkCpc (p : Flit) : Nat := pfld p 0 16 2 + 1
def pkCores (p : Flit) : Nat := pfld p 0 18 2 + 1
def pkBars (p : Flit) : Nat := pfld p 0 20 5
def pkScr (p : Flit) : Nat := 16 * pfld p 0 32 18
def pkCode (p : Flit) : Nat := pfld p 1 0 57
def pkGx (p : Flit) : Nat := pfld p 2 0 32
def pkGy (p : Flit) : Nat := pfld p 2 32 16
def pkGz (p : Flit) : Nat := pfld p 2 48 16
def pkGroups (p : Flit) : Nat := pkGx p * pkGy p * pkGz p
def pkOcc (p : Flit) : Nat := pfld p 3 0 57
/-- SHAPE of a save area's header (R359). -/
def pkShape (p : Flit) : Nat := pfld p 0 32 18 + pkBars p * 2 ^ 18 + pfld p 0 16 2 * 2 ^ 23 + pfld p 0 18 2 * 2 ^ 25
def pkCounter (p : Flit) : Nat := pfld p 5 0 57

/-- Validity (R161); a steward's launch has one context (R342). -/
def launchValid (p : Flit) (steward : Bool) : Bool :=
  pfld p 0 0 8 == 1 && pfld p 0 12 4 == 0 && pfld p 0 25 7 == 0 && pfld p 0 50 14 == 0 && pfld p 1 57 7 == 0 &&
  pfld p 3 57 7 == 0 && pfld p 5 57 7 == 0 && pfld p 6 32 32 == 0 && pfld p 7 0 64 == 0 &&
  decide (pkCpc p * pkCores p ≤ 16) && decide (pfld p 0 32 18 ≤ 131072) && decide (pkBars p ≤ 16) && pkGx p != 0 &&
  pkGy p != 0 && pkGz p != 0 && pkCode p % 16 == 0 && pkOcc p % 8 == 0 && pkCounter p % 8 == 0 && pfld p 6 0 32 != 0 &&
  (!steward || pkCpc p * pkCores p == 1)

/-- The occupancy record is within its limits (R162, R278). -/
def occOk (x : Nat) : Bool :=
  decide (nf x 0 6 ≤ 32) && decide (nf x 8 6 ≤ 32) && decide (nf x 16 5 ≤ 16) && decide (nf x 24 6 ≤ 32) &&
  decide (nf x 32 8 ≤ 255) && nf x 6 2 == 0 && nf x 14 2 == 0 && nf x 21 3 == 0 && nf x 30 2 == 0 && nf x 40 24 == 0

/-! Queues: 0 to 255 the launch queues, 256 + n the steward queues. -/

def lqReg (q : Nat) : Nat := if q < 256 then lqcfg q else sqcfg (q - 256)
def lqDesc (s : State) (q : Nat) : Nat := rfld s (lqReg q) 6 51 * 64
def lqVf (s : State) (q : Nat) : Nat := if q < 256 then rfld s (lqReg q) 57 7 else 0
def lqPart (s : State) (q : Nat) : Nat := if q < 256 then rfld s (lqReg q) 1 5 else 0
/-- The context number that stands for a queue's own accesses: a steward's are untranslated (R342). -/
def lqWho (s : State) (q : Nat) : Who :=
  { g := if q < 256 then noCtx else 4096 + 4 * (q - 256) + 1, vf := lqVf s q, sys := !decide (q < 256) }

def lqName (s : State) (q : Nat) : QName :=
  { reg := lqReg q, kind := if q < 256 then 0 else 2, q := q % 256, vf := lqVf s q }

/-- Read n bytes at va through the queue's VF (R170): here at once, from a peer over the fabric. `exec` asks for a page
that may be executed. -/
def dispRead (s : State) (q va n : Nat) (exec : Bool) : Fetch :=
  let w := lqWho s q
  let h := engHandle s w false va
  let ok := hBit h 0 && !hBit h 2 && hBit h 3 && (if exec then hBit h 9 else hBit h 7) && permOk h false false w.sys w.steward w.vf &&
    hTier h != 3
  let pa := engPa s w h false false va
  if !ok then .bad
  else
    if (peerOf s h).isNone && !migFrame s pa then
      let a := if hTwin h then twinPa s w.vf pa (hPage h) false else pa
      let l := (List.range n).map (a + ·)
      if l.any (badByte s) || (!w.steward && !partOk s w.vf a) then .bad
      else if !hwReady s a n then .wait s
      else .bytes (natOfBytes (l.map (mread s)))
    else
      match s.disp.got.find? fun x => x.1 == q && x.2.1 == va with
      | some (_, _, some b) => .bytes (b.toNat % 2 ^ (8 * n))
      | some (_, _, none) => .bad
      | none =>
        if s.txns.any fun e => e.2.src == .disp q && e.2.orig == va && e.2.kind == .load then .wait s
        else
          let t := { (Txn.base .load (.disp q) { Req.blank with h := some h } 4 w.vf pa).through s w.g h with
                     rd := (List.range n).map fun i => (pa + i, i), len := n, orig := va }
          .wait (sendTxn s t 1).1

/-- What validation finds: 0, an error of R163, or that a read is still on its way. Of several errors the first found counts: the
packet's, the occupancy record's, the code's (DESIGN CHOICE, log 111). -/
def validate (s : State) (q : Nat) (p : Flit) : Nat × Option State :=
  if !launchValid p (decide (256 ≤ q)) then (1, none)
  else
    match dispRead s q (pkOcc p) 8 false with
    | .wait s1 => (0, some s1)
    | .bad => (3, none)
    | .bytes x =>
      if !occOk x then (2, none)
      else
        match dispRead s q (pkCode p) 16 true with
        | .wait s1 => (0, some s1)
        | .bad => (4, none)
        | .bytes _ => (0, none)

/-- A queue that stops: its next launch is the first after it is resumed (R166). -/
def firstNext (s : State) (q : Nat) : State := { s with disp := { s.disp with fresh := tset s.disp.fresh q true } }

/-- The launches of a queue in the table, oldest first. -/
def launchesOf (s : State) (q : Nat) : List (Nat × Launch) := s.launches.filter fun l => l.2.q == q
def Launch.total (l : Launch) : Nat := pkGroups l.pkt
/-- Launches of R165: taken and not completed, of the launch queues. -/
def tableFull (s : State) : Bool := decide (64 ≤ (s.launches.filter fun l => decide (l.2.q < 256)).length)

/-- The queue may begin a new launch (R166): its predecessor, the launch accepted before it, has left the table, or has had its last
group dispatched. A launch whose add is not yet made has not completed (DESIGN CHOICE, log 112). -/
def mayBegin (s : State) (q : Nat) (p : Flit) : Bool :=
  match (tfind s.disp.pred q).bind (tfind s.launches) with
  | none => true
  | some l => pkOverlap p && !tget false s.disp.fresh q && l.next == l.total

/-- Step 4 of R165: validate a launch that has been taken. Refused, it leaves the table and its queue stops (R170). -/
def checkLaunch (s : State) (lid : Nat) (l : Launch) : State :=
  let d := lqDesc s l.q
  match validate s l.q l.pkt with
  | (_, some s1) => s1
  | (0, none) =>
    let s1 := dispForget s l.q
    { s1 with launches := tset s1.launches lid { l with checked := true },
              disp := { s1.disp with pred := tset s1.disp.pred l.q lid } }
  | (err, none) =>
    if !hwReady s d 64 then s
    else firstNext (queueStop { dispForget s l.q with launches := tdel s.launches lid } (lqName s l.q) d err l.ridx) l.q

/-- Take the packet at RIDX of queue q (R165): copy it, clear its KIND, advance RIDX, validate it. -/
def takePacket (s : State) (q : Nat) : State :=
  let d := lqDesc s q
  match queuePeek s (lqName s q) d with
  | .idle => s
  | .wait t => t
  | .unusable => firstNext (queueUnusable s (lqName s q)) q
  | .stop err idx => firstNext (queueSkip s (lqName s q) d err idx) q
  | .slot p idx a =>
    if !mayBegin s q p then s
    else
      let (lid, s1) := fresh s
      let l : Launch := { q := q, ridx := idx, pkt := p, vf := lqVf s q, part := lqPart s q, next := 0, retired := 0,
                          done := false, dead := false, checked := false }
      checkLaunch (queueTake { s1 with launches := tset s1.launches lid l, disp := { s1.disp with fresh := tdel s1.disp.fresh q } }
        (lqName s q) d idx a) lid l

/-- The launch of a queue that is being validated. -/
def unchecked (s : State) (q : Nat) : Option (Nat × Launch) := (launchesOf s q).find? fun l => !l.2.checked

/-- LAUNCH_PACKET_TAKE (R165, R166): a launch that has been taken is validated before another is looked at. -/
def execLaunchPacketTake (q : Nat) (s : State) : Res :=
  .next (match unchecked s q with
    | some (lid, l) => checkLaunch s lid l
    | none => if q < 256 && rbit s (lqcfg q) 0 && !tableFull s then takePacket s q else s)

/-! Placement. -/

/-- The contexts of a core that are free. -/
def freeCtxs (s : State) (core : Nat) : List Nat :=
  ((List.range 4).map (ctxBase core + ·)).filter fun g => (getCtx s g).phase == .free

/-- The groups on a cluster. -/
def groupsOn (s : State) (clu : Nat) : List (Nat × Group) := s.groups.filter fun e => e.2.cluster == clu
def roundKib (n : Nat) : Nat := (n + 1023) / 1024 * 1024
/-- The lowest start of a free range of n bytes (R154): 0 or the end of an allocation. -/
def freeRange (s : State) (clu n : Nat) : Option Nat :=
  let used := (groupsOn s clu).map fun e => (e.2.base, roundKib e.2.size)
  let fits (b : Nat) : Bool := decide (b + roundKib n ≤ 2 ^ 21) &&
    used.all fun u => decide (b + roundKib n ≤ u.1) || decide (u.1 + u.2 ≤ b) || n == 0
  (0 :: used.map fun u => u.1 + u.2).foldl (fun (best : Option Nat) b =>
    if fits b then (match best with
      | some x => some (min x b)
      | none => some b) else best) none
def freeSlots (s : State) (clu : Nat) : List Nat := (List.range 16).filter fun k => (tfind (getClu s clu).bars k).isNone

/-- Where the candidate fits on a cluster (R167 steps 4 and 5): contexts, base, slots. -/
def fitOn (s : State) (clu : Nat) (p : Flit) (vf : Nat) : Option (List Nat × Nat × List Nat) :=
  let cores := ((List.range 4).map (4 * clu + ·)).filter fun k => decide (pkCpc p ≤ (freeCtxs s k).length)
  let slots := freeSlots s clu
  if cores.length < pkCores p || slots.length < pkBars p || (groupsOn s clu).any fun e => e.2.vf != vf then none
  else
    match freeRange s clu (pkScr p) with
    | none => none
    | some b => some ((cores.take (pkCores p)).flatMap fun k => (freeCtxs s k).take (pkCpc p), b, slots.take (pkBars p))

/-- The start of a context (R20, R169, R306, R339, R341). -/
def startCtx (s : State) (gid : Nat) (gr : Group) (p : Flit) (rank g : Nat) : Ctx :=
  let st := isSteward g
  let x := gr.index % pkGx p
  let y := gr.index / pkGx p % pkGy p
  let z := gr.index / (pkGx p * pkGy p)
  let s8 := (if st then stewAlias else cluBase gr.cluster) + gr.base
  let w (n : Nat) : Word64 := BitVec.ofNat 64 n
  { Ctx.reset with
    phase := .resident, pc := pkCode p, gid := gid, mode := st, gens := seedGens 0,
    tvec := if st then 0 else rfld s (vfctl gr.vf + 8) 0 57,
    next := localTime s (coreOf g) + 1,
    s := [w (pfld p 4 0 64), w x, w y, w z, w gr.index, w rank, w (pkCpc p * pkCores p), w s8].zipIdx.foldl
      (fun t v => tput 0 t (v.2 + 1) v.1) [] }

/-- Place a group whole (R167, R156). Its first course follows the acquire with which the packet was read (R223). -/
def placeGroup (s : State) (lid : Nat) (l : Launch) (clu : Nat) (fit : List Nat × Nat × List Nat) : State :=
  let (gid, s1) := fresh s
  let gr : Group := { cluster := clu, lid := lid, index := l.next, ctxs := fit.1, base := fit.2.1, size := pkScr l.pkt,
                      slots := fit.2.2, vf := l.vf, part := l.part, code := pkCode l.pkt, codelen := pfld l.pkt 6 0 32,
                      shape := pkShape l.pkt, dead := false }
  let s2 := { s1 with groups := tset s1.groups gid gr, launches := tset s1.launches lid { l with next := l.next + 1 } }
  let s3 := fit.1.zipIdx.foldl (fun s x => setCtx s x.1 (startCtx s gid gr l.pkt x.2 x.1)) s2
  modClu (rdcAcquireAll s3 (dieOfClu clu) l.vf) clu fun c =>
    { c with bars := fit.2.2.foldl (fun b k => tset b k { gid := gid, exp := fit.1.length, arr := 0, phase := false }) c.bars }

/-- The clusters of a partition (R163, R362). -/
def partClusters (s : State) (part : Nat) : List Nat :=
  (List.range 256).filter fun c => !rbit s isocfg 0 || (rbit s (partReg part + 8) 40 && rbit s (partReg part) (c / 8))
/-- The cluster of a partition that received the last group, so that a group of another partition does not move it (R167, R261;
DEDUCED, log 139). -/
def partKey (s : State) (part : Nat) : Nat := if rbit s isocfg 0 then part else 0
def lastClu (s : State) (part : Nat) : Nat := tget 255 s.disp.lastC (partKey s part)
/-- A list turned so that it begins after x. -/
def afterIn (l : List Nat) (x : Nat) : List Nat := (l.filter fun y => decide (x < y)) ++ l.filter fun y => decide (y ≤ x)

/-- The eligible queues in the order of step 2: the oldest launch of each that has groups left. A launch in the table goes on after EN
of its queue is cleared (DESIGN CHOICE, log 113). -/
def eligible (s : State) : List (Nat × Launch) :=
  let cand := (List.range 256).filterMap fun q => (launchesOf s q).find? fun l => decide (l.2.next < l.2.total) && l.2.checked
  [3, 2, 1, 0].flatMap fun prio =>
    let mine := cand.filter fun l => pkPrio l.2.pkt == prio
    (afterIn (mine.map (·.2.q)) (tget 255 s.disp.lastQ prio)).filterMap fun q => mine.find? fun l => l.2.q == q

/-- The start is done: launches may be dispatched (R447, R449). -/
def started (s : State) : Bool := rfld s startst 0 3 == 7

/-- DISPATCH_STEP (R167): at most one group. -/
def execDispatchStep (s : State) : Res :=
  if decide (s.clock < s.disp.lastAt + 2) || !started s then .next s
  else
    match (eligible s).findSome? fun l =>
      (afterIn (partClusters s l.2.part) (lastClu s l.2.part)).findSome? fun c => (fitOn s c l.2.pkt l.2.vf).map fun f => (l, c, f) with
    | none => .next s
    | some (l, c, f) =>
      let s1 := placeGroup s l.1 l.2 c f
      let d := { s1.disp with lastQ := tset s1.disp.lastQ (pkPrio l.2.pkt) l.2.q, lastAt := s.clock }
      .next { s1 with disp := { d with lastC := tset s1.disp.lastC (partKey s l.2.part) c } }

/-- Place the next group of a steward core's launch on the lowest free context of 1 to 3 (R342). -/
def stewardPlace (s : State) (n lid : Nat) (l : Launch) : State :=
  let core := 1024 + n
  let clu := cluOf core
  match (freeCtxs s core).filter fun g => g % 4 != 0, freeRange s clu (pkScr l.pkt) with
  | g :: _, some b =>
    let slots := freeSlots s clu
    if slots.length < pkBars l.pkt then s else placeGroup s lid l clu ([g], b, slots.take (pkBars l.pkt))
  | _, _ => s

/-- STEWARD_PACKET_TAKE (R342): the launch in hand places its next group, or the next packet is taken. -/
def execStewardPacketTake (n : Nat) (s : State) : Res :=
  let q := 256 + n
  match launchesOf s q with
  | (lid, l) :: _ =>
    .next (if !l.checked then checkLaunch s lid l else if l.next < l.total && started s then stewardPlace s n lid l else s)
  | [] => .next (if n < 5 && rbit s (sqcfg n) 0 then takePacket s q else s)

/-! Retirement. -/

/-- Nothing of a context's requests and engine work is left (R168), nor a record that waits for room in its ring (R351, R352). -/
def ctxDone (s : State) (g : Nat) : Bool :=
  let c := getCtx s g
  let k := getCore s (coreOf g)
  c.phase == .exited && c.laq.isEmpty && c.uncounted.isEmpty && k.rels.all (fun r => r.g != g) &&
  k.leng.all (fun l => l.g != g) && k.mq.all (fun m => m.g != g) && k.susp.all (fun r => r.cmd.g != g) &&
  (match k.run with
   | some r => r.cmd.g != g
   | none => true) &&
  (match k.busyCmd with
   | some m => m.g != g
   | none => true) &&
  (s.chans.all fun x => x.2.all fun m => m.g != g) && s.txns.all (fun e => e.2.src != .ctx g) && !pumpQueued s g &&
  s.faults.wait.all (fun r => r.g != some g)

/-- End every subscription to a stream and free its slot (R279, R319). -/
def freeStream (s : State) (x : Nat × Nat) : State :=
  let st := getStream s x
  let s1 := st.subs.foldl (fun s u =>
    modCtx s u.g fun c => c.setShadow (8 + u.port) (setField (c.rdShadow (8 + u.port)) 12 1 0)) s
  modClu s1 x.1 fun u => { u with streams := tdel u.streams x.2 }

/-- The group's resources return to the free pool. -/
def freeGroup (s : State) (gid : Nat) : State :=
  let gr := getGroup s gid
  let s1 := gr.slots.foldl (fun s k => freeStream s (gr.cluster, k)) s
  let s2 := modClu s1 gr.cluster fun c => { c with bars := gr.slots.foldl (fun b k => tdel b k) c.bars }
  let s3 := gr.ctxs.foldl (fun s g => setCtx s g Ctx.reset) s2
  { s3 with groups := tdel s3.groups gid }

/-- GROUP_RETIRE (R168, R354). -/
def execGroupRetire (gid : Nat) (s : State) : Res :=
  match tfind s.groups gid with
  | none => .next s
  | some gr =>
    if !(gr.ctxs.all (ctxDone s)) then .next s
    else
      let s1 := freeGroup s gid
      match tfind s1.launches gr.lid with
      | none => .next s1
      | some l =>
        let l1 := { l with retired := l.retired + 1, dead := l.dead || gr.dead }
        let s2 := { s1 with launches := tset s1.launches gr.lid l1 }
        .next (if l1.retired = l1.total && !l1.dead then after s2 0 (.launchComplete gr.lid) else s2)

/-- An earlier launch of the same queue has not made its add (R168). -/
def addsBefore (s : State) (lid : Nat) (l : Launch) : Bool := s.launches.any fun x => decide (x.1 < lid) && x.2.q == l.q

def dropLaunch (s : State) (lid : Nat) : State := { s with launches := tdel s.launches lid }
/-- The add could not be made: ERR 7 (R168), once no Pump part is pending on the descriptor (R231). -/
def addFailed (s : State) (lid : Nat) (l : Launch) : State :=
  let d := lqDesc s l.q
  if hwReady s d 64 then dropLaunch (firstNext (queueStop s (lqName s l.q) d 7 l.ridx) l.q) lid
  else after s 1 (.launchComplete lid)

/-- The add's answer, if it has come. -/
def addAnswer (s : State) (lid : Nat) : Option (Nat × Txn) :=
  s.txns.find? fun e => e.2.src == .disp lid && e.2.kind == .atomic && e.2.out

/-- LAUNCH_COMPLETE (R168): the add at COUNTER, an atomic at its home; then the launch leaves the table. A COUNTER in tier 3 cannot be
added to: ERR 7 (DESIGN CHOICE, log 114). -/
def execLaunchComplete (lid : Nat) (s : State) : Res :=
  match tfind s.launches lid with
  | none => .next s
  | some l =>
    if l.done then
      match addAnswer s lid with
      | none => .next s
      | some (tid, t) =>
        .next (if t.err = 0 then dropLaunch (delTxn s tid) lid
          else if hwReady s (lqDesc s l.q) 64 then addFailed (delTxn s tid) lid l else s)
    else if l.retired ≠ l.total || l.dead then .next s
    else if (pkOrdered l.pkt && addsBefore s lid l) || (List.range 4).any (dieStores s) then
      .next (after s 1 (.launchComplete lid))
    else if pkCounter l.pkt = 0 then .next (dropLaunch s lid)
    else
      let w := lqWho s l.q
      match engResolve s { w with vf := l.vf } { write := true, sh := false, n := 8 } none false (pkCounter l.pkt) with
      | .error _ => .next (addFailed s lid l)
      | .ok h =>
        if hTier h == 3 then .next (addFailed s lid l)
        else
          let pa := engPa s w h false false (pkCounter l.pkt)
          let t := { (Txn.base .atomic (.disp lid) { Req.blank with h := some h } 4 l.vf pa).through s w.g h with len := 8, add := 1, eng := true }
          .next { (sendTxn s t 400).1 with launches := tset (sendTxn s t 400).1.launches lid { l with done := true } }

end Sys2Proof.Machine
end

