-- ==== Sys2Proof/Machine/Streams.lean ====
section
/-!
DEFINITION. Operand streams (R277 to R279, R319 to R321): SDEF, SSUB, SFEED, SREL.
-/
namespace Sys2Proof.Machine

/-- The stream slot that the issuing context's group names sid. -/
def issuerSlot (s : State) (sid : Nat) : Nat × Nat :=
  ((groupOf s s.iss.g).cluster, (groupOf s s.iss.g).slots.getD sid 16)

/-- SDEF (R319): the stream starts at entry 0. -/
def execSdef (p : Syl) (sid : Fin 16) (s : State) : Res :=
  withSlot p sid.val s fun s =>
    let x := issuerSlot s sid.val
    if (getStream s x).defined then stall s
    else
      let g := s.iss.g
      let s1 := modStream s x fun _ => { Stream.free with gid := (getCtx s g).gid, defined := true, ctx := g }
      .next (modCtx s1 g fun c => c.setShadow (0x10 + sid.val) (BitVec.ofNat 64 (2 ^ 40)))

/-- The stream to which port x of context g is subscribed: its slot, the stream, the subscription. -/
def findSub (s : State) (g port : Nat) : Option ((Nat × Nat) × Stream × Sub) :=
  let gr := groupOf s g
  gr.slots.findSome? fun k =>
    let st := getStream s (gr.cluster, k)
    (st.subs.find? fun u => u.g == g && u.port == port).map fun u => ((gr.cluster, k), st, u)

/-- Entries that every subscriber has popped are no longer held. -/
def Stream.trim (st : Stream) : Stream :=
  match st.subs with
  | [] => st
  | u :: r =>
    let low := r.foldl (fun n v => min n v.count) u.count
    let l := max st.low low
    { st with low := l, entries := st.entries.filter fun e => decide (l ≤ e.1) }

/-- End the subscription of port x of context g, if any; what every other subscriber has popped is no longer held (R278). -/
def endSub (s : State) (g port : Nat) : State :=
  match findSub s g port with
  | some (x, _, _) => modStream s x fun u => Stream.trim { u with subs := u.subs.filter fun v => !(v.g == g && v.port == port) }
  | none => s

/-- The shadow word of a subscription (R284). -/
def subWord (sid w c : Nat) : Word64 := BitVec.ofNat 64 (sid + w * 2 ^ 4 + 2 ^ 12 + c % 2 ^ 32 * 2 ^ 32)

/-- SSUB (R320). -/
def execSsub (p : Syl) (o : MU) (s : State) : Res :=
  withSlot p o.sid.val s fun s =>
    let c := issuer s
    let g := s.iss.g
    let w := (c.rdS o.sa.val).toNat
    let x := issuerSlot s o.sid.val
    let port := o.pt.val
    if w = 0 ∨ 256 ≤ w then trapFree s 0x03
    else if !(getStream s x).defined || decide (8 ≤ (getStream s x).subs.length) then stall s
    else
      let s1 := endSub s g port
      let low := (getStream s1 x).low
      let s2 := modStream s1 x fun u => { u with subs := u.subs ++ [{ g := g, port := port, window := w, count := low }] }
      .next (modCtx s2 g fun c => c.setShadow (8 + port) (subWord o.sid.val w low))

/-- What a feed finds wrong at its start (R321). -/
def feedFault (c : CCmd) : Option (Nat × Nat × Nat) :=
  if !copyValid c.pkt false || pfld c.pkt 0 19 1 != 0 || pfld c.pkt 2 0 57 != 0 || pfld c.pkt 0 18 1 != 0 || pfld c.pkt 0 14 1 != 0 ||
      pfld c.pkt 3 0 57 != 0 then some (1, 0, 0)
  else if handleFault c.who c.src false ≠ 0 then some (handleFault c.who c.src false, 0, c.srcVa.toNat)
  else none

/-- SFEED (R277, R321). -/
def execSfeed (p : Syl) (o : MF) (s : State) : Res :=
  withSlot p o.sid.val s fun s =>
    let c := issuer s
    let g := s.iss.g
    let pkt := packetOf (c.rdV o.va.val)
    let src := namedHandle c pkt 17 1
    let dst := namedHandle c pkt 18 2
    let x := issuerSlot s o.sid.val
    let k := chanKey (coreOf g) o.ch.val
    let st := getStream s x
    if chanFull s k || !st.defined || walkPending src || walkPending dst then stall s
    else
      let id := s.ids
      let s1 := issueCmd s o.ch.val fun y =>
        let z := { y with kind := 2, g := g, pkt := pkt, src := src, stream := o.sid.val }
        { z with fault := feedFault z }
      let s2 := modStream s1 x fun u => { u with feeds := u.feeds ++ [(k, id)] }
      .next (askDone (modCtx s2 st.ctx fun c =>
        let ix := 0x10 + o.sid.val
        c.setShadow ix (setField (c.rdShadow ix) 32 8 ((c.rdShadow ix).toNat / 2 ^ 32 % 256 + 1))) k id)

/-- SREL (R279, R319): every feed is done and every subscriber has popped every filled entry. -/
def execSrel (p : Syl) (sid : Fin 16) (s : State) : Res :=
  withSlot p sid.val s fun s =>
    let x := issuerSlot s sid.val
    let st := getStream s x
    if !st.defined then .next s
    else if !st.feeds.isEmpty || st.subs.any fun u => u.count != st.filled then stall s
    else
      let s1 := freeStream s x
      .next (modCtx s1 st.ctx fun c => c.setShadow (0x10 + sid.val) (setField (c.rdShadow (0x10 + sid.val)) 40 1 0))

end Sys2Proof.Machine
end

