-- ==== Sys2Proof/Machine/Matrix.lean ====
section
/-!
DEFINITION. The matrix unit (R285 to R301): operand formats and entries, exact sums, accumulation, the pipeline by
micro-cycles, the micro-ops (R330 to R332), the legality of groups (R290 to R292).
-/
namespace Sys2Proof.Machine

/-! Formats. -/

/-- A class of R285: extent, entries per port and micro-cycles per STEP, stored bits, the governor's weight (R302). -/
structure MxClass where
  e : Nat
  n : Nat
  t : Nat
  w : Nat
  weight : Nat
deriving DecidableEq, Repr

def mxClass (f : Nat) : MxClass :=
  if f = 0 then { e := 1, n := 2, t := 4, w := 32, weight := 16 }
  else if f = 3 then { e := 1, n := 2, t := 2, w := 32, weight := 24 }
  else if f = 15 then { e := 8, n := 1, t := 2, w := 2, weight := 48 }
  else if [8, 13, 14, 20, 22, 26].contains f then { e := 4, n := 1, t := 1, w := 4, weight := 48 }
  else if [1, 2, 9, 10].contains f then { e := 1, n := 1, t := 1, w := 16, weight := 32 }
  else { e := 2, n := 1, t := 1, w := 8, weight := 40 }

/-- Families: 0 floating, 1 integer, 2 mx, 3 z; 4 for a code that is no operand format. -/
def mxFamily (f : Nat) : Nat := if f < 9 then 0 else if f < 16 then 1 else if f < 22 then 2 else if f < 28 then 3 else 4
/-- A pair is accepted (R286). -/
def mxAccept (fa fb : Nat) : Bool :=
  decide (fa < 28) && decide (fb < 28) && mxFamily fa == mxFamily fb && mxClass fa == mxClass fb
def mxInt (o : UStep) : Bool := mxFamily o.fa.val == 1
def mxBlocked (o : UStep) : Bool := decide (2 ≤ mxFamily o.fa.val)
def mxUnsigned (o : UStep) : Bool := [10, 12, 14].contains o.fa.val && [10, 12, 14].contains o.fb.val

/-- The operand values of an entry's rows (R287). -/
def entryRows (f : Nat) (x : BitVec 1024) : List (List Val) :=
  let c := mxClass f
  let dec (k : Nat) : Val := Sys2Proof.Machine.decode (elemCode f) (k % 2 ^ codeBits (elemCode f))
  if c.n = 1 then (List.range 64).map fun r => (List.range c.e).map fun j => dec (x.toNat / 2 ^ (16 * r + j * c.w) % 2 ^ c.w)
  else (List.range 32).map fun r =>
    let k := x.toNat / 2 ^ (32 * r) % 2 ^ 32
    [dec (if f = 3 then k / 2 ^ 13 else k)]

/-! Exact sums. -/

/-- A sum as the unit carries it: a zero has no sign of its own (R71), a NaN no payload (R298). -/
def plain (x : Val) : Val :=
  match x with
  | .fin _ 0 _ => .zero
  | .nan _ _ => defaultNaN
  | v => v

/-- The sum of the products of two rows (R294). -/
def rowSum (a b : List Val) : Val × BitVec 5 :=
  let pr := List.zipWith Val.mul a b
  let fl := orAll (pr.map fun x => (0, x.2))
  match pr with
  | [] => (.zero, 0)
  | p :: r =>
    let t := r.foldl (fun (acc : Val × BitVec 5) q => let y := acc.1.add rmRNE q.1; (y.1, acc.2 ||| y.2)) (p.1, fl)
    (plain t.1, t.2)

/-- Every sum of a STEP: word 64 m + n. -/
def stepSums (a b : List (List Val)) : Tab Val × BitVec 5 :=
  let l := a.flatMap fun x => b.map fun y => rowSum x y
  let fl := orAll (l.map fun x => (0, x.2)) ||| snanFlag (a.flatten ++ b.flatten)
  ((l.zipIdx.filter fun x => x.1.1 != .zero).map fun x => (x.2, x.1.1), fl)

/-- Combine two sparse tables of 4096 values. -/
def mergeSums : Nat → Tab Val → Tab Val → List (Nat × Val × BitVec 5)
  | 0, _, _ => []
  | _ + 1, [], b => b.map fun x => (x.1, x.2, 0)
  | _ + 1, a, [] => a.map fun x => (x.1, x.2, 0)
  | n + 1, (i, x) :: a, (j, y) :: b =>
    if i < j then (i, x, 0) :: mergeSums n a ((j, y) :: b)
    else if j < i then (j, y, 0) :: mergeSums n ((i, x) :: a) b
    else let z := x.add rmRNE y; (i, plain z.1, z.2) :: mergeSums n a b

/-- The open partial takes a sum (R294). -/
def addPart (p q : Tab Val) : Tab Val × BitVec 5 :=
  let l := mergeSums (p.length + q.length) p q
  ((l.filter fun x => x.2.1 != .zero).map fun x => (x.1, x.2.1), orAll (l.map fun x => (0, x.2.2)))

/-- One accumulation (R71, R298): RNE, FTZ 0, OVF as captured. -/
def accFloat (m : Word32) (acc : Nat) (y : Val) : Nat × BitVec 5 :=
  let a := Sys2Proof.Machine.decode 0 acc
  let s := a.add rmRNE y
  let fl := s.2 ||| snanFlag [a]
  if s.1.isNaN then (0x7FC00000, fl)
  else let r := roundTo 0 (m &&& 8) 0 s.1; (Sys2Proof.Machine.encode 0 r.1, fl ||| r.2)

def valInt (x : Val) : Int :=
  match x with
  | .fin n m e => if n then -(shiftInt m e : Int) else shiftInt m e
  | .inf _ => 0
  | .nan _ _ => 0
/-- An integer accumulation (R70, R294). -/
def accInt (o : UStep) (acc : Nat) (y : Val) : Nat :=
  let sgn := !mxUnsigned o
  iStore sgn 32 o.sat (iVal sgn 32 acc + valInt y)

/-- One word's accumulation. -/
def accWord (o : UStep) (m : Word32) (acc : Nat) (y : Val) : Nat × BitVec 5 :=
  if mxInt o then (accInt o acc y, 0) else accFloat m acc y

/-- Walk over words in order, taking each one's sum. -/
def accWords (o : UStep) (m : Word32) : List Nat → Nat → Tab Val → List (Nat × BitVec 5)
  | [], _, _ => []
  | w :: r, i, [] => accWord o m w .zero :: accWords o m r (i + 1) []
  | w :: r, i, (j, y) :: t =>
    if j = i then accWord o m w y :: accWords o m r (i + 1) t else accWord o m w .zero :: accWords o m r (i + 1) ((j, y) :: t)

/-! Tiles: row m of tile t at 64 t + m. -/

def tileRow (c : CoreSt) (t m : Nat) : VWord := tget 0 c.tiles (64 * t + m)
def setTileRow (c : CoreSt) (t m : Nat) (x : VWord) : CoreSt := { c with tiles := tput 0 c.tiles (64 * t + m) x }
/-- A word of the tile fails its residue (R301). -/
def badIn (c : CoreSt) (t lo n : Nat) : Bool := c.badTile.any fun w => decide (4096 * t + lo ≤ w) && decide (w < 4096 * t + lo + n)

/-- Accumulate sums into a tile. -/
def landTile (c : CoreSt) (o : UStep) (m : Word32) (t : Nat) (sums : Tab Val) : CoreSt × BitVec 5 :=
  (List.range 64).foldl (fun (acc : CoreSt × BitVec 5) r =>
    let words := (List.range 64).map fun n => (laneOf (tileRow acc.1 t r) n).toNat
    let mine := (sums.filter fun x => x.1 / 64 == r).map fun x => (x.1 % 64, x.2)
    let l := accWords o m words 0 mine
    (setTileRow acc.1 t r (vecOf (l.map (·.1)) 32), acc.2 ||| orAll l)) (c, 0)

/-! The pipeline. -/

def Routine.pair (r : Routine) : UStep := r.first.getD { fa := 0, fb := 0, sat := false }

/-- Stop a routine: the first stop decides. -/
def Routine.halt (r : Routine) (cause word : Nat) : Routine :=
  match r.stop with
  | some _ => r
  | none => { r with stop := some (cause, word) }

/-- RESFAIL counts a routine that a failure stops, and not one that has stopped already (R304). -/
def mxFail (s : State) (core : Nat) (r : Routine) : State := if r.stop.isSome then s else rincHold s (mxctl core + 16) 32 32

/-- Results reach their tiles; a tile with a failing word stops the routine, and nothing later reaches any tile (R301). What
stands in the open partial stays there, to be discarded at the routine's end (R297). -/
def landAll (s : State) (core : Nat) (r : Routine) : State × Routine :=
  r.lands.foldl (fun (acc : State × Routine) p =>
    let c := getCore acc.1 core
    let dead := match acc.2.stop with
      | some (cause, _) => cause == 0x10
      | none => false
    if dead then acc
    else if badIn c p.tile 0 4096 then
      (mxFail acc.1 core acc.2, { acc.2.halt 0x10 p.word with pipe := [], second := none, busy := 0 })
    else
      let (c1, fl) := landTile c acc.2.pair acc.2.cmd.fmode p.tile p.sums
      (setCore acc.1 core c1, { acc.2 with flags := acc.2.flags ||| fl })) (s, { r with lands := [] })

/-- A sum reaches the scale port stage: into the open partial, or on to its tile (R294). -/
def atPort (r : Routine) (p : Pipe) : Routine :=
  if mxBlocked r.pair then
    let (q, fl) := addPart r.part p.sums
    { r with part := q, open_ := true, flags := r.flags ||| fl }
  else { r with lands := r.lands ++ [p] }

/-- The pipeline moves to the next micro-cycle (R293). -/
def advance (s : State) (core : Nat) (r : Routine) : State × Routine :=
  let (s1, r1) := landAll s core r
  let pipe := r1.pipe.map fun p => { p with left := p.left - 1 }
  let r2 := (pipe.filter fun p => p.left == 0).foldl atPort { r1 with pipe := pipe.filter fun p => p.left != 0 }
  (s1, { r2 with mcyc := r.mcyc + 1 })

/-! Ports. -/

/-- Filled entries that the port has not popped; none without a subscription. -/
def portAvail (s : State) (g port : Nat) : Option Nat := (findSub s g port).map fun x => x.2.1.filled - x.2.2.count
/-- The entry a port pops next. -/
def portPeek (s : State) (g port : Nat) : Option (BitVec 1024 × Option Nat) :=
  match findSub s g port with
  | none => none
  | some (_, st, u) => if u.count < st.filled then tfind st.entries u.count else none
/-- Pop (R278, R284). -/
def portPop (s : State) (g port : Nat) : State :=
  match findSub s g port with
  | none => s
  | some (x, _, u) =>
    let s1 := modStream s x fun st =>
      Stream.trim { st with subs := st.subs.map fun v => if v.g == g && v.port == port then { v with count := v.count + 1 } else v }
    modCtx s1 g fun c => c.setShadow (8 + port) (setField (c.rdShadow (8 + port)) 32 32 (u.count + 1))

/-- The entry's source page named another format than the STEP (R287). -/
def mismatch (e : Option (BitVec 1024 × Option Nat)) (f : Nat) : Bool :=
  match e with
  | some (_, some x) => x != f
  | _ => false

/-! Groups. -/

/-- The class of a word: 0 array, 1 scale, 2 control (R290). -/
def uClass (i : Instr) : Nat :=
  match i with
  | .step _ _ => 0
  | .skip _ pt _ => if pt.val = 2 then 1 else 0
  | .scl _ => 1
  | .band _ _ => 1
  | _ => 2
def uJoins (i : Instr) : Bool :=
  match i with
  | .step j _ => j | .skip j _ _ => j | .scl j => j | .band j _ => j | .accsel j _ => j | .accselG j _ => j | .sig j _ => j
  | .waits j _ _ => j | _ => false
def isUloop (i : Instr) : Bool :=
  match i with
  | .uloop _ _ => true | .uloopG _ _ => true | _ => false

/-- The group at address a: its words; else whether a word would lie beyond the store (R290), or one is no micro-op. -/
def groupAt (c : CoreSt) : Nat → Nat → Except Bool (List Instr)
  | 0, _ => .error false
  | n + 1, a =>
    if 4096 ≤ a then .error true
    else
      match decodeMicro (tget 0 c.ustore a).toNat with
      | none => .error false
      | some i =>
        if uJoins i then
          match groupAt c n (a + 1) with
          | .ok l => .ok (i :: l)
          | .error x => .error x
        else .ok [i]

/-- The count of a ULOOP and its body's length. -/
def uloopOf (r : Routine) (i : Instr) : Option (Nat × Nat) :=
  match i with
  | .uloop c len => some (c.val, len.val)
  | .uloopG k len => some ((r.cmd.ga.getD k.val 0).toNat % 2 ^ 32, len.val)
  | _ => none

/-- The last word of a body. -/
def ULoop.last (l : ULoop) : Nat := l.start + l.len - 1

/-- What R292 and R331 forbid in a group, but for missing subscriptions. An SCL in the group of the first STEP stands behind none
(DEDUCED, log 137). -/
def groupLegal (c : CoreSt) (r : Routine) (l : List Instr) : Bool :=
  let classes := l.map uClass
  ([0, 1, 2].all fun k => decide ((classes.filter (· == k)).length ≤ 1)) && (l.length == 1 || !(l.any isUloop)) &&
  l.all fun i =>
    match i with
    | .step _ o =>
      mxAccept o.fa.val o.fb.val && (!o.sat || mxInt o) && (match r.first with
        | some f => f == o
        | none => true)
    | .scl _ => (match r.first with
        | some f => mxBlocked f
        | none => false)
    | .skip _ pt n => pt.val != 3 && n.val != 0
    | .waits _ pt _ => pt.val != 3
    | i =>
      match uloopOf r i with
      | none => true
      | some (cnt, len) =>
        let e := r.upc + len
        decide (e ≤ 4095) && (match r.loops with
          | t :: _ => decide (e ≤ t.last)
          | [] => true) && !(tget 0 c.ustore e).getLsbD 27 && (cnt == 0 || decide (r.loops.length < 4))

/-- The ports that a word names. -/
def uPorts (i : Instr) : List Nat :=
  match i with
  | .step _ _ => [0, 1] | .scl _ => [2] | .band _ _ => [2] | .skip _ pt _ => [pt.val] | .waits _ pt _ => [pt.val] | _ => []

def MCmd.who (s : State) (m : MCmd) : Who := { g := m.g, vf := vfOf s m.g, sys := m.sys }

/-- The event word of a SIG (R332): a page of tier 0 to 2, resident, aligned. -/
def sigTarget (s : State) (r : Routine) (i : Nat) : Option (HWord × Nat) :=
  let a := (r.cmd.ga.getD i 0).toNat
  if a % 8 ≠ 0 then none
  else
    match counterAt s (r.cmd.who s) true a with
    | .ok x => some x
    | .error _ => none

/-- What stops a group before it issues. -/
def groupStop (s : State) (core : Nat) (r : Routine) (l : List Instr) : Option Nat :=
  let g := r.cmd.g
  if !groupLegal (getCore s core) r l then some 0x0C
  else if l.any fun i => (uPorts i).any fun p => (portAvail s g p).isNone then some 0x0D
  else if l.any fun i => match i with
    | .step _ o => mismatch (portPeek s g 0) o.fa.val || mismatch (portPeek s g 1) o.fb.val
    | _ => false then some 0x0E
  else if l.any fun i => match i with
    | .sig _ k => (sigTarget s r k.val).isNone
    | _ => false then some 0x11
  else none

/-- A word can issue now, SKIPs having popped what `r` counts (R293, R330). -/
def uReady (s : State) (r : Routine) (i : Instr) : Bool :=
  let av (p : Nat) : Nat := (portAvail s r.cmd.g p).getD 0
  match i with
  | .step _ _ => decide (1 ≤ av 0) && decide (1 ≤ av 1)
  | .scl _ => decide (1 ≤ av 2)
  | .band _ _ => decide (1 ≤ av 2)
  | .waits _ p n => decide (n.val ≤ av p.val)
  | .skip _ p n => n.val ≤ (if p.val = 2 then r.skipS else r.skipA)
  | _ => true

/-- A SKIP takes one entry of its port in a core cycle (R287). -/
def skipOne (s : State) (r : Routine) (i : Instr) : State × Routine :=
  match i with
  | .skip _ p n =>
    let k := if p.val = 2 then r.skipS else r.skipA
    if k < n.val && decide (1 ≤ (portAvail s r.cmd.g p.val).getD 0) then
      (portPop s r.cmd.g p.val, if p.val = 2 then { r with skipS := k + 1 } else { r with skipA := k + 1 })
    else (s, r)
  | _ => (s, r)

/-- The weight of a word in its micro-cycle (R302). -/
def uWeight (i : Instr) : Nat :=
  match i with
  | .step _ o => (mxClass o.fa.val).weight
  | .scl _ => 6 | .band _ _ => 2
  | .skip _ p _ => if p.val = 2 then 1 else 2
  | _ => 0

/-- Where execution goes after the word at `last`: through the ends of the bodies that end there (R331). -/
def afterWord : List ULoop → Nat → Nat × List ULoop
  | [], last => (last + 1, [])
  | l :: r, last =>
    if l.last = last then (if 1 < l.left then (l.start, { l with left := l.left - 1 } :: r) else afterWord r last)
    else (last + 1, l :: r)

def setRun (s : State) (core : Nat) (r : Routine) : State := modCore s core fun c => { c with run := some r }
def addWeight (s : State) (core n : Nat) : State := modCore s core fun c => { c with weight := c.weight + n }
/-- The weight of the STEP that occupies the array. -/
def stepWeight (r : Routine) : Nat := (mxClass r.pair.fa.val).weight

/-- Nothing of the routine is left to land (R297, R332). -/
def Routine.empty (r : Routine) : Bool := r.pipe.isEmpty && r.lands.isEmpty && r.second.isNone && r.sigs == 0

/-- A micro-cycle in which no group issues: after END or a stop. -/
def drain (s : State) (core : Nat) (r : Routine) : State × List Instr :=
  let (s1, r1) := advance s core r
  if r1.empty then (setRun s1 core { r1 with mcyc := r.mcyc }, [.routineComplete core]) else (setRun s1 core r1, [])

/-- The second micro-cycle of an f19 or f32 STEP (R294). -/
def secondHalf (s : State) (core : Nat) (r : Routine) (p : Half) : State × List Instr :=
  let g := r.cmd.g
  let quit (c : Nat) : State × List Instr := drain s core ({ r with second := none, busy := 0 }.halt c p.word)
  match portAvail s g 0, portAvail s g 1 with
  | some a, some b =>
    if a = 0 ∨ b = 0 then (s, [])
    else if mismatch (portPeek s g 0) r.pair.fa.val || mismatch (portPeek s g 1) r.pair.fb.val then quit 0x0E
    else
      match portPeek s g 0, portPeek s g 1 with
      | some x, some y =>
        let (s1, r1) := advance s core r
        let (q, fl) := stepSums (entryRows r.pair.fa.val p.a ++ entryRows r.pair.fa.val x.1)
          (entryRows r.pair.fb.val p.b ++ entryRows r.pair.fb.val y.1)
        let r2 := { r1 with second := none, busy := r1.busy - 1, flags := r1.flags ||| fl,
                            pipe := r1.pipe ++ [{ sums := q, tile := p.tile, left := 3, word := p.word }] }
        (addWeight (setRun (portPop (portPop s1 g 0) g 1) core r2) core (stepWeight r), [])
      | _, _ => (s, [])
  | _, _ => quit 0x0D

/-- A routine of a frozen context stops issuing at this group boundary and leaves for the suspended slot; what it has issued lands
(R355). -/
def suspendRun (s : State) (core : Nat) (r : Routine) : State :=
  let (s1, r1) := landAll s core r
  modCore s1 core fun k => { k with run := none, susp := k.susp ++ [r1] }

/-- One core cycle of the matrix unit (R293): the words of the group that issues, in order, ACCSEL first. -/
def matrixCycle (s : State) (core : Nat) : State × List Instr :=
  match (getCore s core).run with
  | none => (s, [])
  | some r =>
    match r.second with
    | some p => secondHalf s core r p
    | none =>
      if 0 < r.busy then
        let (s1, r1) := advance s core r
        (addWeight (setRun s1 core { r1 with busy := r1.busy - 1 }) core (stepWeight r), [])
      else if r.ended || r.stop.isSome then drain s core r
      else if (getCtx s r.cmd.g).frozen then (suspendRun s core r, [])
      else
        match groupAt (getCore s core) 4096 r.upc with
        | .error beyond => drain s core (r.halt 0x0C (if beyond then 4095 else r.upc))
        | .ok l =>
          match groupStop s core r l with
          | some c => drain s core (r.halt c r.upc)
          | none =>
            let (s1, r1) := l.foldl (fun (acc : State × Routine) i => skipOne acc.1 acc.2 i) (s, r)
            if !(l.all (uReady s1 r1)) then (setRun s1 core r1, [])
            else
              let (s2, r2) := advance s1 core r1
              let last := r2.upc + l.length - 1
              let ctl := r2.upc + (l.findIdx fun i => uClass i == 2)
              let r3 := { r2 with word := ctl, gword := r2.upc }
              let r4 := if l.any isUloop then r3
                else let n := afterWord r3.loops last; { r3 with upc := n.1, loops := n.2 }
              let first (i : Instr) : Bool := match i with
                | .accsel _ _ => true
                | .accselG _ _ => true
                | _ => false
              (addWeight (setRun s2 core r4) core ((l.map uWeight).foldl (· + ·) 0), l.filter first ++ l.filter fun i => !first i)

/-! The micro-ops (R330). -/

/-- The core's routine takes an effect; none without one. -/
def withRun (s : State) (f : Routine → State) : Res :=
  match (getCore s s.cur).run with
  | some r => .next (f r)
  | none => .next s

/-- END (R297). -/
def execUend (s : State) : Res := withRun s fun r => setRun s s.cur { r with ended := true }

/-- STEP (R285, R294): pop, latch the tile, sum. -/
def execStep (_j : Bool) (o : UStep) (s : State) : Res :=
  withRun s fun r =>
    let g := r.cmd.g
    match portPeek s g 0, portPeek s g 1 with
    | some x, some y =>
      let c := mxClass o.fa.val
      let s1 := portPop (portPop s g 0) g 1
      let word := r.gword
      if c.n = 2 then
        setRun s1 s.cur { r with first := some o, busy := c.t - 1,
                                 second := some { a := x.1, b := y.1, tile := r.tile, word := word } }
      else
        let (q, fl) := stepSums (entryRows o.fa.val x.1) (entryRows o.fb.val y.1)
        setRun s1 s.cur { r with first := some o, busy := c.t - 1, flags := r.flags ||| fl,
                                 pipe := r.pipe ++ [{ sums := q, tile := r.tile, left := 4, word := word }] }
    | _, _ => s

/-- Scale byte i of a scale entry, and element i of a band vector (R295, R296). -/
def scaleVal (o : UStep) (sc : BitVec 1024) (i : Nat) : Val :=
  Sys2Proof.Machine.decode (if mxFamily o.fa.val == 2 then 30 else 31) (byteAt sc i).toNat
def bandVal (x : BitVec 1024) (i : Nat) : Val := Sys2Proof.Machine.decode 2 (x.toNat / 2 ^ (16 * i) % 2 ^ 16)

/-- The scaled partial of word (m, n) (R295): a zero partial gives +0 under finite scales, and what R53 and R54 say under a
NaN or an infinity. -/
def scaled (o : UStep) (sc : BitVec 1024) (ba bb : BitVec 1024) (k : Nat) (p : Val) : Val × BitVec 5 :=
  let m := k / 64
  let n := k % 64
  let mx := mxFamily o.fa.val == 2
  let six (f : Nat) : Val := if f = 21 then .fin false 1 (-6) else .fin false 1 0
  let l := [scaleVal o sc m, scaleVal o sc (64 + n), six o.fa.val, six o.fb.val] ++
    (if mx then [] else [bandVal ba m, bandVal bb n])
  let t := l.foldl (fun (acc : Val × BitVec 5) v => let y := acc.1.mul v; (y.1, acc.2 ||| y.2)) (p, 0)
  (plain t.1, t.2 ||| (if mx then 0 else snanFlag [bandVal ba m, bandVal bb n]))

/-- A finite value. -/
def Val.isFin : Val → Bool
  | .fin _ _ _ => true
  | .inf _ => false
  | .nan _ _ => false

/-- Every scale that an SCL applies is finite: a zero partial then adds +0 and raises nothing. -/
def scalesFinite (o : UStep) (sc : BitVec 1024) (ba bb : BitVec 1024) : Bool :=
  ((List.range 128).all fun i => (scaleVal o sc i).isFin) &&
    (mxFamily o.fa.val == 2 || (List.range 64).all fun i => (bandVal ba i).isFin && (bandVal bb i).isFin)

/-- The entries of a sparse partial, zeros included: n words from word i on. -/
def spread : Nat → Nat → Tab Val → Tab Val
  | 0, _, _ => []
  | n + 1, i, [] => (i, .zero) :: spread n (i + 1) []
  | n + 1, i, (j, x) :: r => if j = i then (i, x) :: spread n (i + 1) r else (i, .zero) :: spread n (i + 1) ((j, x) :: r)

/-- The open partial as an SCL scales it. -/
def sclWords (o : UStep) (sc ba bb : BitVec 1024) (p : Tab Val) : List (Nat × Val × BitVec 5) :=
  (if scalesFinite o sc ba bb then p else spread 4096 0 p).map fun x => (x.1, scaled o sc ba bb x.1 x.2)

/-- SCL (R295): the open partial as it stands, scaled, reaches the selected tile in the next micro-cycle. -/
def execScl (_j : Bool) (s : State) : Res :=
  withRun s fun r =>
    match portPeek s r.cmd.g 2 with
    | none => s
    | some e =>
      let l := sclWords r.pair e.1 r.bandA r.bandB r.part
      let sums : Tab Val := (l.filter fun x => x.2.1 != .zero).map fun x => (x.1, x.2.1)
      let fl := orAll (l.map fun x => (0, x.2.2))
      setRun (portPop s r.cmd.g 2) s.cur
        { r with part := [], open_ := false, flags := r.flags ||| fl,
                 lands := r.lands ++ [{ sums := sums, tile := r.tile, left := 1, word := r.gword }] }

/-- BAND (R296). -/
def execBand (_j side : Bool) (s : State) : Res :=
  withRun s fun r =>
    match portPeek s r.cmd.g 2 with
    | none => s
    | some e => setRun (portPop s r.cmd.g 2) s.cur (if side then { r with bandB := e.1 } else { r with bandA := e.1 })

/-- ACCSEL (R330). -/
def execAccsel (_j : Bool) (tile : Fin 16) (s : State) : Res := withRun s fun r => setRun s s.cur { r with tile := tile.val }
def execAccselG (_j : Bool) (i : Fin 8) (s : State) : Res :=
  withRun s fun r => setRun s s.cur { r with tile := (r.cmd.ga.getD i.val 0).toNat % 16 }

/-- A ULOOP at the routine's address (R331): enter the body, or skip it. -/
def enterLoop (r : Routine) (cnt len : Nat) : Routine :=
  if cnt = 0 then let n := afterWord r.loops (r.upc + len); { r with upc := n.1, loops := n.2 }
  else { r with upc := r.upc + 1, loops := { start := r.upc + 1, len := len, left := cnt } :: r.loops }
def execUloop (count : Fin 4096) (len : Fin 2048) (s : State) : Res :=
  withRun s fun r => setRun s s.cur (enterLoop r count.val len.val)
def execUloopG (i : Fin 8) (len : Fin 2048) (s : State) : Res :=
  withRun s fun r => setRun s s.cur (enterLoop r ((r.cmd.ga.getD i.val 0).toNat % 2 ^ 32) len.val)

/-- Pop n entries, as far as they are filled. -/
def popMany (s : State) (g port : Nat) : Nat → State
  | 0 => s
  | n + 1 => if (portPeek s g port).isSome then popMany (portPop s g port) g port n else s

/-- SKIP (R330): pops what of its N entries the cycles before have not popped, and uses none. -/
def execSkip (_j : Bool) (pt : Fin 4) (n : Fin 256) (s : State) : Res :=
  withRun s fun r =>
    let k := if pt.val = 2 then r.skipS else r.skipA
    setRun (popMany s r.cmd.g pt.val (n.val - k)) s.cur (if pt.val = 2 then { r with skipS := 0 } else { r with skipA := 0 })

/-- WAITS (R330): pops nothing. -/
def execWaits (_j : Bool) (_pt : Fin 4) (_n : Fin 256) (s : State) : Res := .next s

/-- SIG (R332): the releasing add goes to its home. -/
def execSig (_j : Bool) (i : Fin 8) (s : State) : Res :=
  withRun s fun r =>
    match sigTarget s r i.val with
    | none => setRun s s.cur (r.halt 0x11 r.word)
    | some (h, pa) =>
      let t := { (Txn.base .atomic (.mx s.cur) { Req.blank with sys := r.cmd.sys, h := some h } (dieOfCore s.cur) (vfOf s r.cmd.g) pa).through s
                   r.cmd.g h with len := 8, add := 1, eng := true, orig := r.cmd.id, ix := r.word }
      let (late, s0) := bookSlot s (cluOf s.cur)
      let (d, s1) := drawLat s0 t
      setRun (sendTxn s1 t d late).1 s.cur { r with sigs := r.sigs + 1 }

end Sys2Proof.Machine
end

