-- ==== Sys2Proof/Machine/MatrixCmds.lean ====
section
/-!
DEFINITION. The matrix commands (R322 to R328), the end of a routine (R297, R300), ENGW (R329) and the current governor
(R302, R303).
-/
namespace Sys2Proof.Machine

/-- A steward core has no matrix unit: the syllable is not an instruction there (R341). -/
def withMatrix (p : Syl) (s : State) (f : State → Res) : Res :=
  if isSteward s.iss.g then trapNow s 0x01 0 else issue p s f

def mqFull (s : State) (core : Nat) : Bool := decide (8 ≤ (getCore s core).mq.length)

/-- Enter a command in the core's queue, with what it captures (R305, R322, R324). -/
def mxPush (op : Instr) (a b : Word64) (s : State) : Res :=
  let g := s.iss.g
  let core := coreOf g
  if mqFull s core then stall s
  else
    let c := issuer s
    let (id, s1) := fresh s
    let m : MCmd := { op := op, g := g, ipc := s.iss.pc, a := a, b := b, ga := (List.range 8).map c.rdG, fmode := c.fmode, seed := c.seed,
                      sys := c.mode, seq := c.reqSeq, id := id, parked := false }
    .next (modCore s1 core fun k => { k with mq := k.mq ++ [m] })

/-- The word count and the first word of MLOAD. -/
def mloadN (b : Word64) : Nat := b.toNat / 2 ^ 12 % 2 ^ 13
def mloadW (b : Word64) : Nat := b.toNat % 2 ^ 12

/-- MLOAD (R323). -/
def execMload (p : Syl) (o : MS) (s : State) : Res :=
  withMatrix p s fun s =>
    let c := issuer s
    let a := c.rdS o.sa.val
    let b := c.rdS o.sb.val
    if a.toNat % 4 ≠ 0 then trapNow s 0x03 a
    else if mloadN b = 0 ∨ 4096 < mloadW b + mloadN b then trapFree s 0x03
    else mxPush (.mload p o) a b s

/-- MCALL (R324). -/
def execMcall (p : Syl) (en : Fin 4096) (s : State) : Res :=
  withMatrix p s fun s => mxPush (.mcall p en) (BitVec.ofNat 64 en.val) 0 s

/-- MZRO (R328). -/
def execMzro (p : Syl) (t : Fin 16) (s : State) : Res := withMatrix p s fun s => mxPush (.mzro p t) (BitVec.ofNat 64 t.val) 0 s

/-- No command of context g is under way; withdrawn ones count (R325). -/
def mxIdleFor (k : CoreSt) (g : Nat) : Bool :=
  k.mq.all (fun m => m.g != g) && k.susp.all (fun r => r.cmd.g != g) &&
  (match k.run with
   | some r => r.cmd.g != g
   | none => true) &&
  (match k.busyCmd with
   | some m => m.g != g
   | none => true)

/-- MWAIT (R325). -/
def execMwait (p : Syl) (s : State) : Res :=
  withMatrix p s fun s => if mxIdleFor (getCore s (coreOf s.iss.g)) s.iss.g then .next s else stall s

/-- Nothing is queued or under way on the core (R307). -/
def mxIdle (k : CoreSt) : Bool := k.mq.isEmpty && k.run.isNone && k.busyCmd.isNone

/-- MRDA to a vector (R326). -/
def execMrdaVector (p : Syl) (o : MV) (s : State) : Res :=
  withMatrix p s fun s =>
    withRoom o.qd s fun s =>
      let k := getCore s (coreOf s.iss.g)
      if !mxIdle k then stall s
      else if badIn k o.tl.val (64 * o.row.val) 64 then trapNow s 0x08 1
      else .next (deliver s o.qd (dstV (issuer s) o.vd.val) (tileRow k o.tl.val o.row.val) (-1) 4 0)

/-- The rows of an MRDA to scratchpad. -/
def mrdaFirst (b : Word64) : Nat := b.toNat % 2 ^ 6
def mrdaN (b : Word64) : Nat := b.toNat / 2 ^ 6 % 2 ^ 7

/-- MRDA to scratchpad (R327). -/
def execMrdaScratchpad (p : Syl) (o : MX) (s : State) : Res :=
  withMatrix p s fun s =>
    let c := issuer s
    let a := c.rdS o.sa.val
    let b := c.rdS o.sb.val
    let size := (groupOf s s.iss.g).size
    if a.toNat % 256 ≠ 0 then trapNow s 0x03 a
    else if mrdaN b = 0 ∨ 64 < mrdaFirst b + mrdaN b then trapFree s 0x03
    else
      match chkWindow size a.toNat (256 * mrdaN b) with
      | .trap cause info => trapNow s cause info
      | _ => mxPush (.mrdaScratchpad p o) a b s

/-! In their turn. -/

/-- The record of a matrix command (R349): ENG 6, GA0 to GA7 beside it. Its key among the parked commands stands above the
launch engines'. -/
def mxKey (core : Nat) : Nat := 32768 + core
def mxRecord (s : State) (m : MCmd) (cause word fva : Nat) (cmd : Option (Nat × Nat)) : FRec :=
  { vf := vfOf s m.g, steward := stewOf m.g, w0 := recW0 cause false false 6 m.g 0 (vfOf s m.g), w1 := BitVec.ofNat 64 m.ipc, w2 := 0,
    w3 := BitVec.ofNat 64 (fva % 2 ^ 57), w4 := BitVec.ofNat 64 (word % 2 ^ 12), w5 := 0,
    comp := (m.ga.zipIdx.foldl (fun (x : Nat) w => x + w.1.toNat * 2 ^ (64 * w.2)) 0 : Nat), g := some m.g, cmd := cmd, range := [] }

/-- A new routine (R289). -/
def Routine.start (m : MCmd) : Routine :=
  let ones := BitVec.ofNat 1024 ((List.range 64).foldl (fun (x : Nat) i => x + 0x3F80 * 2 ^ (16 * i)) 0)
  { cmd := m, upc := m.a.toNat, loops := [], tile := 0, first := none, bandA := ones, bandB := ones, part := [], open_ := false,
    pipe := [], busy := 0, second := none, lands := [], mcyc := 0, flags := 0, ended := false, stop := none, sigs := 0,
    corr := false, live := true, skipA := 0, skipS := 0, word := 0, gword := 0 }

/-- What becomes of the rows of an MRDA: all written, one failed its residue, or so many are left for later cycles. -/
inductive Rows where
  | done (s : State)
  | bad (s : State)
  | left (s : State) (n : Nat)

/-- Write row f + j of tile t to the window at a + 256 j, in row order (R327), as far as the banks serve them in this cycle (R43). -/
def mrdaRows (core g t : Nat) : List Nat → Nat → State → Rows
  | [], _, s => .done s
  | r :: l, a, s =>
    let k := getCore s core
    if badIn k t (64 * r) 64 then .bad s
    else
      let cells := cellsAt (winPlace s g a) (bytesOf (tileRow k t r) 256)
      let c := (groupOf s g).cluster
      let n := bankCounts (cells.map (·.pa))
      if banksFree s c n then
        mrdaRows core g t l (a + 256) (fillGranules ((writeCells (banksTake s c n) cells).getD (banksTake s c n)) (cells.map (·.pa)))
      else .left s (l.length + 1)

/-- MLOAD's words arrive: j words from w0 on (R323). -/
def mloadWords (s : State) (core w0 : Nat) (raw : Tab Byte) (n : Nat) : State :=
  modCore s core fun k =>
    { k with ustore := (List.range n).foldl (fun t j =>
        tput 0 t (w0 + j) (BitVec.ofNat 32 (natOfBytes ((List.range 4).map fun i => tget 0 raw (4 * j + i))))) k.ustore }

/-- After n words. -/
def MCmd.past (m : MCmd) (n : Nat) : MCmd :=
  { m with a := m.a + BitVec.ofNat 64 (4 * n), b := BitVec.ofNat 64 ((mloadW m.b + n) % 4096 + (mloadN m.b - n) * 2 ^ 12) }

/-- MLOAD fails: it ends, or is parked (R323, R351, R352). -/
def mloadFail (s : State) (core : Nat) (m : MCmd) (cause fva : Nat) : State :=
  let (s1, parked) := report s (mxRecord s m cause 0 fva (some (mxKey core, m.id)))
  modCore s1 core fun k => { k with busyCmd := if parked then some { m with parked := true } else none }

/-- The next part of an MLOAD: words up to the end of the page and of the unit of interleave. -/
def mloadPart (s : State) (core : Nat) (m : MCmd) : State :=
  let w := m.who s
  match engResolve s w { write := false, sh := false, n := 4 } none true m.a.toNat with
  | .error e => mloadFail s core m (if e = 6 then 7 else e) m.a.toNat
  | .ok h =>
    let va := engVa s w true m.a.toNat
    let pa := engPa s w h true false m.a.toNat
    let same (j : Nat) : Bool :=
      decide ((va + 4 * j) / hPage h = va / hPage h) && unitBase (pa + 4 * j) == unitBase pa && (j = 0 || hTier h != 3)
    let n := min (mloadN m.b) (((List.range 1024).takeWhile same).length)
    let t := { (Txn.base .load (.mx core) { Req.blank with sys := m.sys, h := some h } (dieOfCore core) (vfOf s m.g) pa).through s m.g h with
               rd := (List.range (4 * n)).map fun i => (pa + i, i), len := 4 * n, eng := true, orig := m.id }
    let (late, s0) := bookSlot s (cluOf core)
    let (d, s1) := drawLat s0 t
    modCore (sendTxn s1 t d late).1 core fun k => { k with busyCmd := some m }

/-- A part of an MLOAD has been answered. -/
def mloadAnswer (s : State) (core : Nat) (m : MCmd) (id : Nat) (t : Txn) : State :=
  let s0 := delTxn s id
  if t.err ≠ 0 then
    -- what precedes the first word that fails is written
    let n := if t.peer.isNone then badRead s t / 4 else 0
    if n = 0 then mloadFail s0 core m t.err m.a.toNat
    else
      let here := (List.range (4 * n)).foldl (fun (r : Tab Byte) i => tset r i (mread s (t.home s (t.pa + i)))) []
      let m1 := m.past n
      mloadFail (mloadWords s0 core (mloadW m.b) here n) core m1 t.err m1.a.toNat
  else
    let n := t.len / 4
    let s1 := mloadWords s0 core (mloadW m.b) t.raw n
    let m1 := m.past n
    modCore s1 core fun k => { k with busyCmd := if mloadN m1.b = 0 then none else some m1 }

/-- A SIG's add has been answered: an error stops its routine (R332). -/
def sigAnswer (s : State) (core : Nat) (id : Nat) (t : Txn) : State :=
  let f (r : Routine) : Routine :=
    if r.cmd.id = t.orig then
      let r1 := { r with sigs := r.sigs - 1 }
      if t.err = 0 then r1 else r1.halt t.err t.ix
    else r
  modCore (delTxn s id) core fun k => { k with run := k.run.map f, susp := k.susp.map f }

/-- Answered parts of the core's matrix unit of one kind. -/
def mxAnswers (s : State) (core : Nat) (kind : TxnKind) : List (Nat × Txn) :=
  s.txns.filter fun e => e.2.src == .mx core && e.2.kind == kind && e.2.out

/-- MRDA to scratchpad goes on: it is in hand until its last row is written. -/
def mrdaStep (s : State) (core t : Nat) (m : MCmd) : State :=
  let freed (s : State) : State := modCore s core fun k => { k with busyCmd := none }
  match mrdaRows core m.g t ((List.range (mrdaN m.b)).map (mrdaFirst m.b + ·)) m.a.toNat s with
  | .done s1 => freed s1
  | .bad s1 => freed (report s1 (mxRecord s1 m 0x10 0 0 none)).1
  | .left s1 n =>
    let j := mrdaN m.b - n
    modCore s1 core fun k =>
      { k with busyCmd := some { m with a := m.a + BitVec.ofNat 64 (256 * j), b := BitVec.ofNat 64 (mrdaFirst m.b + j + n * 2 ^ 6) } }

/-- Begin a command that has come to the head of an idle unit. -/
def mxBegin (s : State) (core : Nat) (m : MCmd) : State :=
  let pop (s : State) : State := modCore s core fun k => { k with mq := k.mq.drop 1 }
  match m.op with
  | .mcall _ _ =>
    let r := match (getCore s core).susp.find? fun r => r.cmd.id == m.id && r.live with
      | some r => r
      | none => Routine.start m
    modCore (pop s) core fun k => { k with run := some r, susp := k.susp.filter fun r => r.cmd.id != m.id }
  | .mzro _ t =>
    modCore (pop s) core fun k =>
      { k with tiles := k.tiles.filter fun x => x.1 / 64 != t.val, badTile := k.badTile.filter fun w => w / 4096 != t.val }
  | .mrdaScratchpad _ o => mrdaStep (pop s) core o.tl.val m
  | _ => if earlierDone s m.g m.seq then modCore (pop s) core fun k => { k with busyCmd := some m } else s

/-- MATRIX_COMMAND_BEGIN (R289, R322): answers arrive; the command in hand goes on, or the next begins. -/
def execMatrixCommandBegin (core : Nat) (s : State) : Res :=
  let s0 := (mxAnswers s core .atomic).foldl (fun s e => sigAnswer s core e.1 e.2) s
  let k := getCore s0 core
  match k.busyCmd with
  | some m =>
    match m.op, mxAnswers s0 core .load with
    | .mrdaScratchpad _ o, _ => .next (mrdaStep s0 core o.tl.val m)
    | _, (id, t) :: _ => .next (mloadAnswer s0 core m id t)
    | _, [] =>
      if m.parked || s0.txns.any (fun e => e.2.src == .mx core && e.2.kind == .load) then .next s0
      else .next (mloadPart s0 core m)
  | none =>
    if k.run.isSome then .next s0
    else
      match k.mq with
      | m :: _ => .next (mxBegin s0 core m)
      | [] => .next s0

/-- ROUTINE_COMPLETE (R297, R298, R300): flags, MSTAT, the record of a stop. -/
def execRoutineComplete (core : Nat) (s : State) : Res :=
  match (getCore s core).run with
  | none => .next s
  | some r =>
    if !(r.ended || r.stop.isSome) || !r.empty then .next s
    else
      let g := r.cmd.g
      let lost := r.open_ && !r.part.isEmpty
      let st := (if lost then 1 else 0) + (if r.stop.isSome then 2 else 0) + (if r.corr then 4 else 0) + r.mcyc % 2 ^ 32 * 2 ^ 32
      let s1 := engineFlags (modCore s core fun k => { k with run := none }) g r.flags
      let s2 := modCtx s1 g fun c => c.setShadow 0x20 (BitVec.ofNat 64 st)
      match r.stop with
      | none => .next s2
      | some (cause, word) => .next (report s2 (mxRecord s2 r.cmd cause word 0 none)).1

/-! ENGW. -/

/-- ENGW (R329): the recorded value alone, visible to the next course. -/
def execEngw (p : Syl) (sa : Fin 64) (ix : Nat) (s : State) : Res :=
  issue p s fun s =>
    needSystem s (let x := (issuer s).rdS sa.val; .next (modIssuer s fun c => c.setShadow ix x))

/-! The governor. -/

/-- LIM and the length of a freeze (R304). -/
def govLim (s : State) (core : Nat) : Nat := rfld s (mxctl core) 0 16
def govLen (s : State) (core : Nat) : Nat := 8 * max 1 (rfld s (mxctl core) 16 4)

/-- The window's sum exceeds LIM: the cycles after this one are frozen (R303). -/
def govern (s : State) (core : Nat) : State :=
  let w := (getCore s core).window.foldl (· + ·) 0
  if govLim s core < w then modCore s core fun k => { k with frozenTo := s.clock + 1 + govLen s core } else s

/-- GOVERNOR_CHECK (R303): at the end of a cycle that is not frozen; the cycle's weight enters the window. -/
def execGovernorCheck (core : Nat) (s : State) : Res :=
  if coreFrozen s core || 1024 ≤ core then .next s
  else .next (govern (modCore s core fun k => { k with window := (k.weight :: k.window).take 64, weight := 0 }) core)

/-- GOVERNOR_FREEZE_END (R303): the check at the end of a freeze's last cycle. -/
def execGovernorFreezeEnd (core : Nat) (s : State) : Res :=
  if (getCore s core).frozenTo = s.clock + 1 then .next (govern s core) else .next s

end Sys2Proof.Machine
end

