-- ==== Sys2Proof/Machine/System.lean ====
section
/-!
DEFINITION. What the stewards do to contexts and virtual functions: freeze, thaw and discard (R354, R355), VDRAIN and
HINVV (R366), SCRUB (R367). A freeze or a thaw is performed at the next cycle's start, the one cycle F or E of every die.
-/
namespace Sys2Proof.Machine

/-! Selection. -/

/-- Every context that a group holds and that has not executed EXIT: the others count as free (R354). -/
def placed (s : State) : List Nat :=
  (s.groups.flatMap fun x => x.2.ctxs).filter fun g => (getCtx s g).phase == .resident

/-- The contexts that a selector names (R354): never the issuing one, never a steward's. -/
def selected (s : State) (a : Word64) : List Nat :=
  let x := a.toNat
  let g := x / 4 % 2 ^ 12
  let hit (k : Nat) : Bool :=
    match x % 4 with
    | 0 => k == g
    | 1 => (getCtx s g).phase != .free && (getCtx s k).gid == (getCtx s g).gid
    | 2 => (groupOf s k).vf == x / 2 ^ 14 % 2 ^ 7
    | _ => (groupOf s k).part == x / 2 ^ 21 % 2 ^ 5
  (placed s).filter fun k => k != s.iss.g && !isSteward k && hit k

/-! Engine work of a frozen context (R355). -/

/-- A command withdrawn from the queue, as the suspended slot holds it. -/
def withdrawn (m : MCmd) : Routine := { Routine.start m with live := false }

/-- Suspend the context's commands: those of its channels become carried, but for one whose post, its last part, is on its way, which
ends with it (R446); those queued for the matrix unit are withdrawn, a suspended routine that waits there for its turn stays one. Its running
routine follows at its next group boundary (`suspendRun`); one that has issued END or has stopped issues nothing more and runs
out. -/
def suspend (s : State) (g : Nat) : State :=
  let core := coreOf g
  let s1 := { s with chans := s.chans.map fun x =>
    (x.1, x.2.map fun c => if c.g = g && !(c.posted && c.allSent s) then { c with carried := true } else c) }
  modCore s1 core fun k =>
    { k with mq := k.mq.filter fun m => m.g != g
             susp := k.susp ++ ((k.mq.filter fun m => m.g == g && k.susp.all fun r => r.cmd.id != m.id).map withdrawn) }

/-- The context's running routine has not come to a group boundary yet. -/
def midGroup (s : State) (g : Nat) : Bool :=
  match (getCore s (coreOf g)).run with
  | some r => r.cmd.g == g && !r.ended && r.stop.isNone
  | none => false

/-- Carried commands re-enter their channels, the routine and then the withdrawn commands the matrix queue, at the tails. -/
def resumeWork (s : State) (g : Nat) : State :=
  let core := coreOf g
  let back (l : List CCmd) : List CCmd :=
    (l.filter fun c => !(c.g == g && c.carried)) ++
      ((l.filter fun c => c.g == g && c.carried).map fun c => { c with carried := false })
  modCore { s with chans := s.chans.map fun x => (x.1, back x.2) } core fun k =>
    { k with mq := k.mq ++ ((k.susp.filter fun r => r.cmd.g == g && r.live).map (·.cmd)) ++
               ((k.susp.filter fun r => r.cmd.g == g && !r.live).map (·.cmd))
             susp := k.susp.filter fun r => r.cmd.g != g || r.live }

/-- Thaw a context (R354): it may issue in this cycle, E, or once the bubbles that the freeze caught are over. -/
def thawCtx (s : State) (g : Nat) : State :=
  let c := getCtx s g
  if !c.frozen then s
  else
    let e := localTime s (coreOf g)
    let s1 := setCtx s g { c.release e false with frozen := false, next := e + c.next }
    resumeWork (traceRec s1 g 2 0 c.pc) g

/-- FREEZE leaves TPC at the next course where no handler runs, in which TPC is the user's (R339, R444; DEDUCED, log 124). -/
def freezeTpc (s : State) (g : Nat) : State := modCtx s g fun c => if c.frozen || c.inh then c else { c with tpc := c.pc }

/-- The boundary of a cycle: thaw, and freeze, the contexts that wait for it; suspend the work of those that have frozen
(R354, R355). -/
def freezeAll (s : State) : State :=
  s.freezes.foldl (fun s g => if (getCtx s g).phase != .resident then s else suspend (freezeCtx (freezeTpc s g) g) g)
    (s.thaws.foldl thawCtx { s with freezes := [], thaws := [] })

/-! Dropping. -/

/-- Drop commands of the channels: nothing more of them is written, nothing posted. -/
def dropCmds (s : State) (p : CCmd → Bool) : State :=
  let gone (a : Agent) : Bool := match a with
    | .chan k id => (chanCmds s k).any fun c => c.id == id && p c
    | _ => false
  let s1 := { s with chans := (s.chans.map fun x => (x.1, x.2.filter fun c => !p c)).filter fun x => !x.2.isEmpty }
  let left (f : Nat × Nat) : Bool := (findCmd s1 f.1 f.2).isSome
  { s1 with
    txns := (s.txns.filter fun e => !(gone e.2.src && e.2.kind == .atomic && e.2.peer.isNone && !e.2.out)).map fun e =>
      if gone e.2.src then (e.1, { e.2 with cnt := 0 }) else e
    clusters := s1.clusters.map fun u =>
      (u.1, { u.2 with streams := u.2.streams.map fun x => (x.1, { x.2 with feeds := x.2.feeds.filter left }) }) }

/-- Parts of MLOADs of the core that are on their way bring their bytes to nothing. -/
def orphanLoads (s : State) (core : Nat) : State :=
  let mine (t : Txn) : Bool := t.src == .mx core && t.kind == .load
  { s with txns := (s.txns.filter fun e => !(mine e.2 && e.2.out)).map fun e =>
      if mine e.2 then (e.1, { e.2 with src := .part e.1 }) else e }

/-- Drop a context's matrix commands, and its routine. -/
def dropMatrix (s : State) (g : Nat) : State :=
  let mload := match (getCore s (coreOf g)).busyCmd with
    | some m => m.g == g
    | none => false
  modCore (if mload then orphanLoads s (coreOf g) else s) (coreOf g) fun k =>
    { k with mq := k.mq.filter fun m => m.g != g, susp := k.susp.filter fun r => r.cmd.g != g
             run := match k.run with
               | some r => if r.cmd.g = g then none else some r
               | none => none
             busyCmd := match k.busyCmd with
               | some m => if m.g = g then none else some m
               | none => none }

/-- A FENCE that has entered the release buffer from the head of LAQ. -/
def isFence (i : Instr) : Bool := match aop i with
  | .fence _ _ => true
  | _ => false

/-- Discard a frozen context (R354). -/
def discardCtx (s : State) (g : Nat) : State :=
  let s1 := dropMatrix (dropCmds s fun c => c.g == g) g
  let s2 := modCtx s1 g fun c => { c with frozen := false, laq := [], sdq := [], flight := [], held := [], hld := false, apq := [] }
  let s3 := modCore s2 (coreOf g) fun k => { k with rels := k.rels.filter fun r => r.g != g || !isFence r.req.op }
  modGroup (exitContext s3 g) (getCtx s g).gid fun u => { u with dead := true }

/-! FREEZE, thaw and discard. -/

/-- The word that FREEZE, thaw and discard share (R354): b names the operation. -/
def freezeWord (p : Syl) (o : MS) (s : State) : Res :=
  issue p s fun s =>
    let a := (issuer s).rdS o.sa.val
    let b := (issuer s).rdS o.sb.val
    let sel := selected s a
    needSystem s
      (if 3 ≤ b.toNat || 2 ^ 26 ≤ a.toNat then trapFree s 0x03
       else
         match b.toNat with
         | 0 =>
           let todo := sel.filter fun g => !(getCtx s g).frozen
           -- the wait lasts until every routine has come to its boundary
           if (issuer s).mark.any (fun m => m.1 == s.iss.pc) || todo.isEmpty then
             (if sel.any (midGroup s) then waitMark s else .next s)
           else waitMark { s with freezes := s.freezes ++ todo }
         | 1 =>
           let todo := sel.filter fun g => (getCtx s g).frozen
           if (issuer s).mark.any (fun m => m.1 == s.iss.pc) || todo.isEmpty then .next s
           else waitMark { s with thaws := s.thaws ++ todo }
         | _ =>
           if !(sel.all fun g => (getCtx s g).frozen) then trapFree s 0x05
           -- parts in progress run to completion first (R355)
           else if s.chans.any fun x => x.2.any fun c => sel.contains c.g && !c.parts.isEmpty then waitMark s
           else .next (sel.foldl discardCtx s))

/-- FREEZE. -/
def execFreeze (p : Syl) (o : MS) (s : State) : Res := freezeWord p o s
/-- FREEZE written as a thaw. -/
def execThaw (p : Syl) (o : MS) (s : State) : Res := freezeWord p o s
/-- FREEZE written as a discard. -/
def execDiscard (p : Syl) (o : MS) (s : State) : Res := freezeWord p o s

/-! A virtual function's contexts. -/

/-- Contexts of VF v, those that have executed EXIT among them. -/
def vfCtxs (s : State) (v : Nat) : List Nat :=
  (s.groups.filter fun x => x.2.vf == v && decide (x.2.cluster < 256)).flatMap fun x => x.2.ctxs
/-- Neither running nor waiting: frozen or free (R354). -/
def quietCtx (s : State) (g : Nat) : Bool := (getCtx s g).frozen || (getCtx s g).phase != .resident
def vfQuiet (s : State) (v : Nat) : Bool := (vfCtxs s v).all (quietCtx s)

/-- The operand of VDRAIN and HINVV (R366). -/
def withVf (p : Syl) (sa : Fin 64) (s : State) (f : Nat → State → Res) : Res :=
  issue p s fun s =>
    let a := (issuer s).rdS sa.val
    needSystem s (if 128 ≤ a.toNat then trapFree s 0x03 else f a.toNat s)

/-- The course has begun its wait. -/
def marked (s : State) : Bool := (issuer s).mark.any fun m => m.1 == s.iss.pc

/-! VDRAIN. -/

/-- The queued commands of a launch engine: not begun, waiting for a slot of its ring, or parked. -/
def lengIdle (c : LCmd) : Bool := c.stage == 0 || c.stage == 2 || c.stage == lengParked

/-- A request of VF v that waits at a home of this module is withdrawn without its effect (R366): at a full/empty bit, at a sync
object, for room in the Sump, for a unit of a migration; so is a Pump part that no bank has taken. -/
def waitsHere (s : State) (v id : Nat) (t : Txn) : Bool :=
  t.tag s == some v && t.peer.isNone && !t.out &&
    (t.kind == .acquire || t.kind == .pcmd || (t.kind == .load && t.fe != 0 && decide (t.fe < 13)) || sumpWaits t || s.mig.held.contains id)

/-- VDRAIN drops the commands of VF v. Of one whose parts are still in progress nothing more starts; they run to completion and it is
dropped then (R355, R366). -/
def vfDropCmds (s : State) (v : Nat) : State :=
  let mine (c : CCmd) : Bool := !c.who.steward && c.vf == v
  let s1 := { s with chans := s.chans.map fun x => (x.1, x.2.map fun c =>
    if mine c then { c with carried := true, parts := c.parts.filter fun id => (tfind s.txns id).isSome } else c) }
  dropCmds s1 fun c => mine c && c.parts.isEmpty

/-- What VDRAIN drops of VF v. -/
def vfDrop (s : State) (v : Nat) : State :=
  let cs := vfCtxs s v
  let own (g : Nat) : Bool := cs.contains g
  let gone := (s.txns.filter fun e => waitsHere s v e.1 e.2).map (·.1)
  let s1 := vfDropCmds (heldDrop { s with txns := s.txns.filter fun e => !gone.contains e.1 } v (s.mig.held.filter gone.contains)) v
  let s2 := cs.foldl (fun s g =>
    modCtx (dropMatrix s g) g fun c =>
      { c with laq := c.laq.filter fun q => q.done != 0 && !q.slot, ldq := c.ldq.filter (·.filled), acqWait := false, apq := [],
               waitEnd := c.waitEnd.map fun w => (w.1, true) }) s1
  { s2 with
    cores := s2.cores.map fun k =>
      (k.1, { k.2 with leng := k.2.leng.filter fun c => !(own c.g && lengIdle c)
                       rels := k.2.rels.filter fun r => !(own r.g && isFence r.req.op) })
    banks := (s2.banks.map fun b => (b.1, b.2.filter fun p => !(p.txn.kind == .pcmd && p.txn.tag s == some v))).filter fun b => !b.2.isEmpty
    faults := { s2.faults with
      wait := s2.faults.wait.filter fun r => !(r.steward.isNone && r.vf == v)
      batch := tdel s2.faults.batch v
      ranges := s2.faults.ranges.filter fun r => r.vf != v } }

/-- A request that the Ridge die makes of its own for a VF: of an all-reduce or a migration. -/
def ridgeOwn (u : Use) : Bool :=
  match u with
  | .txn _ => false
  | .probe _ => false
  | _ => true

/-- Nothing tagged v is left in the module, and every request toward a peer has its response. -/
def vfEmpty (s : State) (v : Nat) : Bool :=
  (s.txns.all fun e => e.2.tag s != some v) && (s.banks.all fun b => b.2.all fun p => p.txn.tag s != some v) &&
  (s.walks.all fun w => w.2.vf != v) && (s.chans.all fun x => x.2.all fun c => c.who.steward || c.vf != v) &&
  (s.fab.outst.all fun e => !ridgeOwn e.2.use || e.2.m.vf != v) && (s.fab.waiting.all fun w => w.1.vf != v || w.1.op == 9) &&
  (vfCtxs s v).all fun g =>
    let k := getCore s (coreOf g)
    k.rels.all (fun r => r.g != g) && k.leng.all (fun c => c.g != g) && ((getCtx s g).laq.isEmpty)

/-- VDRAIN (R366). -/
def execVdrain (p : Syl) (sa : Fin 64) (s : State) : Res :=
  withVf p sa s fun v s =>
    if !vfQuiet s v then trapFree s 0x05
    else
      let s1 := vfDrop s v
      let s2 := rsetF s1 (frcfg v + 16) 32 16 0
      if vfEmpty s2 v then .next s2 else waitMark s2

/-! HINVV. -/

/-- HINVV (R366): HINVAL over the whole range; a context's waits include it. -/
def execHinvv (p : Syl) (sa : Fin 64) (s : State) : Res :=
  withVf p sa s fun v s =>
    let s1 := invalidateHeld (if marked s then s else invalidate s v 0 (2 ^ 41) false) v 0 (2 ^ 41) false
    if invalPending s1 v 0 (2 ^ 41) then waitMark s1 else .next s1

/-! SCRUB. -/

/-- REG (R367): the start state of R20 and R339, nothing held, no queue entry; a frozen context stays frozen. -/
def scrubCtx (s : State) (g : Nat) : State :=
  modCtx s g fun c =>
    { Ctx.reset with phase := c.phase, frozen := c.frozen, gid := c.gid, pc := (groupOf s g).code,
                     mode := isSteward g, tvec := if isSteward g then 0 else rfld s (vfctl (groupOf s g).vf + 8) 0 57,
                     arrived := c.arrived, reqSeq := c.reqSeq, sdqSeq := c.sdqSeq, stSeq := c.sdqSeq, next := if c.frozen then 0 else c.next }

/-- MAT (R367) on one core. -/
def scrubCore (s : State) (core : Nat) : State :=
  modCore (orphanLoads s core) core fun k =>
    { k with tiles := [], badTile := [], ustore := [], susp := [], mq := [], run := none, busyCmd := none }

/-- Bytes [a, a + n) become 0, and their ECC words good. -/
def zeroRange (s : State) (a n : Nat) : State :=
  { s with mem := s.mem.filter fun c => decide (c.1 < a) || decide (a + n ≤ c.1)
           spoiled := s.spoiled.filter fun w => decide (w < a) || decide (a + n ≤ w) }

/-- SCR (R367) on one cluster. -/
def scrubScratch (s : State) (clu : Nat) : State :=
  let a := cluBase clu
  let s1 := zeroRange s a (2 ^ 21)
  modClu { s1 with fe := s1.fe.filter fun x => decide (16 * x.1 < a) || decide (a + 2 ^ 21 ≤ 16 * x.1) } clu fun c =>
    { c with bars := [], streams := [] }

/-- Registers from a on, n words of 8 bytes, become 0. -/
def zeroRegs (s : State) (a n : Nat) : State := (List.range n).foldl (fun s i => rset s (a + 8 * i) 0) s

/-- CFG (R367). -/
def scrubCfg (s : State) (v : Nat) : State :=
  let s1 := (List.range 16).foldl (fun s i => zeroRegs (zeroRegs s (twr v i) 4) (mcg v i) 4) s
  let s2 := rset (rset (rset s1 (mistat v) 0) (prqcfg v + 8) 0) (frcfg v + 8) 0
  let s3 := (List.range 256).foldl (fun s c => (List.range 16).foldl (fun s i =>
    if rfld s (rarm c i) 1 7 = v then
      modClu (zeroRegs s (rarm c i) 4) c fun u => { u with counts := u.counts.filter fun x => x.1 / 2 ^ 16 != i }
    else s) s) s2
  let s4 := (List.range 64).foldl (fun s q => if rfld s (cqcfg q) 1 7 = v then rsetF s (cqcfg q) 0 1 0 else s) s3
  let s5 := (List.range 256).foldl (fun s q => if rfld s (lqcfg q) 57 7 = v then rsetF s (lqcfg q) 0 1 0 else s) s4
  let keep := s5.sump.filter fun r => r.vf != v
  let s6 := rsetF s5 (sumpcfg + 8) 0 32 (rfld s5 (sumpcfg + 8) 0 32 - (s5.sump.length - keep.length))
  let s7 := { s6 with
    sump := keep
    binds := s6.binds.filter fun b => b.vf != v
    launches := s6.launches.filter fun l => !(l.2.vf == v && decide (l.2.q < 256)) }
  after s7 0 (.faultRingRoom v)

/-- The clusters that VF v holds. -/
def vfClusters (s : State) (v : Nat) : List Nat := (List.range 256).filter fun c => (groupsOn s c).any fun x => x.2.vf == v

/-- The parts of SCRUB that b selects. -/
def scrub (s : State) (v b : Nat) : State :=
  let cl := vfClusters s v
  let s1 := if b % 2 = 1 then (vfCtxs s v).foldl scrubCtx s else s
  let s2 := if b / 2 % 2 = 1 then (cl.flatMap fun c => [4 * c, 4 * c + 1, 4 * c + 2, 4 * c + 3]).foldl scrubCore s1 else s1
  let s3 := if b / 4 % 2 = 1 then cl.foldl scrubScratch s2 else s2
  if b / 8 % 2 = 1 then scrubCfg s3 v else s3

/-- SCRUB (R367). -/
def execScrub (p : Syl) (o : MS) (s : State) : Res :=
  issue p s fun s =>
    let a := ((issuer s).rdS o.sa.val).toNat
    let b := ((issuer s).rdS o.sb.val).toNat
    needSystem s
      (if 128 ≤ a || 16 ≤ b then trapFree s 0x03
       else if b % 8 ≠ 0 && !vfQuiet s a then trapFree s 0x05
       else .next (scrub s a b))

end Sys2Proof.Machine
end

