-- ==== Sys2Proof/Machine/SaveArea.lean ====
section
/-!
DEFINITION. CSAVE and CLOAD (R357 to R361): the save area's words, the checks, the restore. Each acts in one step once what
it waits for has been performed. The places that R358 and R360 leave to the implementation are fixed here (log 17).
-/
namespace Sys2Proof.Machine

/-! The operands. -/

/-- The controls of R357. -/
structure SaveCtl where
  g     : Nat
  other : Bool
  eng   : Bool
  acc   : Bool
  grp   : Bool
  scr   : Bool
deriving DecidableEq, Repr

def saveCtl (s : State) (b : Word64) : SaveCtl :=
  { g := if b.getLsbD 12 then b.toNat % 2 ^ 12 else s.iss.g, other := b.getLsbD 12, eng := b.getLsbD 13,
    acc := b.getLsbD 14, grp := b.getLsbD 15, scr := b.getLsbD 16 }

/-- The bits that a control needs are there. -/
def SaveCtl.legal (x : SaveCtl) (b : Word64) : Bool :=
  decide (b.toNat < 2 ^ 17) && (x.other || (!x.eng && !x.acc)) && (!x.scr || x.grp)

/-! Offsets (R358). -/

def saBase : Nat := 0x08A00 + 72 * 288
def saCarried : Nat := 0x10000
def saMatrix : Nat := 0x1E000
def saTiles : Nat := 0x6E400
def saGroup : Nat := 0xAE400
def saFe : Nat := 0xAEC00
def saScr : Nat := 0xB2C00

/-- A routine of the target is suspended, begun and not ended. -/
def savedRoutine (s : State) (x : SaveCtl) : Option Routine :=
  if x.eng then (getCore s (coreOf x.g)).susp.find? fun r => r.cmd.g == x.g && r.live else none

/-- The regions that the controls select: offset and bytes, ascending. -/
def saveRegions (s : State) (x : SaveCtl) (routine : Bool) : List (Nat × Nat) :=
  [(0, saBase)] ++ (if x.eng then [(saCarried, 0xE000)] else []) ++ (if routine then [(saMatrix, 0x400 + 5 * 0x10000)] else []) ++
    (if x.acc then [(saTiles, 0x40000)] else []) ++ (if x.grp then [(saGroup, 0x800)] else []) ++
    (if x.scr then [(saFe, 0x4000), (saScr, (groupOf s x.g).size)] else [])

/-! What CSAVE writes. A chunk is an offset and its bytes; what no chunk names in a selected region is 0. -/

abbrev Chunk := Nat × List Byte

def ck8 (o : Nat) (x : Nat) : Chunk := (o, bytesOf (BitVec.ofNat 64 x) 8)
def ckW (o : Nat) (l : List Nat) : List Chunk := l.zipIdx.map fun x => ck8 (o + 8 * x.2) x.1
def ckV (o n : Nat) (x : VWord) : Chunk := (o, bytesOf x n)

def b2w (b : Bool) (k : Nat) : Nat := if b then 2 ^ k else 0

/-- An exact value (R358). -/
def exactWord (v : Val) : Nat :=
  match v with
  | .fin neg m e =>
    let k : Nat := m.log2 - 111
    b2w neg 127 + (Int.toNat (e + (k : Int) + 16383)) % 2 ^ 15 * 2 ^ 112 + m / 2 ^ k % 2 ^ 112
  | .inf neg => b2w neg 127 + 0x7FFF * 2 ^ 112
  | .nan neg p => b2w neg 127 + 0x7FFF * 2 ^ 112 + 2 ^ 23 + p % 2 ^ 23
def ofExact (x : Nat) : Val :=
  let neg := x / 2 ^ 127 % 2 == 1
  let e : Nat := x / 2 ^ 112 % 2 ^ 15
  let m : Nat := x % 2 ^ 112
  if e = 0x7FFF then (if m = 0 then .inf neg else .nan neg (m % 2 ^ 23)) else .fin neg m ((e : Int) - 16383)
/-- A zero is no entry of a table of sums: all-zero sums are the empty table (R297). -/
def Val.isNil : Val → Bool
  | .fin _ m _ => m == 0
  | _ => false
def ckVals (o : Nat) (t : Tab Val) : List Chunk := t.map fun x => (o + 16 * x.1, bytesOf (BitVec.ofNat 128 (exactWord x.2)) 16)

/-- The place of an SDQ entry from the head; a store may be paired with one not yet pushed. -/
def sdqIndex (c : Ctx) (n : Nat) : Nat := n - match c.sdq with
  | e :: _ => e.seq
  | [] => c.sdqSeq

/-- A held record (R360). -/
def heldChunks (c : Ctx) (j : Nat) (f : Flight) : List Chunk :=
  let (cls, n) := match f.dest with
    | .s n => (1, n) | .v n => (2, n) | .k n => (3, n) | .p n => (4, n) | .b n => (5, n) | .h n => (6, n) | .g n => (7, n)
    | .sdq n => (8, sdqIndex c n) | .sr n => (9, n) | .flags => (10, 0)
  let o := 0x08A00 + 288 * j
  [ck8 o (cls + n % 64 * 2 ^ 4 + min 63 f.due * 2 ^ 10 + f.flags.toNat * 2 ^ 16 + b2w f.trap 21), ck8 (o + 8) f.mask.toNat,
   ckV (o + 32) 256 f.val]

/-- LDG and STG, whose lane offsets an entry of LAQ holds (R360). -/
def isGather (i : Instr) : Bool :=
  match aop i with
  | .ldv _ .gather => true
  | .stv _ .gather => true
  | _ => false

/-- A request in LAQ (R360). The capture of FMODE and SEED stands at DW3, the course and mode at DW6, the second operand at
DW7, the random values of a store or a float add where the lanes of a gather stand, the granules that a waiting form has taken in
DW0[51:42]. -/
def laqChunks (c : Ctx) (j : Nat) (q : Req) : List Chunk :=
  let o := 0x06200 + 320 * j
  let lanes := if isGather q.op then q.lanes else q.rnd
  [ck8 o ((sylWordOf q.op).toNat + (match q.sdq with
     | some n => sdqIndex c n % 32
     | none => 0) * 2 ^ 32 + krOf q.op * 2 ^ 37 + b2w q.trap 41 + (if q.waits then q.done % 2 ^ 10 else 0) * 2 ^ 42),
   ck8 (o + 8) q.addr.toNat, ck8 (o + 16) (if q.x = 0 then q.step.toNat else q.x.toNat),
   ck8 (o + 24) (q.fmode.toNat + q.seed.toNat * 2 ^ 32), (o + 32, bytesOf (q.h.getD 0) 16),
   ck8 (o + 48) (q.ipc + b2w q.sys 63), ck8 (o + 56) q.y.toNat, ckV (o + 64) 256 lanes]

/-- Where a carried command goes on: its tile byte, or its put's member. A feed goes on at its first entry not filled. -/
def carriedNext (s : State) (c : CCmd) : Nat :=
  let n := match c.fault with
    | some f => min c.next f.2.1
    | none => c.next
  if c.kind = 2 then (if c.next = 0 then 0 else min n (128 * ((getStream s (feedSlot s c)).filled - c.entry))) else n

/-- A carried command (R360). -/
def carriedChunks (s : State) (k j : Nat) (c : CCmd) : List Chunk :=
  let o := saCarried + 448 * j
  let t := tileOf c.pkt
  let e := carriedNext s c / t.esz
  let coord := (t.coords e).foldr (fun i acc => acc * 256 + i % 256) 0
  let sent := decide (c.total s ≤ c.next)
  let (dw3, dw4) := if c.kind < 3 then (coord % 2 ^ 40, t.elems - e)
    else ((if c.kind = 4 then c.next % 2 ^ 14 else 0), if sent then 0 else c.n)
  [ck8 o (c.kind + k % 4 * 2 ^ 4 + c.stream % 16 * 2 ^ 6), ck8 (o + 8) c.cidx, ck8 (o + 16) c.ipc, ck8 (o + 24) dw3, ck8 (o + 32) dw4,
   ck8 (o + 40) (c.fmode.toNat + c.seed.toNat * 2 ^ 32), ck8 (o + 48) c.entry, (o + 64, bytesOf c.pkt 64),
   (o + 128, bytesOf (c.src.getD 0) 16), (o + 144, bytesOf (c.dst.getD 0) 16), ckV (o + 160) 256 c.data]

/-- The carried commands of a context with their channels. -/
def carriedOf (s : State) (g : Nat) : List (Nat × CCmd) :=
  s.chans.flatMap fun x => (x.2.filter fun c => c.g == g && c.carried).map fun c => (x.1, c)

/-- The words of what a matrix command has captured (R74): FMODE and SEED, the course and mode, GA0 to GA7. -/
def captureWords (m : MCmd) : List Nat :=
  [m.fmode.toNat + m.seed.toNat * 2 ^ 32, m.ipc + b2w m.sys 63] ++ ((m.ga ++ List.replicate 8 (0 : Word64)).take 8).map BitVec.toNat
/-- A withdrawn matrix command: the syllable word and b at DW0, a at DW1; the rest of its capture at 0x9C0 + 80 j (log 17). -/
def withdrawnChunks (j : Nat) (m : MCmd) : List Chunk :=
  [ck8 (0x00940 + 16 * j) ((sylWordOf m.op).toNat % 2 ^ 32 + m.b.toNat % 2 ^ 32 * 2 ^ 32), ck8 (0x00948 + 16 * j) m.a.toNat] ++
    ckW (0x009C0 + 80 * j) (captureWords m)
def withdrawnOf (s : State) (g : Nat) : List MCmd :=
  ((getCore s (coreOf g)).susp.filter fun r => r.cmd.g == g && !r.live).map (·.cmd)

/-- The matrix control of a suspended routine: one word for each loop level, the first STEP pair and each pipeline stage; last, the
entries that the next group's SKIPs have popped already, and the rest of the command's capture (log 17). -/
def routineChunks (r : Routine) : List Chunk :=
  let lv (l : ULoop) : Nat := l.start + l.len * 2 ^ 12 + l.left * 2 ^ 24
  let pair := match r.first with
    | some p => p.fa.val + p.fb.val * 2 ^ 5 + b2w p.sat 10 + 2 ^ 11
    | none => 0
  let pipe (p : Pipe) : Nat := 1 + p.tile * 2 ^ 4 + p.left * 2 ^ 8 + p.word * 2 ^ 16
  let four (l : List Nat) : List Nat := (l ++ [0, 0, 0, 0]).take 4
  ckW saMatrix ([r.upc] ++ four (r.loops.map lv) ++ [r.tile, pair, r.cmd.fmode.toNat] ++
    ((r.cmd.ga ++ List.replicate 8 (0 : Word64)).take 8).map BitVec.toNat ++ four (r.pipe.map pipe) ++ [if r.open_ then 1 else 0, r.mcyc]) ++
  [(saMatrix + 8 * 22, bytesOf r.bandA 128), (saMatrix + 8 * 22 + 128, bytesOf r.bandB 128), ck8 (saMatrix + 8 * 54) (r.skipA + r.skipS * 2 ^ 8)] ++
    ckW (saMatrix + 8 * 55) [r.cmd.ipc + b2w r.cmd.sys 63, r.cmd.seed.toNat, if r.corr then 1 else 0, r.cmd.a.toNat] ++
    ckVals (saMatrix + 0x400) r.part ++ (r.pipe.zipIdx.flatMap fun p => ckVals (saMatrix + 0x10400 + 0x10000 * p.2) p.1.sums)

/-- The group's slots (R358). -/
def groupChunks (s : State) (gr : Group) : List Chunk :=
  gr.slots.zipIdx.flatMap fun x =>
    let b := tget BarSlot.free (getClu s gr.cluster).bars x.1
    let st := getStream s (gr.cluster, x.1)
    [ck8 (saGroup + 8 * x.2) (b.exp % 32 + b.arr % 32 * 2 ^ 8 + b2w b.phase 16)] ++
      ckW (saGroup + 0x80 + 32 * x.2) [if st.defined then 1 else 0, st.low, st.filled]

/-- The special registers in the order of R358. APEND stands for records of engine faults alone. -/
def saveSpecials (s : State) (g : Nat) (fl : BitVec 5) : List Nat :=
  let c := getCtx s g
  let c1 := (c.orFlags fl)
  [if g = s.iss.g then s.iss.pc else c.pc, c.itr, c.stg, c.eix, c.rot, c1.fmode.toNat, c.seed.toNat, c.tvec, c.tpc, c.tnext,
   c.tcause.toNat, c.tinfo.toNat, ({ c with apq := [] } : Ctx).tstat.toNat, c.tsav0.toNat, c.tsav1.toNat, c.tsav2.toNat, c.tsav3.toNat,
   c.csa, c.scyc, c.apinfo.toNat]

/-- The head of LAQ waits at full/empty bits and has taken some of its granules. -/
def headTook (c : Ctx) : Option Req :=
  match c.laq with
  | q :: _ => if q.waits && q.done != 0 then some q else none
  | [] => none
/-- LDQ entries that are saved: those of requests that have left, then that of a waiting form at the head that has taken granules, as
what has come. -/
def saveLdq (c : Ctx) : List LdqEntry :=
  (c.ldq.filter fun e => e.filled || c.laq.all fun q => q.seq != e.req.seq) ++
    match headTook c with
    | some q => (c.ldq.filter fun e => !e.filled && e.req.seq == q.seq).map fun e =>
        { e with val := BitVec.ofNat 2048 (natOfBytes ((List.range 256).map (tget 0 e.raw))) }
    | none => []
/-- The LAQ requests before arrivals not yet counted, 8 bits for each slot from `lo` on (log 17). -/
def uncountedWord (c : Ctx) (lo : Nat) : Nat :=
  (List.range 8).foldl (fun n i => n + match c.uncounted.find? fun u => u.1 == lo + i with
    | some u => (c.laq.filter fun q => decide (q.seq < u.2)).length * 2 ^ (8 * i)
    | none => 0) 0

/-- Everything CSAVE writes. -/
def saveChunks (s : State) (x : SaveCtl) : List Chunk :=
  let g := x.g
  let c := getCtx s g
  let run := savedRoutine s x
  let ldq := saveLdq c
  let car := if x.eng then (carriedOf s g).take 128 else []
  let wd := if x.eng then (withdrawnOf s g).take 8 else []
  let regs := saveRegions s x run.isSome
  let size := match regs.getLast? with
    | some r => r.1 + r.2
    | none => 0
  let counts := c.held.length + c.laq.length * 2 ^ 8 + ldq.length * 2 ^ 16 + c.sdq.length * 2 ^ 24 + car.length * 2 ^ 32 + wd.length * 2 ^ 40
  ckW 0 [0x4B53 + 2 ^ 16 + b2w x.eng 24 + b2w run.isSome 25 + b2w x.acc 26 + b2w x.grp 27 + b2w x.scr 28 + b2w (!x.other) 29 + size * 2 ^ 32,
    if x.other then c.scyc else c.trapAt, (ctxReg s g).toNat, counts, (groupOf s g).shape] ++
  ckW 0x100 (saveSpecials s g (match run with
    | some r => r.flags
    | none => 0)) ++
  ckW 0x200 ((List.range 64).map fun i => (tget 0 c.s i).toNat) ++ ckW 0x400 ((List.range 16).map fun i => (c.rdK i).toNat) ++
  ckW 0x480 ((List.range 8).map fun i => (tget 0 c.b i).toNat) ++ ckW 0x4C0 ((List.range 8).map fun i => (c.rdG i).toNat) ++
  ((List.range 16).map fun i => (0x500 + 16 * i, bytesOf (c.rdH i) 16)) ++
  ckW 0x600 [(List.range 16).foldl (fun n i => n + b2w (i == 0 || tget false c.p i) i) 0, c.arrived.toNat % 2 ^ 16,
    (List.range 16).foldl (fun n i => n + b2w (c.uncounted.any fun u => u.1 == i) i) 0, uncountedWord c 0, uncountedWord c 8] ++
  [ck8 0xFF8 (if x.other then c.next % 256 + b2w c.bubble 8 else 0)] ++
  ckW 0x640 ((List.range 64).map fun i => (c.rdShadow i).toNat) ++ [ckV 0x840 256 c.gens] ++
  (wd.zipIdx.flatMap fun m => withdrawnChunks m.2 m.1) ++
  ((List.range 32).map fun i => ckV (0x1000 + 256 * i) 256 (tget 0 c.v i)) ++
  (ldq.zipIdx.flatMap fun e =>
    [ckV (0x3000 + 256 * e.2) 256 e.1.val, ck8 (0x5000 + 8 * e.2) (1 + b2w e.1.filled 1 + b2w e.1.failed 2)]) ++
  (c.sdq.zipIdx.flatMap fun e =>
    [ckV (0x5100 + 256 * e.2) 256 e.1.val, ck8 (0x6100 + 8 * e.2) e.1.mask.toNat, ck8 (0x6180 + 8 * e.2) (1 + b2w e.1.filled 1)]) ++
  (c.laq.zipIdx.flatMap fun q => laqChunks c q.2 q.1) ++ (c.held.zipIdx.flatMap fun f => heldChunks c f.2 f.1) ++
  (car.zipIdx.flatMap fun m => carriedChunks s m.1.1 m.2 m.1.2) ++ (match run with
    | some r => routineChunks r
    | none => []) ++
  (if x.acc then (List.range 1024).map fun i => ckV (saTiles + 256 * i) 256 (tget 0 (getCore s (coreOf g)).tiles i) else []) ++
  (if x.grp then groupChunks s (groupOf s g) else []) ++
  (if x.scr then
    let gr := groupOf s g
    let a := cluBase gr.cluster + gr.base
    (saFe, (List.range ((gr.size + 127) / 128)).map fun i =>
      BitVec.ofNat 8 ((List.range 8).foldl (fun n j => n + b2w (decide (128 * i + 16 * j < gr.size) && feGet s (a + 128 * i + 16 * j)) j) 0)) ::
    [(saScr, mreadN s a gr.size)]
  else [])

/-! Conditions. -/

/-- The target's matrix work has come to rest (R355): no routine of it runs, or of any context where the tiles are saved, no command of
it is under way, and the adds of its SIGs have been answered. -/
def matrixSaved (s : State) (x : SaveCtl) : Bool :=
  let k := getCore s (coreOf x.g)
  let mine (m : MCmd) : Bool := x.acc || (x.eng && m.g == x.g)
  (match k.run with
   | some r => !mine r.cmd
   | none => true) &&
  (match k.busyCmd with
   | some m => !mine m || m.parked
   | none => true) &&
  k.susp.all fun r => !mine r.cmd || r.sigs == 0

/-- The head has left: a part of it, or the whole of a form that waits at a peer. -/
def headLeft (s : State) (q : Req) : Bool :=
  if q.waits then q.slot && (match q.h with
    | some h => homeMod s h != moduleNo s
    | none => false)
  else q.done != 0 && !q.slot
/-- What has left has been performed, and what of the engines runs to completion has (R355, R358). -/
def saveReady (s : State) (x : SaveCtl) : Bool :=
  let c := getCtx s x.g
  let seq := match c.laq with
    | q :: _ => if headLeft s q then q.seq + 1 else q.seq
    | [] => c.reqSeq
  earlierDone s x.g seq && !pumpQueued s x.g && (c.ldq.all fun e => e.filled || c.laq.any fun q => q.seq == e.req.seq) && matrixSaved s x &&
    (!x.other || (s.chans.all fun y => y.2.all fun m => m.g != x.g || (m.carried && m.parts.isEmpty)) &&
      (getCore s (coreOf x.g)).leng.all fun m => m.g != x.g)

/-- A part of the area lies where it cannot be written, or a Pump part is to come first. -/
def areaStopped (s : State) (a n : Nat) : Bool :=
  !s.alerts.isEmpty && (List.range (n / 256 + 1)).any fun i => stopped s (a + 256 * i) && !migFrame s (a + 256 * i)
def areaPending (s : State) (a n : Nat) : Bool :=
  s.banks.any fun b => b.2.any fun p => decide (a < p.txn.pa + 256) && decide (p.txn.pa < a + n)

/-- The common checks of CSAVE and CLOAD (R357, R362): the area and the controls. -/
def withArea (p : Syl) (o : MS) (load : Bool) (s : State) (f : Nat → SaveCtl → State → Res) : Res :=
  issue p s fun s =>
    let a0 := ((issuer s).rdS o.sa.val).toNat
    let b := (issuer s).rdS o.sb.val
    let x := saveCtl s b
    let a := if a0 = 0 then (getCtx s x.g).csa else a0
    let core := coreOf x.g
    needSystem s
      (if !x.legal b then trapFree s 0x03
       else if a % 4096 ≠ 0 || !(tierOf a == some 0 || tierOf a == some 1) then trapNow s 0x03 (BitVec.ofNat 64 a)
       else if (x.other && !(getCtx s x.g).frozen) || (x.acc && !(List.range 4).all fun i => quietCtx s (ctxBase core + i)) ||
           (!x.other && (issuer s).hld == load) then trapFree s 0x05
       else if !isSteward s.iss.g && !(partOk s (vfOf s s.iss.g) a && partOk s (vfOf s s.iss.g) (a + saScr)) then
         trapNow s 0x05 (BitVec.ofNat 64 a)
       else f a x s)

/-! Frames of a migration (R422, R426): what of the area lies there is read and written by requests, in units of 256 bytes. -/

/-- The pieces of regions, given from their first byte, that lie in frames of a migration: offset and length. -/
def areaAway (s : State) (a : Nat) (l : List (Nat × Nat)) : List (Nat × Nat) :=
  if s.mig.seals.isEmpty && s.mig.units.isEmpty then []
  else l.flatMap fun r => ((cutAt 256 (a + r.1) r.2).filter fun p => migFrame s p.1).map fun p => (p.1 - a, p.2)

/-- The whole that the course at issue waits for. -/
def areaWhole (s : State) : Option (Nat × Txn) :=
  s.txns.find? fun e => e.2.isArea && e.2.src == .ctx s.iss.g && e.2.req.ipc == s.iss.pc

/-- Begin a whole, or its next round, with a request for each piece; `wr` gives the bytes of a save. -/
def areaAsk (s : State) (w : Txn) (id a : Nat) (l : List (Nat × Nat)) (save : Option State) : State :=
  let s0 := setTxn s id { w with left := l.length, out := false, err := 0 }
  l.foldl (fun s p =>
    let f (kind : TxnKind) (t : Txn) : Txn :=
      { t with kind := kind, src := .part id, die := w.die, len := p.2, dl := true }
    match save with
    | some s1 => hwSend s .store (a + p.1) (fun t => { f .store t with wr := cellsAt (a + p.1) (mreadN s1 (a + p.1) p.2) }) .storePerform
    | none => hwSend s .load (a + p.1) (fun t => { f .load t with rd := (List.range p.2).map fun i => (a + p.1 + i, p.1 + i) }) .loadPerform)
    s0

/-- A whole of the course at issue. -/
def areaTxn (s : State) (op : Instr) : Txn :=
  let g := s.iss.g
  Txn.base .fe (.ctx g) { Req.blank with op := op, seq := (getCtx s g).reqSeq, ipc := s.iss.pc } (dieOfCore (coreOf g)) (vfOf s g) 0

/-- The pieces as they stand in another state. -/
def putBack (s old : State) (a : Nat) (l : List (Nat × Nat)) : State :=
  l.foldl (fun s p => mwriteL s (a + p.1) (mreadN old (a + p.1) p.2)) s
/-- Bytes that requests have brought, by offset, as if they stood in the area. -/
def overlay (s : State) (a : Nat) (raw : Tab Byte) : State := raw.foldl (fun s x => mwrite s (a + x.1) x.2) s

/-! CSAVE. -/

/-- Write the selected regions. -/
def saveWrite (s : State) (a : Nat) (x : SaveCtl) : State :=
  let regs := saveRegions s x (savedRoutine s x).isSome
  let ch := saveChunks s x
  let s1 := regs.foldl (fun s r => zeroRange s (a + r.1) r.2) s
  let s2 := ch.foldl (fun s c => mwriteL s (a + c.1) c.2) s1
  rdcDrop s2 fun l => decide (a ≤ l.line) && decide (l.line < a + saScr + 2 ^ 21)

/-- The end of a self CSAVE (R358): nothing is held, the queues are empty, the release buffer holds none of their fences; arrivals not
yet counted are counted after the restore (R361). -/
def saveEnds (c : Ctx) : Ctx := { c with hld := false, held := [], laq := [], ldq := [], sdq := [], stSeq := c.sdqSeq, uncounted := [] }
def saveEnd (s : State) (x : SaveCtl) : State :=
  if x.other then s
  else modCore (modIssuer s saveEnds) (coreOf s.iss.g) fun k => { k with rels := k.rels.filter fun r => r.g != s.iss.g || !isFence r.req.op }

/-- CSAVE (R357, R358). -/
def execCsave (p : Syl) (o : MS) (s : State) : Res :=
  withArea p o false s fun a x s =>
    let n := saScr + (groupOf s x.g).size
    let bad (s : State) (cause : Nat) : Res := .next (reqError s s.iss.g { Req.blank with op := .csave p o, ipc := s.iss.pc } cause a n 0)
    match areaWhole s with
    | some (id, w) =>
      if !w.out then waitMark s else if w.err ≠ 0 then bad (delTxn s id) w.err else .next (saveEnd (delTxn s id) x)
    | none =>
      if !saveReady s x || areaPending s a n then waitMark s
      else if x.acc && !(getCore s (coreOf x.g)).badTile.isEmpty then trapNow s 0x08 1
      else if areaStopped s a n then bad s 9
      else
        let s1 := saveWrite s a x
        match areaAway s a (saveRegions s x (savedRoutine s x).isSome) with
        | [] => .next (saveEnd s1 x)
        | l =>
          let (id, s2) := fresh (putBack s1 s a l)
          waitMark (areaAsk s2 (areaTxn s (.csave p o)) id a l (some s1))

/-! CLOAD. -/

/-- The record of R361. -/
def loadFails (s : State) (p : Syl) (o : MS) (a : Nat) : State :=
  let g := s.iss.g
  (report s
    { vf := vfOf s g, steward := stewOf g, w0 := recW0 0x12 false false 7 g 0 (vfOf s g), w1 := BitVec.ofNat 64 s.iss.pc, w2 := 0,
      w3 := BitVec.ofNat 64 a, w4 := 0, w5 := 0, comp := comp3 (sylWordOf (.cload p o)) (BitVec.ofNat 64 a) 0, g := some g,
      cmd := none, range := [] }).1

/-- Words of the area. -/
def rd8 (s : State) (a : Nat) : Nat := (mread8 s a).toNat
def rdV256 (s : State) (a : Nat) : VWord := BitVec.ofNat 2048 (natOfBytes (mreadN s a 256))
def rd128 (s : State) (a : Nat) : Nat := natOfBytes (mreadN s a 16)
def rdTab (n : Nat) (f : Nat → Nat) : Tab Word64 :=
  (List.range n).foldl (fun t i => tput 0 t i (BitVec.ofNat 64 (f i))) []

/-- A saved handle is walked afresh in the target's tables (R361). -/
def freshHandle (s : State) (g : Nat) (h : HWord) : HWord :=
  if hBit h 0 then translate s (isSteward g) (vfOf s g) (hVa h) else h

/-- The destination of a held record; SDQ entries are numbered from `sq`. -/
def heldDest (sq cls n : Nat) : Dest :=
  match cls with
  | 1 => .s n | 2 => .v n | 3 => .k n | 4 => .p n | 5 => .b n | 6 => .h n | 7 => .g n
  | 8 => .sdq (sq + n)
  | 9 => .sr n
  | _ => .flags

def loadHeld (s : State) (g a sq j : Nat) : Flight :=
  let o := a + 0x08A00 + 288 * j
  let w := rd8 s o
  let d := heldDest sq (nf w 0 4) (nf w 4 6)
  let v := rdV256 s (o + 32)
  { dest := d, val := match d with
      | .h _ => (freshHandle s g (v.truncate 128)).zeroExtend 2048
      | _ => v
    mask := BitVec.ofNat 64 (rd8 s (o + 8)), due := nf w 10 6, flags := BitVec.ofNat 5 (nf w 16 5), trap := nf w 21 1 == 1 }

/-- A request of LAQ from its record; none where its word is no A syllable. R360's record has no place for the random values of a
held LDG's or STG's lanes: the model takes the restored generators, as they stood at the save, which the step of R63 may have passed
(DESIGN CHOICE, log 125). -/
def loadReq (s : State) (g a sq : Nat) (c : Ctx) (j : Nat) : Option Req :=
  let o := a + 0x06200 + 320 * j
  let w := rd8 s o
  match Sys2Proof.decodeSyl (.leaf (nf w 37 4)) (nf w 0 32) with
  | .error _ => none
  | .ok i =>
    let op := aop i
    let dw2 := BitVec.ofNat 64 (rd8 s (o + 16))
    let lanes := rdV256 s (o + 64)
    let strided := match op with
      | .ldv _ .strided => true | .stv _ .strided => true | _ => false
    let gather := isGather i
    let dw3 := rd8 s (o + 24)
    some
      { op := i, seq := c.reqSeq + j, addr := BitVec.ofNat 64 (rd8 s (o + 8)), step := if strided then dw2 else 0,
        lanes := if gather then lanes else 0, x := if strided then 0 else dw2, y := BitVec.ofNat 64 (rd8 s (o + 56)),
        h := if (aForm c i).h.isSome then some (freshHandle s g (BitVec.ofNat 128 (rd128 s (o + 32)))) else none,
        sdq := if op.takesSdq then some (sq + nf w 32 5) else none,
        fmode := BitVec.ofNat 32 dw3, seed := BitVec.ofNat 32 (dw3 / 2 ^ 32), rnd := if gather then c.gens else lanes,
        ipc := rd8 s (o + 48) % 2 ^ 57, sys := rd8 s (o + 48) / 2 ^ 63 == 1, trap := nf w 41 1 == 1, due := s.clock, slot := false,
        done := nf w 42 10 }

/-- The context's part of the area. -/
def loadCtx (s : State) (a : Nat) (x : SaveCtl) : Ctx :=
  let g := x.g
  let c := getCtx s g
  let sp (i : Nat) : Nat := rd8 s (a + 0x100 + 8 * i)
  let cnt := rd8 s (a + 24)
  let t := sp 12
  let pcOf (i : Nat) : Nat := sp i % 2 ^ 57
  let c1 : Ctx :=
    { c with
      pc := if x.other then pcOf 0 else c.pc
      itr := sp 1 % 2 ^ 32, stg := min 8 (sp 2 % 16), eix := sp 3 % 2 ^ 40, rot := sp 4 % 16, fmode := fmodeNorm (BitVec.ofNat 64 (sp 5))
      seed := BitVec.ofNat 32 (sp 6), tvec := pcOf 7, tpc := pcOf 8, tnext := pcOf 9, tcause := BitVec.ofNat 64 (sp 10 % 512)
      tinfo := BitVec.ofNat 64 (sp 11), mode := isSteward g || nf t 0 1 == 1
      pmode := nf t 1 1 == 1, inh := nf t 2 1 == 1, hld := !x.other || nf t 3 1 == 1, skb := nf t 4 1 == 1
      tsav0 := BitVec.ofNat 64 (sp 13), tsav1 := BitVec.ofNat 64 (sp 14), tsav2 := BitVec.ofNat 64 (sp 15)
      tsav3 := BitVec.ofNat 64 (sp 16), csa := sp 17 % 2 ^ 50, scyc := sp 18, apinfo := BitVec.ofNat 64 (sp 19)
      next := if x.other then nf (rd8 s (a + 0xFF8)) 0 8 else c.next
      bubble := if x.other then nf (rd8 s (a + 0xFF8)) 8 1 == 1 else c.bubble
      undel := if nf t 5 1 = 1 then nf (sp 19) 32 16 + 1 else 0
      s := tdel (rdTab 64 fun i => rd8 s (a + 0x200 + 8 * i)) 0
      k := tdel (rdTab 16 fun i => rd8 s (a + 0x400 + 8 * i)) 0
      b := rdTab 8 fun i => rd8 s (a + 0x480 + 8 * i) % 2 ^ 21
      g := rdTab 8 fun i => rd8 s (a + 0x4C0 + 8 * i)
      h := (List.range 16).foldl (fun m i => tput 0 m i (freshHandle s g (BitVec.ofNat 128 (rd128 s (a + 0x500 + 16 * i))))) []
      p := (List.range 15).foldl (fun m i => tput false m (i + 1) (nf (rd8 s (a + 0x600)) (i + 1) 1 == 1)) []
      arrived := BitVec.ofNat 64 (rd8 s (a + 0x608))
      shadow := rdTab 64 fun i => rd8 s (a + 0x640 + 8 * i)
      gens := rdV256 s (a + 0x840)
      v := (List.range 32).foldl (fun m i => tput 0 m i (rdV256 s (a + 0x1000 + 256 * i))) []
      sdq := (List.range (nf cnt 24 5)).map fun i =>
        { seq := c.sdqSeq + i, filled := nf (rd8 s (a + 0x6180 + 8 * i)) 1 1 == 1, val := rdV256 s (a + 0x5100 + 256 * i),
          mask := BitVec.ofNat 64 (rd8 s (a + 0x6100 + 8 * i)) }
      sdqSeq := c.sdqSeq + nf cnt 24 5
      ldq := (List.range (nf cnt 16 6)).map fun i =>
        let w := rd8 s (a + 0x5000 + 8 * i)
        { req := { Req.blank with seq := c.reqSeq }, raw := [], left := 0, due := 0, filled := nf w 1 1 == 1, failed := nf w 2 1 == 1,
          val := rdV256 s (a + 0x3000 + 256 * i), kval := 0, flags := 0 } }
  let laq := (List.range (nf cnt 8 6)).filterMap (loadReq s g a c.sdqSeq c1)
  let used := (laq.filterMap fun q => q.sdq).length
  let ldq := c1.ldq.map fun e =>
    match e.filled, laq with
    | false, q :: _ => { e with req := q, raw := indexed (bytesOf e.val 256), left := 1 }
    | _, _ => e
  let c2 := { c1 with
    laq := laq, ldq := ldq, reqSeq := c.reqSeq + nf cnt 8 6, held := (List.range (nf cnt 0 7)).map (loadHeld s g a c.sdqSeq),
    stSeq := c.sdqSeq + used }
  let un := rd8 s (a + 0x610)
  let back := (List.range 16).filterMap fun i =>
    if nf un i 1 = 1 then some (i, c.reqSeq + nf (rd8 s (a + 0x618 + i / 8 * 8)) (i % 8 * 8) 8) else none
  { c2 with uncounted := back }

/-- Held requests whose fresh handle fails are dropped, with a trap to come after the thaw (R361). -/
def dropUnheld (s : State) (g : Nat) : State :=
  (getCtx s g).laq.foldl (fun s q =>
    match q.h with
    | none => s
    | some h =>
      let drop (cause : Nat) (info : Word64) : State :=
        let s1 := modCtx (dropSdq s g q) g fun c =>
          { c with
            laq := c.laq.filter fun r => r.seq != q.seq
            ldq := c.ldq.filter fun e => e.filled || e.req.seq != q.seq }
        pendAsync s1 g cause info
      if !hBit h 0 then s
      else
        match recheck s g q h with
        | .trap cause info => drop cause info
        | _ => s) s

/-- A carried command from its record (R360): it waits on its channel for the thaw. -/
def loadCarried (s : State) (g a j : Nat) : State :=
  let o := a + saCarried + 448 * j
  let w := rd8 s o
  let kind := nf w 0 4
  let (id, s0) := fresh s
  let pkt : Flit := BitVec.ofNat 512 (natOfBytes (mreadN s (o + 64) 64))
  let han (k bit : Nat) : Option HWord :=
    if kind < 3 && pfld pkt 0 bit 1 == 1 then some (freshHandle s g (BitVec.ofNat 128 (rd128 s (o + k)))) else none
  let t := tileOf pkt
  let rem := rd8 s (o + 32)
  let (len, s1) := if kind < 3 || rem != 0 then (rem, s0) else let (n, s') := drawIn s0 3 8; (2 ^ n, s')
  let dw3 := rd8 s (o + 24)
  let dw5 := rd8 s (o + 40)
  let c : CCmd :=
    { CCmd.blank id kind g pkt with
      cidx := rd8 s (o + 8), ipc := rd8 s (o + 16), src := han 128 17, dst := han 144 18, fmode := BitVec.ofNat 32 dw5,
      seed := BitVec.ofNat 32 (dw5 / 2 ^ 32), vf := vfOf s g, sys := (getCtx s g).mode, n := len, data := rdV256 s (o + 160),
      stream := nf w 6 4, entry := rd8 s (o + 48), seq := (getCtx s g).reqSeq,
      next := if kind < 3 then (t.elems - rem) * t.esz else if kind = 4 then dw3 % 2 ^ 14 else if rem = 0 then 1 else 0,
      carried := true }
  let k := chanKey (coreOf g) (nf w 4 2)
  let s2 := setChan s1 k (chanCmds s1 k ++ [c])
  if kind = 2 then modStream s2 (feedSlot s2 c) fun u => { u with feeds := u.feeds ++ [(k, id)] } else s2

/-- The withdrawn commands and the routine go to the suspended slot until the thaw, with what they captured (R74). -/
def loadMatrix (s : State) (g a : Nat) (routine : Bool) : State :=
  let c := getCtx s g
  let core := coreOf g
  let blank (s : State) (op : Instr) (x y fm sd at_ ga : Nat) : MCmd × State :=
    let (id, s1) := fresh s
    ({ op := op, g := g, ipc := at_ % 2 ^ 57, a := BitVec.ofNat 64 x, b := BitVec.ofNat 64 y,
       ga := (List.range 8).map fun i => BitVec.ofNat 64 (rd8 s (a + ga + 8 * i)), fmode := BitVec.ofNat 32 fm,
       seed := BitVec.ofNat 32 sd, sys := at_ / 2 ^ 63 == 1, seq := c.reqSeq, id := id, parked := false }, s1)
  let put (s : State) (r : Routine) : State := modCore s core fun k => { k with susp := k.susp ++ [r] }
  let m (i : Nat) : Nat := rd8 s (a + saMatrix + 8 * i)
  let vals (o : Nat) : Tab Val := ((List.range 4096).map fun i => (i, ofExact (rd128 s (a + o + 16 * i)))).filter fun x => !x.2.isNil
  let s1 := if routine then
      let (cmd, s') := blank s (.mcall { stop := false, guard := 0, leaf := 0 } 0) (m 58) 0 (m 7) (m 56) (m 55) (saMatrix + 64)
      let lv (w : Nat) : ULoop := { start := nf w 0 12, len := nf w 12 12, left := nf w 24 12 }
      let pair := m 6
      put s' { Routine.start cmd with
        upc := m 0, loops := ((List.range 4).map fun i => lv (m (1 + i))).filter fun l => l.len != 0, tile := m 5 % 16,
        first := if nf pair 11 1 = 1 then
          some { fa := Fin.ofNat 32 (nf pair 0 5), fb := Fin.ofNat 32 (nf pair 5 5), sat := nf pair 10 1 == 1 } else none,
        pipe := (List.range 4).filterMap fun i =>
          let w := m (16 + i)
          if nf w 0 1 = 1 then some { sums := vals (saMatrix + 0x10400 + 0x10000 * i), tile := nf w 4 4, left := nf w 8 3, word := nf w 16 12 }
          else none,
        open_ := nf (m 20) 0 1 == 1, part := if nf (m 20) 0 1 = 1 then vals (saMatrix + 0x400) else [], mcyc := m 21,
        bandA := BitVec.ofNat 1024 (natOfBytes (mreadN s (a + saMatrix + 8 * 22) 128)),
        bandB := BitVec.ofNat 1024 (natOfBytes (mreadN s (a + saMatrix + 8 * 22 + 128) 128)),
        skipA := nf (m 54) 0 8, skipS := nf (m 54) 8 8, corr := nf (m 57) 0 1 == 1 }
    else s
  (List.range (nf (rd8 s (a + 24)) 40 4)).foldl (fun s' j =>
    let w := rd8 s (a + 0x00940 + 16 * j)
    match Sys2Proof.decodeSyl .none (nf w 0 32) with
    | .error _ => s'
    | .ok i =>
      let o := 0x009C0 + 80 * j
      let fs := rd8 s (a + o)
      let (cmd, s2) := blank s' i (rd8 s (a + 0x00948 + 16 * j)) (nf w 32 32) (nf fs 0 32) (nf fs 32 32) (rd8 s (a + o + 8)) (o + 16)
      put s2 (withdrawn cmd)) s1

/-- The context's subscriptions, as its shadow registers name them, stand again at its streams. -/
def loadSubs (s : State) (g : Nat) : State :=
  (List.range 3).foldl (fun s port =>
    let w := ((getCtx s g).rdShadow (8 + port)).toNat
    let gr := groupOf s g
    let x := (gr.cluster, gr.slots.getD (nf w 0 4) 16)
    if nf w 12 1 = 1 && (getStream s x).defined then
      modStream (endSub s g port) x fun u =>
        { u with subs := u.subs ++ [{ g := g, port := port, window := nf w 4 8, count := nf w 32 32 }] }
    else s) s

/-- The group's slots. Entries of a stream are not in the area: none is held. -/
def loadGroup (s : State) (g a : Nat) : State :=
  let gr := groupOf s g
  gr.slots.zipIdx.foldl (fun s x =>
    let w := rd8 s (a + saGroup + 8 * x.2)
    let d := a + saGroup + 0x80 + 32 * x.2
    let s1 := modBar s (getCtx s g).gid x.2 fun b => { b with exp := nf w 0 5, arr := nf w 8 5, phase := nf w 16 1 == 1 }
    modStream s1 (gr.cluster, x.1) fun u =>
      { u with gid := (getCtx s g).gid, defined := nf (rd8 s d) 0 1 == 1, low := rd8 s (d + 8), filled := rd8 s (d + 16),
               ctx := if nf ((getCtx s g).rdShadow (0x10 + x.2)).toNat 40 1 = 1 then g else u.ctx }) s

/-- The group's scratchpad and its full/empty bits. -/
def loadScratch (s : State) (g a : Nat) : State :=
  let gr := groupOf s g
  let d := cluBase gr.cluster + gr.base
  let s1 := mwriteL (zeroRange s d gr.size) d (mreadN s (a + saScr) gr.size)
  (List.range (gr.size / 16)).foldl (fun s' i => feSet s' (d + 16 * i) ((mread s (a + saFe + i / 8)).getLsbD (i % 8))) s1

/-- The area does not say whether the BAR that another context stands before, at its pc or past a header there, has arrived: it
may have, or not (log 25). -/
def loadBar (s : State) (x : SaveCtl) : State :=
  if x.other then
    let (k, s1) := drawIn s 0 2
    modCtx s1 x.g fun c => { c with barAt := if k = 0 then none else some (c.pc + 4 * (k - 1)) }
  else s

/-- What the target carries of its own gives way to what the area holds. -/
def dropEng (s : State) (g : Nat) : State :=
  modCore (dropCmds s fun c => c.g == g && c.carried) (coreOf g) fun k => { k with susp := k.susp.filter fun r => r.cmd.g != g }

/-- The restore of everything that the controls select. -/
def loadAll (s : State) (a : Nat) (x : SaveCtl) (routine : Bool) : State :=
  let g := x.g
  let s1 := loadBar (setCtx s g (loadCtx s a x)) x
  let s2 := if x.grp then loadGroup s1 g a else s1
  let s3 := if x.other then loadSubs s2 g else s2
  let s4 := if x.eng then
      loadMatrix ((List.range (nf (rd8 s (a + 24)) 32 8)).foldl (fun s j => loadCarried s g a j) (dropEng s3 g)) g a routine
    else s3
  let s5 := if x.acc then
      modCore s4 (coreOf g) fun k =>
        { k with tiles := (List.range 1024).foldl (fun t i => tput 0 t i (rdV256 s (a + saTiles + 256 * i))) [], badTile := [] }
    else s4
  dropUnheld (if x.scr then loadScratch s5 g a else s5) g

/-- The header is right (R361). -/
def loadOk (s : State) (a : Nat) (x : SaveCtl) : Bool :=
  let w := rd8 s a
  nf w 0 16 == 0x4B53 && nf w 16 8 == 1 && (!x.eng || nf w 24 1 == 1) && (!x.acc || nf w 26 1 == 1) && (!x.grp || nf w 27 1 == 1) &&
    (!x.scr || nf w 28 1 == 1) && (!x.grp || rd8 s (a + 32) == (groupOf s x.g).shape)

/-- Bytes of the area that cannot be read here. -/
def areaBad (s : State) (a n : Nat) : Bool :=
  areaStopped s a n || s.spoiled.any fun w => decide (a < w + 32) && decide (w < a + n) && !migFrame s w

/-- CLOAD once the header is there (R361); `raw` holds what requests have brought, by offset. -/
def loadFrom (p : Syl) (o : MS) (a : Nat) (x : SaveCtl) (raw : Tab Byte) (s : State) : Res :=
  let full := overlay s a raw
  if areaBad s a 256 || !loadOk full a x then .next (loadFails s p o a)
  else
    let routine := x.eng && nf (rd8 full a) 25 1 == 1
    let regs := saveRegions s x routine
    match (areaAway s a regs).filter fun q => (tfind raw q.1).isNone with
    | [] =>
      if regs.any fun r => areaBad s (a + r.1) r.2 then .next (loadFails (scrubCtx s x.g) p o a)
      else .next (putBack (loadAll full a x routine) s a (raw.map fun e => (e.1, 1)))
    | l =>
      let (id, s1) := fresh s
      waitMark (areaAsk s1 { areaTxn s (.cload p o) with raw := raw, ix := 1 } id a l none)

/-- CLOAD (R357, R361). -/
def execCload (p : Syl) (o : MS) (s : State) : Res :=
  withArea p o true s fun a x s =>
    let n := saScr + (groupOf s x.g).size
    match areaWhole s with
    | some (id, w) =>
      if !w.out then waitMark s
      else if w.err ≠ 0 then .next (loadFails (if w.ix = 0 then delTxn s id else scrubCtx (delTxn s id) x.g) p o a)
      else loadFrom p o a x w.raw (delTxn s id)
    | none =>
      if !earlierDone s x.g (getCtx s x.g).reqSeq && !x.other || areaPending s a n then waitMark s
      else
        match areaAway s a [(0, 256)] with
        | [] => loadFrom p o a x [] s
        | l =>
          let (id, s1) := fresh s
          waitMark (areaAsk s1 (areaTxn s (.cload p o)) id a l none)

end Sys2Proof.Machine
end

