-- ==== Sys2Proof/Machine/VArith.lean ====
section
/-!
DEFINITION. Vector arithmetic, comparison, bit operations, transcendentals, reductions, scans and the packed dot product
(R124 to R129, R131 to R133, R135). Latencies are those of R123.
-/
namespace Sys2Proof.Machine

/-- An integer element operation: exact, then wrapped or saturated (R70, R124). -/
def intE (t : VTy) (sat : Bool) (op : Int → Int → Int) (a b : Nat) : Nat × BitVec 5 :=
  (iStore (vtSgn t) (vtWidth t) sat (op (iVal (vtSgn t) (vtWidth t) a) (iVal (vtSgn t) (vtWidth t) b)), 0)

def addE (t : VTy) (sat : Bool) (m r : Word32) (a b : Nat) : Nat × BitVec 5 :=
  if vtFloat t then fAdd (vtCode t) m r a b else intE t sat (· + ·) a b
def subE (t : VTy) (sat : Bool) (m r : Word32) (a b : Nat) : Nat × BitVec 5 :=
  if vtFloat t then fSub (vtCode t) m r a b else intE t sat (· - ·) a b
def mulE (t : VTy) (sat : Bool) (m r : Word32) (a b : Nat) : Nat × BitVec 5 :=
  if vtFloat t then fMul (vtCode t) m r a b else intE t sat (· * ·) a b
/-- Minimum or maximum (R125). -/
def minMaxE (t : VTy) (isMax : Bool) (m : Word32) (a b : Nat) : Nat × BitVec 5 :=
  if vtFloat t then fMinMax (vtCode t) m isMax a b
  else intE t false (fun x y => if isMax then max x y else min x y) a b

def execVadd (p : Syl) (t : VTy) (o : VR) (s : State) : Res := runVE p t o 2 s fun m r a b _ => addE t o.md m r a b
def execVsub (p : Syl) (t : VTy) (o : VR) (s : State) : Res := runVE p t o 2 s fun m r a b _ => subE t o.md m r a b
def execVmul (p : Syl) (t : VTy) (o : VR) (s : State) : Res := runVE p t o 2 s fun m r a b _ => mulE t o.md m r a b
def execVmin (p : Syl) (t : VTy) (o : VR) (s : State) : Res := runVE p t o 2 s fun m _ a b _ => minMaxE t false m a b
def execVmax (p : Syl) (t : VTy) (o : VR) (s : State) : Res := runVE p t o 2 s fun m _ a b _ => minMaxE t true m a b
def execVfma (p : Syl) (t : VTy) (o : VR) (s : State) : Res :=
  runVE p t o 4 s fun m r a b d => fFma (vtCode t) m r o.md false a b d
def execVfmaNa (p : Syl) (t : VTy) (o : VR) (s : State) : Res :=
  runVE p t o 4 s fun m r a b d => fFma (vtCode t) m r o.md true a b d

/-- An element's condition (R90, R127). -/
def cmpE (t : VTy) (m : Word32) (cond a b : Nat) : Bool × BitVec 5 :=
  if vtFloat t then fCmp (vtCode t) m cond a b
  else
    let x := iVal (vtSgn t) (vtWidth t) a
    let y := iVal (vtSgn t) (vtWidth t) b
    (match cond with
     | 0 => x == y | 1 => x != y | 2 => decide (x < y) | 3 => decide (x ≤ y) | 4 => decide (y < x) | _ => decide (y ≤ x), 0)

def execVcmp (p : Syl) (t : VTy) (o : VK) (s : State) : Res :=
  runV p o.qs o.va.val o.km.val 2 (.mask o.kd.val) (fun _ => 1) s fun x =>
    let b := x.c.rdV o.vb.val
    let w := vtWidth t
    let n := 32 / w
    let lane (i : Nat) : Nat × BitVec 5 :=
      if x.km.getLsbD i then
        let l := (List.range n).map fun j => cmpE t x.m o.cond.val (elemOf x.a w (n * i + j)) (elemOf b w (n * i + j))
        (if l.all (·.1) then 1 else 0, l.foldl (fun acc y => acc ||| y.2) 0)
      else (0, 0)
    let l := (List.range 64).map lane
    (vecOf (l.map (·.1)) 1, orAll l)

def execVand (p : Syl) (o : VR) (s : State) : Res := runVR p o 2 s fun x b _ => (x.a &&& b, 0)
def execVor (p : Syl) (o : VR) (s : State) : Res := runVR p o 2 s fun x b _ => (x.a ||| b, 0)
def execVxor (p : Syl) (o : VR) (s : State) : Res := runVR p o 2 s fun x b _ => (x.a ^^^ b, 0)
/-- Every lane is written (R129). -/
def execVsel (p : Syl) (o : VR) (s : State) : Res :=
  runV p o.qs o.va.val o.km.val 2 (if o.qd then .sdq else .vec o.vd.val) (fun _ => -1) s fun x =>
    (mergeLanes x.km (x.c.rdV o.vb.val) x.a, 0)
def execVmov (p : Syl) (o : VR) (s : State) : Res := runVR p o 2 s fun x _ _ => (x.a, 0)

/-- The vector shifts: kind 0 left, 1 right, 2 arithmetic, on fields of w bits (R129). -/
def shiftE (kind w a b : Nat) : Nat :=
  let c := b % 256
  match kind with
  | 0 => if w ≤ c then 0 else a * 2 ^ c % 2 ^ w
  | 1 => if w ≤ c then 0 else a / 2 ^ c
  | _ => iStore true w false (iVal true w a / (2 ^ min c w : Nat))

def runShift (p : Syl) (o : VR) (kind : Nat) (s : State) : Res :=
  let w := if o.md then 16 else 32
  runVR p o 2 s fun x b _ => mapE w x.km fun e => (shiftE kind w (elemOf x.a w e) (elemOf b w e), 0)

def execVshl (p : Syl) (o : VR) (s : State) : Res := runShift p o 0 s
def execVshr (p : Syl) (o : VR) (s : State) : Res := runShift p o 1 s
def execVsra (p : Syl) (o : VR) (s : State) : Res := runShift p o 2 s

def execVabs (p : Syl) (t : VTy) (o : VR) (s : State) : Res :=
  runVE p t o 2 s fun _ _ a b _ =>
    if vtFloat t then (a % 2 ^ (vtWidth t - 1), 0) else intE t o.md (fun x _ => x.natAbs) a b
def execVscale (p : Syl) (t : VTy) (o : VR) (s : State) : Res :=
  runVE p t o 2 s fun m r a b _ => fScale (vtCode t) m r a (iVal true (vtWidth t) b)

def runFunc (p : Syl) (o : VR) (k : Nat) (s : State) : Res := runVE p .f32 o 8 s fun m r a _ _ => fFunc k m r a

def execVrcp (p : Syl) (o : VR) (s : State) : Res := runFunc p o 0 s
def execVrsq (p : Syl) (o : VR) (s : State) : Res := runFunc p o 1 s
def execVexp2 (p : Syl) (o : VR) (s : State) : Res := runFunc p o 2 s
def execVlog2 (p : Syl) (o : VR) (s : State) : Res := runFunc p o 3 s

/-! Reductions and scans. The operation is 2 QD + MOD: 0 sum, 1 saturating sum, 2 max, 3 min (R90). -/

def redOp (o : VR) : Nat := (if o.qd then 2 else 0) + if o.md then 1 else 0

/-- The identity of the operation in the element's format (R72). -/
def redIdentity (t : VTy) (op : Nat) : Nat :=
  let w := vtWidth t
  if vtFloat t then
    if op < 2 then 2 ^ (w - 1) else Machine.encode (vtCode t) (.inf (op == 2))
  else if op < 2 then 0
  else if op = 2 then (if vtSgn t then 2 ^ (w - 1) else 0)
  else if vtSgn t then ones (w - 1) else ones w

def redE (t : VTy) (op : Nat) (m r : Word32) (a b : Nat) : Nat × BitVec 5 :=
  if op < 2 then addE t (op == 1) m r a b else minMaxE t (op == 2) m a b

/-- The elements that enter a reduction: the identity where the lane is off. -/
def redIn (t : VTy) (op : Nat) (x : VIn) : List Nat :=
  (List.range (2048 / vtWidth t)).map fun e =>
    if activeE x.km (vtWidth t) e then elemOf x.a (vtWidth t) e else redIdentity t op

/-- One level of the tree: node i combines elements 2i and 2i + 1. -/
def redLevel (t : VTy) (op : Nat) (m : Word32) (r : VWord) : Nat → List Nat → List (Nat × BitVec 5)
  | i, a :: b :: l => redE t op m (rndE r (vtWidth t) i) a b :: redLevel t op m r (i + 1) l
  | _, _ => []

/-- The tree of R72, n levels. -/
def redTree (t : VTy) (op : Nat) (m : Word32) (r : VWord) : Nat → List Nat → BitVec 5 → Nat × BitVec 5
  | 0, l, fl => (l.headD 0, fl)
  | n + 1, l, fl =>
    let l' := redLevel t op m r 0 l
    redTree t op m r n (l'.map (·.1)) (fl ||| orAll l')

/-- The prefix of R73 from element i on. -/
def scanFrom (t : VTy) (op : Nat) (m : Word32) (r : VWord) : Nat → Nat → List Nat → List (Nat × BitVec 5)
  | _, _, [] => []
  | i, acc, x :: l =>
    let y := redE t op m (rndE r (vtWidth t) i) acc x
    y :: scanFrom t op m r (i + 1) y.1 l

def execVred (p : Syl) (t : VTy) (o : VR) (s : State) : Res :=
  runV p o.qs o.va.val o.km.val 6 (.vec o.vd.val) (fun _ => -1) s fun x =>
    let y := redTree t (redOp o) x.m x.r (if vtWidth t = 32 then 6 else 7) (redIn t (redOp o) x) 0
    (BitVec.ofNat 2048 y.1, y.2)

/-- Element 0 of a scan, delivered as it stands (R73), a signalling NaN too (log 101); FTZ acts on it (R67). -/
def scanHead (t : VTy) (m : Word32) (e : Nat) : Nat :=
  if t == .f32 && fmFTZ m && subnormal32 (decode 0 e) then e / 2 ^ 31 * 2 ^ 31 else e

def execVscan (p : Syl) (t : VTy) (o : VR) (s : State) : Res :=
  runV p o.qs o.va.val o.km.val 6 (.vec o.vd.val) (fun _ => -1) s fun x =>
    match redIn t (redOp o) x with
    | [] => (0, 0)
    | e :: l =>
      let y := (scanHead t x.m e, 0) :: scanFrom t (redOp o) x.m x.r 1 (scanHead t x.m e) l
      (vecOf (y.map (·.1)) (vtWidth t), orAll y)

/-! The packed dot product (R135). -/

/-- The source format of VDOT by VT, and its element width. -/
def dotCode (src : Nat) : Nat :=
  match src with
  | 0 => 4 | 1 => 5 | 2 => 11 | 3 => 12 | 4 => 2 | 5 => 1 | 6 => 9 | _ => 10
def dotFloat (src : Nat) : Bool := src == 0 || src == 1 || src == 4 || src == 5

/-- The exact sum of values, with the flags of its additions. -/
def sumVals (rm : Nat) (l : List Val) (z : Val) : Val × BitVec 5 :=
  l.foldl (fun acc y => let w := acc.1.add rm y; (w.1, acc.2 ||| w.2)) (z, 0)

/-- Infinities of both signs among the terms of a sum (R65, R135), whatever NaN stands beside them (log 31). -/
def oppositeInf (l : List Val) : Bool := (l.any (· == .inf false)) && l.any (· == .inf true)

/-- A float lane: rounded once to f32; FTZ does not act. -/
def dotF (m r : Word32) (xs ys : List Val) (z : Val) : Nat × BitVec 5 :=
  let pr := (xs.zip ys).map fun q => q.1.mul q.2
  let ops := xs ++ ys ++ [z]
  let sum := sumVals (fmRM m) (pr.map (·.1)) z
  let pf := pr.foldl (fun acc q => acc ||| q.2) 0
  finish 0 (m &&& ~~~ (16 : Word32)) r ops (sum.1, pf ||| sum.2 ||| if oppositeInf (z :: pr.map (·.1)) then flagFI else 0)

/-- One lane of VDOT. -/
def dotLane (src : Nat) (sat : Bool) (m r : Word32) (a b d : Nat) : Nat × BitVec 5 :=
  let f := dotCode src
  let w := codeBits f
  let el (x : Nat) : List Nat := (List.range (32 / w)).map fun j => x / 2 ^ (w * j) % 2 ^ w
  if dotFloat src then dotF m r ((el a).map (decode f)) ((el b).map (decode f)) (decode 0 d)
  else
    let sg := src == 2 || src == 6
    let x := ((el a).zip (el b)).foldl (fun acc q => acc + iVal sg w q.1 * iVal sg w q.2) (iVal sg 32 d)
    (iStore sg 32 sat x, 0)

def execVdot (p : Syl) (src : Fin 8) (o : VR) (s : State) : Res :=
  runVE p .f32 o 4 s fun m r a b d => dotLane src.val o.md m r a b d

end Sys2Proof.Machine
end

