-- ==== Sys2Proof/Machine/VMove.lean ====
section
/-!
DEFINITION. Conversion (R130) and lane movement (R134).
-/
namespace Sys2Proof.Machine

/-- Elements per lane of a format code (R130). -/
def perLane (c : Nat) : Nat :=
  match c with
  | 1 => 2 | 2 => 2 | 9 => 2 | 10 => 2 | 4 => 4 | 5 => 4 | 11 => 4 | 12 => 4 | _ => 1

/-- The code of element e in format c (R50, R130): readers ignore the bits beside it. -/
def cvtRead (c : Nat) (x : VWord) (e : Nat) : Nat :=
  let n := perLane c
  let y := elemOf x (32 / n) e
  if c == 3 then y / 2 ^ 13 else y % 2 ^ codeBits c

/-- A code as its element holds it: the writer sets the bits beside it to 0. -/
def cvtPlace (c y : Nat) : Nat := if c == 3 then y * 2 ^ 13 else y

def execVcvt (p : Syl) (o : VX) (s : State) : Res :=
  runV p o.qs o.va.val o.km.val 3 (.vec o.vd.val) id s fun x =>
    let nd := perLane o.tf.val
    let e' := 64 * min (perLane o.ff.val) nd
    mapE (32 / nd) x.km fun e =>
      if e < e' then
        let y := convert o.ff.val o.tf.val x.m (rndE x.r (32 / nd) e) (cvtRead o.ff.val x.a e)
        (cvtPlace o.tf.val y.1, y.2)
      else (0, 0)

def lane (x : VWord) (i : Nat) : Nat := (laneOf x i).toNat

def execVperm (p : Syl) (o : VR) (s : State) : Res :=
  runVR p o 2 s fun x b _ => (mapL fun i => lane x.a (lane b i % 64), 0)
/-- The register or lane number 32 MOD + vb (R90). -/
def numB (o : VR) : Nat := (if o.md then 32 else 0) + o.vb.val
def execVbcast (p : Syl) (o : VR) (s : State) : Res :=
  runVR p o 2 s fun x _ _ => (mapL fun _ => (x.c.rdS (numB o)).toNat % 2 ^ 32, 0)
def execVrot (p : Syl) (o : VR) (s : State) : Res :=
  runVR p o 2 s fun x _ _ => (mapL fun i => lane x.a ((i + numB o) % 64), 0)
def execVext (p : Syl) (o : VR) (s : State) : Res :=
  runV p o.qs o.va.val 0 2 (.scalar ((if o.qd then 32 else 0) + o.vd.val)) (fun _ => 1) s fun x =>
    (BitVec.ofNat 2048 (lane x.a (numB o)), 0)
def execVins (p : Syl) (o : VR) (s : State) : Res :=
  runV p false 0 o.km.val 2 (.vec o.vd.val) (fun k => k &&& BitVec.ofNat 64 (2 ^ numB o)) s fun x =>
    (mapL fun _ => (x.c.rdS ((if o.qs then 32 else 0) + o.va.val)).toNat % 2 ^ 32, 0)

/-- One bits of k below bit i. -/
def rank (k : Word64) : Nat → Nat
  | 0 => 0
  | i + 1 => (if k.getLsbD i then 1 else 0) + rank k i

def execViota (p : Syl) (o : VR) (s : State) : Res := runVR p o 2 s fun x _ _ => (mapL fun i => rank x.km i, 0)
def execVpack (p : Syl) (o : VR) (s : State) : Res :=
  runVR p o 2 s fun x b _ =>
    let k := if o.md then 32 else 0
    (mapL fun i => if i < 32 then lane x.a (i + k) else lane b (i - 32 + k), 0)
def execVunpk (p : Syl) (o : VR) (s : State) : Res :=
  runVR p o 2 s fun x _ _ =>
    (vecOf ((List.range 64).map fun j => elemOf x.a 16 (2 * j + if o.md then 1 else 0)) 16, 0)

end Sys2Proof.Machine
end

