-- ==== Sys2Proof/Machine/XScalar.lean ====
section
/-!
DEFINITION. The integer instructions of the X unit (R109 to R115) and its comparisons and predicate and mask operations
(R116 to R120). Latencies are those of R108.
-/
namespace Sys2Proof.Machine

/-- The high half of an exact product. -/
def highHalf (x : Int) : Word64 := BitVec.ofInt 64 (x / (2 ^ 64 : Nat))

def execAdd (p : Syl) (o : XR) (s : State) : Res := runXR p o 1 s fun a b _ => a + b
def execSub (p : Syl) (o : XR) (s : State) : Res := runXR p o 1 s fun a b _ => a - b
def execMul (p : Syl) (o : XR) (s : State) : Res := runXR p o 3 s fun a b _ => a * b
def execMulh (p : Syl) (o : XR) (s : State) : Res := runXR p o 3 s fun a b _ => highHalf (a.toInt * b.toInt)
def execMulhU (p : Syl) (o : XR) (s : State) : Res :=
  runXR p o 3 s fun a b _ => BitVec.ofNat 64 (a.toNat * b.toNat / 2 ^ 64)

/-- The signed quotient and remainder of R110; the quotient of -2^63 by -1 wraps to itself. -/
def divS (a b : Word64) : Word64 := if b = 0 then -1 else BitVec.ofInt 64 (a.toInt.tdiv b.toInt)
def remS (a b : Word64) : Word64 := if b = 0 then a else BitVec.ofInt 64 (a.toInt.tmod b.toInt)
def divU (a b : Word64) : Word64 := if b = 0 then -1 else a / b
def remU (a b : Word64) : Word64 := if b = 0 then a else a % b

def execDiv (p : Syl) (o : XR) (s : State) : Res := runXR p o 34 s fun a b _ => divS a b
def execDivU (p : Syl) (o : XR) (s : State) : Res := runXR p o 34 s fun a b _ => divU a b
def execRem (p : Syl) (o : XR) (s : State) : Res := runXR p o 34 s fun a b _ => remS a b
def execRemU (p : Syl) (o : XR) (s : State) : Res := runXR p o 34 s fun a b _ => remU a b

/-- Leading zero bits among the low n bits of x. -/
def leadZeros (x : Word64) : Nat → Nat
  | 0 => 0
  | n + 1 => if x.getLsbD n then 0 else 1 + leadZeros x n
/-- One bits among the low n bits of x. -/
def onesCount (x : Word64) : Nat → Nat
  | 0 => 0
  | n + 1 => (if x.getLsbD n then 1 else 0) + onesCount x n
/-- The lowest one bit at or above i, or 64 (R120). -/
def firstOne (x : Word64) : Nat → Nat → Nat
  | 0, i => i
  | n + 1, i => if x.getLsbD i then i else firstOne x n (i + 1)

def execAbs (p : Syl) (o : XU) (s : State) : Res := runXU p o s fun a => if a.msb then -a else a
def execClz (p : Syl) (o : XU) (s : State) : Res := runXU p o s fun a => BitVec.ofNat 64 (leadZeros a 64)
def execPopc (p : Syl) (o : XU) (s : State) : Res := runXU p o s fun a => BitVec.ofNat 64 (onesCount a 64)
def execAnd (p : Syl) (o : XR) (s : State) : Res := runXR p o 1 s fun a b _ => a &&& b
def execOr (p : Syl) (o : XR) (s : State) : Res := runXR p o 1 s fun a b _ => a ||| b
def execXor (p : Syl) (o : XR) (s : State) : Res := runXR p o 1 s fun a b _ => a ^^^ b
def execAndn (p : Syl) (o : XR) (s : State) : Res := runXR p o 1 s fun a b _ => a &&& ~~~ b

/-- The count of a register shift: b[7:0] (R111). -/
def count8 (b : Word64) : Nat := b.toNat % 256

def execShl (p : Syl) (o : XR) (s : State) : Res := runXR p o 1 s fun a b _ => a <<< count8 b
def execShr (p : Syl) (o : XR) (s : State) : Res := runXR p o 1 s fun a b _ => a >>> count8 b
def execSra (p : Syl) (o : XR) (s : State) : Res := runXR p o 1 s fun a b _ => a.sshiftRight (count8 b)
def execRotl (p : Syl) (o : XR) (s : State) : Res := runXR p o 1 s fun a b _ => a.rotateLeft (count8 b % 64)

/-- The field descriptor of R112: position and length. -/
def fieldPos (b : Word64) : Nat := b.toNat % 64
def fieldLen (b : Word64) : Nat := min (b.toNat / 256 % 128) 64

/-- The field of a that b describes. -/
def fieldOf (a b : Word64) : Nat := a.toNat / 2 ^ fieldPos b % 2 ^ fieldLen b

def extbS (a b : Word64) : Word64 :=
  let f := fieldOf a b
  if fieldLen b = 0 then 0
  else if 2 ^ (fieldLen b - 1) ≤ f then BitVec.ofInt 64 ((f : Int) - (2 ^ fieldLen b : Nat))
  else BitVec.ofNat 64 f

def depb (a b d : Word64) : Word64 :=
  let m := BitVec.ofNat 64 (ones (fieldLen b) * 2 ^ fieldPos b)
  (d &&& ~~~ m) ||| ((a <<< fieldPos b) &&& m)

def execExtb (p : Syl) (o : XR) (s : State) : Res := runXR p o 1 s fun a b _ => BitVec.ofNat 64 (fieldOf a b)
def execExtbS (p : Syl) (o : XR) (s : State) : Res := runXR p o 1 s fun a b _ => extbS a b
def execDepb (p : Syl) (o : XR) (s : State) : Res := runXR p o 1 s fun a b d => depb a b d

def execMin (p : Syl) (o : XR) (s : State) : Res := runXR p o 1 s fun a b _ => if a.toInt < b.toInt then a else b
def execMax (p : Syl) (o : XR) (s : State) : Res := runXR p o 1 s fun a b _ => if b.toInt < a.toInt then a else b
def execMinU (p : Syl) (o : XR) (s : State) : Res := runXR p o 1 s fun a b _ => if a.toNat < b.toNat then a else b
def execMaxU (p : Syl) (o : XR) (s : State) : Res := runXR p o 1 s fun a b _ => if b.toNat < a.toNat then a else b
def execLea (p : Syl) (n : Fin 4) (o : XR) (s : State) : Res := runXR p o 1 s fun a b _ => a + (b <<< n.val)

def execAddi (p : Syl) (o : XI) (s : State) : Res :=
  runS p o.sd.val s fun c => c.rdS o.sa.val + BitVec.ofInt 64 o.imm
def execMovi (p : Syl) (o : XM) (s : State) : Res := runS p o.sd.val s fun _ => BitVec.ofInt 64 o.imm
def execShlImm (p : Syl) (o : XH) (s : State) : Res := runS p o.sd.val s fun c => c.rdS o.sa.val <<< o.n.val
def execShrImm (p : Syl) (o : XH) (s : State) : Res := runS p o.sd.val s fun c => c.rdS o.sa.val >>> o.n.val
def execSraImm (p : Syl) (o : XH) (s : State) : Res :=
  runS p o.sd.val s fun c => (c.rdS o.sa.val).sshiftRight o.n.val
def execRotlImm (p : Syl) (o : XH) (s : State) : Res :=
  runS p o.sd.val s fun c => (c.rdS o.sa.val).rotateLeft o.n.val

/-- A register of MOV's class as 64 bits (R114): 0 s, 1 g, 2 k, 3 p. -/
def readClass (c : Ctx) (cl n : Nat) : Word64 :=
  match cl with
  | 0 => c.rdS n
  | 1 => c.rdG n
  | 2 => c.rdK n
  | _ => if c.rdP n then 1 else 0

/-- The destination of MOV's class. -/
def classDest (c : Ctx) (cl n : Nat) : Dest :=
  match cl with
  | 0 => dstS c n
  | 1 => .g n
  | 2 => .k n
  | _ => dstP c n

def execMov (p : Syl) (o : XV) (s : State) : Res :=
  issue p s fun s =>
    withRoom o.qd s fun s =>
      let c := issuer s
      withPop o.qs s fun pop s1 =>
        let x := match pop with
          | some v => v.truncate 64
          | none => readClass c o.sc.val o.s.val
        .next (deliver s1 o.qd (classDest c o.dc.val o.d.val) (wide64 x) 1 1 0)

def execSel (p : Syl) (n : Fin 16) (o : XR) (s : State) : Res :=
  runXR p o 1 s fun a b _ => if (issuer s).rdP n.val then a else b

/-- The conditions of R88 on 64-bit values. -/
def condX (cond : Nat) (a b : Word64) : Bool :=
  match cond with
  | 0 => a == b
  | 1 => a != b
  | 2 => decide (a.toInt < b.toInt)
  | 3 => decide (b.toInt ≤ a.toInt)
  | 4 => decide (a.toNat < b.toNat)
  | 5 => decide (b.toNat ≤ a.toNat)
  | 6 => decide (a.toInt ≤ b.toInt)
  | _ => decide (b.toInt < a.toInt)

def execCmp (p : Syl) (o : XC) (s : State) : Res :=
  issue p s fun s =>
    let c := issuer s
    let r := condX o.cond.val (c.rdS o.sa.val) (c.rdS o.sb.val)
    let d := c.rdP o.pd.val
    .next (putP s o.pd.val (if o.pm = 0 then r else if o.pm = 1 then d && r else d || r) 1)

def execCmpi (p : Syl) (o : XK) (s : State) : Res :=
  issue p s fun s =>
    .next (putP s o.pd.val (condX o.cond.val ((issuer s).rdS o.sa.val) (BitVec.ofInt 64 o.imm)) 1)

/-- Bit 2 a + b of the truth table fn (R118). -/
def truth (fn : Nat) (a b : Bool) : Bool := fn / 2 ^ ((if a then 2 else 0) + (if b then 1 else 0)) % 2 == 1

/-- The truth table on every bit. -/
def truth64 (fn : Nat) (a b : Word64) : Word64 :=
  BitVec.ofNat 64 ((List.range 64).foldr
    (fun i acc => acc * 2 + (if truth fn (a.getLsbD i) (b.getLsbD i) then 1 else 0)) 0)

def execPlog (p : Syl) (o : XL) (s : State) : Res :=
  issue p s fun s =>
    let c := issuer s
    .next (putP s o.d.val (truth o.fn.val (c.rdP o.a.val) (c.rdP o.b.val)) 1)
def execPset (p : Syl) (o : XP) (s : State) : Res := issue p s fun s => .next (putP s o.d.val o.v 1)
def execKlog (p : Syl) (o : XL) (s : State) : Res :=
  issue p s fun s =>
    let c := issuer s
    .next (putK s o.d.val (truth64 o.fn.val (c.rdK o.a.val) (c.rdK o.b.val)) 1)
def execKpopc (p : Syl) (o : XQ) (s : State) : Res :=
  runS p o.sd.val s fun c => BitVec.ofNat 64 (onesCount (c.rdK o.ka.val) 64)
def execKfirst (p : Syl) (o : XQ) (s : State) : Res :=
  runS p o.sd.val s fun c => BitVec.ofNat 64 (firstOne (c.rdK o.ka.val) 64 0)

end Sys2Proof.Machine
end

