-- ==== Sys2Proof/Machine/Issue.lean ====
section
/-!
DEFINITION. The meaning of a syllable as the course that holds it issues: `exec` on the syllables alone (the dispatch itself
stands above CONTEXT_SELECT, which issues courses).
-/
namespace Sys2Proof.Machine

/-- The meaning of a syllable; another instruction stands in no course. -/
def execSyl (i : Instr) (s : State) : Res :=
  match i with
  | .add p o => execAdd p o s
  | .sub p o => execSub p o s
  | .mul p o => execMul p o s
  | .mulh p o => execMulh p o s
  | .mulhU p o => execMulhU p o s
  | .div p o => execDiv p o s
  | .divU p o => execDivU p o s
  | .rem p o => execRem p o s
  | .remU p o => execRemU p o s
  | .abs p o => execAbs p o s
  | .and p o => execAnd p o s
  | .or p o => execOr p o s
  | .xor p o => execXor p o s
  | .andn p o => execAndn p o s
  | .shl p o => execShl p o s
  | .shr p o => execShr p o s
  | .sra p o => execSra p o s
  | .rotl p o => execRotl p o s
  | .clz p o => execClz p o s
  | .popc p o => execPopc p o s
  | .extb p o => execExtb p o s
  | .extbS p o => execExtbS p o s
  | .depb p o => execDepb p o s
  | .min p o => execMin p o s
  | .max p o => execMax p o s
  | .minU p o => execMinU p o s
  | .maxU p o => execMaxU p o s
  | .mov p o => execMov p o s
  | .lea p n o => execLea p n o s
  | .addi p o => execAddi p o s
  | .shlImm p o => execShlImm p o s
  | .shrImm p o => execShrImm p o s
  | .sraImm p o => execSraImm p o s
  | .rotlImm p o => execRotlImm p o s
  | .movi p o => execMovi p o s
  | .mfsr p o => execMfsr p o s
  | .mtsr p o => execMtsr p o s
  | .cmp p o => execCmp p o s
  | .cmpi p o => execCmpi p o s
  | .plog p o => execPlog p o s
  | .pset p o => execPset p o s
  | .klog p o => execKlog p o s
  | .kpopc p o => execKpopc p o s
  | .kfirst p o => execKfirst p o s
  | .sel p n o => execSel p n o s
  | .vadd p t o => execVadd p t o s
  | .vsub p t o => execVsub p t o s
  | .vmul p t o => execVmul p t o s
  | .vmin p t o => execVmin p t o s
  | .vmax p t o => execVmax p t o s
  | .vfma p t o => execVfma p t o s
  | .vfmaNa p t o => execVfmaNa p t o s
  | .vcmp p t o => execVcmp p t o s
  | .vand p o => execVand p o s
  | .vor p o => execVor p o s
  | .vxor p o => execVxor p o s
  | .vsel p o => execVsel p o s
  | .vshl p o => execVshl p o s
  | .vshr p o => execVshr p o s
  | .vsra p o => execVsra p o s
  | .vmov p o => execVmov p o s
  | .vabs p t o => execVabs p t o s
  | .vscale p t o => execVscale p t o s
  | .vcvt p o => execVcvt p o s
  | .vrcp p o => execVrcp p o s
  | .vrsq p o => execVrsq p o s
  | .vexp2 p o => execVexp2 p o s
  | .vlog2 p o => execVlog2 p o s
  | .vperm p o => execVperm p o s
  | .vbcast p o => execVbcast p o s
  | .vrot p o => execVrot p o s
  | .vext p o => execVext p o s
  | .vins p o => execVins p o s
  | .viota p o => execViota p o s
  | .vpack p o => execVpack p o s
  | .vunpk p o => execVunpk p o s
  | .vred p t o => execVred p t o s
  | .vscan p t o => execVscan p t o s
  | .vdot p src o => execVdot p src o s
  | .lda p n o => execLda p n o s
  | .sta p n o => execSta p n o s
  | .bind p o => execBind p o s
  | .fence p o => execFence p o s
  | .pfence p o => execPfence p o s
  | .ldv p w o => execLdv p w o s
  | .ldvs p w o => execLdvs p w o s
  | .ldg p w o => execLdg p w o s
  | .stv p w o => execStv p w o s
  | .stvs p w o => execStvs p w o s
  | .stg p w o => execStg p w o s
  | .aadd p o => execAadd p o s
  | .bset p o => execBset p o s
  | .trans p o => execTrans p o s
  | .hrel p o => execHrel p o s
  | .hchk p o => execHchk p o s
  | .preq p o => execPreq p o s
  | .feset p o => execFeset p o s
  | .fewait p o => execFewait p o s
  | .amo32 p op o => execAmo32 p op o s
  | .amo64 p op o => execAmo64 p op o s
  | .amos32 p op o => execAmos32 p op o s
  | .amos64 p op o => execAmos64 p op o s
  | .cas p n o => execCas p n o s
  | .acqX p o => execAcqX p o s
  | .acqSh p o => execAcqSh p o s
  | .acqEv p o => execAcqEv p o s
  | .relUn p o => execRelUn p o s
  | .relPost p o => execRelPost p o s
  | .pcmdAddI32 p o => execPcmdAddI32 p o s
  | .pcmdAddF32 p o => execPcmdAddF32 p o s
  | .pcmdAxpyF32 p o => execPcmdAxpyF32 p o s
  | .pcmdMaxF32 p o => execPcmdMaxF32 p o s
  | .pcmdCvtBf16 p o => execPcmdCvtBf16 p o s
  | .pcmdFill p o => execPcmdFill p o s
  | .pcmdCopy p o => execPcmdCopy p o s
  | .pcmdAcc p o => execPcmdAcc p o s
  | .cpy p va ch => execCpy p va ch s
  | .cpyq p va sa => execCpyq p va sa s
  | .drain p chs => execDrain p chs s
  | .cwait p o => execCwait p o s
  | .cadd p o => execCadd p o s
  | .cset p o => execCset p o s
  | .put p n o => execPut p n o s
  | .putm p n o => execPutm p n o s
  | .putmO p n o => execPutmO p n o s
  | .shdw p o => execShdw p o s
  | .publ p o => execPubl p o s
  | .sdef p sid => execSdef p sid s
  | .ssub p o => execSsub p o s
  | .sfeed p o => execSfeed p o s
  | .srel p sid => execSrel p sid s
  | .mload p o => execMload p o s
  | .mcall p en => execMcall p en s
  | .mwait p => execMwait p s
  | .mrdaVector p o => execMrdaVector p o s
  | .mrdaScratchpad p o => execMrdaScratchpad p o s
  | .mzro p t => execMzro p t s
  | .engw p sa ix => execEngw p sa ix s
  | .bar p n => execBar p n s
  | .bara p n => execBara p n s
  | .barw p n => execBarw p n s
  | .waitev p o => execWaitev p o s
  | .lnch p va sa => execLnch p va sa s
  | .csave p o => execCsave p o s
  | .cload p o => execCload p o s
  | .freeze p o => execFreeze p o s
  | .thaw p o => execThaw p o s
  | .discard p o => execDiscard p o s
  | .vdrain p sa => execVdrain p sa s
  | .hinvv p sa => execHinvv p sa s
  | .scrub p o => execScrub p o s
  | .trig p n => execTrig p n s
  | .nop p => execNop p s
  | .brt p o => execBrt p o s
  | .brc p o => execBrc p o s
  | .jmp p off => execJmp p off s
  | .jmpi p sa => execJmpi p sa s
  | .call p sd off => execCall p sd off s
  | .ret p sa => execRet p sa s
  | .loop p off => execLoop p off s
  | .lset p sa sm => execLset p sa sm s
  | .exit p => execExit p s
  | .yield p => execYield p s
  | .trap p code => execTrap p code s
  | .eret p => execEret p s
  | .halt p => execHalt p s
  | _ => .next s

end Sys2Proof.Machine
end

