-- ==== Sys2Proof/Machine/Uses.lean ====
section
/-!
DEFINITION. What a syllable names: its guard and tag (R76, R79), its unit (R76), the registers and queues it reads and
writes under the renaming at issue (R23, R34), and its weight (R302).
-/
namespace Sys2Proof.Machine

/-- A register or a queue by class and physical number: 0 s, 1 v, 2 k, 3 p, 4 b, 5 h, 6 g, 7 ldq, 8 sdq. -/
abbrev Name := Nat × Nat

/-- What is read and what is written. -/
abbrev Names := List Name × List Name

/-- Registers by logical name; s0, k0 and p0 are exempt (R23). -/
def nS (c : Ctx) (n : Nat) : List Name := if n = 0 then [] else [(0, physS c.rot n)]
def nV (c : Ctx) (n : Nat) : List Name := [(1, physV c.rot n)]
def nK (n : Nat) : List Name := if n = 0 then [] else [(2, n)]
def nP (c : Ctx) (n : Nat) : List Name := if n = 0 then [] else [(3, physP c.rot n)]
def nB (c : Ctx) (n : Nat) : List Name := [(4, physB c.rot n)]
def nH (n : Nat) : List Name := [(5, n)]
def nG (n : Nat) : List Name := [(6, n)]
/-- A pop counts as a write of ldq, a push as one of sdq (R23). -/
def nPop (q : Bool) : List Name := if q then [(7, 0)] else []
def nPush (q : Bool) : List Name := if q then [(8, 0)] else []
/-- A register of MOV's class. -/
def nClass (c : Ctx) (cl n : Nat) : List Name :=
  match cl with
  | 0 => nS c n | 1 => nG n | 2 => nK n | _ => nP c n

def namesXR (c : Ctx) (o : XR) : Names :=
  (nS c o.sa.val ++ nS c o.sb.val, nS c o.sd.val ++ nPop (o.qs || o.qb) ++ nPush o.qd)
def namesXU (c : Ctx) (o : XU) : Names := (nS c o.sa.val, nS c o.sd.val ++ nPop o.qs ++ nPush o.qd)
def namesXV (c : Ctx) (o : XV) : Names :=
  (if o.qs then [] else nClass c o.sc.val o.s.val,
   (if o.qd then [] else nClass c o.dc.val o.d.val) ++ nPop o.qs ++ nPush o.qd)

/-- The V operands: the sources va (or ldq), vb where the instruction has one, vd where it names the addend; km. -/
def namesVR (c : Ctx) (o : VR) (two add : Bool) : Names :=
  ((if o.qs then [] else nV c o.va.val) ++ (if two then nV c o.vb.val else []) ++ (if add then nV c o.vd.val else []) ++
     nK o.km.val,
   (if o.qd then [] else nV c o.vd.val) ++ nPop o.qs ++ nPush o.qd)
/-- VRED and VSCAN, whose QD bit chooses the operation. -/
def namesRed (c : Ctx) (o : VR) : Names :=
  ((if o.qs then [] else nV c o.va.val) ++ nK o.km.val, nV c o.vd.val ++ nPop o.qs)

/-- A base register. -/
def nBase (c : Ctx) (m : Bool) (n : Nat) : List Name := if m then nH n else nB c n
def namesAM (c : Ctx) (o : AM) : Names := (nBase c o.m o.base.val ++ nS c o.sx.val, nK o.kr.val)
/-- A gather's or a scatter's index is a vector. -/
def namesAG (c : Ctx) (o : AM) : Names := (nBase c o.m o.base.val ++ nV c o.sx.val, nK o.kr.val)
def namesAT (c : Ctx) (o : AT) : Names := (nBase c o.m o.base.val ++ nS c o.sx.val, [])
def namesAY (c : Ctx) (o : AY) : Names := (nBase c o.m o.base.val ++ nS c o.sx.val, [])
def namesAP (c : Ctx) (o : AP) : Names := (nH o.h.val ++ nS c o.sx.val ++ nS c o.sl.val, [])
def namesMS (c : Ctx) (o : MS) : Names := (nS c o.sa.val ++ nS c o.sb.val, [])

/-- What a syllable reads and writes beside its guard. VEXT ignores its km (R134). -/
def operands (c : Ctx) : Instr → Names
  | .add _ o | .sub _ o | .mul _ o | .mulh _ o | .mulhU _ o | .div _ o | .divU _ o | .rem _ o | .remU _ o => namesXR c o
  | .and _ o | .or _ o | .xor _ o | .andn _ o | .shl _ o | .shr _ o | .sra _ o | .rotl _ o => namesXR c o
  | .extb _ o | .extbS _ o | .depb _ o | .min _ o | .max _ o | .minU _ o | .maxU _ o | .lea _ _ o => namesXR c o
  | .sel _ n o => let x := namesXR c o; (nP c n.val ++ x.1, x.2)
  | .abs _ o | .clz _ o | .popc _ o => namesXU c o
  | .mov _ o => namesXV c o
  | .addi _ o => (nS c o.sa.val, nS c o.sd.val)
  | .shlImm _ o | .shrImm _ o | .sraImm _ o | .rotlImm _ o => (nS c o.sa.val, nS c o.sd.val)
  | .movi _ o => ([], nS c o.sd.val)
  | .mfsr _ o => ([], nS c o.s.val)
  | .mtsr _ o => (nS c o.s.val, [])
  | .cmp _ o => (nS c o.sa.val ++ nS c o.sb.val, nP c o.pd.val)
  | .cmpi _ o => (nS c o.sa.val, nP c o.pd.val)
  | .plog _ o => (nP c o.a.val ++ nP c o.b.val, nP c o.d.val)
  | .pset _ o => ([], nP c o.d.val)
  | .klog _ o => (nK o.a.val ++ nK o.b.val, nK o.d.val)
  | .kpopc _ o | .kfirst _ o => (nK o.ka.val, nS c o.sd.val)
  | .vadd _ _ o | .vsub _ _ o | .vmul _ _ o | .vmin _ _ o | .vmax _ _ o | .vscale _ _ o => namesVR c o true false
  | .vfma _ _ o | .vfmaNa _ _ o | .vdot _ _ o => namesVR c o true true
  | .vcmp _ _ o =>
    ((if o.qs then [] else nV c o.va.val) ++ nV c o.vb.val ++ nK o.km.val, nK o.kd.val ++ nPop o.qs)
  | .vand _ o | .vor _ o | .vxor _ o | .vsel _ o | .vshl _ o | .vshr _ o | .vsra _ o | .vperm _ o | .vpack _ o =>
    namesVR c o true false
  | .vabs _ _ o => namesVR c o false false
  | .vmov _ o | .vrcp _ o | .vrsq _ o | .vexp2 _ o | .vlog2 _ o | .vunpk _ o | .vrot _ o => namesVR c o false false
  | .vcvt _ o => ((if o.qs then [] else nV c o.va.val) ++ nK o.km.val, nV c o.vd.val ++ nPop o.qs)
  | .vbcast _ o =>
    (nS c ((if o.md then 32 else 0) + o.vb.val) ++ nK o.km.val, (if o.qd then [] else nV c o.vd.val) ++ nPush o.qd)
  | .vext _ o =>
    (if o.qs then [] else nV c o.va.val, nS c ((if o.qd then 32 else 0) + o.vd.val) ++ nPop o.qs)
  | .vins _ o => (nS c ((if o.qs then 32 else 0) + o.va.val) ++ nK o.km.val, nV c o.vd.val)
  | .viota _ o => (nK o.km.val, (if o.qd then [] else nV c o.vd.val) ++ nPush o.qd)
  | .vred _ _ o | .vscan _ _ o => namesRed c o
  | .lda _ _ o | .sta _ _ o | .ldv _ _ o | .ldvs _ _ o | .stv _ _ o | .stvs _ _ o | .feset _ o | .fewait _ o => namesAM c o
  | .ldg _ _ o | .stg _ _ o => namesAG c o
  | .bind _ o => (nBase c o.m o.base.val ++ nS c o.sl.val ++ (if o.u then [] else nS c o.so.val), [])
  | .fence _ _ | .pfence _ _ => ([], [])
  | .aadd _ o | .bset _ o => (nS c o.sa.val, nB c o.bd.val)
  | .trans _ o | .hrel _ o => (nS c o.sa.val, nH o.h.val)
  | .hchk _ o => (nH o.h.val ++ nS c o.sa.val, nK o.kr.val)
  | .preq _ o => (nH o.h.val ++ nS c o.sa.val, [])
  | .amo32 _ _ o | .amo64 _ _ o | .amos32 _ _ o | .amos64 _ _ o | .cas _ _ o => namesAT c o
  | .acqX _ o | .acqSh _ o | .acqEv _ o | .relUn _ o | .relPost _ o => namesAY c o
  | .pcmdAddI32 _ o | .pcmdAddF32 _ o | .pcmdAxpyF32 _ o | .pcmdMaxF32 _ o => namesAP c o
  | .pcmdCvtBf16 _ o | .pcmdFill _ o | .pcmdCopy _ o | .pcmdAcc _ o => namesAP c o
  | .cpy _ va _ => (nV c va.val, [])
  | .cpyq _ va sa | .lnch _ va sa => (nV c va.val ++ nS c sa.val, [])
  | .put _ _ o | .putm _ _ o | .putmO _ _ o => (nV c o.va.val ++ nS c o.sa.val ++ nS c o.sb.val, [])
  | .cwait _ o | .cadd _ o | .cset _ o | .shdw _ o | .mload _ o | .waitev _ o => namesMS c o
  | .csave _ o | .cload _ o | .freeze _ o | .thaw _ o | .discard _ o | .scrub _ o => namesMS c o
  | .publ _ o => (nS c o.sa.val, [])
  | .vdrain _ sa | .hinvv _ sa | .engw _ sa _ => (nS c sa.val, [])
  | .ssub _ o => (nS c o.sa.val, [])
  | .sfeed _ o => (nV c o.va.val, [])
  | .mcall _ _ => ((List.range 8).flatMap nG, [])
  | .mrdaVector _ o => ([], (if o.qd then [] else nV c o.vd.val) ++ nPush o.qd)
  | .mrdaScratchpad _ o => (nS c o.sa.val ++ nS c o.sb.val, [])
  | .brt _ o => (nP c o.t0.val ++ nP c o.t1.val ++ nP c o.t2.val ++ nP c o.t3.val, [])
  | .brc _ o => (nP c o.pc.val, [])
  | .jmpi _ sa | .ret _ sa | .lset _ sa _ => (nS c sa.val, [])
  | .call _ sd _ => ([], nS c sd.val)
  | _ => ([], [])

/-- With its guard (R23). -/
def names (c : Ctx) (p : Syl) (i : Instr) : Names := let x := operands c i; (nP c p.guard.val ++ x.1, x.2)

/-- One of the names in a is in b. -/
def meets (a b : List Name) : Bool := a.any b.contains

/-- A register that one syllable writes and another reads or writes (R23). -/
def dependent : List Names → Bool
  | [] => false
  | x :: r => r.any (fun y => meets x.2 (y.1 ++ y.2) || meets y.2 (x.1 ++ x.2)) || dependent r

/-- The syllable names ldq or sdq (R345). -/
def namesQueue (x : Names) : Bool := x.2.any fun n => n.1 == 7 || n.1 == 8

/-- The weight of a syllable of unit u (R302). -/
def sylWeight (u : Nat) (i : Instr) : Nat :=
  match u, i with
  | 0, .mul _ _ | 0, .mulh _ _ | 0, .mulhU _ _ | 0, .div _ _ | 0, .divU _ _ | 0, .rem _ _ | 0, .remU _ _ => 2
  | 0, _ => 1
  | 1, .vfma _ _ _ | 1, .vfmaNa _ _ _ | 1, .vdot _ _ _ => 5
  | 1, .vrcp _ _ | 1, .vrsq _ _ | 1, .vexp2 _ _ | 1, .vlog2 _ _ | 1, .vred _ _ _ | 1, .vscan _ _ _ => 4
  | 1, _ => 3
  | 2, _ => 2
  | _, _ => 1

end Sys2Proof.Machine
end

