-- ==== Sys2Proof/Machine/Course.lean ====
section
/-!
DEFINITION. Courses: fetch and its checks (R137), the grouping of syllables and the traps of the decoder (R21 to R23, R32,
R78 to R81, R95, R345), breakpoints (R372), issue (R24, R25), loop counters (R373), the context selector (R150), entry
of an asynchronous trap (R346), and results that land (R26).
-/
namespace Sys2Proof.Machine

/-! Fetch. -/

/-- What reading code gives: bytes, a trap with its TINFO where the spec states one, or a wait for a remote line. -/
inductive CodeRead where
  | bytes (l : List Byte)
  | trap (cause : Nat) (info : Option Word64)
  | wait (s : State)

/-- The context's VF translates (R188, R341). -/
def translates (s : State) (g : Nat) : Bool := !isSteward g && rbit s (vmcfg (vfOf s g)) 0

/-- Checks 2 and 3 of R137 on the page of a, and the partition check (R362). -/
def chkCode (s : State) (g : Nat) (h : HWord) (a : Nat) : Chk :=
  let sys := (getCtx s g).mode
  if translates s g && (hBit h 2 || !hBit h 3) then .trap 0x04 (BitVec.ofNat 64 a)
  else if translates s g && (!hBit h 9 || (hBit h 10 && !sys) || hVf h != vfOf s g) then .trap 0x05 (BitVec.ofNat 64 a)
  else if !translates s g && (hBit h 2 || decide (2 ≤ hTier h)) then .trap 0x05 (BitVec.ofNat 64 a)
  else if !isSteward g && homeMod s h == moduleNo s && !partOk s (vfOf s g) (handlePa h a) then
    .trap 0x05 (BitVec.ofNat 64 a)
  else .ok

/-- A line of code that a request fetches, from a peer, from another die, whose lines the die's cache may hold (R180), or from a frame of
a migration (R422): kept, failed, or on its way; it leaves in a slot of the core's (R184). -/
def remoteCode (s : State) (g : Nat) (m : Option Nat) (h : HWord) (pa : Nat) : CodeRead :=
  let c := getCtx s g
  let line := pa / 128 * 128
  let key := lineKey m line
  if c.codeLn.any fun l => l.1 == 2 ^ 80 + key then .trap 0x08 none
  else
    match c.codeLn.find? fun l => l.1 == key with
    | some l => .bytes ((List.range 16).map fun i => byteAt l.2 (pa % 128 / 16 * 16 + i))
    | none =>
      if (s.txns.any fun e => e.2.src == .fetch g && e.2.orig == 0) || !slotFree s g then .wait s
      else
        let t := { (Txn.base .load (.fetch g) { Req.blank with sys := c.mode, h := some h } (dieOfCore (coreOf g)) (vfOf s g) line).through
                     s g h with rd := (List.range 128).map fun i => (line + i, i), len := 128, cnt := key }
        .wait (sendTxn (takeSlot s g) t 1).1

/-- Read the bundle that holds a, an address of context g's code; a names it in a trap. -/
def readBundle (s : State) (g a : Nat) : CodeRead :=
  let h := translate s (isSteward g) (vfOf s g) a
  match chkCode s g h a with
  | .trap cause info => .trap cause (some info)
  | .stall => .wait s
  | .ok =>
    let pa := handlePa h (a / 16 * 16)
    if homeMod s h != moduleNo s then remoteCode s g (some (homeMod s h)) h pa
    else if migFrame s pa || decide (hTier h < 2) && homeDie pa != dieOfCore (coreOf g) then remoteCode s g none h pa
    else
      let p := if hTwin h then twinPa s (vfOf s g) pa (hPage h) false else pa
      if (List.range 16).any fun i => badByte s (p + i) then .trap 0x08 none else .bytes (mreadN s p 16)

/-- The four words of a bundle. -/
def wordsIn (l : List Byte) : List Nat := (List.range 4).map fun k => natOfBytes ((l.drop (4 * k)).take 4)

def isHeader (w : Nat) : Bool := fld w 28 3 == 5
/-- A BRT by its UNIT and OP alone, whatever else its word holds (DESIGN CHOICE, log 18). -/
def isBrt (w : Nat) : Bool := fld w 28 3 == 4 && fld w 21 7 == 1

/-- The address of the first syllable of the course at a: past a header in slot 0 (R18, R21). -/
def firstOf (s : State) (g a : Nat) : Nat :=
  if a % 16 = 0 then
    match readBundle s g a with
    | .bytes l => let w := (wordsIn l).headD 0; if isHeader w && !bitOf w 31 then a + 4 else a
    | _ => a
  else a

/-- Check 1 of R137: the code object in user mode, in system mode the bound of R340. -/
def chkBound (s : State) (g pc : Nat) : Bool :=
  if (getCtx s g).mode then
    let h := translate s (isSteward g) (vfOf s g) pc
    !hBit h 2 && (if translates s g then hBit h 9 else decide (hTier h < 2))
  else
    let u := groupOf s g
    decide (u.code ≤ pc) && decide (pc < u.code + u.codelen)

/-! The decoder. -/

/-- A syllable of a course: its bundle's address, its unit, its guard, the instruction. -/
structure CSyl where
  bundle : Nat
  unit   : Nat
  p      : Syl
  i      : Instr

/-- What the header lends slot k (R79 to R81). -/
def lendAt (h k : Nat) : Lend :=
  if k = 0 || !isHeader h then .none
  else
    let b := fld h (8 * (3 - k)) 8
    let t (lo : Nat) : Int := sx 6 (fld h lo 6)
    match fld h 24 4 with
    | 0 => .leaf b
    | 1 => .wide b
    | 4 => .tree 0 (t 18) (t 12) (t 6) (t 0)
    | 5 => .tree 1 (t 18) (t 12) (t 6) (t 0)
    | 6 => .tree 2 (t 18) (t 12) (t 6) (t 0)
    | 7 => .tree 3 (t 18) (t 12) (t 6) (t 0)
    | _ => .none

/-- The codes of R343 for what is wrong with a bundle itself: header misuse 3, its KIND 0, the TREE rule 5 (R78, R80). Every
course that takes a syllable of the bundle has them (DESIGN CHOICE, log 18). -/
def bundleErrs (w : List Nat) : List Nat :=
  let h := w.headD 0
  let hdr := isHeader h
  let kind := fld h 24 4
  let tree := hdr && kind / 4 == 1
  let brt := (if hdr then w.drop 1 else w).any isBrt
  (if hdr && bitOf h 31 then [3] else []) ++ (if hdr && decide (2 ≤ kind) && kind / 4 != 1 then [0] else []) ++
    (if tree != brt then [5] else [])

/-- A word of a course: bundle, what the header lends it, the word. -/
abbrev CWord := Nat × Lend × Nat

/-- The words of a bundle from slot k on, without a header in slot 0, up to the first stop bit, and its slot. -/
def runOf (base k : Nat) (w : List Nat) : List CWord × Option Nat :=
  go (((List.range 4).zip w).filter fun x => decide (k ≤ x.1) && !(x.1 == 0 && isHeader x.2 && !bitOf x.2 31))
where
  go : List (Nat × Nat) → List CWord × Option Nat
    | [] => ([], none)
    | (j, x) :: r =>
      if bitOf x 31 then ([(base, lendAt (w.headD 0) j, x)], some j)
      else let (l, b) := go r; ((base, lendAt (w.headD 0) j, x) :: l, b)

/-- The matrix instructions, which a steward core has not (R341). -/
def matrixOp : Instr → Bool
  | .mload _ _ | .mcall _ _ | .mwait _ | .mrdaVector _ _ | .mrdaScratchpad _ _ | .mzro _ _ => true
  | _ => false

/-- Decode one word of a course. -/
def decodeWord (stew : Bool) (x : CWord) : Except Nat CSyl :=
  match decodeSyl x.2.1 x.2.2 with
  | .ok i =>
    if stew && matrixOp i then .error 0
    else .ok { bundle := x.1, unit := fld x.2.2 28 3, p := sylOf x.2.1 x.2.2, i := i }
  | .error .header => .error 3
  | .error .tree => .error 5
  | .error _ => .error 0

def twice : List Nat → Bool
  | [] => false
  | u :: r => r.contains u || twice r

/-- The codes that R343 gives a course's words (R22, R23, R32, R95); `third` says that no stop bit came in two bundles. -/
def courseErrs (stew third : Bool) (c : Ctx) (ws : List CWord) : List Nat × List CSyl :=
  let ds := ws.map (decodeWord stew)
  let ok := ds.filterMap fun d => d.toOption
  let e1 := ds.filterMap fun d => match d with
    | .error e => some e
    | .ok _ => none
  let e2 := if twice ((ws.map fun x => fld x.2.2 28 3).filter (· < 5)) then [6] else []
  let e3 := if third then [2] else []
  let tagged := ws.any fun x => x.2.1.lt != 0 && decide (x.2.1.lt < 6)
  let e4 := if tagged && !(ws.any fun x => isBrt x.2.2) then [4] else []
  let e5 := if dependent (ok.map fun x => names c x.p x.i) then [1] else []
  (e1 ++ e2 ++ e3 ++ e4 ++ e5, ok)

/-- What fetching a course gives: a trap with its TINFO and the address past the course where they are stated, a wait, the
codes of an illegal encoding, or the course with the address past it. -/
inductive Fetched where
  | trap (cause : Nat) (info : Option Word64)
  | wait (s : State)
  | bad (codes : List Nat) (next : Option Nat)
  | ok (syls : List CSyl) (next : Nat)

/-- The course's words are known: decode them. -/
def decodeCourse (s : State) (g last : Nat) (third : Bool) (errs : List Nat) (ws : List CWord) : Fetched :=
  let (e, ok) := courseErrs (isSteward g) third (getCtx s g) ws
  match errs ++ e with
  | [] => .ok ok last
  | l => .bad l (if third then none else some last)

/-- Fetch the course at pc (R21, R22, R137). -/
def fetchCourse (s : State) (g pc : Nat) : Fetched :=
  if !chkBound s g pc then .trap 0x03 (some (BitVec.ofNat 64 pc))
  else
    match readBundle s g pc with
    | .wait t => .wait t
    | .trap c i => .trap c i
    | .bytes l =>
      let base := pc / 16 * 16
      let wa := wordsIn l
      let (ra, stop) := runOf base (pc / 4 % 4) wa
      match stop with
      | some k => decodeCourse s g (base + 4 * (k + 1)) false (bundleErrs wa) ra
      | none =>
        match readBundle s g (base + 16) with
        | .wait t => .wait t
        | .trap c i => .trap c i
        | .bytes l2 =>
          let wb := wordsIn l2
          let (rb, stop2) := runOf (base + 16) 0 wb
          decodeCourse s g (base + 16 + 4 * (stop2.getD 3 + 1)) stop2.isNone (bundleErrs wa ++ bundleErrs wb) (ra ++ rb)

/-! Breakpoints. -/

/-- An armed breakpoint of the context's core matches pc with action act: the lowest such number (R372). -/
def breakAt (s : State) (g pc : Nat) (act : Nat → Bool) : Option Nat :=
  let n := coreOf g
  let c := getCtx s g
  if decide (1024 ≤ n) || c.skb then none
  else
    (List.range 4).find? fun j =>
      let d := bkpt n j
      rbit s (d + 8) 0 && act (rfld s (d + 8) 1 2) && rfld s d 0 57 == pc && (rbit s (d + 8) 5 || rfld s (d + 8) 3 2 == g % 4)

/-! Issue. -/

/-- How an attempt to issue a context's next course ends: a trap or a freeze at its boundary, a wait, or issue. -/
inductive Attempt where
  | trap (s : State)
  | stall (s : State)
  | go (s : State)

/-- A number the spec states, or a free one. -/
def orFree (x : Option Nat) (s : State) : Nat × State :=
  match x with
  | some n => (n, s)
  | none => let (v, s1) := drawBits s; (v.toNat % 2 ^ 57 / 4 * 4, s1)

/-- A precise trap of the fetch; TINFO and TNEXT are free where the spec does not state them (log 12). -/
def fetchTrap (s : State) (g cause : Nat) (info : Option Word64) (pc : Nat) (next : Option Nat) : State :=
  let (n, s1) := orFree next s
  match info with
  | some x => takeTrap s1 g cause x false pc n
  | none => let (v, s2) := drawBits s1; takeTrap s2 g cause (v.truncate 64) false pc n

/-- The course after, past a header. -/
def afterCourse (s : State) (g : Nat) (n : Option Nat) : Option Nat := n.map (firstOf s g)

/-- One of the codes that apply, free where several do (R343). -/
def oneOf (s : State) (l : List Nat) : Nat × State :=
  if l.all fun e => e == l.headD 0 then (l.headD 0, s)
  else let (k, s1) := draw s; (l.getD (k % l.length) 0, s1)

/-- The state in which the syllables of a course execute: PC and the issue cycle of the next course as if nothing
branched (R24, R33). -/
def openCourse (s : State) (g pc next tnext : Nat) (syls : List CSyl) : State :=
  let c := getCtx s g
  let brt := match syls.find? fun x => match x.i with
      | .brt _ _ => true
      | _ => false with
    | some x => match x.i with
      | .brt p o => brtOutcome c p o
      | _ => 4
    | none => 4
  let s1 := { s with iss := { g := g, pc := pc, next := next, tnext := tnext, bundle := 0, brt := brt, old := c.flight.length, fate := .go } }
  setCtx s1 g { c with pc := tnext, next := localTime s (coreOf g) + 1, bubble := false }

/-- Execute one syllable of the course. -/
def runSyl (s : State) (x : CSyl) : State :=
  match execSyl x.i { s with iss := { s.iss with bundle := x.bundle, fate := .go } } with
  | .next t => t
  | _ => s

/-- The syllables of unit u. -/
def ofUnit (u : Nat) (l : List CSyl) : List CSyl := l.filter fun x => x.unit == u
/-- Units X, V, A, B: none of them acts before the whole course can issue. -/
def plainUnits (l : List CSyl) : List CSyl := ofUnit 0 l ++ ofUnit 1 l ++ ofUnit 2 l ++ ofUnit 4 l
/-- The order in which an issued course's syllables take effect. What the B syllable writes at once prevails over an X syllable's
write of the same physical predicate (DESIGN CHOICE, log 99). -/
def effectOrder (l : List CSyl) : List CSyl := ofUnit 0 l ++ ofUnit 1 l ++ ofUnit 3 l ++ ofUnit 2 l ++ ofUnit 4 l

/-- A taken LOOP is in the course (R36). -/
def loopTaken (c : Ctx) (l : List CSyl) : Bool :=
  l.any fun x => match x.i with
    | .loop _ _ => c.rdP x.p.guard.val && decide ((c.eix : Int) + 1 < (c.itr : Int) + c.stg - 1)
    | _ => false

/-- One more in the half of a loop counter's word. -/
def lpcInc (s : State) (a lo n : Nat) : State := rsetF s a lo n (rfld s a lo n + 1)

/-- A unit's slot is filled (R373): guarded on, and of the leaf that its course's BRT takes (R32; DEDUCED, log 138). -/
def slotFilled (s : State) (l : List CSyl) (u : Nat) : Bool :=
  l.any fun x => x.unit == u && guardOn x.p s && (match x.i with
    | .nop _ => false
    | _ => true)

/-- The course at pc counts in the entries that are counting its context; the course at LOOP is the last, and a LOOP taken
there begins anew (R373). -/
def countCourse (s : State) (g pc : Nat) (l : List CSyl) : State :=
  let n := coreOf g
  if 1024 ≤ n then s
  else
    let c := getCtx s g
    let mine := (getCore s n).lpc.filter fun e => e.1 == g % 4 && rbit s (lpc n e.2) 63
    let s1 := mine.foldl (fun s e =>
      (List.range 5).foldl (fun s u => lpcInc s (lpc n e.2 + 24 + 8 * u) (if slotFilled s l u then 0 else 32) 32)
        (lpcInc s (lpc n e.2 + 8) 0 64)) s
    let at' := (List.range 16).filter fun j => rbit s (lpc n j) 63 && rfld s (lpc n j) 0 57 == pc
    let stay := (getCore s n).lpc.filter fun e => e.1 != g % 4 || (mine.contains e && !at'.contains e.2)
    modCore s1 n fun k => { k with lpc := stay ++ if loopTaken c l then at'.map fun j => (g % 4, j) else [] }

/-- A cycle without a course in the entries that count the context: kind 0 stall, 32 bubble (R373). -/
def countIdle (s : State) (g lo : Nat) : State :=
  let n := coreOf g
  ((getCore s n).lpc.filter fun e => e.1 == g % 4 && rbit s (lpc n e.2) 63).foldl (fun s e => lpcInc s (lpc n e.2 + 16) lo 32) s

/-- A breakpoint that triggers (R370, R372). -/
def triggerAt (s : State) (g pc : Nat) : Option Nat → State
  | some j => trigger (traceRec s g 4 j pc) (dieOfCore (coreOf g))
  | none => s

/-- Issue the opened course: every syllable takes effect (R24). `bp` is the breakpoint that triggers. -/
def issueCourse (s0 : State) (g pc : Nat) (bp : Option Nat) (syls : List CSyl) : State :=
  let s1 := (effectOrder syls).foldl runSyl
    (modCtx (countCourse (triggerAt s0 g pc bp) g pc syls) g fun c => { c with skb := false })
  modCore (modCtx s1 g fun c => { c with mark := none, waitEnd := none }) (coreOf g) fun k =>
    { k with running := g % 4, weight := k.weight + syls.foldl (fun n x => n + sylWeight x.unit x.i) 0 }

/-- Stall, trap or issue of a decoded course (R24, R25): a syllable of X, V, A or B that must stall keeps it back; of several traps
any one is taken (the spec orders none); a trap is taken at once beside an M syllable that would have to wait (DESIGN
CHOICE, log 19), which is tried once nothing else holds the course. -/
def tryIssue (s : State) (g pc next : Nat) (syls : List CSyl) : Attempt :=
  let c := getCtx s g
  let s0 := openCourse s g pc next (firstOf s g next) syls
  let xs := (plainUnits syls).map fun x => (x, runSyl s0 x)
  let ms := (ofUnit 3 syls).map fun x => (x, runSyl s0 x)
  if xs.any fun x => x.2.iss.fate == .stall then .stall s
  else
    match (xs ++ ms).filter fun x => x.2.iss.fate == .trap with
    | [] =>
      match ms.find? fun x => x.2.iss.fate == .stall with
      | some x => .stall (modCtx x.2 g fun d => { d with pc := c.pc, next := c.next, bubble := c.bubble })
      | none => .go (issueCourse s0 g pc (breakAt s g pc (· == 0)) syls)
    | [x] => .trap x.2
    | x :: y :: r =>
      let l := x :: y :: r
      let (k, s1) := draw s0
      .trap (runSyl s1 (l.getD (k % l.length) x).1)

/-- A syllable that a context with HLD = 1 may not issue (R345). -/
def heldSyl (c : Ctx) (x : CSyl) : Bool :=
  x.unit == 2 || namesQueue (operands c x.i) || (x.unit == 3 && match x.i with
    | .csave _ _ => false
    | _ => true)

/-- Try the next course of context g. -/
def tryCourse (s : State) (g : Nat) : Attempt :=
  let c := getCtx s g
  let pc := firstOf s g c.pc
  let f := fetchCourse s g pc
  match breakAt s g pc fun a => a == 1 || a == 2 with
  | some j =>
    let s1 := traceRec s g 4 j pc
    if rfld s (bkpt (coreOf g) j + 8) 1 2 = 1 then
      .trap (postCtx (freezeNow s1 g) g 0x04 (BitVec.ofNat 64 j) 0)
    else
      let next := match f with
        | .ok _ n => some n
        | .bad _ n => n
        | _ => none
      .trap (fetchTrap s1 g 0x0B (some (BitVec.ofNat 64 j)) pc (afterCourse s g next))
  | none =>
    match f with
    | .wait t => .stall t
    | .trap cause info =>
      .trap (fetchTrap (modCtx s g fun c => { c with codeLn := c.codeLn.filter fun l => l.1 < 2 ^ 80 || decide (2 ^ 81 ≤ l.1) })
        g cause info pc none)
    | .bad codes next => let (e, s1) := oneOf s codes; .trap (fetchTrap s1 g 0x01 (some (BitVec.ofNat 64 e)) pc (afterCourse s g next))
    | .ok syls next => if c.hld && syls.any (heldSyl c) then .trap (doubleFault s g pc) else tryIssue s g pc next syls

/-! The selector. -/

/-- The context may be tried in this cycle: resident, not frozen, past its bubbles (R149). -/
def mayIssue (s : State) (g : Nat) : Bool :=
  let c := getCtx s g
  c.phase == .resident && !c.frozen && decide (c.next ≤ localTime s (coreOf g))

/-- The running context is in its bubbles, or in the like cycles before a handler's first course (R150, R344). -/
def inBubble (s : State) (g : Nat) : Bool :=
  let c := getCtx s g
  c.phase == .resident && !c.frozen && decide (localTime s (coreOf g) < c.next)
/-- A cycle in which the context keeps its core without a course: a branch's bubbles are counted (R373). -/
def countBubble (s : State) (g : Nat) : State := if (getCtx s g).bubble then countIdle s g 32 else s

/-- The contexts in the order in which the selector looks at them; one that yielded comes last (R150, R153). -/
def selectOrder (core run : Nat) (y : Option Nat) : List Nat :=
  (match y with
    | some g => [1, 2, 3, 4].map fun i => (g % 4 + i) % 4
    | none => [0, 1, 2, 3].map fun i => (run + i) % 4).map fun i => ctxBase core + i

/-- The first context that issues or traps; a wait's effects stay, so that a BAR of a context arrives in a cycle in which the selector
tries it (DESIGN CHOICE, log 103). The answer says whether one did. -/
def selectFrom (core : Nat) : List Nat → State → State × Bool
  | [], s => (s, false)
  | g :: r, s =>
    if mayIssue s g then
      match tryCourse s g with
      | .go t => (t, true)
      | .trap t => (modCore t core fun k => { k with running := g % 4 }, true)
      | .stall t => selectFrom core r t
    else selectFrom core r s

/-- CONTEXT_SELECT (R150, R153). -/
def execContextSelect (core : Nat) (s : State) : Res :=
  if coreFrozen s core then .next s
  else
    let k := getCore s core
    let run := ctxBase core + k.running
    let s1 := modCore s core fun k => { k with yielded := none }
    if k.yielded.isNone && inBubble s run then .next (countBubble s1 run)
    else
      let (s2, did) := selectFrom core (selectOrder core k.running k.yielded) s1
      if did then .next s2
      else if inBubble s run then .next (countBubble s2 run)
      else if mayIssue s run then .next (countIdle s2 run 0)
      else .next s2

/-- ASYNC_TRAP_ENTRY (R344, R346, R361): at a boundary with IN = 0 at which the next course could stand, its bubbles over, so
that held results keep their distance from it (R348; log 93), unless that course traps precisely there. -/
def execAsyncTrapEntry (g : Nat) (s : State) : Res :=
  let c := getCtx s g
  if c.inh || c.frozen || c.phase != .resident || (c.apq.isEmpty && c.undel == 0) || coreFrozen s (coreOf g) then .next s
  else
    let pc := firstOf s g c.pc
    let taken : State :=
      match c.apq with
      | (cause, info) :: r => takeTrap (setCtx s g { c with apq := r }) g cause info true pc pc
      | [] => takeTrap (setCtx s g { c with undel := 0, apinfo := 0 }) g 0x10 c.apinfo true pc pc
    if mayIssue s g then
      match tryCourse s g with
      | .trap t => .next t
      | _ => .next taken
    else .next s

/-- RESULT_LANDING (R26, R28): everything due in this cycle lands, an exited context's results too (R143). -/
def execResultLanding (core : Nat) (s : State) : Res :=
  if coreFrozen s core then .next s
  else
    .next ((List.range 4).foldl (fun s i =>
      let g := ctxBase core + i
      if (getCtx s g).frozen then s else modCtx s g fun c => c.landDue (isSteward g) (localTime s core)) s)

end Sys2Proof.Machine
end

