-- ==== Sys2Proof/Machine/Links.lean ====
section
/-!
DEFINITION. Fabric ports: the escape tree (R401, R402, R406), ports going down and coming up (R392, R405), re-striping and
lane health (R389 to R392), flits received and sent (R384 to R388).
-/
namespace Sys2Proof.Machine

/-- A control flit waits to be sent. -/
def sendCtl (s : State) (p ty : Nat) (x : Payload) : State := modPort s p fun q => { q with ctl := q.ctl ++ [(ty, x)] }

/-! Waiting messages. -/

/-- Choose again for the messages that have no port. -/
def rerouteWaiting (s : State) : State :=
  (s.fab.queue.filter fun q => q.port.isNone && q.sent == 0).foldl (fun s q =>
    let (s1, q1) := chooseRoute s q
    { s1 with fab := { s1.fab with queue := s1.fab.queue.map fun x => if x.id = q.id then q1 else x } }) s

/-! The escape tree (R401). Within ADV, DW2[0] says that the sender's buffers are quiet (R402) and DW2[1] that the receiver
is the sender's parent (log 22). -/

def advPayload (t : Tree) (p : Nat) : Payload :=
  pay [t.epoch * 2 ^ 4 + t.root * 2 ^ 20 + t.level * 2 ^ 34, 0, (if t.quiet then 1 else 0) + if t.parent = p then 2 else 0]
def advAll (s : State) : State := (upPorts s).foldl (fun s p => sendCtl s p 0xB (advPayload s.fab.tree p)) s

/-- The timers of a tree state that has just changed. -/
def treeTimers (s : State) : State :=
  let (k, s1) := fresh s
  let s2 := setTree s1 { s1.fab.tree with since := s.clock, stamp := k }
  after (after s2 (2 * Config.cyclesPerUs) (.treeStableTimer k)) Config.cyclesPerUs (.escapeParityQuiet k)

/-- Begin epoch e. -/
def treeStart (s : State) (e : Nat) : State :=
  let t := s.fab.tree
  advAll (treeTimers (setTree s { Tree.reset with epoch := e % 65536, root := moduleNo s, epAt := t.epAt, tabs := t.tabs }))

/-- Root, level and parent from what the neighbours have said. -/
def treeChoose (s : State) : Nat × Nat × Nat :=
  let n := s.fab.tree.nbrs
  let me := moduleNo s
  let root := n.foldl (fun r x => min r x.2.root) me
  if root = me then (me, 0, 63)
  else
    let l := n.filter fun x => x.2.root == root
    let lvl := l.foldl (fun k x => min k x.2.level) 16384
    let best := (l.filter fun x => x.2.level == lvl).foldl (fun (b : Option (Nat × Nat)) x =>
      let y := (portPeer s x.1, x.1)
      match b with
      | none => some y
      | some z => if y.1 < z.1 ∨ (y.1 = z.1 ∧ y.2 < z.2) then some y else b) none
    (root, lvl + 1, (best.map (·.2)).getD 63)

def treeUpdate (s : State) : State :=
  let t := s.fab.tree
  let (r, l, p) := treeChoose s
  if r = t.root ∧ l = t.level ∧ p = t.parent then s
  else advAll (treeTimers (setTree s { t with root := r, level := l, parent := p, sent := false }))

/-- The ports of the children. -/
def treeKids (t : Tree) : List Nat := (t.nbrs.filter fun x => x.2.child).map (·.1)
def kidMap (t : Tree) (p : Nat) : BitVec 16384 := (tget (0, 0) t.done p).1
/-- The modules of the own subtree. -/
def subtree (s : State) : BitVec 16384 :=
  let t := s.fab.tree
  (treeKids t).foldl (fun m p => m ||| kidMap t p) (BitVec.ofNat 16384 (2 ^ moduleNo s))

/-- Bits 256 c to 256 c + 255 in a DONE or INSTALL flit. -/
def chunkPayload (t : Tree) (kind : Nat) (m : BitVec 16384) (c : Nat) : Payload :=
  let x := m.toNat / 2 ^ (256 * c) % 2 ^ 256
  pay ([kind + t.epoch * 2 ^ 4 + t.root * 2 ^ 20 + t.level * 2 ^ 34, c] ++ (List.range 4).map fun i => x / 2 ^ (64 * i) % 2 ^ 64)
def chunkBits (x : Payload) : BitVec 16384 := BitVec.ofNat 16384 (x.toNat / 2 ^ 128 % 2 ^ 256 * 2 ^ (256 * payW x 1 0 6))
def chunkMask (x : Payload) : BitVec 16384 := BitVec.ofNat 16384 ((2 ^ 256 - 1) * 2 ^ (256 * payW x 1 0 6))
/-- The chunk in a set of the 64 chunks, and the whole set. -/
def chunkBit (x : Payload) : Nat := 2 ^ payW x 1 0 6
def allChunks : Nat := 2 ^ 64 - 1
def sendChunks (s : State) (p kind : Nat) (m : BitVec 16384) : State :=
  (List.range 64).foldl (fun s c => sendCtl s p 0xB (chunkPayload s.fab.tree kind m c)) s

/-- The epoch's table as this Ridge die sees it. -/
def treeTable (s : State) (live : BitVec 16384) : ETable :=
  let t := s.fab.tree
  { epoch := t.epoch, root := t.root, level := t.level, parent := t.parent,
    kids := (treeKids t).map fun p => (p, kidMap t p), live := live }

/-- A message has waited ESCWAIT at the head of its adaptive VC for a buffer (R400). -/
def escLate (s : State) (q : QMsg) : Bool :=
  q.sent == 0 && !q.m.esc && q.port.isSome && q.head != 0 && decide (q.head + rfld s (fabcfg + 8) 16 16 * 5 / 4 ≤ s.clock + 1)
/-- Such messages enter the escape VC where a table is installed; else they wait on. -/
def enterLate (s : State) (f : QMsg → Bool) : State :=
  if escInstalled s then
    (s.fab.queue.filter fun q => f q && escLate s q).foldl (fun s q =>
      let (s1, q1) := enterEscape s q
      { s1 with fab := { s1.fab with queue := s1.fab.queue.map fun x => if x.id = q.id then q1 else x } }) s
  else s

/-- Install a table: the registers, event 0x0F, the modules that it unfences, the messages that waited for it (R400, R401, R402,
R406); step 6 of a start ends with it once no wired port is training still: the change of a port's STATE begins an epoch, so that it is
one begun after (R392, R447; log 127). -/
def install (s : State) (e : ETable) : State :=
  let t := s.fab.tree
  let s1 := setTree s { t with pend := none, tabs := e :: t.tabs.filter fun x => x.epoch % 2 != e.epoch % 2 }
  let w : Nat := e.epoch + e.root * 2 ^ 16 + e.level * 2 ^ 30 + e.parent * 2 ^ 44 + 2 ^ 50
  let trained := (List.range 47).all fun p =>
    !rbit s (rport p) 0 || (wiredPeer (numGroups s) (moduleNo s) p).isNone || !(portState s p == 0 || portState s p == 1)
  let s2 := rset (if rfld s startst 0 3 = 6 && trained then rsetF s1 startst 0 3 7 else s1) (fabcfg + 16) (BitVec.ofNat 64 w)
  let s3 := (List.range 256).foldl (fun s i =>
    rset s (livemap + 8 * i) (BitVec.ofNat 64 (e.live.toNat / 2 ^ (64 * i) % 2 ^ 64))) s2
  let s4 := postPlain s3 0x0F 0 (BitVec.ofNat 64 e.epoch) (BitVec.ofNat 64 e.root)
  let back := (List.range 256).flatMap fun i =>
    let x := (rget s4 (fencedMap + 8 * i)).toNat
    if x = 0 then []
    else ((List.range 64).filter fun j => x.testBit j && e.live.getLsbD (64 * i + j)).map fun j => 64 * i + j
  enterLate (rerouteWaiting (back.foldl unfence s4)) fun _ => true

/-- A message on the escape VC with epoch parity e stands in the buffers. -/
def parityHeld (s : State) (e : Bool) : Bool :=
  (s.fab.queue.any fun q => q.m.esc && q.m.ep == e) || s.fab.ports.any fun p => p.2.rx.any fun r => r.m.esc && r.m.ep == e

/-- Install the waiting table once the own buffers, as they are now too, and every neighbour's are quiet (R402). -/
def tryInstall (s : State) : State :=
  let t := s.fab.tree
  match t.pend with
  | some e =>
    if t.quiet && !parityHeld s (t.epoch % 2 == 1) && (upPorts s).all fun p => (tfind t.nbrs p).any fun n => n.quiet then install s e else s
  | none => s

/-- A stable tree whose children have all sent DONE: up to the parent, or at the root INSTALL goes down. -/
def treeCheck (s : State) : State :=
  let t := s.fab.tree
  if t.sent || s.clock < t.since + 2 * Config.cyclesPerUs || !((treeKids t).all fun p => (tget (0, 0) t.done p).2 == allChunks) then s
  else
    let m := subtree s
    let s1 := setTree s { t with sent := true }
    if t.root = moduleNo s then
      let s2 := (treeKids t).foldl (fun s p => sendChunks s p 2 m) s1
      tryInstall (setTree s2 { s2.fab.tree with pend := some (treeTable s2 m) })
    else sendChunks s1 t.parent 1 m

/-- TREE_STABLE_TIMER (R401). -/
def execTreeStableTimer (stamp : Nat) (s : State) : Res :=
  if s.fab.tree.stamp = stamp then .next (treeCheck s) else .next s

/-- Note in which cycle messages of each parity last stood in the buffers. One of the epoch's parity that comes before its table is
installed takes the report back: the microsecond starts again (R402). -/
def noteParity (s : State) : State :=
  let f (k : Nat) (t : Tab Nat) : Tab Nat := if parityHeld s (k == 1) then tset t k (s.clock + 1) else t
  let t := s.fab.tree
  let e := f 1 (f 0 t.epAt)
  let s1 := if e = t.epAt then s else setTree s { t with epAt := e }
  if t.quiet && parityHeld s (t.epoch % 2 == 1) && !(t.tabs.any fun x => x.epoch == t.epoch) then
    after (advAll (setTree s1 { s1.fab.tree with quiet := false })) Config.cyclesPerUs (.escapeParityQuiet t.stamp)
  else s1

/-- ESCAPE_PARITY_QUIET (R402): the buffers have held no message of the epoch's parity for 1 microsecond. -/
def execEscapeParityQuiet (stamp : Nat) (s : State) : Res :=
  let t := s.fab.tree
  if t.stamp ≠ stamp || t.quiet then .next s
  else if parityHeld s (t.epoch % 2 == 1) || s.clock < tget 0 t.epAt (t.epoch % 2) + Config.cyclesPerUs && 0 < tget 0 t.epAt (t.epoch % 2) then
    .next (after s Config.cyclesPerUs (.escapeParityQuiet stamp))
  else .next (tryInstall (advAll (setTree s { t with quiet := true })))

/-- An ADV flit: KIND 0. A neighbour whose root, level or place in the tree has changed sends DONE again if it is a child, and what the
own subtree holds goes up again with it. -/
def onAdv (s : State) (p : Nat) (x : Payload) : State :=
  let e := payW x 0 4 16
  let s1 := if laterEpoch e s.fab.tree.epoch then treeStart s e else s
  let t := s1.fab.tree
  if e ≠ t.epoch then s1
  else
    let n : Nbr := { root := payW x 0 20 14, level := payW x 0 34 14, child := payW x 2 1 1 == 1, quiet := payW x 2 0 1 == 1 }
    let same := match tfind t.nbrs p with
      | some o => o.root == n.root && o.level == n.level && o.child == n.child
      | none => !n.child
    let kid := n.child || match tfind t.nbrs p with
      | some o => o.child
      | none => false
    let t1 := if same || !kid then t else { t with done := tdel t.done p, sent := false }
    tryInstall (treeCheck (treeUpdate (setTree s1 { t1 with nbrs := tset t.nbrs p n })))

/-- A DONE flit of a child. -/
def onDone (s : State) (p : Nat) (x : Payload) : State :=
  let t := s.fab.tree
  if payW x 0 4 16 ≠ t.epoch then s
  else
    let d := tget (0, 0) t.done p
    treeCheck (setTree s { t with done := tset t.done p ((d.1 &&& ~~~ (chunkMask x)) ||| chunkBits x, d.2 ||| chunkBit x) })

/-- An INSTALL flit of the parent: passed down, and the table installed with the last chunk of a set. -/
def onInstall (s : State) (p : Nat) (x : Payload) : State :=
  let t := s.fab.tree
  if payW x 0 4 16 ≠ t.epoch || p ≠ t.parent then s
  else
    let live := (t.live &&& ~~~ (chunkMask x)) ||| chunkBits x
    let got := t.chunks ||| chunkBit x
    let s1 := (treeKids t).foldl (fun s k => sendCtl s k 0xB x)
      (setTree s { t with live := live, chunks := if got = allChunks then 0 else got })
    if got = allChunks then tryInstall (setTree s1 { s1.fab.tree with pend := some (treeTable s1 live) }) else s1

def onTree (s : State) (p : Nat) (x : Payload) : State :=
  match payW x 0 0 4 with
  | 0 => onAdv s p x
  | 1 => onDone s p x
  | 2 => onInstall s p x
  | _ => s

/-! STATE. -/

/-- A change of STATE: event 0x0C, and a new epoch (R392, R401). -/
def setPState (s : State) (p st : Nat) : State :=
  if portState s p = st then s
  else
    let s1 := postPlain (rsetF s (rport p) 1 3 st) 0x0C 0 (BitVec.ofNat 64 p) (BitVec.ofNat 64 st)
    treeStart s1 (s1.fab.tree.epoch + 1)

def laneState (s : State) (p i : Nat) : Nat := rfld s (laneReg p i) 16 2
def setLane (s : State) (p i st : Nat) : State := rsetF (rsetF s (laneReg p i) 16 2 st) (laneReg p i) 18 1 (if st = 3 then 1 else 0)

/-- Retraining of a port with EN = 1 begins within a microsecond (R392). -/
def startTraining (s : State) (p : Nat) : State :=
  if rbit s (rport p) 0 then let (d, s1) := drawIn s 1 Config.cyclesPerUs; after s1 d (.portEnableWrite p true) else s

/-- The port goes down (R392, R405): it is isolated, its traffic disposed of or rerouted, its peer probed. -/
def portDown (s : State) (p : Nat) : State :=
  let wasUp := portUp s p
  let mine := s.fab.queue.filter fun q => q.port == some p
  let cut (x : QMsg) : QMsg := match x.inp with
    | some (i, _) => if i = p then { x with inp := none } else x
    | none => x
  let s0 := { s with fab := { s.fab with
    queue := s.fab.queue.map fun q => cut (if q.port == some p && q.sent == 0 then { q with port := none, head := 0 } else q) } }
  let s1 := setPort s0 p { Port.reset with sheds := (getPort s p).sheds }
  let s2 := (List.range 8).foldl (fun s i => if laneState s p i = 3 then s else setLane s p i 2) s1
  let s3 := rsetF (rsetF s2 (rport p) 4 8 0) (rport p) 12 8 0
  let s4 := setPState (if wasUp then rincHold s3 (rport p + 16) 48 16 else s3) p 3
  let s5 := (mine.filter fun q => q.sent != 0).foldl (fun s q => dispose s (cut q) 7) s4
  let s6 := (s5.fab.queue.filter fun q => q.port.isNone && fenced s5 q.m.dst && q.m.op != 9 && q.m.op != 0x13).foldl
    (fun s q => dispose s q 1) s5
  let s7 := startTraining (rerouteWaiting s6) p
  if wasUp then probePeer s7 (portPeer s7 p) else s7

/-- PORT_ENABLE_WRITE (R392, R393): EN cleared takes the port down; EN set, retraining begins. -/
def execPortEnableWrite (port : Nat) (en : Bool) (s : State) : Res :=
  let down := portState s port = 0 || portState s port = 3
  if en then
    (if down && rbit s (rport port) 0 && fabOn s then .next (setPState s port 1) else .next s)
  else if down then .next s
  else .next (portDown s port)

/-- LINKID's payload. -/
def linkPayload (s : State) (p : Nat) : Payload := pay [moduleNo s + p * 2 ^ 14]

/-- PORT_TRAINING_ATTEMPT (R392): an attempt ends, `passed` names the lanes that passed. A port that is not up begins afresh on them
where they are at least four, and sends its LINKID; on a port that is up, the shed lanes among them have passed training. -/
def execPortTrainingAttempt (port passed : Nat) (s : State) : Res :=
  let ls := (lanesOf passed).filter fun i => laneState s port i != 3
  if !rbit s (rport port) 0 || !fabOn s then .next s
  else if portUp s port then
    .next (modPort s port fun q => { q with good := (ls.filter fun i => laneState s port i == 2).foldl (fun g i =>
      if (tfind g i).isSome then g else tset g i 0) q.good })
  else if ls.length < 4 then .next s
  else
    let map := ls.foldl (fun m i => m + 2 ^ i) 0
    let s1 := setPort s port { Port.reset with sheds := (getPort s port).sheds }
    let s2 := (List.range 8).foldl (fun s i =>
      if ls.contains i then setLane s port i 0 else if laneState s port i = 3 then s else setLane s port i 2) s1
    let s3 := rsetF (rsetF s2 (rport port) 4 8 map) (rport port) 12 8 map
    let s4 := sendCtl s3 port 0xC (linkPayload s3 port)
    .next (if portState s4 port = 4 then s4 else setPState s4 port 1)

/-- A LINKID flit (R381): the port comes up where the wiring matches R380. -/
def onLinkid (s : State) (p : Nat) (x : Payload) : State :=
  if portState s p = 1 || portState s p = 4 then
    let m := payW x 0 0 14
    let k := payW x 0 14 6
    let s1 := rsetF (rsetF s (rport p) 20 14 m) (rport p) 34 6 k
    if wiredPeer (numGroups s) (moduleNo s) p == some (m, k) then
      let s2 := rerouteWaiting (setPState s1 p 2)
      if fenced s2 m then after s2 0 (.probePeriodic p) else s2
    else setPState s1 p 4
  else s

/-! Re-striping (R390, R391). -/

/-- A lane map without a lane, with a lane. -/
def mapDel (map i : Nat) : Nat := if map.testBit i then map - 2 ^ i else map
def mapAdd (map i : Nat) : Nat := if map.testBit i then map else map + 2 ^ i

def rsreqPayload (x : Stripe) : Payload := pay [x.map + x.e * 2 ^ 8 + x.mode * 2 ^ 20]

/-- Begin a handshake of the receiving direction. -/
def beginStripe (s : State) (p map mode : Nat) : State :=
  let (k, s1) := fresh s
  let x : Stripe := { map := map, mode := mode, e := (getPort s p).rxE, reps := 0, stamp := k }
  after (sendCtl (modPort s1 p fun q => { q with stripe := some x }) p 9 (rsreqPayload x)) Config.cyclesPerUs (.rsreqTimeout p k)

/-- One second in core cycles. -/
def second : Nat := 1000 * Config.cyclesPerMs

/-- Shed the next lane that qualifies, while no handshake is in progress (R390). -/
def shedNext (s : State) (p : Nat) : State :=
  let q := getPort s p
  let map := rxMap s p
  let win := max 1 (rfld s (rport p) 48 4)
  let act := lanesOf map
  let lost := act.filter fun i => q.lost.contains i
  let above := act.filter fun i => decide (win ≤ tget 0 q.above i)
  let worst (l : List Nat) : Option Nat := l.foldl (fun (b : Option Nat) i =>
    match b with
    | none => some i
    | some j => if laneScore s p j < laneScore s p i then some i else b) none
  let pick : Option (Nat × Nat) := match worst lost, worst above with
    | some i, _ => some (i, 0)
    | none, some i => some (i, 1)
    | none, none => none
  if q.stripe.isSome || !portUp s p then s
  else
    match pick with
    | none => s
    | some (i, mode) =>
      if act.length ≤ 4 then portDown s p
      else
        let sheds := q.sheds.filter (fun x => decide (s.clock < x.2 + second)) ++ [(i, s.clock)]
        let held := decide (4 ≤ (sheds.filter fun x => x.1 == i).length)
        let s1 := modPort s p fun q => { q with sheds := sheds, above := tdel q.above i, good := tdel q.good i }
        beginStripe (setLane s1 p i (if held then 3 else 1)) p (mapDel map i) mode

/-- Readmit a lane whose margin has held (R392). -/
def readmitNext (s : State) (p : Nat) : State :=
  let q := getPort s p
  let need := rfld s (rport p + 24) 0 16
  if q.stripe.isSome || !portUp s p then s
  else
    match q.good.find? fun x => laneState s p x.1 == 2 && decide (need ≤ x.2) && !q.lost.contains x.1 with
    | some (i, _) =>
      beginStripe (setLane (modPort s p fun q => { q with good := tdel q.good i }) p i 0) p (mapAdd (rxMap s p) i) 1
    | none => s

/-- RSREQ_TIMEOUT (R391): RSREQ again, at most 8 times. -/
def execRsreqTimeout (port seq : Nat) (s : State) : Res :=
  match (getPort s port).stripe with
  | some x =>
    if x.stamp ≠ seq then .next s
    else if 8 ≤ x.reps then .next (portDown s port)
    else
      let s1 := modPort s port fun q => { q with stripe := some { x with reps := x.reps + 1 } }
      .next (after (sendCtl s1 port 9 (rsreqPayload x)) Config.cyclesPerUs (.rsreqTimeout port seq))
  | none => .next s

/-- LANE_LOCK_LOST (R390). -/
def execLaneLockLost (port lane : Nat) (s : State) : Res :=
  if 8 ≤ lane then .next s
  else .next (shedNext (modPort s port fun q => { q with lost := q.lost.filter (· != lane) ++ [lane], good := tdel q.good lane }) port)

/-- LANE_HOLD_RELEASE (R390, R393). -/
def execLaneHoldRelease (port lane : Nat) (s : State) : Res :=
  if laneState s port lane = 3 then
    .next (setLane (modPort s port fun q => { q with sheds := q.sheds.filter fun x => x.1 != lane }) port lane 2)
  else .next s

/-- The score of a lane at the end of a window (R389). -/
def newScore (score cb cc margin : Nat) : Nat := min 255 (score - score / 8 + cb + 4 * cc + (32 - margin))

/-- LANE_SCORE_UPDATE (R389, R390, R392): the margins of the eight lanes at the end of a window, whatever the port's state. -/
def execLaneScoreUpdate (port : Nat) (margins : List Nat) (s : State) : Res :=
    let q := getPort s port
    let act := lanesOf (rxMap s port)
    let mg (i : Nat) : Nat := min 255 (margins.getD i 0)
    let bad (i : Nat) : Nat := tget 0 q.cb i + (32 - mg i)
    let blame := act.foldl (fun (b : Option Nat) i =>
      match b with
      | none => if bad i = 0 then none else some i
      | some j => if bad j < bad i then some i else b) none
    let th := rfld s (rport port) 40 8
    let s1 := (List.range 8).foldl (fun s i =>
      let sc := newScore (laneScore s port i) (tget 0 q.cb i) (if blame = some i then q.cc else 0) (mg i)
      rsetF (rsetF s (laneReg port i) 0 8 sc) (laneReg port i) 8 8 (mg i)) s
    let s2 := modPort s1 port fun q =>
      { q with
        cb := [], cc := 0
        above := act.foldl (fun t i => if th < laneScore s1 port i then tset t i (tget 0 t i + 1) else tdel t i) q.above
        good := q.good.map fun x => (x.1, if 64 ≤ mg x.1 then x.2 + 1 else 0)
        lost := q.lost.filter fun i => act.contains i }
    .next (readmitNext (shedNext s2 port) port)

/-! Flits received (R386, R387). -/

/-- What a NAK names: E, and of the 64 numbers after it those not held. -/
def nakPayload (q : Port) : Payload :=
  pay [q.rxE, (List.range 64).foldl (fun x i =>
    if q.reorder.any fun r => r.1 == (q.rxE + 1 + i) % 4096 then x else x + 2 ^ i) 0]

/-- Send a NAK, and see to its repetition. -/
def sendNak (s : State) (p : Nat) : State :=
  let q := getPort s p
  let s1 := sendCtl s p 8 (nakPayload q)
  match q.nak with
  | some (e, _) =>
    if e = q.rxE then s1
    else after (modPort s1 p fun q => { q with nak := some (q.rxE, s.clock + Config.cyclesPerUs) }) Config.cyclesPerUs (.nakRepeat p)
  | none => after (modPort s1 p fun q => { q with nak := some (q.rxE, s.clock + Config.cyclesPerUs) }) Config.cyclesPerUs (.nakRepeat p)

/-- NAK_REPEAT (R387). -/
def execNakRepeat (port : Nat) (s : State) : Res :=
  let q := getPort s port
  match q.nak with
  | some (e, due) =>
    if s.clock < due then .next s
    else if e = q.rxE then
      .next (after (modPort (sendCtl s port 8 (nakPayload q)) port fun q =>
        { q with nak := some (e, s.clock + Config.cyclesPerUs) }) Config.cyclesPerUs (.nakRepeat port))
    else .next (modPort s port fun q => { q with nak := none })
  | none => .next s

/-- ACK (R387): everything up to it is covered. A message whose last flit is covered leaves the port. -/
def ackIn (s : State) (p a : Nat) : State :=
  let q := getPort s p
  let cov (n : Nat) : Bool := decide ((a + 4096 - n) % 4096 < 2048)
  let rest := q.resend.filter fun n => !cov n
  let s1 := setPort s p { q with replay := q.replay.filter fun r => !cov r.1, resend := rest,
                                 skipNak := if rest.isEmpty && !(q.ctl.any fun c => c.1 == 0xA) then none else q.skipNak }
  { s1 with fab := { s1.fab with
      queue := (s1.fab.queue.map fun m => if m.port == some p then { m with seqs := m.seqs.filter fun n => !cov n } else m).filter
        fun m => !(m.port == some p && m.sent == msgFlits m.m && m.seqs.isEmpty) } }

/-- CRED (R388): the difference from the last value, modulo 16, is freed. -/
def credIn (s : State) (p c : Nat) : State :=
  let ch := c / 16
  if 10 ≤ ch then s
  else modPort s p fun q =>
    let r := tget 0 q.ret ch
    { q with ret := tset q.ret ch (r + (c % 16 + 16 - r % 16) % 16) }

/-- A whole message has arrived on a port: for this module, or to be passed on (R395, R405). -/
def messageIn (s : State) (p : Nat) (m : Msg) (vc n : Nat) : State :=
  let inp := some (p, creditChan vc m.ep)
  if m.dst = moduleNo s then { freeBuf s inp n with fab := { (freeBuf s inp n).fab with arrived := s.fab.arrived ++ [m] } }
  else
    let m1 := { m with hops := min 7 (m.hops + 1) }
    if fenced s m.dst && m.op != 9 && m.op != 0x13 then
      (if msgResp m then freeBuf s inp n else respondError (freeBuf s inp n) m1 1)
    else queueMsg s m1 (decide (31 ≤ p)) inp

/-- An accepted message flit (R394). -/
def messageFlit (s : State) (p : Nat) (f : Flit) : State :=
  let vc := flitVc f
  let ty := flitType f
  let q := getPort s p
  if ty = 4 then messageIn s p (parseHeader (flitPayload f)) vc 1
  else if ty = 1 then
    setPort s p { q with rx := (q.rx.filter fun r => r.vc != vc) ++ [{ vc := vc, m := parseHeader (flitPayload f), got := 1 }] }
  else
    match q.rx.find? fun r => r.vc == vc with
    | none => s
    | some r =>
      let d := r.m.data ||| BitVec.ofNat 2048 ((flitPayload f).toNat * 2 ^ (384 * (r.got - 1)))
      let r1 := { r with m := { r.m with data := d }, got := r.got + 1 }
      let rest := q.rx.filter fun x => x.vc != vc
      if ty = 3 then
        messageIn (setPort s p { q with rx := rest }) p { r1.m with data := BitVec.ofNat 2048 (d.toNat % 2 ^ (8 * msgDataLen r1.m)) } vc r1.got
      else setPort s p { q with rx := rest ++ [r1] }

/-- A sequenced flit is accepted; no packet uses a port that is not up (R381). -/
def acceptFlit (s : State) (p : Nat) (f : Flit) : State :=
  let s1 := modPort s p fun q => { q with rxE := (q.rxE + 1) % 4096, owe := max q.owe 1 }
  match flitType f with
  | 0xC => onLinkid s1 p (flitPayload f)
  | ty =>
    if !portUp s1 p then s1
    else if ty = 0xB then onTree s1 p (flitPayload f)
    else messageFlit s1 p f

/-- Accept the held flits that follow in sequence. -/
def drainHeld (p : Nat) : Nat → State → State
  | 0, s => s
  | n + 1, s =>
    let q := getPort s p
    match q.reorder.find? fun r => r.1 == q.rxE with
    | some r => drainHeld p n (acceptFlit (setPort s p { q with reorder := q.reorder.filter fun x => x.1 != r.1 }) p r.2)
    | none => s

/-- A passing sequenced flit: accepted, held, or discarded. -/
def sequenced (s : State) (p : Nat) (f : Flit) : State :=
  let q := getPort s p
  let d := (flitSeq f + 4096 - q.rxE) % 4096
  if d = 0 then drainHeld p 64 (acceptFlit s p f)
  else if d ≤ 64 then
    (if q.reorder.any fun r => r.1 == flitSeq f then s else setPort s p { q with reorder := q.reorder ++ [(flitSeq f, f)] })
  else modPort s p fun q => { q with owe := max q.owe 1 }

/-- A NAK (R387, R437). -/
def onNak (s : State) (p : Nat) (x : Payload) : State :=
  let q := getPort s p
  let e := payW x 0 0 12
  if q.skipNak = some e then s
  else if e = q.txSeq then sendCtl s p 0 0
  else
    let named := e :: ((List.range 64).filter fun i => payW x 1 i 1 == 1).map fun i => (e + 1 + i) % 4096
    setPort s p { q with resend := (q.replay.filter fun r => q.resend.contains r.1 || named.contains r.1).map (·.1) }

/-- A flit of a port, with its ACK and CRED, goes out now. -/
def putFlit (s : State) (p ty vc seq : Nat) (x : Payload) : State :=
  let q := getPort s p
  let ch := (q.chan + 1) % 10
  let f := makeFlit x (ctlWord ty vc seq (q.rxE + 4095) (ch * 16 + tget 0 q.freed ch % 16))
  emitOut (setPort s p { q with chan := ch, owe := q.owe - 1 }) (.flit p (txMap s p) f)

/-- An RSREQ (R391): the new map, 64 beats of training (three cycles), RSACK, and for MODE 0 everything from E on again. -/
def onRsreq (s : State) (p : Nat) (x : Payload) : State :=
  let q := getPort s p
  let map := payW x 0 0 8
  let e := payW x 0 8 12
  let from0 := q.replay.filter fun r => decide ((r.1 + 4096 - e) % 4096 < 2048)
  let mode0 := payW x 0 20 1 == 0
  let resend := if mode0 then from0.map (·.1) else q.resend
  let first := if mode0 then e else resend.headD q.txSeq
  if (lanesOf map).length < 4 then s
  else
    let s1 := setPort s p { q with resend := resend, skipNak := if mode0 then some e else q.skipNak,
                                   ctl := (0xA, pay [first]) :: q.ctl.filter fun c => c.1 != 0xA, mute := s.clock + 4 }
    emitOut (rsetF s1 (rport p) 4 8 map) (.training p map)

/-- An RSACK (R391): the receiver takes flits on the new map. -/
def onRsack (s : State) (p : Nat) : State :=
  match (getPort s p).stripe with
  | some x =>
    let gone := (lanesOf (rxMap s p)).filter fun i => !x.map.testBit i
    let s1 := rincHold (rsetF s (rport p) 12 8 x.map) (rport p + 16) 32 16
    let s2 := gone.foldl (fun s i => if laneState s p i = 1 then setLane s p i 2 else s) s1
    readmitNext (shedNext (modPort s2 p fun q => { q with stripe := none, lost := q.lost.filter fun i => !gone.contains i }) p) p
  | none => s

/-- What a received flit is: its TYPE, 0x10 where it fails, 0x20 and KIND for a TREE flit. -/
def flitKind (f : Flit) : Nat :=
  if !flitPasses f then 0x10
  else if flitType f = 0xB then 0x20 + min 2 (payW (flitPayload f) 0 0 4)
  else flitType f

/-- A flit arrives on a port (R386, R387). Nothing enters a port that is down or isolated, or a module that has not joined (R411; log
115). While an RSACK of MODE 0 is awaited, a sequenced flit is not taken: it comes again (R391). `kind` is what the event names: any
other flit is not this event. -/
def receive (s : State) (p : Nat) (f : Flit) (kind : Nat) : State :=
  let (g, bits) := correct f
  if !fabOn s || portState s p = 0 || portState s p = 3 || flitKind g ≠ kind then s
  else
    let hit := (bits.map (laneOfBit (rxMap s p))).eraseDups
    let s1 := if bits.isEmpty then s
      else modPort (rincHold s (rport p + 8) 0 32) p fun q => { q with cb := hit.foldl (fun t i => tset t i (tget 0 t i + 1)) q.cb }
    if kind = 0x10 then sendNak (modPort (rincHold s1 (rport p + 8) 32 32) p fun q => { q with cc := q.cc + 1 }) p
    else
      let wait := match (getPort s p).stripe with
        | some x => x.mode == 0
        | none => false
      let s2 := credIn (ackIn s1 p (flitAck g)) p (flitCred g)
      if typeSequenced (flitType g) then (if wait then s2 else sequenced s2 p g)
      else
          let s3 := modPort s2 p fun q => if flitSeq g = q.rxE then { q with nak := none } else q
          match kind with
          | 8 => onNak s3 p (flitPayload g)
          | 9 => onRsreq s3 p (flitPayload g)
          | 0xA => onRsack s3 p
          | _ => s3

/-- NULL (R384). -/
def execNull (port : Nat) (f : Flit) (s : State) : Res := .next (receive s port f 0)
/-- HEAD (R394). -/
def execHead (port : Nat) (f : Flit) (s : State) : Res := .next (receive s port f 1)
/-- BODY (R394). -/
def execBody (port : Nat) (f : Flit) (s : State) : Res := .next (receive s port f 2)
/-- TAIL (R394). -/
def execTail (port : Nat) (f : Flit) (s : State) : Res := .next (receive s port f 3)
/-- SOLO (R394). -/
def execSolo (port : Nat) (f : Flit) (s : State) : Res := .next (receive s port f 4)
/-- FLIT_CRC_FAIL (R386). -/
def execFlitCrcFail (port : Nat) (f : Flit) (s : State) : Res := .next (receive s port f 0x10)
/-- NAK (R387). -/
def execNak (port : Nat) (f : Flit) (s : State) : Res := .next (receive s port f 8)
/-- RSREQ (R391). -/
def execRsreq (port : Nat) (f : Flit) (s : State) : Res := .next (receive s port f 9)
/-- RSACK (R391). -/
def execRsack (port : Nat) (f : Flit) (s : State) : Res := .next (receive s port f 0xA)
/-- LINKID (R381). -/
def execLinkid (port : Nat) (f : Flit) (s : State) : Res := .next (receive s port f 0xC)
/-- TREE_ADV (R401). -/
def execTreeAdv (port : Nat) (f : Flit) (s : State) : Res := .next (receive s port f 0x20)
/-- TREE_DONE (R401). -/
def execTreeDone (port : Nat) (f : Flit) (s : State) : Res := .next (receive s port f 0x21)
/-- TREE_INSTALL (R401). -/
def execTreeInstall (port : Nat) (f : Flit) (s : State) : Res := .next (receive s port f 0x22)

/-! Flits sent (R387, R388). -/

/-- The messages of a port that may send next: of each VC the one that has begun, else its first, on an escape VC the first of each
epoch parity, so that a newer epoch does not wait for an older one (R388, R402). -/
def vcHeads (s : State) (p : Nat) : List QMsg :=
  let mine := s.fab.queue.filter fun q => q.port == some p && q.sent < msgFlits q.m
  (List.range 8).flatMap fun vc =>
    let l := mine.filter fun q => q.vc == vc
    match l.find? fun q => q.sent != 0 with
    | some q => [q]
    | none =>
      if vc % 4 = 3 then [true, false].filterMap fun e => l.find? fun q => q.m.ep == e
      else l.take 1

/-- The buffers that a head needs before its next flit goes: one; on an escape VC, where a message that has begun holds up the other
parity, all of its own before its first flit (DESIGN CHOICE, log 116). -/
def flitsNeeded (q : QMsg) : Nat := if q.vc % 4 = 3 && q.sent == 0 then msgFlits q.m else 1

/-- Send the next flit of a message. -/
def sendMsgFlit (s : State) (p : Nat) (q : QMsg) : State :=
  let m := { q.m with ph := if q.vc % 4 < 3 then q.vc % 4 else q.m.ph }
  let (ty, x) := msgFlit m q.sent
  let n := (getPort s p).txSeq
  let ch := creditChan q.vc q.m.ep
  let s1 := putFlit s p ty q.vc n x
  let f := makeFlit x (ctlWord ty q.vc n 0 0xF0)
  let s2 := modPort s1 p fun z =>
    { z with txSeq := (n + 1) % 4096, replay := z.replay ++ [(n, f)], given := tset z.given ch (tget 0 z.given ch + 1) }
  let s3 := freeBuf s2 q.inp 1
  { s3 with fab := { s3.fab with queue := s3.fab.queue.map fun x =>
      if x.id = q.id then { x with m := m, sent := q.sent + 1, seqs := x.seqs ++ [n], head := 0 } else x } }

/-- The heads of adaptive VCs that wait for a buffer begin to count ESCWAIT (R400). -/
def markWaiting (s : State) (p : Nat) : State :=
  ((vcHeads s p).filter fun q => q.vc % 4 != 3 && q.sent == 0 && q.head == 0 && !creditFree s p (creditChan q.vc q.m.ep)).foldl
    (fun s q => after { s with fab := { s.fab with queue := s.fab.queue.map fun x =>
        if x.id = q.id then { x with head := s.clock + 1 } else x } } (rfld s (fabcfg + 8) 16 16 * 5 / 4) (.escapeWaitExpire q.id)) s

/-- A port sends one flit: an RSACK, what is to be resent, then control, then a message, then NULL where an ACK or CRED is owed. -/
def portSend (s : State) (p : Nat) : State :=
  let st := portState s p
  let q := getPort s p
  if !fabOn s || st = 0 || st = 3 || decide (s.clock < q.mute) then s
  else
    let full := decide (512 ≤ q.replay.length)
    match (if q.ctl.any fun c => c.1 == 0xA then [] else q.resend) with
    | n :: r =>
      match tfind q.replay n with
      | some f =>
        let s1 := rincHold (setPort s p { q with resend := r, skipNak := if r.isEmpty then none else q.skipNak }) (rport p + 16) 0 32
        putFlit s1 p (flitType f) (flitVc f) n (flitPayload f)
      | none => setPort s p { q with resend := r, skipNak := if r.isEmpty then none else q.skipNak }
    | [] =>
      match q.ctl.find? fun c => if q.ctl.any fun d => d.1 == 0xA then c.1 == 0xA else !(full && typeSequenced c.1) with
      | some c =>
        let s1 := setPort s p { q with ctl := q.ctl.erase c, skipNak := if c.1 = 0xA && q.resend.isEmpty then none else q.skipNak }
        let s2 := putFlit s1 p c.1 0 q.txSeq c.2
        if typeSequenced c.1 then
          modPort s2 p fun z => { z with txSeq := (q.txSeq + 1) % 4096,
                                         replay := z.replay ++ [(q.txSeq, makeFlit c.2 (ctlWord c.1 0 q.txSeq 0 0xF0))] }
        else s2
      | none =>
        let can := if full || st ≠ 2 then [] else (vcHeads s p).filter fun m => creditsFree s p (creditChan m.vc m.m.ep) (flitsNeeded m)
        let s0 := markWaiting s p
        match can with
        | [] => if q.owe = 0 then s0 else putFlit s0 p 0 0 q.txSeq 0
        | l =>
          let (k, s1) := if l.length = 1 then (0, s0) else draw s0
          match l[k % l.length]? with
          | some m => sendMsgFlit s1 p m
          | none => s1

/-- ESCAPE_WAIT_EXPIRE (R400): without a table the message waits on; it enters with the next table that is installed. -/
def execEscapeWaitExpire (id : Nat) (s : State) : Res := .next (enterLate s fun q => q.id == id)

/-- ESCAPE_TABLE_WAIT_EXPIRE (R402). -/
def execEscapeTableWaitExpire (id : Nat) (s : State) : Res :=
  match s.fab.queue.find? fun q => q.id == id with
  | some q =>
    if q.port.isNone && q.m.esc && q.head ≠ 0 && decide (q.head + 50 * Config.cyclesPerUs ≤ s.clock + 1) then .next (dispose s q 7)
    else .next s
  | none => .next s

/-- FABRIC_JOIN (R392, R399, R411): the generator of route draws is seeded; the ports begin to train. -/
def execFabricJoin (s : State) : Res :=
  let x : Word32 := BitVec.ofNat 32 (moduleNo s) ^^^ 0x9E3779B9
  .next ((List.range 47).foldl startTraining { s with fab := { s.fab with gen := if x = 0 then 1 else x } })

end Sys2Proof.Machine
end

