-- ==== Sys2Proof/Machine/FabricMsg.lean ====
section
/-!
DEFINITION. Requests that arrive from other modules (R395, R409, R410).
-/
namespace Sys2Proof.Machine

/-- Bytes at an address that a peer's request may name: tier 0, 1 or 2, in one tier (R395: else status 3). -/
def peerReach (a n : Nat) : Bool :=
  match tierOf a with
  | some t => decide (t < 3) && tierOf (a + (n - 1)) == some t
  | none => false

/-- The transaction of a message at this module. -/
def peerTxn (m : Msg) (kind : TxnKind) : Txn :=
  let attr := m.op ≠ 4 ∧ m.op ≠ 5 ∧ m.op ≠ 6
  let x := m.opa.toNat
  -- where the operands are taken, SQ names the twin's page size, or CNT a Pump part's twin page (log 20)
  let lg := if attr then x / 64 % 32 else if m.op = 6 then m.cnt / 2 ^ 48 % 2 * 16 else m.sq / 64 % 32
  { Txn.base kind (.peer m.src m.tag) Req.blank 4 m.vf m.addr with
    len := m.len, dl := m.dl, eng := true, fe := m.sub,
    red := if attr then x % 4 else 0
    rland := attr && x / 4 % 2 == 1
    sh := attr && x / 8 % 2 == 1
    full := attr && x / 16 % 2 == 1
    twin := if lg ≠ 0 then 2 ^ lg else 0
    req := { Req.blank with fmode := if attr ∧ x / 32 % 2 = 1 then 8 else 0 } }

/-- Start a request at its home. -/
def startPeer (s : State) (t : Txn) : State :=
  let (d, s1) := drawLat s t
  (sendTxn s1 t d).1

/-- The cells of a PUT. -/
def putCells (m : Msg) : List WCell :=
  let k : Byte := ~~~ (BitVec.ofNat 8 (m.opa.toNat / 2 ^ 56))
  (List.range m.len).map fun i => { pa := m.addr + i, val := byteAt m.data i, msk := k }
/-- What its post adds (R271). -/
def putAdd (m : Msg) : Nat := if m.cu then m.len else 1

/-- READ. A nonzero SUB is a full/empty form (log 20). -/
def execRead (m : Msg) (s : State) : Res :=
  if !peerReach m.addr m.len then .next (respondError s m 3)
  else .next (startPeer s { peerTxn m .load with rd := (List.range m.len).map fun i => (m.addr + i, i) })

/-- PUT without a post. -/
def execPutWithoutPost (m : Msg) (s : State) : Res :=
  if !peerReach m.addr (max 1 m.len) then .next (respondError s m 3)
  else .next (startPeer s { peerTxn m .store with wr := putCells m })

/-- PUT with a post to CNT. -/
def execPutWithPost (m : Msg) (s : State) : Res :=
  if !peerReach m.addr m.len || !peerReach m.cnt 8 then .next (respondError s m 3)
  else .next (startPeer s { peerTxn m .store with wr := putCells m, cnt := m.cnt, add := putAdd m, fe := 0 })

/-- The instruction that an ATOMIC stands for. -/
def peerAtomic (m : Msg) : Instr :=
  let p : Syl := { stop := true, guard := 0, leaf := 0 }
  let o : AT := { m := false, base := 0, sx := 0, t := false, imm := 0 }
  if m.sub = 11 then .cas p (Fin.ofNat 3 m.size) o
  else if m.size = 0 then .amo32 p (Fin.ofNat 11 m.sub) o else .amo64 p (Fin.ofNat 11 m.sub) o

/-- ATOMIC and CAS. -/
def execAtomic (m : Msg) (s : State) : Res :=
  let n := 4 * 2 ^ m.size
  if !peerReach m.addr n then .next (respondError s m 3)
  else if 11 < m.sub || 2 < m.size || (m.sub ≠ 11 && m.size = 2) then .next (respondError s m 8)
  else
    let entry : VWord :=
      if m.sub ≠ 11 then m.opa.zeroExtend 2048
      else if m.size = 2 then m.data
      else BitVec.ofNat 2048 (m.opa.toNat % 2 ^ (8 * n) + m.opb.toNat % 2 ^ (8 * n) * 2 ^ (8 * n))
    let q : Req := { Req.blank with op := peerAtomic m, fmode := if m.sub = 11 then 0 else m.opb.truncate 32,
                                    rnd := if m.sub = 11 then 0 else (m.opb >>> 32).zeroExtend 2048 }
    .next (startPeer s { peerTxn m .atomic with len := n, entry := entry, req := q, fe := 0 })

/-- SYNC. -/
def execSync (m : Msg) (s : State) : Res :=
  if !peerReach m.addr 16 then .next (respondError s m 3)
  else if 4 < m.sub then .next (respondError s m 8)
  else
    .next (startPeer s { peerTxn m (if m.sub < 3 then .acquire else .release) with
      len := 16, entry := m.opa.zeroExtend 2048, add := m.opb.toNat })

/-- PCMD_PART (R230, R409). -/
def execPcmdPart (m : Msg) (s : State) : Res :=
  let len := m.cnt % 512
  match Sys2Proof.decodeTableWord 32 (m.opa.toNat % 2 ^ 32) with
  | some i =>
    match aop i with
    | .pcmd _ =>
      if tierOf m.addr ≠ some 0 || m.addr % 256 + len > 256 || len = 0 then .next (respondError s m 3)
      else
        let q : Req := { Req.blank with op := i, fmode := BitVec.ofNat 32 (m.cnt / 2 ^ 9 % 32), seed := BitVec.ofNat 32 m.sq }
        .next (startPeer s { peerTxn m .pcmd with
          len := len, red := m.cnt / 2 ^ 14 % 4, ix := m.cnt / 2 ^ 16 % 2 ^ 32, entry := m.data, lmask := m.opb, req := q, fe := 0 })
    | _ => .next (respondError s m 8)
  | none => .next (respondError s m 8)

/-- An ordered multicast's write (R410). -/
def omTxn (m : Msg) : Txn :=
  { peerTxn m .store with wr := putCells m, cnt := m.cnt, add := putAdd m, fe := 12, scope := m.sub }

/-- ORDERED_MULTICAST_TO_ROOT (R410). -/
def execOrderedMulticastToRoot (m : Msg) (s : State) : Res :=
  if !peerReach m.addr m.len then .next (respondError s m 3)
  else
    let (id, s1) := fresh s
    let t := { omTxn m with fe := 10 }
    .next (omRoot (setTxn s1 id { t with kind := .fe }) id t)

/-- The held copies of a group that follow in sequence are performed. -/
def omDrain (k : Nat) : Nat → State → State
  | 0, s => s
  | n + 1, s =>
    match s.fab.omHeld.find? fun x => omKey x.vf x.sub == k && x.sq == tget 0 s.fab.omNext k with
    | some x =>
      let s1 := { s with fab := { s.fab with
        omHeld := s.fab.omHeld.erase x, omNext := tset s.fab.omNext k ((x.sq + 1) % 2 ^ 32) } }
      omDrain k n (omPerform s1 (omTxn x))
    | none => s

/-- ORDERED_MULTICAST_COPY (R410): performed in SQ order; up to 256 early copies are held. A copy that has been performed is
answered and not performed again. -/
def execOrderedMulticastCopy (m : Msg) (s : State) : Res :=
  let k := omKey m.vf m.sub
  let d := (m.sq + 2 ^ 32 - tget 0 s.fab.omNext k) % 2 ^ 32
  if !peerReach m.addr m.len then .next (respondError s m 3)
  else if d = 0 then
    let s1 := { s with fab := { s.fab with omNext := tset s.fab.omNext k ((m.sq + 1) % 2 ^ 32) } }
    .next (omDrain k 256 (omPerform s1 (omTxn m)))
  else if 2 ^ 31 ≤ d then .next (respond s m 0x10 0 0 0 0)
  else if (s.fab.omHeld.filter fun x => omKey x.vf x.sub == k).length < 256 then
    .next { s with fab := { s.fab with omHeld := s.fab.omHeld ++ [m] } }
  else .next (respondError s m 9)

end Sys2Proof.Machine
end

