-- ==== Sys2Proof/Machine/FaultEvents.lean ====
section
/-!
DEFINITION. What makes room in the fault and event rings and what retries parked commands (R351 to R353), samples (R370),
host resets (R364), and the failures that arise in the hardware: parity alerts (R206), die links (R379), uncorrectable
errors (R183, R301); arming a reduce region (R282, R283).
-/
namespace Sys2Proof.Machine

/-- FAULT_BATCH_FLUSH (R352): at 64 entries, or 20 µs after the first. -/
def execFaultBatchFlush (vf : Nat) (s : State) : Res :=
  let l := tget [] s.faults.batch vf
  if !l.isEmpty && (64 ≤ l.length || decide (tget 0 s.faults.bstart vf + 20 * Config.cyclesPerUs ≤ s.clock)) then
    .next (flushBatch s vf)
  else .next s

/-- A parked command tries again from its first failing element, its handles walked afresh (R351, R352). -/
def unpark (s : State) (k : Nat × Nat) : State :=
  let stale (h : Option HWord) : Option HWord := h.map fun x => x &&& ~~~ (1 : HWord)
  if k.1 < 16384 then
    modCmd s k.1 k.2 fun c => { c with parked := false, fault := none, src := stale c.src, dst := stale c.dst }
  else if k.1 < 32768 then lengMod s (k.1 - 16384) k.2 fun c => { c with stage := 0, txn := 0 }
  else modCore s (k.1 - 32768) fun c => { c with busyCmd := c.busyCmd.map fun m => { m with parked := false } }

/-- FAULT_RESUME (R351, R352): the commands parked behind range record ix retry. -/
def execFaultResume (vf ix : Nat) (s : State) : Res :=
  match s.faults.ranges.find? fun r => r.vf == vf && r.ix == ix with
  | none => .next s
  | some r =>
    let s1 := { s with faults := { s.faults with ranges := s.faults.ranges.filter fun x => !(x.vf == vf && x.ix == ix) } }
    let s2 := rsetF s1 (frcfg vf + 16) 32 16 (rfld s1 (frcfg vf + 16) 32 16 - r.cmds.length)
    .next (r.cmds.foldl unpark s2)

/-- The command of a record that waited ends once the record is written (R349). -/
def endParked (s : State) (k : Nat × Nat) : State :=
  if k.1 < 16384 then
    match findCmd s k.1 k.2 with
    | some c => endCmd s k.1 c
    | none => s
  else if k.1 < 32768 then lengDrop s (k.1 - 16384) k.2
  else modCore s (k.1 - 32768) fun c => { c with busyCmd := none }

/-- Write the waiting records of ring `key`, oldest first, while there is room. -/
def writeWaiting (key : Nat) : List FRec → State → State
  | [], s => s
  | r :: l, s =>
    if frKey r == key && frRoom s r then
      let s1 := frWrite { s with faults := { s.faults with wait := s.faults.wait.erase r } } r
      let s2 := parkCount s1 r (-1)
      writeWaiting key l (match r.cmd with
        | some k => endParked s2 k
        | none => s2)
    else writeWaiting key l s

/-- FAULT_RING_ROOM (R351, R352; R342): records that wait are written; batching ends below a quarter of the ring. -/
def execFaultRingRoom (vf : Nat) (s : State) : Res :=
  let s1 := writeWaiting vf s.faults.wait s
  let s2 := if s1.faults.wait.any fun r => frKey r == vf then s1
    else { s1 with faults := { s1.faults with full := tput false s1.faults.full vf false } }
  if vf < 128 && decide (unread s2 (frcfg vf + 8) < 2 ^ (rfld s2 (frcfg vf) 1 5 - 2)) then
    .next (rsetF s2 (frcfg vf + 16) 1 1 0)
  else .next s2

/-- Drain the holding buffer. -/
def drainEvents : List Event → State → State
  | [], s => { s with evq := [] }
  | e :: l, s => if rbit s evcfg 0 && evRoom s then drainEvents l (evWrite s e) else { s with evq := e :: l }

/-- EVENT_RING_ROOM (R353). -/
def execEventRingRoom (s : State) : Res := .next (drainEvents s.evq s)

/-- TRACE_SAMPLE (R370, R372): a sample of the core's running context. -/
def execTraceSample (core : Nat) (s : State) : Res :=
  let g := ctxBase core + (getCore s core).running
  let c := getCtx s g
  if rfld s (bkpt core 0 + 8) 6 16 ≠ 0 && c.phase == .resident && !c.frozen && core < 1024 then
    .next (traceRec s g 5 0 c.pc)
  else .next s

/-- HOST_FLR (R364). -/
def execHostFlr (vf : Nat) (s : State) : Res :=
  .next (postPlain (rset s (vfctl vf) (rget s (vfctl vf) ||| 64)) 0x09 vf (BitVec.ofNat 64 vf) 0)

/-- Parts that wait at the banks of a stopped pseudo-channel end in error (R206). -/
def failBanks (s : State) (sl : Nat) : State :=
  let keys := (List.range 16).map (fun b => 16 * sl + b) ++ [holdKey sl]
  let parts := keys.flatMap (bankQ s)
  let s1 := keys.foldl (fun s k => setBankQ s k []) s
  parts.foldl (fun s p => partDone s p.txn 0 9 0) s1

/-- A measurement changes (R453): its digest is not given by the spec. -/
def remeasure (s : State) (i : Nat) : State :=
  let (x, s1) := drawBits s
  let s2 := (List.range 4).foldl (fun s j => rset s (measReg i + 8 * j) (x.extractLsb' (64 * j) 64)) s1
  let s3 := rsetF s2 mgen 0 32 (rfld s2 mgen 0 32 + 1)
  postPlain s3 0x15 0 (BitVec.ofNat 64 i) 0

/-- A stopped pseudo-channel is retired (R455). -/
def retire (s : State) (sl : Nat) : State :=
  let s1 := rset s (retpc (sl / 64)) (rget s (retpc (sl / 64)) ||| BitVec.ofNat 64 (2 ^ (sl % 64)))
  postPlain (remeasure s1 7) 0x16 0 (BitVec.ofNat 64 sl) 0

/-- PARITY_ALERT (R206, R455): `again` says that the command of the last ALERT raised it once more. Reissuing the history changes no
result. At the fourth in a row the pseudo-channel stops. -/
def execParityAlert (slice : Nat) (again : Bool) (s : State) : Res :=
  let n := tget 0 s.alerts slice
  if 512 ≤ slice || 4 ≤ n then .next s
  else
    let m := if again then n + 1 else 1
    let s1 := rincHold { s with alerts := tset s.alerts slice m } (mcstat slice) 0 32
    if m < 4 then .next s1
    else
      let s2 := rset s1 (mcstat slice + 8) (rget s1 (mcstat slice + 8) ||| 1)
      .next (retire (failBanks (postPlain s2 0x0A 0 (BitVec.ofNat 64 slice) 0) slice) slice)

/-- INTERNAL_LINK_FAILURE (R379): links are named as `linkUp` does; a link that is bypassed posts event 0x10. -/
def execInternalLinkFailure (die link : Nat) (s : State) : Res :=
  let l := (min die link, max die link)
  if s.fab.links.contains l || die == link then .next s
  else
    let s1 := { s with fab := { s.fab with links := s.fab.links ++ [l] } }
    .next (if pathOk s1 die link then postPlain s1 0x10 0 (BitVec.ofNat 64 die) (BitVec.ofNat 64 link) else s1)

/-- The residue check of the array (R301): a STEP in flight, the latest, is computed once more; if that fails as well the
routine stops, and that STEP's sum reaches nothing. The sums of earlier STEPs go on. -/
def arrayError (s : State) (core : Nat) (again : Bool) : State :=
  match (getCore s core).run with
  | none => s
  | some r =>
    match r.second.map (·.word), r.pipe.getLast? with
    | none, none => s
    | a, b =>
      if again then
        let w := a.getD ((b.map (·.word)).getD 0)
        setRun (mxFail s core r) core
          { r.halt 0x0F w with pipe := if a.isSome then r.pipe else r.pipe.dropLast, second := none, busy := 0 }
      else setRun (rincHold s (mxctl core + 16) 0 32) core { r with corr := true }

/-- UNCORRECTABLE_ERROR (R183, R301). -/
def execUncorrectableError (o : ErrAt) (s : State) : Res :=
  match o with
  | .word pa =>
    match eccWord pa with
    | some (w, _) => .next (if s.spoiled.contains w then s else { s with spoiled := w :: s.spoiled })
    | none => .next s
  | .rdc die line =>
    .next { s with rdc := s.rdc.map fun l =>
      if l.die = die ∧ l.line = line / 128 * 128 then { l with bad := l.bad ||| 2 ^ (line % 128 / 32) } else l }
  | .tile core t word =>
    .next (modCore s core fun k => { k with badTile := if k.badTile.contains (4096 * t + word) then k.badTile else (4096 * t + word) :: k.badTile })
  | .array core again => .next (arrayError s core again)

/-- RARM_ARM (R282, R283): counting starts from 0, the Sump's records of the range first. -/
def execRarmArm (g i : Nat) (s : State) : Res :=
  let s1 := modClu s g fun c => { c with counts := c.counts.filter fun x => x.1 / 65536 != i }
  .next (sumpReplay s1 g i)

end Sys2Proof.Machine
end

