-- ==== Sys2Proof/Machine/HostPort.lean ====
section
/-!
DEFINITION. The host port (R429 to R433): the host's accesses through BAR0 and BAR2, ATS Invalidations, and the arbiter
between host and device over a page.
-/
namespace Sys2Proof.Machine

/-! The arbiter. -/

/-- HARB_GO (R429, R430): the host's request for the unit in VA, and STATUS. -/
def execHarbGo (v : Nat) (s : State) : Res :=
  let u := rfld s (harbReg v + 8) 16 41
  let st (s : State) (n : Nat) : Res := .next (rsetF s (harbReg v + 8) 1 3 n)
  match harbFind s v u with
  | none => if 256 ≤ s.harb.length then st s 4 else st (harbPut s v u .movingH) 1
  | some e =>
    match e.st with
    | .movingD => st s 2
    | .movingH => st s 1
    | .dwellD => st s 3
    | .dwellH => st s 1

/-- The entry dwells for 64 µs. -/
def harbDwell (s : State) (v u : Nat) (st : HarbState) : State :=
  let s1 := harbPut s v u st
  match harbFind s1 v u with
  | some e => after s1 (64 * Config.cyclesPerUs) (.harbDwellExpire v u e.stamp)
  | none => s1

/-- HARB_DONE (R430). -/
def execHarbDone (v u : Nat) (s : State) : Res :=
  match harbFind s v u with
  | none => .next s
  | some e =>
    match e.st with
    | .movingD => .next (harbDwell s v u .dwellD)
    | .movingH => .next (harbDwell s v u .dwellH)
    | .dwellD => .next s
    | .dwellH => .next s

/-- HARB_DWELL_EXPIRE (R430): the entry returns to idle. -/
def execHarbDwellExpire (v u stamp : Nat) (s : State) : Res :=
  .next { s with harb := s.harb.filter fun e =>
    !(e.v == v && e.unit == u && e.stamp == stamp && (e.st == .dwellD || e.st == .dwellH)) }

/-! Accesses of the host. -/

/-- What an access does, for its check. -/
structure HostNeed where
  read  : Bool
  write : Bool
  op    : AOp
deriving DecidableEq, Repr

/-- An 8-byte write of a host function of VF v to one of its own contribution registers (R415; log 105). -/
def hostArcont (o : HostReq) (nd : HostNeed) (v : Nat) (h : HWord) (x : Nat) : Bool :=
  hTier h == 3 && nd.write && !nd.read && nd.op == .none && o.len == 8 && handlePa h x % 8 == 0 &&
    isArcont (handlePa h x - regBase) && (handlePa h x - regBase - 0x240000) / 128 == v

/-- A range [x, x + n) of one 64 KiB page: the handle and the local physical address, or none where translation or a check
fails (R182, R188, R200, R362, R415, R432). -/
def hostPlace (s : State) (o : HostReq) (nd : HostNeed) (x n : Nat) : Option (HWord × Nat) :=
  match o.fn, o.bar0 with
  | none, true =>
    if x < 2 ^ 28 && (n == 4 || n == 8) && x % n == 0 && nd.op == .none then some (plainHandle s false (regBase + x) 0, regBase + x)
    else none
  | some _, true => none
  | none, false =>
    let h := plainHandle s false x 0
    if x < 2 ^ 42 && !hBit h 2 && hTier h != 3 && atomicOk nd.op (hTier h) 0 then some (h, x) else none
  | some v, false =>
    let h := translate s false v x
    if decide (x < 2 ^ 36) && rbit s (vfctl v) 0 && !hBit h 2 && chkPage h x n == .ok && permOk h nd.read nd.write false false v &&
        hBit h 3 && (hTier h != 3 || hostArcont o nd v h x) && atomicOk nd.op (hTier h) (hRed h) &&
        (homeMod s h != moduleNo s || partOk s v (handlePa h x)) && (!nd.write || hRed h == 0 || (x % 4 == 0 && n % 4 == 0)) then
      some (h, handlePa h x)
    else none

/-- The attachment carries the request (R431): it comes by the port of its function, of which the physical function has one on each,
under a 10-bit tag, with at most 512 bytes where it brings data (DEDUCED, log 141). -/
def hostTakes (s : State) (o : HostReq) (nd : HostNeed) : Bool :=
  decide (o.tag < 1024) && (!nd.write || decide (o.len ≤ 512)) &&
  match o.fn with
  | some v => o.port == hostPort s v
  | none => o.port == 0 || (o.port == 1 && s.start.twoPorts)

/-- Start an access (R208, R432): the whole is a transaction that waits for its parts; a failed check of any byte completes
it with Completer Abort. The host's requests carry its function's VF, the physical function's none: 128. -/
def hostStart (s : State) (o : HostReq) (nd : HostNeed) (parts : Txn → Nat → Nat → Nat → List Txn) : State :=
  let spans := cutAt 65536 o.addr o.len
  let places := spans.map fun p => (hostPlace s o nd p.1 p.2).map fun h => (h, p)
  if o.len = 0 || !hostTakes s o nd || places.any (·.isNone) then emitOut s (.completion o.port o.tag false [])
  else
    let (id, s1) := fresh s
    let vf := o.fn.getD 128
    let ps := (places.filterMap (fun x => x)).flatMap fun x =>
      let t := (Txn.base .load (.part id) { Req.blank with sys := o.fn.isNone, h := some x.1.1 } 4 vf x.1.2).through s 0 x.1.1
      parts { t with fe := if o.ro then 13 else 14 } x.1.2 x.2.1 x.2.2
    let w := { Txn.base .fe (.host (o.port * 1024 + o.tag)) Req.blank 4 vf 0 with left := ps.length, sh := nd.write && nd.op == .none }
    ps.foldl (fun s t =>
      let (d, s1) := drawLat s t
      (sendTxn s1 t d).1) (setTxn s1 id w)

/-- HOST_MEMORY_READ (R432). -/
def execHostMemoryRead (o : HostReq) (s : State) : Res :=
  .next (hostStart s o { read := true, write := false, op := .none } fun t pa x n =>
    (splitUnits (·.1) ((List.range n).map fun i => (pa + i, x + i - o.addr))).map fun l =>
      { t with kind := .load, rd := l, pa := (l.headD (0, 0)).1, len := l.length })

/-- HOST_MEMORY_WRITE (R432). -/
def execHostMemoryWrite (o : HostReq) (s : State) : Res :=
  .next (hostStart s o { read := false, write := true, op := .none } fun t pa x n =>
    (splitUnits (·.pa) ((List.range n).map fun i => ({ pa := pa + i, val := byteAt o.data (x + i - o.addr), msk := 0xFF } : WCell))).map
      fun l => { t with kind := .store, wr := l, pa := (l.headD { pa := 0, val := 0, msk := 0 }).pa, len := l.length })

/-- The instruction that a PCI Express AtomicOp stands for (R227). -/
def hostOp (o : HostReq) : Option Instr :=
  let p : Syl := { stop := true, guard := 0, leaf := 0 }
  let f : AT := { m := false, base := 0, sx := 0, t := false, imm := 0 }
  match o.op, o.len with
  | 0, 4 => some (.amo32 p 0 f)
  | 0, 8 => some (.amo64 p 0 f)
  | 1, 4 => some (.amo32 p 8 f)
  | 1, 8 => some (.amo64 p 8 f)
  | 2, 4 => some (.cas p 0 f)
  | 2, 8 => some (.cas p 1 f)
  | 2, 16 => some (.cas p 2 f)
  | _, _ => none

/-- HOST_ATOMICOP (R227, R431, R432): it executes at its slice. -/
def execHostAtomicop (o : HostReq) (s : State) : Res :=
  match hostOp o with
  | none => .next (emitOut s (.completion o.port o.tag false []))
  | some i =>
    if o.addr % o.len ≠ 0 || o.bar0 then .next (emitOut s (.completion o.port o.tag false []))
    else
      let b := 8 * o.len
      let entry : VWord :=
        if o.op = 2 then BitVec.ofNat 2048 (o.cmp.toNat % 2 ^ b + o.data.toNat % 2 ^ b * 2 ^ b) else o.data.truncate 2048
      .next (hostStart s o { read := false, write := true, op := aop i } fun t pa _ n =>
        [{ t with kind := .atomic, pa := pa, len := n, entry := entry, req := { t.req with op := i } }])

/-! ATS. -/

/-- A request to the host window that uses an entry of the range is on its way. Ranges are 4 KiB pages of PCI Express
addresses before translation. -/
def atsBusy (s : State) (lo hi : Nat) : Bool :=
  s.txns.any fun e => tierOf e.2.pa == some 4 && e.2.peer.isNone &&
    e.2.touches.any fun a => decide (lo ≤ hostLin s a / 4096) && decide (hostLin s a / 4096 ≤ hi)

/-- The invalidations that nothing holds back complete (R433). -/
def atsFinish (s : State) : State :=
  let ready := s.atsWait.filter fun x => !atsBusy s x.1 x.2
  ready.foldl (fun s x => emitOut (rsetF s (hostcfg + 16) 0 32 (rfld s (hostcfg + 16) 0 32 + 1)) (.atsDone x.1 x.2))
    { s with atsWait := s.atsWait.filter fun x => atsBusy s x.1 x.2 }

/-- ATS_INVALIDATION (R433): the entries of the range are forgotten; it completes once every request that used them has. -/
def execAtsInvalidation (lo hi : Nat) (s : State) : Res :=
  let page (x : Nat) : Nat := x + rfld s (hostcfg + 8) 12 52
  let s1 := { s with ats := s.ats.filter fun e => !(decide (lo ≤ page e.1) && decide (page e.1 ≤ hi)) }
  .next (atsFinish { s1 with atsWait := s1.atsWait ++ [(lo, hi)] })

end Sys2Proof.Machine
end

