-- ==== Sys2Proof/Machine/Startup.lean ====
section
/-!
DEFINITION. Start-up (R447 to R449), power (R451), wear (R452), attestation (R453). A start runs through its steps at once
and stands still where its `StartIn` says; the limits of R449 then run.
-/
namespace Sys2Proof.Machine

/-- What is the host's: its memory behind the window, tier 4. -/
def hostMem (s : State) : List Host.Cell := s.mem.filter fun c => tierOf c.1 == some 4

/-- Clear a module for a start: registers, queues and contexts at reset, what flash holds kept (R449, R452 to R455), and what is not the
module's, the host's memory. A warm reset without scrub also keeps memory and tiles, and every warm reset keeps STARTST.TENANT and the
host ports as the cold start took them from BIF (R431, R433). -/
def cleared (s : State) (warm : Bool) : State :=
  let keepRegs : List Nat := (List.range 48).map (fun i => wearReg 0 + 8 * i) ++ (List.range 32).map (fun i => measReg 0 + 8 * i) ++
    [mgen] ++ (List.range 4).map spmap ++ (List.range 8).map retpc ++ [startst + 8]
  let s0 : State :=
    { State.reset with
      ctr := s.ctr, ids := s.ids, outbox := s.outbox, inputs := s.inputs, alerts := s.alerts.filter fun a => decide (4 ≤ a.2)
      start := { s.start with powered := true, retried := false, twoPorts := if warm then s.start.twoPorts else rbit s hostcfg 0 }
      mem := if warm then s.mem else hostMem s, fe := if warm then s.fe else [], spoiled := if warm then s.spoiled else []
      cores := if warm then s.cores.map fun c => (c.1, { CoreSt.reset with tiles := c.2.tiles, badTile := c.2.badTile }) else [] }
  let s1 := keepRegs.foldl (fun x a => rset x a (rget s a)) s0
  let s2 := rsetF s1 hostcfg 0 1 (rfld s hostcfg 0 1)
  if warm then rsetF s2 startst 5 1 (rfld s startst 5 1) else s2

/-- A start in progress is abandoned: a failed attempt (R449). -/
def abandon (s : State) : State :=
  let n := rfld s startst 0 3
  if n = 0 ∨ n = 7 then s else rincHold s (startst + 8) 32 32

/-- Scrub (R447 step 5). -/
def scrubAll (s : State) : State :=
  { s with
    mem := hostMem s, fe := [], spoiled := []
    cores := s.cores.map fun c => (c.1, { c.2 with tiles := [], badTile := [] }) }

/-- The stored training record serves (R448); temperatures in 0.1 K. -/
def storedOk (s : State) (o : StartIn) : Bool :=
  o.hashOk && s.start.flash.valid && s.start.flash.fuseId == o.fuseId && o.temps.length == s.start.flash.temps.length &&
  (o.temps.zip s.start.flash.temps).all fun x => decide (x.1 ≤ x.2 + 150) && decide (x.2 ≤ x.1 + 150)

/-- The share of a step in seconds, times 10 (R449). -/
def stepShare (n : Nat) (stored warm : Bool) : Nat :=
  match n with
  | 4 => if stored then 10 else 410
  | 5 => 20
  | _ => if warm then 5 else 10

/-- The start stands still in step n: steps 4 to 6 have a limit. -/
def standIn (s : State) (n : Nat) (stored warm : Bool) : State :=
  let (k, s1) := fresh (rsetF s startst 0 3 n)
  let s2 := { s1 with start := { s1.start with stamp := k } }
  if 4 ≤ n then after s2 (stepShare n stored warm * 100 * Config.cyclesPerMs) (.startStepTimeout n k) else s2

/-- What step 1 reads (R447, R454, R455): the fused spare map, which the substitutions that flash holds stand over. -/
def fuses (s : State) (o : StartIn) : State :=
  let s1 := (List.range 4).foldl (fun s d =>
    let fused := o.spares.getD d (2 ^ 64 - 1)
    rset s (spmap d) (BitVec.ofNat 64 ((List.range 8).foldl (fun n b =>
      let old := rfld s (spmap d) (8 * b) 8
      n + (if old = 0xFF then fused / 2 ^ (8 * b) % 256 else old) * 2 ^ (8 * b)) 0))) s
  o.retired.foldl (fun s p =>
    rset { s with alerts := tset s.alerts p 4 } (retpc (p / 64)) (rget s (retpc (p / 64)) ||| BitVec.ofNat 64 (2 ^ (p % 64)))) s1

/-- Step 1, with what R453 measures of it: at a cold start, and where it changes. -/
def fuseStep (s : State) (o : StartIn) (measure : Bool) : State :=
  let s1 := fuses s o
  let s2 := if measure || (List.range 4).any fun d => rget s (spmap d) != rget s1 (spmap d) then remeasure s1 6 else s1
  if measure || (List.range 8).any fun i => rget s (retpc i) != rget s1 (retpc i) then remeasure s2 7 else s2

/-- Links and channels that fail their stored settings retrain alone: the ports count in DOWNS, and the record is rewritten, in which
the temperatures are those it held or those of step 4 (R448; log 126). -/
def retrained (s : State) (o : StartIn) : State :=
  let ports := o.redo.filter fun p => decide (p < 47)
  let s1 := ports.foldl (fun s p => rincHold s (rport p + 16) 48 16) s
  if ports.isEmpty && !o.redoMem then s1
  else
    let (new, s2) := drawBool s1
    if new then { s2 with start := { s2.start with flash := { s2.start.flash with temps := o.temps } } } else s2

/-- One attempt: the state and the step that failed. `measure` says that the registers of R453 are not yet written. -/
def attempt (s : State) (o : StartIn) (full warm measure : Bool) : State × Option Nat :=
  let s0 := rincHold s (startst + 8) 0 32
  let n := rfld s0 (startst + 8) 0 32
  let put (s : State) (l : List Nat) : State := if measure then l.foldl remeasure s else s
  let s1 := if warm then s0 else fuseStep s0 o measure
  if !warm && o.upto = 1 then (standIn s1 1 false warm, none)
  else if o.upto = 2 then (standIn (put s1 [0]) 2 false warm, none)
  else
    let s3 := put s1 [0, 1, 2, 3, 4, 5]
    if o.upto = 3 then (standIn s3 3 false warm, none)
    else if !Config.firmwareGood n then (s3, some 3)
    else
      let stored := !full && storedOk s3 o
      let s4 := rsetF s3 startst 4 1 (if stored then 1 else 0)
      if !warm && o.upto = 4 then (standIn s4 4 stored warm, none)
      else
        let s5 := if warm then s4
          else if stored then retrained s4 o
          else { s4 with start := { s4.start with flash := { s4.start.flash with fuseId := o.fuseId, temps := o.temps, valid := true } } }
        let scrub := !warm || rbit s startst 5
        if scrub && o.upto = 5 then (standIn s5 5 stored warm, none)
        else
          let s6 := if scrub then scrubAll s5 else s5
          if o.upto = 6 then
            (after (standIn (rsetF s6 fabcfg 0 1 1) 6 stored warm) 0 .fabricJoin, none)
          else (rsetF s6 startst 0 3 7, none)

/-- Count a failure. -/
def failNote (s : State) (n : Nat) : State := rsetF (rincHold s (startst + 8) 32 32) startst 8 3 n

/-- The service state (R449): every fabric port is held with EN = 0, and those that are not down go down (R392; DEDUCED, log 142). -/
def service (s : State) : State :=
  let s1 := (List.range 47).foldl (fun s p => rsetF s (rport p) 0 1 0) (rsetF (rsetF s startst 3 1 1) startst 0 3 0)
  (List.range 47).foldl (fun s p => if portState s p = 0 || portState s p = 3 then s else portDown s p) s1

/-- After a failure in step n: once more from step 1 with full retraining, then the service state. How far the second attempt comes is
free. -/
def failStart (s : State) (n : Nat) : State :=
  let s1 := failNote s n
  if s.start.retried then service s1
  else
    let (k, s2) := drawIn s1 1 7
    let o := { s.start.input with upto := k }
    match attempt { s2 with start := { s2.start with retried := true, warm := false, input := o } } o true false false with
    | (s3, none) => s3
    | (s3, some m) => service (failNote s3 m)

/-- Begin a start. -/
def beginStart (s : State) (o : StartIn) (warm measure : Bool) : State :=
  match attempt { s with start := { s.start with input := o, warm := warm, retried := false } } o false warm measure with
  | (s1, none) => s1
  | (s1, some n) => failStart s1 n

/-- A die's steward reads its measured power, and the module's, in a millisecond (R451): what it will be is free. -/
def nextAdjust (s : State) (die : Nat) : State :=
  let (w, s1) := drawIn s 0 65535
  let (n, s2) := drawIn s1 0 65535
  after s2 Config.cyclesPerMs (.powerAdjust die w n)
/-- The wear counters go to flash in ten minutes (R452). -/
def nextWear (s : State) : State := after s (600000 * Config.cyclesPerMs) .wearFlashUpdate
/-- The stewards' periodic work begins (DEDUCED, log 143). -/
def stewardWork (s : State) : State := (List.range 4).foldl nextAdjust (nextWear s)

/-- COLD_START (R447, R449, R452): power is applied. -/
def execColdStart (o : StartIn) (s : State) : Res :=
  let s1 := cleared (abandon s) false
  let s2 := (List.range 48).foldl (fun x i => rset x (wearReg 0 + 8 * i) (tget 0 s.start.flash.wear i)) s1
  let s3 := (List.range 12).foldl (fun s u => rincHold s (wearReg u + 8) 32 32) s2
  let s4 := (List.range 8).foldl (fun s i => (List.range 4).foldl (fun s j => rset s (measReg i + 8 * j) 0) s) (rset s3 mgen 0)
  .next (beginStart (stewardWork s4) o false true)

/-- WARM_RESET (R447, R449). -/
def execWarmReset (o : StartIn) (s : State) : Res := .next (beginStart (stewardWork (cleared (abandon s) true)) o true false)

/-- START_STEP_TIMEOUT (R449). -/
def execStartStepTimeout (n stamp : Nat) (s : State) : Res :=
  .next (if s.start.stamp = stamp && rfld s startst 0 3 = n then failStart s n else s)

/-- STARTST_GO (R449): in the service state alone, whose hold on the ports' EN ends with it. -/
def execStartstGo (o : StartIn) (s : State) : Res :=
  .next (if rbit s startst 3 then beginStart ((List.range 47).foldl (fun s p => rsetF s (rport p) 0 1 1) (rsetF s startst 3 1 0)) o false false
    else s)

/-! Power and wear. -/

/-- POWER_ADJUST (R451): the die's measured power and the module's, in watts; the next follows in a millisecond. -/
def execPowerAdjust (die watts total : Nat) (s : State) : Res :=
  let s1 := rsetF s powcfg 16 16 total
  let above := decide (rfld s powcfg 0 16 * rfld s powcfg 32 8 < watts * 256)
  let step := rfld s powcfg 40 16
  .next (nextAdjust ((List.range 256).foldl (fun s i =>
    let n := 256 * (die % 4) + i
    let lim := rfld s (mxctl n) 0 16
    rsetF s (mxctl n) 0 16 (max 1024 (min 0xFFFF (if above then lim - step else lim + step)))) s1) die)

/-- Follow one threshold of a unit (R452), key k, in 0.1 K: a rise from the last trough, then a fall from the peak. The
answer's second part says that a cycle is complete. -/
def swing (t : Start) (k d x : Nat) : Start × Bool :=
  match tfind t.peak k with
  | some p =>
    if x + d ≤ p then ({ t with peak := tdel t.peak k, trough := tset t.trough k x }, true)
    else ({ t with peak := tset t.peak k (max p x) }, false)
  | none =>
    let lo := min x (tget x t.trough k)
    if lo + d ≤ x then ({ t with trough := tset t.trough k lo, peak := tset t.peak k x }, false)
    else ({ t with trough := tset t.trough k lo }, false)

/-- THERMAL_CYCLE_COUNT (R452): unit u's temperature in 0.1 K. -/
def execThermalCycleCount (u temp : Nat) (s : State) : Res :=
  let bin (s : State) (j : Nat) : State :=
    let r := swing s.start (4 * u + j) (200 * (j + 1)) temp
    let s1 := { s with start := r.1 }
    if r.2 then rincHold s1 (wearReg u + 8 * (j / 2)) (32 * (j % 2)) 32 else s1
  if 12 ≤ u then .next s
  else
    let s1 := [0, 1, 2].foldl bin s
    .next (rsetF s1 (wearReg u + 16) 0 16 (max (rfld s1 (wearReg u + 16) 0 16) (min 0xFFFF temp)))

/-- The counters go to flash. -/
def wearToFlash (s : State) : State :=
  let t := (List.range 48).foldl (fun (t : Tab Word64) i => tput 0 t i (rget s (wearReg 0 + 8 * i))) []
  { s with start := { s.start with flash := { s.start.flash with wear := t } } }

/-- WEAR_FLASH_UPDATE (R452); the next follows in ten minutes. -/
def execWearFlashUpdate (s : State) : Res := .next (nextWear (wearToFlash s))

/-- POWER_OFF (R452). -/
def execPowerOff (s : State) : Res :=
  let s1 := wearToFlash s
  .next { s1 with start := { s1.start with powered := false } }

/-- ATTESTATION_QUOTE (R453): the measurements and their signature. -/
def execAttestationQuote (tag : Nat) (s : State) : Res :=
  let b := (List.range 32).flatMap fun i => bytesOf (rget s (measReg 0 + 8 * i)) 8
  .next (emitOut s (.quote tag (b ++ Config.signature b)))

/-! Registers that the module itself writes. -/

/-- The die whose SPMAP stands at an address. -/
def spmapDie (pa : Nat) : Option Nat := (List.range 4).find? fun d => spmap d == pa
/-- Spares of die d that a new value of SPMAP takes from none to a logical cluster of the die, in order, with that cluster. -/
def newSpares (s : State) (d : Nat) (c : Word64) : List (Nat × Nat) :=
  ((List.range 4).map fun b => (b, c.toNat / 2 ^ (8 * b) % 256)).filter fun x => rfld s (spmap d) (8 * x.1) 8 == 0xFF && decide (x.2 < 64)
/-- A spare replaces a failed cluster that is empty of groups, between two steps of the dispatcher (R454). It has the cluster's number
(R4), and stands as the start's scrub left it; MEAS6 changes. -/
def spareIn (s : State) (d : Nat) (x : Nat × Nat) : State :=
  let clu := 64 * d + x.2
  if s.groups.any fun g => g.2.cluster == clu then s
  else
    let s1 := scrubScratch (rsetF s (spmap d) (8 * x.1) 8 x.2) clu
    remeasure ([0, 1, 2, 3].foldl (fun s k => scrubCore s (4 * clu + k)) s1) 6

/-- REGISTER_WRITE (R11, R182): a write that its requester may not make is refused and changes nothing. The module's own write of SPMAP
substitutes spares (R454; log 126). -/
def execRegisterWrite (src : ReqSrc) (pa : Nat) (c : Word64) (n : Fin 9) (s : State) : Res :=
  match src == .hw, spmapDie pa with
  | true, some d => .next ((newSpares s d c).foldl (fun s x => spareIn s d x) s)
  | _, _ => .next (if regAllowed s src pa true n.val && !foreignArm s src pa c.toNat && tierOf pa == some 3 then regWrite s src pa c n.val else s)

end Sys2Proof.Machine
end

