-- ==== Sys2Proof/Machine/Dispatch.lean ====
section
/-!
DEFINITION. The dispatch: one arm per constructor of `Instr`, each a call of its meaning.
-/
namespace Sys2Proof.Machine

def exec (i : Instr) (s : State) : Host.Outcome State Fault Refusal :=
  match i with
  | .add p o => Sys2Proof.Machine.execAdd p o s
  | .sub p o => Sys2Proof.Machine.execSub p o s
  | .mul p o => Sys2Proof.Machine.execMul p o s
  | .mulh p o => Sys2Proof.Machine.execMulh p o s
  | .mulhU p o => Sys2Proof.Machine.execMulhU p o s
  | .div p o => Sys2Proof.Machine.execDiv p o s
  | .divU p o => Sys2Proof.Machine.execDivU p o s
  | .rem p o => Sys2Proof.Machine.execRem p o s
  | .remU p o => Sys2Proof.Machine.execRemU p o s
  | .abs p o => Sys2Proof.Machine.execAbs p o s
  | .and p o => Sys2Proof.Machine.execAnd p o s
  | .or p o => Sys2Proof.Machine.execOr p o s
  | .xor p o => Sys2Proof.Machine.execXor p o s
  | .andn p o => Sys2Proof.Machine.execAndn p o s
  | .shl p o => Sys2Proof.Machine.execShl p o s
  | .shr p o => Sys2Proof.Machine.execShr p o s
  | .sra p o => Sys2Proof.Machine.execSra p o s
  | .rotl p o => Sys2Proof.Machine.execRotl p o s
  | .clz p o => Sys2Proof.Machine.execClz p o s
  | .popc p o => Sys2Proof.Machine.execPopc p o s
  | .extb p o => Sys2Proof.Machine.execExtb p o s
  | .extbS p o => Sys2Proof.Machine.execExtbS p o s
  | .depb p o => Sys2Proof.Machine.execDepb p o s
  | .min p o => Sys2Proof.Machine.execMin p o s
  | .max p o => Sys2Proof.Machine.execMax p o s
  | .minU p o => Sys2Proof.Machine.execMinU p o s
  | .maxU p o => Sys2Proof.Machine.execMaxU p o s
  | .mov p o => Sys2Proof.Machine.execMov p o s
  | .lea p n o => Sys2Proof.Machine.execLea p n o s
  | .addi p o => Sys2Proof.Machine.execAddi p o s
  | .shlImm p o => Sys2Proof.Machine.execShlImm p o s
  | .shrImm p o => Sys2Proof.Machine.execShrImm p o s
  | .sraImm p o => Sys2Proof.Machine.execSraImm p o s
  | .rotlImm p o => Sys2Proof.Machine.execRotlImm p o s
  | .movi p o => Sys2Proof.Machine.execMovi p o s
  | .mfsr p o => Sys2Proof.Machine.execMfsr p o s
  | .mtsr p o => Sys2Proof.Machine.execMtsr p o s
  | .cmp p o => Sys2Proof.Machine.execCmp p o s
  | .cmpi p o => Sys2Proof.Machine.execCmpi p o s
  | .plog p o => Sys2Proof.Machine.execPlog p o s
  | .pset p o => Sys2Proof.Machine.execPset p o s
  | .klog p o => Sys2Proof.Machine.execKlog p o s
  | .kpopc p o => Sys2Proof.Machine.execKpopc p o s
  | .kfirst p o => Sys2Proof.Machine.execKfirst p o s
  | .sel p n o => Sys2Proof.Machine.execSel p n o s
  | .vadd p t o => Sys2Proof.Machine.execVadd p t o s
  | .vsub p t o => Sys2Proof.Machine.execVsub p t o s
  | .vmul p t o => Sys2Proof.Machine.execVmul p t o s
  | .vmin p t o => Sys2Proof.Machine.execVmin p t o s
  | .vmax p t o => Sys2Proof.Machine.execVmax p t o s
  | .vfma p t o => Sys2Proof.Machine.execVfma p t o s
  | .vfmaNa p t o => Sys2Proof.Machine.execVfmaNa p t o s
  | .vcmp p t o => Sys2Proof.Machine.execVcmp p t o s
  | .vand p o => Sys2Proof.Machine.execVand p o s
  | .vor p o => Sys2Proof.Machine.execVor p o s
  | .vxor p o => Sys2Proof.Machine.execVxor p o s
  | .vsel p o => Sys2Proof.Machine.execVsel p o s
  | .vshl p o => Sys2Proof.Machine.execVshl p o s
  | .vshr p o => Sys2Proof.Machine.execVshr p o s
  | .vsra p o => Sys2Proof.Machine.execVsra p o s
  | .vmov p o => Sys2Proof.Machine.execVmov p o s
  | .vabs p t o => Sys2Proof.Machine.execVabs p t o s
  | .vscale p t o => Sys2Proof.Machine.execVscale p t o s
  | .vcvt p o => Sys2Proof.Machine.execVcvt p o s
  | .vrcp p o => Sys2Proof.Machine.execVrcp p o s
  | .vrsq p o => Sys2Proof.Machine.execVrsq p o s
  | .vexp2 p o => Sys2Proof.Machine.execVexp2 p o s
  | .vlog2 p o => Sys2Proof.Machine.execVlog2 p o s
  | .vperm p o => Sys2Proof.Machine.execVperm p o s
  | .vbcast p o => Sys2Proof.Machine.execVbcast p o s
  | .vrot p o => Sys2Proof.Machine.execVrot p o s
  | .vext p o => Sys2Proof.Machine.execVext p o s
  | .vins p o => Sys2Proof.Machine.execVins p o s
  | .viota p o => Sys2Proof.Machine.execViota p o s
  | .vpack p o => Sys2Proof.Machine.execVpack p o s
  | .vunpk p o => Sys2Proof.Machine.execVunpk p o s
  | .vred p t o => Sys2Proof.Machine.execVred p t o s
  | .vscan p t o => Sys2Proof.Machine.execVscan p t o s
  | .vdot p src o => Sys2Proof.Machine.execVdot p src o s
  | .lda p n o => Sys2Proof.Machine.execLda p n o s
  | .sta p n o => Sys2Proof.Machine.execSta p n o s
  | .bind p o => Sys2Proof.Machine.execBind p o s
  | .fence p o => Sys2Proof.Machine.execFence p o s
  | .pfence p o => Sys2Proof.Machine.execPfence p o s
  | .ldv p w o => Sys2Proof.Machine.execLdv p w o s
  | .ldvs p w o => Sys2Proof.Machine.execLdvs p w o s
  | .ldg p w o => Sys2Proof.Machine.execLdg p w o s
  | .stv p w o => Sys2Proof.Machine.execStv p w o s
  | .stvs p w o => Sys2Proof.Machine.execStvs p w o s
  | .stg p w o => Sys2Proof.Machine.execStg p w o s
  | .aadd p o => Sys2Proof.Machine.execAadd p o s
  | .bset p o => Sys2Proof.Machine.execBset p o s
  | .trans p o => Sys2Proof.Machine.execTrans p o s
  | .hrel p o => Sys2Proof.Machine.execHrel p o s
  | .hchk p o => Sys2Proof.Machine.execHchk p o s
  | .preq p o => Sys2Proof.Machine.execPreq p o s
  | .feset p o => Sys2Proof.Machine.execFeset p o s
  | .fewait p o => Sys2Proof.Machine.execFewait p o s
  | .amo32 p op o => Sys2Proof.Machine.execAmo32 p op o s
  | .amo64 p op o => Sys2Proof.Machine.execAmo64 p op o s
  | .amos32 p op o => Sys2Proof.Machine.execAmos32 p op o s
  | .amos64 p op o => Sys2Proof.Machine.execAmos64 p op o s
  | .cas p n o => Sys2Proof.Machine.execCas p n o s
  | .acqX p o => Sys2Proof.Machine.execAcqX p o s
  | .acqSh p o => Sys2Proof.Machine.execAcqSh p o s
  | .acqEv p o => Sys2Proof.Machine.execAcqEv p o s
  | .relUn p o => Sys2Proof.Machine.execRelUn p o s
  | .relPost p o => Sys2Proof.Machine.execRelPost p o s
  | .pcmdAddI32 p o => Sys2Proof.Machine.execPcmdAddI32 p o s
  | .pcmdAddF32 p o => Sys2Proof.Machine.execPcmdAddF32 p o s
  | .pcmdAxpyF32 p o => Sys2Proof.Machine.execPcmdAxpyF32 p o s
  | .pcmdMaxF32 p o => Sys2Proof.Machine.execPcmdMaxF32 p o s
  | .pcmdCvtBf16 p o => Sys2Proof.Machine.execPcmdCvtBf16 p o s
  | .pcmdFill p o => Sys2Proof.Machine.execPcmdFill p o s
  | .pcmdCopy p o => Sys2Proof.Machine.execPcmdCopy p o s
  | .pcmdAcc p o => Sys2Proof.Machine.execPcmdAcc p o s
  | .cpy p va ch => Sys2Proof.Machine.execCpy p va ch s
  | .cpyq p va sa => Sys2Proof.Machine.execCpyq p va sa s
  | .drain p chs => Sys2Proof.Machine.execDrain p chs s
  | .cwait p o => Sys2Proof.Machine.execCwait p o s
  | .cadd p o => Sys2Proof.Machine.execCadd p o s
  | .cset p o => Sys2Proof.Machine.execCset p o s
  | .put p n o => Sys2Proof.Machine.execPut p n o s
  | .putm p n o => Sys2Proof.Machine.execPutm p n o s
  | .putmO p n o => Sys2Proof.Machine.execPutmO p n o s
  | .shdw p o => Sys2Proof.Machine.execShdw p o s
  | .publ p o => Sys2Proof.Machine.execPubl p o s
  | .sdef p sid => Sys2Proof.Machine.execSdef p sid s
  | .ssub p o => Sys2Proof.Machine.execSsub p o s
  | .sfeed p o => Sys2Proof.Machine.execSfeed p o s
  | .srel p sid => Sys2Proof.Machine.execSrel p sid s
  | .mload p o => Sys2Proof.Machine.execMload p o s
  | .mcall p en => Sys2Proof.Machine.execMcall p en s
  | .mwait p => Sys2Proof.Machine.execMwait p s
  | .mrdaVector p o => Sys2Proof.Machine.execMrdaVector p o s
  | .mrdaScratchpad p o => Sys2Proof.Machine.execMrdaScratchpad p o s
  | .mzro p t => Sys2Proof.Machine.execMzro p t s
  | .engw p sa ix => Sys2Proof.Machine.execEngw p sa ix s
  | .bar p n => Sys2Proof.Machine.execBar p n s
  | .bara p n => Sys2Proof.Machine.execBara p n s
  | .barw p n => Sys2Proof.Machine.execBarw p n s
  | .waitev p o => Sys2Proof.Machine.execWaitev p o s
  | .lnch p va sa => Sys2Proof.Machine.execLnch p va sa s
  | .csave p o => Sys2Proof.Machine.execCsave p o s
  | .cload p o => Sys2Proof.Machine.execCload p o s
  | .freeze p o => Sys2Proof.Machine.execFreeze p o s
  | .thaw p o => Sys2Proof.Machine.execThaw p o s
  | .discard p o => Sys2Proof.Machine.execDiscard p o s
  | .vdrain p sa => Sys2Proof.Machine.execVdrain p sa s
  | .hinvv p sa => Sys2Proof.Machine.execHinvv p sa s
  | .scrub p o => Sys2Proof.Machine.execScrub p o s
  | .trig p n => Sys2Proof.Machine.execTrig p n s
  | .nop p => Sys2Proof.Machine.execNop p s
  | .brt p o => Sys2Proof.Machine.execBrt p o s
  | .brc p o => Sys2Proof.Machine.execBrc p o s
  | .jmp p off => Sys2Proof.Machine.execJmp p off s
  | .jmpi p sa => Sys2Proof.Machine.execJmpi p sa s
  | .call p sd off => Sys2Proof.Machine.execCall p sd off s
  | .ret p sa => Sys2Proof.Machine.execRet p sa s
  | .loop p off => Sys2Proof.Machine.execLoop p off s
  | .lset p sa sm => Sys2Proof.Machine.execLset p sa sm s
  | .exit p => Sys2Proof.Machine.execExit p s
  | .yield p => Sys2Proof.Machine.execYield p s
  | .trap p code => Sys2Proof.Machine.execTrap p code s
  | .eret p => Sys2Proof.Machine.execEret p s
  | .halt p => Sys2Proof.Machine.execHalt p s
  | .uend => Sys2Proof.Machine.execUend s
  | .step j o => Sys2Proof.Machine.execStep j o s
  | .scl j => Sys2Proof.Machine.execScl j s
  | .band j side => Sys2Proof.Machine.execBand j side s
  | .accsel j tile => Sys2Proof.Machine.execAccsel j tile s
  | .accselG j ix => Sys2Proof.Machine.execAccselG j ix s
  | .uloop count len => Sys2Proof.Machine.execUloop count len s
  | .uloopG ix len => Sys2Proof.Machine.execUloopG ix len s
  | .skip j pt n => Sys2Proof.Machine.execSkip j pt n s
  | .sig j ix => Sys2Proof.Machine.execSig j ix s
  | .waits j pt n => Sys2Proof.Machine.execWaits j pt n s
  | .contextSelect core => Sys2Proof.Machine.execContextSelect core s
  | .asyncTrapEntry g => Sys2Proof.Machine.execAsyncTrapEntry g s
  | .resultLanding core => Sys2Proof.Machine.execResultLanding core s
  | .laqRequestLeave g => Sys2Proof.Machine.execLaqRequestLeave g s
  | .ldqFill g => Sys2Proof.Machine.execLdqFill g s
  | .fullEmptyWaitEnd g => Sys2Proof.Machine.execFullEmptyWaitEnd g s
  | .loadPerform id => Sys2Proof.Machine.execLoadPerform id s
  | .storePerform id => Sys2Proof.Machine.execStorePerform id s
  | .atomicPerform id => Sys2Proof.Machine.execAtomicPerform id s
  | .syncAcquireStep id => Sys2Proof.Machine.execSyncAcquireStep id s
  | .syncReleaseStep id => Sys2Proof.Machine.execSyncReleaseStep id s
  | .releasePerform core id => Sys2Proof.Machine.execReleasePerform core id s
  | .fenceComplete g => Sys2Proof.Machine.execFenceComplete g s
  | .pfenceComplete g => Sys2Proof.Machine.execPfenceComplete g s
  | .bindPerform g => Sys2Proof.Machine.execBindPerform g s
  | .tableWalkComplete id => Sys2Proof.Machine.execTableWalkComplete id s
  | .hinvalStart => Sys2Proof.Machine.execHinvalStart s
  | .hinvalComplete => Sys2Proof.Machine.execHinvalComplete s
  | .barrierArrivalCount g slot => Sys2Proof.Machine.execBarrierArrivalCount g slot s
  | .groupRetire gid => Sys2Proof.Machine.execGroupRetire gid s
  | .launchComplete lid => Sys2Proof.Machine.execLaunchComplete lid s
  | .dispatchStep => Sys2Proof.Machine.execDispatchStep s
  | .launchPacketTake q => Sys2Proof.Machine.execLaunchPacketTake q s
  | .stewardPacketTake n => Sys2Proof.Machine.execStewardPacketTake n s
  | .launchEngineAppend core id => Sys2Proof.Machine.execLaunchEngineAppend core id s
  | .counterAddPerform core id => Sys2Proof.Machine.execCounterAddPerform core id s
  | .counterSetPerform core id => Sys2Proof.Machine.execCounterSetPerform core id s
  | .shdwPerform core id => Sys2Proof.Machine.execShdwPerform core id s
  | .enginePartIssue chan => Sys2Proof.Machine.execEnginePartIssue chan s
  | .copyPartLand id => Sys2Proof.Machine.execCopyPartLand id s
  | .copyComplete chan id => Sys2Proof.Machine.execCopyComplete chan id s
  | .putComplete chan id => Sys2Proof.Machine.execPutComplete chan id s
  | .sharedCopyPacketTake q => Sys2Proof.Machine.execSharedCopyPacketTake q s
  | .feederEntryFill slot => Sys2Proof.Machine.execFeederEntryFill slot s
  | .pumpPartEnqueue id => Sys2Proof.Machine.execPumpPartEnqueue id s
  | .pumpPartExecute bank => Sys2Proof.Machine.execPumpPartExecute bank s
  | .rarmArm g ix => Sys2Proof.Machine.execRarmArm g ix s
  | .matrixCommandBegin core => Sys2Proof.Machine.execMatrixCommandBegin core s
  | .routineComplete core => Sys2Proof.Machine.execRoutineComplete core s
  | .governorCheck core => Sys2Proof.Machine.execGovernorCheck core s
  | .governorFreezeEnd core => Sys2Proof.Machine.execGovernorFreezeEnd core s
  | .faultBatchFlush vf => Sys2Proof.Machine.execFaultBatchFlush vf s
  | .faultResume vf ix => Sys2Proof.Machine.execFaultResume vf ix s
  | .traceSample core => Sys2Proof.Machine.execTraceSample core s
  | .hostFlr vf => Sys2Proof.Machine.execHostFlr vf s
  | .parityAlert slice again => Sys2Proof.Machine.execParityAlert slice again s
  | .internalLinkFailure die link => Sys2Proof.Machine.execInternalLinkFailure die link s
  | .null port f => Sys2Proof.Machine.execNull port f s
  | .head port f => Sys2Proof.Machine.execHead port f s
  | .body port f => Sys2Proof.Machine.execBody port f s
  | .tail port f => Sys2Proof.Machine.execTail port f s
  | .solo port f => Sys2Proof.Machine.execSolo port f s
  | .flitCrcFail port f => Sys2Proof.Machine.execFlitCrcFail port f s
  | .nak port f => Sys2Proof.Machine.execNak port f s
  | .nakRepeat port => Sys2Proof.Machine.execNakRepeat port s
  | .rsreq port f => Sys2Proof.Machine.execRsreq port f s
  | .rsack port f => Sys2Proof.Machine.execRsack port f s
  | .rsreqTimeout port seq => Sys2Proof.Machine.execRsreqTimeout port seq s
  | .linkid port f => Sys2Proof.Machine.execLinkid port f s
  | .laneScoreUpdate port margins => Sys2Proof.Machine.execLaneScoreUpdate port margins s
  | .laneLockLost port lane => Sys2Proof.Machine.execLaneLockLost port lane s
  | .portTrainingAttempt port passed => Sys2Proof.Machine.execPortTrainingAttempt port passed s
  | .portEnableWrite port en => Sys2Proof.Machine.execPortEnableWrite port en s
  | .laneHoldRelease port lane => Sys2Proof.Machine.execLaneHoldRelease port lane s
  | .treeAdv port f => Sys2Proof.Machine.execTreeAdv port f s
  | .treeDone port f => Sys2Proof.Machine.execTreeDone port f s
  | .treeInstall port f => Sys2Proof.Machine.execTreeInstall port f s
  | .treeStableTimer stamp => Sys2Proof.Machine.execTreeStableTimer stamp s
  | .fabricRequestInject id => Sys2Proof.Machine.execFabricRequestInject id s
  | .escapeWaitExpire id => Sys2Proof.Machine.execEscapeWaitExpire id s
  | .escapeTableWaitExpire id => Sys2Proof.Machine.execEscapeTableWaitExpire id s
  | .requestTimeout tag stamp => Sys2Proof.Machine.execRequestTimeout tag stamp s
  | .probeTimeout m stamp => Sys2Proof.Machine.execProbeTimeout m stamp s
  | .probePeriodic port => Sys2Proof.Machine.execProbePeriodic port s
  | .fenceNotice m => Sys2Proof.Machine.execFenceNotice m s
  | .read m => Sys2Proof.Machine.execRead m s
  | .putWithoutPost m => Sys2Proof.Machine.execPutWithoutPost m s
  | .putWithPost m => Sys2Proof.Machine.execPutWithPost m s
  | .atomic m => Sys2Proof.Machine.execAtomic m s
  | .sync m => Sys2Proof.Machine.execSync m s
  | .pcmdPart m => Sys2Proof.Machine.execPcmdPart m s
  | .orderedMulticastToRoot m => Sys2Proof.Machine.execOrderedMulticastToRoot m s
  | .orderedMulticastCopy m => Sys2Proof.Machine.execOrderedMulticastCopy m s
  | .probe m => Sys2Proof.Machine.execProbe m s
  | .ack m => Sys2Proof.Machine.execAck m s
  | .data m => Sys2Proof.Machine.execData m s
  | .atomicData m => Sys2Proof.Machine.execAtomicData m s
  | .probeack m => Sys2Proof.Machine.execProbeack m s
  | .error m => Sys2Proof.Machine.execError m s
  | .allReducePartial m => Sys2Proof.Machine.execAllReducePartial m s
  | .allReduceResult m => Sys2Proof.Machine.execAllReduceResult m s
  | .allReduceAbort m => Sys2Proof.Machine.execAllReduceAbort m s
  | .pull m => Sys2Proof.Machine.execPull m s
  | .pagedata m => Sys2Proof.Machine.execPagedata m s
  | .redirack m => Sys2Proof.Machine.execRedirack m s
  | .arcontWrite src v ix c => Sys2Proof.Machine.execArcontWrite src v ix c s
  | .arcfgWrite v ix dw c => Sys2Proof.Machine.execArcfgWrite v ix dw c s
  | .allreduceTimeout v ix n => Sys2Proof.Machine.execAllreduceTimeout v ix n s
  | .migsClose v => Sys2Proof.Machine.execMigsClose v s
  | .redirackWrite v c => Sys2Proof.Machine.execRedirackWrite v c s
  | .pagedataTimeout tag stamp => Sys2Proof.Machine.execPagedataTimeout tag stamp s
  | .pullTimeout v u stamp => Sys2Proof.Machine.execPullTimeout v u stamp s
  | .migrationPrefetch v => Sys2Proof.Machine.execMigrationPrefetch v s
  | .harbGo v => Sys2Proof.Machine.execHarbGo v s
  | .harbDone v u => Sys2Proof.Machine.execHarbDone v u s
  | .harbDwellExpire v u stamp => Sys2Proof.Machine.execHarbDwellExpire v u stamp s
  | .hostMemoryRead o => Sys2Proof.Machine.execHostMemoryRead o s
  | .hostMemoryWrite o => Sys2Proof.Machine.execHostMemoryWrite o s
  | .hostAtomicop o => Sys2Proof.Machine.execHostAtomicop o s
  | .atsInvalidation lo hi => Sys2Proof.Machine.execAtsInvalidation lo hi s
  | .coldStart o => Sys2Proof.Machine.execColdStart o s
  | .warmReset o => Sys2Proof.Machine.execWarmReset o s
  | .startStepTimeout n stamp => Sys2Proof.Machine.execStartStepTimeout n stamp s
  | .startstGo o => Sys2Proof.Machine.execStartstGo o s
  | .powerAdjust die watts total => Sys2Proof.Machine.execPowerAdjust die watts total s
  | .thermalCycleCount u temp => Sys2Proof.Machine.execThermalCycleCount u temp s
  | .wearFlashUpdate => Sys2Proof.Machine.execWearFlashUpdate s
  | .powerOff => Sys2Proof.Machine.execPowerOff s
  | .attestationQuote tag => Sys2Proof.Machine.execAttestationQuote tag s
  | .registerWrite src pa c n => Sys2Proof.Machine.execRegisterWrite src pa c n s
  | .uncorrectableError o => Sys2Proof.Machine.execUncorrectableError o s
  | .faultRingRoom vf => Sys2Proof.Machine.execFaultRingRoom vf s
  | .eventRingRoom => Sys2Proof.Machine.execEventRingRoom s
  | .escapeParityQuiet stamp => Sys2Proof.Machine.execEscapeParityQuiet stamp s
  | .fabricJoin => Sys2Proof.Machine.execFabricJoin s

end Sys2Proof.Machine
end

