-- ==== Sys2Proof/Machine/Plan.lean ====
section
/-!
DEFINITION. What a core cycle consists of: the clock (R1, R303, R356), the events of a cycle in the order in which the
model takes them (log 4), the delivery of messages (R395), and the events that come from outside the module.
-/
namespace Sys2Proof.Machine

/-! The clock. -/

/-- A governed core's cycle begins (R303, R304): a frozen cycle counts in FRZCNT, weighs 0 and takes no time of the core's. -/
def coreClock (s : State) (core : Nat) : State :=
  if coreFrozen s core then
    let s1 := modCore s core fun k => { k with frzCnt := k.frzCnt + 1 }
    let s2 := rset s1 (mxctl core + 8) (if rget s1 (mxctl core + 8) = -1 then -1 else rget s1 (mxctl core + 8) + 1)
    modCore s2 core fun k => { k with window := (0 :: k.window).take 64 }
  else s

/-- SCYC of the cycle that ends (R356). -/
def countScyc (s : State) (t : Nat) : State :=
  { s with ctxs := s.ctxs.map fun x =>
      if x.2.phase == .resident && !x.2.frozen && decide ((getCore s (coreOf x.1)).frozenTo ≤ t) then
        (x.1, { x.2 with scyc := (x.2.scyc + 1) % 2 ^ 64 }) else x }

/-- The next cycle begins. -/
def advanceClock (s : State) : State :=
  let s1 := countScyc { s with clock := s.clock + 1 } s.clock
  s1.cores.foldl (fun s k => coreClock s k.1) s1

/-! The fabric's cycle. -/

/-- Requests of the Ridge die enter the outstanding table while it has room (R404). -/
def admitWaiting : Nat → State → State
  | 0, s => s
  | n + 1, s =>
    match s.fab.waiting with
    | (m, use, a) :: r =>
      if s.fab.outst.length < 65536 then admitWaiting n (enterOwn sendMsg { s with fab := { s.fab with waiting := r } } m use a) else s
    | [] => s

/-- Messages on the escape VC that wait for a table or a buffer look again (R402). -/
def escapeLook (s : State) : State :=
  (s.fab.queue.filter fun q => q.m.esc && q.port.isNone && q.sent == 0).foldl (fun s q =>
    let (s1, q1) := chooseRoute s q
    { s1 with fab := { s1.fab with queue := s1.fab.queue.map fun x => if x.id = q.id then q1 else x } }) s

def fabricCycle (s : State) : State :=
  let s1 := escapeLook (admitWaiting s.fab.waiting.length (noteParity s))
  s1.fab.ports.foldl (fun s p => portSend s p.1) s1

/-! A core's cycle. -/

/-- The contexts of a core that a group holds. -/
def heldCtxs (s : State) (core : Nat) : List Nat :=
  ((List.range 4).map (ctxBase core + ·)).filter fun g => (getCtx s g).phase != .free

/-- A result of the core is due. -/
def resultsDue (s : State) (core : Nat) : Bool :=
  (heldCtxs s core).any fun g =>
    !(getCtx s g).frozen && (getCtx s g).flight.any fun f => decide (f.due ≤ localTime s core)

/-- An LDQ entry of the context has everything. -/
def fillDue (s : State) (g : Nat) : Bool :=
  (getCtx s g).ldq.any fun e => !e.filled && e.left == 0 && decide (e.due ≤ localTime s (coreOf g))

/-- An asynchronous trap waits for its boundary (R346); IN is looked at once this cycle's results have landed. -/
def asyncDue (s : State) (g : Nat) : Bool :=
  let c := getCtx s g
  !c.frozen && c.phase == .resident && (!c.apq.isEmpty || c.undel != 0)

/-- What waits at the head of LAQ for an end of its own. -/
def headWaits (s : State) (g : Nat) : List Instr :=
  match (getCtx s g).laq with
  | [] => []
  | q :: _ =>
    match aop q.op with
    | .fence _ _ => [.fenceComplete g]
    | .pfence _ => [.pfenceComplete g]
    | .bind _ => [.bindPerform g]
    | _ => if q.slot then [.fullEmptyWaitEnd g] else []

/-- The event that moves a launch engine's command on. -/
def lengEvent (core : Nat) (c : LCmd) : List Instr :=
  match c.op with
  | .lnch _ _ _ => [.launchEngineAppend core c.id]
  | .cpyq _ _ _ => [.launchEngineAppend core c.id]
  | .cadd _ _ => [.counterAddPerform core c.id]
  | .cset _ _ => [.counterSetPerform core c.id]
  | .shdw _ _ => [.shdwPerform core c.id]
  | _ => []

/-- Something for the core's matrix queue to do (R322). -/
def matrixDue (s : State) (core : Nat) : Bool :=
  let k := getCore s core
  k.busyCmd.isSome || (k.run.isNone && !k.mq.isEmpty) || s.txns.any fun e => e.2.src == .mx core && e.2.out

/-- The governor's sum can be other than 0 (R303). -/
def governed (s : State) (core : Nat) : Bool :=
  let k := getCore s core
  decide (core < 1024) && (k.weight != 0 || k.run.isSome || (k.window.any (· != 0)) ||
    (heldCtxs s core).any fun g => (getCtx s g).phase == .resident && !(getCtx s g).frozen)

/-- What goes on beside a core, frozen or not: the banks, the barrier slots, the launch engine. -/
def besideTurn (s : State) (core : Nat) : List Instr :=
  let gs := heldCtxs s core
  (gs.flatMap fun g => (getCtx s g).uncounted.map fun u => .barrierArrivalCount g u.1) ++ gs.flatMap (headWaits s) ++
    (getCore s core).leng.flatMap (lengEvent core)

/-- The events of a core's cycle (R149, R150, R184, R303); `ws` the words that its matrix unit issues in it. -/
def coreTurn (s : State) (core : Nat) (ws : List Instr) : List Instr :=
  let k := getCore s core
  if coreFrozen s core then
    besideTurn s core ++ if k.frozenTo = s.clock + 1 then [.governorFreezeEnd core] else []
  else
    let gs := heldCtxs s core
    let n := 64 * rfld s (bkpt core 0 + 8) 6 16
    let fills := (gs.filter (fillDue s)).map Instr.ldqFill
    fills ++ (if resultsDue s core || !fills.isEmpty then [.resultLanding core] else []) ++ ws ++
      (gs.filter (asyncDue s)).map .asyncTrapEntry ++
      (if gs.any fun g => (getCtx s g).phase == .resident && !(getCtx s g).frozen then [.contextSelect core] else []) ++
      ((([1, 2, 3, 4].map fun i => ctxBase core + (k.slotTurn + i) % 4).filter gs.contains).map .laqRequestLeave) ++
      besideTurn s core ++ (if matrixDue s core then [.matrixCommandBegin core] else []) ++
      (if core < 1024 && n != 0 && s.clock % n == 0 then [.traceSample core] else []) ++
      (if governed s core then [.governorCheck core] else [])

/-- The cores on which anything can happen. -/
def activeCores (s : State) : List Nat :=
  (((s.ctxs.filter fun x => x.2.phase != .free).map fun x => coreOf x.1) ++
    ((s.cores.filter fun k => k.2.run.isSome || k.2.busyCmd.isSome || !k.2.mq.isEmpty || !k.2.leng.isEmpty ||
      k.2.window.any (· != 0) || decide (s.clock < k.2.frozenTo)).map (·.1))).eraseDups

/-- Every core's cycle, its matrix unit's micro-cycle first. -/
def coresTurn (s : State) : State × List (Nat × Instr) :=
  (activeCores s).foldl (fun (acc : State × List (Nat × Instr)) core =>
    let (s1, ws) := if coreFrozen acc.1 core then (acc.1, []) else matrixCycle acc.1 core
    (s1, acc.2 ++ (coreTurn s1 core ws).map fun i => (core, i))) (s, [])

/-! The module's cycle. -/

/-- The numbers i below n of registers of one kind, 8 w bytes apart from `base`, whose bit 0 is 1. -/
def enabledRegs (s : State) (base w n : Nat) : List Nat :=
  (s.regs.filter fun r => decide (base ≤ r.1) && decide (r.1 < base + 8 * w * n) && (r.1 - base) % (8 * w) == 0 &&
    r.2.getLsbD 0).map fun r => (r.1 - base) / (8 * w)

/-- Launches whose add has been answered. -/
def addsDone (s : State) : List Instr :=
  (s.launches.filter fun l => l.2.done && (addAnswer s l.1).isSome).map fun l => .launchComplete l.1

/-- The launch queues to look at: those enabled, and those whose taken packet still waits for its check (R165). -/
def launchTakes (s : State) : List Nat :=
  (enabledRegs s (lqcfg 0) 1 256 ++
    (s.launches.filter fun l => decide (l.2.q < 256) && !l.2.checked).map fun l => l.2.q).eraseDups

/-- Waiting fault records and held events whose ring has room again, however the room came (R231, R351, R353). -/
def roomDue (s : State) : List Instr :=
  ((s.faults.wait.filter (frRoom s)).map frKey).eraseDups.map .faultRingRoom ++
    (if !s.evq.isEmpty && rbit s evcfg 0 && evRoom s then [.eventRingRoom] else [])

/-- The events of the dispatcher, the engines and the stream feeders. -/
def moduleTurn (s : State) : List Instr :=
  roomDue s ++ (launchTakes s).map .launchPacketTake ++
    ((List.range 5).filter fun n => rbit s (sqcfg n) 0 || s.launches.any fun l => l.2.q == 256 + n).map .stewardPacketTake ++
    (enabledRegs s (cqcfg 0) 1 64).map .sharedCopyPacketTake ++
    (if s.launches.any fun l => decide (l.2.q < 256) && decide (l.2.next < l.2.total) && l.2.checked then [.dispatchStep] else []) ++
    ((s.groups.filter fun x => x.2.ctxs.all (ctxDone s)).map fun x => .groupRetire x.1) ++ addsDone s ++
    ((s.chans.filter fun x => !x.2.isEmpty).map fun x => .enginePartIssue x.1) ++
    s.clusters.flatMap fun c =>
      (c.2.streams.filter fun x => !x.2.feeds.isEmpty).map fun x => .feederEntryFill (16 * c.1 + x.1)

/-- One core cycle begins: time, freezes that fall on it (R354), the fabric, and the list of the cycle's events. -/
def tick (s : State) : State :=
  let s0 := advanceClock s
  let s1 := fabricCycle (atsFinish (freezeAll (if s0.sump.isEmpty then s0 else replayFrom s0.sump [] s0)))
  let (s2, inj) := match injectNext s1 with
    | some (id, t) => (t, [Instr.fabricRequestInject id])
    | none => (s1, [])
  let (s3, ct) := coresTurn s2
  { s3 with turn := ct ++ (inj ++ moduleTurn s3).map fun i => (0, i) }

/-! Messages. -/

/-- A message that has arrived whole, by its OP (R395); a request with an OP of no meaning gets ERROR 8. -/
def deliverMsg (m : Msg) (s : State) : Res :=
  match m.op with
  | 0x01 => execRead m s
  | 0x02 => execPutWithoutPost m s
  | 0x03 => execPutWithPost m s
  | 0x04 => execAtomic m s
  | 0x05 => execSync m s
  | 0x06 => execPcmdPart m s
  | 0x07 => execOrderedMulticastToRoot m s
  | 0x08 => execOrderedMulticastCopy m s
  | 0x09 => execProbe m s
  | 0x10 => execAck m s
  | 0x11 => execData m s
  | 0x12 => execAtomicData m s
  | 0x13 => execProbeack m s
  | 0x1F => execError m s
  | 0x20 => execAllReducePartial m s
  | 0x21 => execAllReduceResult m s
  | 0x22 => execAllReduceAbort m s
  | 0x23 => execPull m s
  | 0x24 => execPagedata m s
  | 0x25 => execRedirack m s
  | op => if 1 ≤ op ∧ op < 0x10 then .next (respondError s m 8) else .next s

/-- The events that the outside makes: the host, the neighbours' flits and links, the fuses and sensors, the failures of
the hardware. -/
def external : Instr → Bool
  | .hostFlr _ | .parityAlert _ _ | .internalLinkFailure _ _ | .uncorrectableError _ => true
  | .null _ _ | .head _ _ | .body _ _ | .tail _ _ | .solo _ _ | .flitCrcFail _ _ | .nak _ _ => true
  | .rsreq _ _ | .rsack _ _ | .linkid _ _ | .treeAdv _ _ | .treeDone _ _ | .treeInstall _ _ => true
  | .laneScoreUpdate _ _ | .laneLockLost _ _ | .portTrainingAttempt _ _ | .fenceNotice _ => true
  | .hostMemoryRead _ | .hostMemoryWrite _ | .hostAtomicop _ | .atsInvalidation _ _ => true
  | .coldStart _ | .warmReset _ | .thermalCycleCount _ _ | .powerOff | .attestationQuote _ => true
  -- a cluster has failed and a spare takes its place (R454)
  | .registerWrite src pa _ _ => src == .hw && (spmapDie pa).isSome
  | _ => false

/-! Placing an instruction for the host's probe (log 9). -/

/-- Where the placed course stands. -/
def probePc : Nat := 0x10000

/-- The bundle that holds word w alone in its course: a BRT under a TREE header; a stop where w has none. -/
def probeBundle (w : Nat) : List Byte :=
  let stop := if fld w 28 3 == 4 then 0x80000000 else 0xC0000000
  let ws := (if isBrt w then [0x54000000, w] else [w]) ++ [stop, stop, stop]
  (ws.take 4).flatMap fun x => bytesOf (BitVec.ofNat 32 x) 4

/-- A routine at the first word of core 0's microprogram store. -/
def probeRoutine : Routine :=
  Routine.start { op := .mcall { stop := true, guard := 0, leaf := 0 } 0, g := 0, ipc := 0, a := 0, b := 0, ga := [], fmode := 0,
                  seed := 0, sys := true, seq := 0, id := 0, parked := false }

/-- Context 0 of core 0 stands in system mode before the course, in a group whose code is that bundle. -/
def probeCourse (s : State) (w : Nat) : State :=
  let u : Group := { cluster := 0, lid := 0, index := 0, ctxs := [0], base := 0, size := 1024, slots := [0], vf := 0, part := 0,
                     code := probePc, codelen := 16, shape := 0, dead := false }
  let s1 := mwriteL { s with groups := tset s.groups 0 u } probePc (probeBundle w)
  let s2 := modCtx s1 0 fun c =>
    { c with phase := .resident, frozen := false, pc := probePc, mode := true, gid := 0, next := 0, bubble := false, hld := false }
  { modCore s2 0 fun k => { k with running := 0, yielded := none, frozenTo := 0, frzCnt := 0 } with turn := [(0, .contextSelect 0)] }

/-- A micro-op as its routine's micro-cycle issues it. -/
def probeMicro (s : State) (w : Nat) (i : Instr) : State :=
  { modCore s 0 fun k => { k with ustore := tset k.ustore 0 (BitVec.ofNat 32 w), run := some probeRoutine } with turn := [(0, i)] }

/-- The word as the next thing that step runs. -/
def probe (s : State) (w : Nat) : State :=
  let s1 : State := { s with
    inputs := []
    start := { s.start with powered := true }
    fab := { s.fab with arrived := [] } }
  match decodeSyl (if isBrt w then .tree 0 0 0 0 0 else .none) w with
  | .ok _ => probeCourse s1 w
  | .error _ =>
    match decodeMicro w with
    | some i => probeMicro s1 w i
    | none => probeCourse s1 w

/-- The event that ends a time without power. -/
def powersOn : Instr → Bool
  | .coldStart _ => true
  | _ => false

end Sys2Proof.Machine
end

