-- ==== Sys2Proof/Machine/Step.lean ====
section
/-!
DEFINITION. One step of the module: the next input from outside, else the next message that has arrived, else the next event
of the running core cycle, else the next timed event that is due, else the beginning of the next core cycle (log 4).
-/
namespace Sys2Proof.Machine

/-- An input from outside the module. -/
def stepInput (i : Instr) (s : State) : Host.Outcome State Fault Refusal :=
  if !external i then .refused .notAnInput
  else if s.start.powered || powersOn i then exec i s
  else .fault .poweredOff

/-- What the module does of its own accord. -/
def stepOwn (s : State) : Host.Outcome State Fault Refusal :=
  match s.fab.arrived with
  | m :: r => deliverMsg m { s with fab := { s.fab with arrived := r } }
  | [] =>
    match s.turn with
    | (core, i) :: r => exec i { s with turn := r, cur := core }
    | [] =>
      match s.agenda with
      | (t, i) :: r => if t ≤ s.clock then exec i { s with agenda := r } else .next (tick s)
      | [] => .next (tick s)

def step (s : State) : Host.Outcome State Fault Refusal :=
  match s.inputs with
  | i :: r => stepInput i { s with inputs := r }
  | [] => if s.start.powered then stepOwn s else .fault .poweredOff

/-- The word w placed so that the next step runs it (log 9): in a bundle before which a context stands, or in the microprogram
store at a running routine. -/
def State.withFetchWord (s : State) (_nbits w : Nat) : State := probe s w

end Sys2Proof.Machine
end

