-- ==== Sys2Proof/Certificates/Slice0/Obligations.lean ====
section
/-!
DEFINITION. The statements for the provers, and the words they are said in. A result is stated as the state that follows:
what a meaning does not name stays. Registers change when a result lands (R26): a syllable's statement gives the record in
flight, `ResultsLand` gives the register.
-/
namespace Sys2Proof.Claims
open Sys2Proof.Machine

/-! The words: X and V syllables. -/

/-- The value at the head of LDQ. -/
def queueHead (s : State) : VWord :=
  match (issuer s).ldq with
  | e :: _ => e.val
  | [] => 0

/-- A pop, where there is one, finds an entry that has arrived whole (R40, R240). -/
def popReady (q : Bool) (s : State) : Bool :=
  !q || match (issuer s).ldq with
    | e :: _ => e.filled && !e.failed
    | [] => false

/-- The state after the pop. -/
def afterPop (q : Bool) (s : State) : State := if q then modIssuer s fun c => { c with ldq := c.ldq.drop 1 } else s

/-- A push, where there is one, finds room (R41). -/
def roomFor (q : Bool) (s : State) : Bool := !q || decide ((issuer s).sdq.length < 16)

/-- The guard reads 1, the popped entry has arrived, SDQ has room. -/
def ready (p : Syl) (pop push : Bool) (s : State) : Bool := guardOn p s && popReady pop s && roomFor push s

def xrReady (p : Syl) (o : XR) (s : State) : Bool := ready p (o.qs || o.qb) o.qd s
/-- The operands of format XR: a register or the popped value's bits [63:0] (R106). -/
def srcA (o : XR) (s : State) : Word64 := if o.qs then (queueHead s).truncate 64 else (issuer s).rdS o.sa.val
def srcB (o : XR) (s : State) : Word64 := if o.qb then (queueHead s).truncate 64 else (issuer s).rdS o.sb.val
/-- The value v on its way to sd, or to sdq, `lat` cycles on. -/
def xrNext (o : XR) (lat : Nat) (v : Word64) (s : State) : State :=
  deliver (afterPop (o.qs || o.qb) s) o.qd (dstS (issuer s) o.sd.val) (wide64 v) 1 lat 0

def xuReady (p : Syl) (o : XU) (s : State) : Bool := ready p o.qs o.qd s
def srcU (o : XU) (s : State) : Word64 := if o.qs then (queueHead s).truncate 64 else (issuer s).rdS o.sa.val
def xuNext (o : XU) (v : Word64) (s : State) : State :=
  deliver (afterPop o.qs s) o.qd (dstS (issuer s) o.sd.val) (wide64 v) 1 1 0

/-- The lane generators after a V syllable: one step under RM = SR (R63). -/
def genAfter (s : State) : VWord :=
  if fmRM (issuer s).fmode == rmSR then stepGens (issuer s).gens else (issuer s).gens
/-- What a V syllable reads. -/
def vIn (qs : Bool) (va km : Nat) (s : State) : VIn :=
  { c := issuer s, a := if qs then queueHead s else (issuer s).rdV va, km := (issuer s).rdK km, m := (issuer s).fmode,
    r := genAfter s }
/-- No flag raised is one whose enable traps (R65). -/
def traps0 (s : State) (fl : BitVec 5) : Bool := fl &&& fmTE (issuer s).fmode == 0
/-- The state after a V syllable with result x. -/
def vNext (qs : Bool) (lat : Nat) (dst : VDst) (w : Word64) (x : VWord × BitVec 5) (s : State) : State :=
  let s1 := afterPop qs s
  let s2 := if fmRM (issuer s).fmode == rmSR then modIssuer s1 fun c => { c with gens := genAfter s } else s1
  deliver s2 dst.isSdq (dst.dest (issuer s)) (if dst.isSdq then x.1 &&& laneMask w else x.1) w lat x.2

/-- Format VR: ready, with a result that raises nothing that traps. -/
def vrReady (p : Syl) (o : VR) (x : VWord × BitVec 5) (s : State) : Bool := ready p o.qs o.qd s && traps0 s x.2
def vrIn (o : VR) (s : State) : VIn := vIn o.qs o.va.val o.km.val s
def vrDst (o : VR) : VDst := if o.qd then .sdq else .vec o.vd.val
def vrNext (o : VR) (lat : Nat) (x : VWord × BitVec 5) (s : State) : State :=
  vNext o.qs lat (vrDst o) ((issuer s).rdK o.km.val) x s
/-- The elements of type t in active lanes, each the value of f on the elements of va, vb and vd and the element's random
value. -/
def vrEach (t : VTy) (o : VR) (s : State) (f : Word32 → Word32 → Nat → Nat → Nat → Nat × BitVec 5) : VWord × BitVec 5 :=
  let x := vrIn o s
  let w := vtWidth t
  mapE w x.km fun e =>
    f x.m (rndE x.r w e) (elemOf x.a w e) (elemOf (x.c.rdV o.vb.val) w e) (elemOf (x.c.rdV o.vd.val) w e)

end Sys2Proof.Claims

open Sys2Proof Sys2Proof.Machine Sys2Proof.Claims

/-! The X unit. -/

/-- R109, R111: the wrapped sum and difference, the low and the high halves of products, the bitwise operations, and the shifts by
b[7:0], whose bits past 63 fall away; latencies of R108. -/
def Obligations.SumsProductsLogic : Prop :=
  ∀ (p : Syl) (o : XR) (s : State), xrReady p o s = true →
    exec (.add p o) s = .next (xrNext o 1 (srcA o s + srcB o s) s) ∧
    exec (.sub p o) s = .next (xrNext o 1 (srcA o s - srcB o s) s) ∧
    exec (.mul p o) s = .next (xrNext o 3 (srcA o s * srcB o s) s) ∧
    exec (.mulh p o) s = .next (xrNext o 3 (BitVec.ofInt 64 ((srcA o s).toInt * (srcB o s).toInt / 2 ^ 64)) s) ∧
    exec (.mulhU p o) s = .next (xrNext o 3 (BitVec.ofNat 64 ((srcA o s).toNat * (srcB o s).toNat / 2 ^ 64)) s) ∧
    let a := srcA o s
    let b := srcB o s
    let n := b.toNat % 256
    exec (.and p o) s = .next (xrNext o 1 (a &&& b) s) ∧ exec (.or p o) s = .next (xrNext o 1 (a ||| b) s) ∧
    exec (.xor p o) s = .next (xrNext o 1 (a ^^^ b) s) ∧ exec (.andn p o) s = .next (xrNext o 1 (a &&& ~~~ b) s) ∧
    exec (.shl p o) s = .next (xrNext o 1 (BitVec.ofNat 64 (a.toNat * 2 ^ n)) s) ∧
    exec (.shr p o) s = .next (xrNext o 1 (BitVec.ofNat 64 (a.toNat / 2 ^ n)) s) ∧
    exec (.sra p o) s = .next (xrNext o 1 (BitVec.ofInt 64 (a.toInt / 2 ^ n)) s) ∧
    exec (.rotl p o) s = .next (xrNext o 1 ((a <<< (n % 64)) ||| (a >>> (64 - n % 64))) s)

/-- R110: division by zero answers all ones and the dividend; else the quotient toward zero and its remainder, the most
negative number by -1 being itself with remainder 0. -/
def Obligations.Divisions : Prop :=
  ∀ (p : Syl) (o : XR) (s : State), xrReady p o s = true →
    (srcB o s = 0 →
      exec (.div p o) s = .next (xrNext o 34 (-1) s) ∧ exec (.divU p o) s = .next (xrNext o 34 (-1) s) ∧
      exec (.rem p o) s = .next (xrNext o 34 (srcA o s) s) ∧ exec (.remU p o) s = .next (xrNext o 34 (srcA o s) s)) ∧
    (srcB o s ≠ 0 →
      (∃ q r : Word64, exec (.div p o) s = .next (xrNext o 34 q s) ∧ exec (.rem p o) s = .next (xrNext o 34 r s) ∧
        (srcB o s = -1 ∧ srcA o s = BitVec.ofNat 64 (2 ^ 63) → q = srcA o s ∧ r = 0) ∧
        (¬ (srcB o s = -1 ∧ srcA o s = BitVec.ofNat 64 (2 ^ 63)) →
          q.toInt * (srcB o s).toInt + r.toInt = (srcA o s).toInt ∧ r.toInt.natAbs < (srcB o s).toInt.natAbs ∧
          (r = 0 ∨ (r.toInt < 0 ↔ (srcA o s).toInt < 0)))) ∧
      (∃ q r : Word64, exec (.divU p o) s = .next (xrNext o 34 q s) ∧ exec (.remU p o) s = .next (xrNext o 34 r s) ∧
        q.toNat * (srcB o s).toNat + r.toNat = (srcA o s).toNat ∧ r.toNat < (srcB o s).toNat))

/-- R112: EXTB and DEPB move the field of b[14:8] bits, at most 64, at b[5:0]; what lies past bit 63 reads as zero and is
not written. -/
def Obligations.FieldsMove : Prop :=
  ∀ (p : Syl) (o : XR) (s : State), xrReady p o s = true →
    let a := srcA o s
    let b := srcB o s
    let d := (issuer s).rdS o.sd.val
    let pos := b.toNat % 64
    let len := min (b.toNat / 256 % 128) 64
    exec (.extb p o) s = .next (xrNext o 1 (BitVec.ofNat 64 (a.toNat / 2 ^ pos % 2 ^ len)) s) ∧
    (∃ v : Word64, exec (.extbS p o) s = .next (xrNext o 1 v s) ∧
      ∀ i : Fin 64, v.getLsbD i.val = (len != 0 && a.getLsbD (pos + min i.val (len - 1)))) ∧
    (∃ v : Word64, exec (.depb p o) s = .next (xrNext o 1 v s) ∧
      ∀ i : Fin 64, v.getLsbD i.val =
        if pos ≤ i.val ∧ i.val < pos + len then a.getLsbD (i.val - pos) else d.getLsbD i.val)

/-- R109: minimum and maximum, signed and unsigned, LEA, and the one-operand forms; R115: SEL by predicate n; R111, R113, R114: the
immediate forms and MOV. -/
def Obligations.ChoicesImmediatesMoves : Prop :=
  (∀ (p : Syl) (o : XR) (s : State), xrReady p o s = true →
    let a := srcA o s
    let b := srcB o s
    exec (.min p o) s = .next (xrNext o 1 (BitVec.ofInt 64 (min a.toInt b.toInt)) s) ∧
    exec (.max p o) s = .next (xrNext o 1 (BitVec.ofInt 64 (max a.toInt b.toInt)) s) ∧
    exec (.minU p o) s = .next (xrNext o 1 (BitVec.ofNat 64 (min a.toNat b.toNat)) s) ∧
    exec (.maxU p o) s = .next (xrNext o 1 (BitVec.ofNat 64 (max a.toNat b.toNat)) s) ∧
    (∀ n : Fin 4, exec (.lea p n o) s = .next (xrNext o 1 (a + b * BitVec.ofNat 64 (2 ^ n.val)) s)) ∧
    (∀ n : Fin 16, exec (.sel p n o) s = .next (xrNext o 1 (if (issuer s).rdP n.val then a else b) s))) ∧
  (∀ (p : Syl) (o : XU) (s : State), xuReady p o s = true →
    let a := srcU o s
    exec (.abs p o) s = .next (xuNext o (BitVec.ofNat 64 a.toInt.natAbs) s) ∧
    (∃ n : Nat, exec (.clz p o) s = .next (xuNext o (BitVec.ofNat 64 n) s) ∧ n ≤ 64 ∧ a.toNat < 2 ^ (64 - n) ∧
      (n < 64 → a.getLsbD (63 - n) = true)) ∧
    exec (.popc p o) s =
      .next (xuNext o (BitVec.ofNat 64 ((List.range 64).countP fun i => a.getLsbD i)) s)) ∧
  (∀ (p : Syl) (o : XI) (s : State), guardOn p s = true →
    exec (.addi p o) s = .next (putS s o.sd.val ((issuer s).rdS o.sa.val + BitVec.ofInt 64 o.imm) 1)) ∧
  (∀ (p : Syl) (o : XM) (s : State), guardOn p s = true →
    exec (.movi p o) s = .next (putS s o.sd.val (BitVec.ofInt 64 o.imm) 1)) ∧
  (∀ (p : Syl) (o : XH) (s : State), guardOn p s = true →
    let a := (issuer s).rdS o.sa.val
    let n := o.n.val
    exec (.shlImm p o) s = .next (putS s o.sd.val (BitVec.ofNat 64 (a.toNat * 2 ^ n)) 1) ∧
    exec (.shrImm p o) s = .next (putS s o.sd.val (BitVec.ofNat 64 (a.toNat / 2 ^ n)) 1) ∧
    exec (.sraImm p o) s = .next (putS s o.sd.val (BitVec.ofInt 64 (a.toInt / 2 ^ n)) 1) ∧
    exec (.rotlImm p o) s = .next (putS s o.sd.val ((a <<< n) ||| (a >>> (64 - n))) 1)) ∧
  (∀ (p : Syl) (o : XV) (s : State), ready p o.qs o.qd s = true →
    exec (.mov p o) s = .next (deliver (afterPop o.qs s) o.qd (classDest (issuer s) o.dc.val o.d.val)
      (wide64 (if o.qs then (queueHead s).truncate 64 else readClass (issuer s) o.sc.val o.s.val)) 1 1 0))

/-- R88, R116 to R120: comparisons under the predicate mode, truth tables, PSET, the counts of a mask. -/
def Obligations.PredicatesAndMasks : Prop :=
  ∀ (p : Syl) (s : State), guardOn p s = true →
    let c := issuer s
    (∀ o : XC,
      let r := condX o.cond.val (c.rdS o.sa.val) (c.rdS o.sb.val)
      exec (.cmp p o) s = .next (putP s o.pd.val
        (if o.pm = 0 then r else if o.pm = 1 then c.rdP o.pd.val && r else c.rdP o.pd.val || r) 1)) ∧
    (∀ o : XK, exec (.cmpi p o) s =
      .next (putP s o.pd.val (condX o.cond.val (c.rdS o.sa.val) (BitVec.ofInt 64 o.imm)) 1)) ∧
    (∀ o : XL, exec (.plog p o) s = .next (putP s o.d.val
      (o.fn.val.testBit (2 * (c.rdP o.a.val).toNat + (c.rdP o.b.val).toNat)) 1)) ∧
    (∀ o : XP, exec (.pset p o) s = .next (putP s o.d.val o.v 1)) ∧
    (∀ o : XL, ∃ v : Word64, exec (.klog p o) s = .next (putK s o.d.val v 1) ∧
      ∀ i : Fin 64, v.getLsbD i.val =
        o.fn.val.testBit (2 * ((c.rdK o.a.val).getLsbD i.val).toNat + ((c.rdK o.b.val).getLsbD i.val).toNat)) ∧
    (∀ o : XQ, exec (.kpopc p o) s =
      .next (putS s o.sd.val (BitVec.ofNat 64 ((List.range 64).countP fun i => (c.rdK o.ka.val).getLsbD i)) 1)) ∧
    (∀ o : XQ, ∃ n : Nat, exec (.kfirst p o) s = .next (putS s o.sd.val (BitVec.ofNat 64 n) 1) ∧ n ≤ 64 ∧
      (∀ i : Nat, i < n → (c.rdK o.ka.val).getLsbD i = false) ∧ (n < 64 → (c.rdK o.ka.val).getLsbD n = true))

/-! The V unit. -/

/-- R124 to R126, R128: arithmetic on the elements of active lanes, once the operands are there and nothing traps. -/
def Obligations.VectorArithmetic : Prop :=
  ∀ (p : Syl) (t : VTy) (o : VR) (s : State),
    let add := vrEach t o s fun m r a b _ => addE t o.md m r a b
    let sub := vrEach t o s fun m r a b _ => subE t o.md m r a b
    let mul := vrEach t o s fun m r a b _ => mulE t o.md m r a b
    let mn := vrEach t o s fun m _ a b _ => minMaxE t false m a b
    let mx := vrEach t o s fun m _ a b _ => minMaxE t true m a b
    let fma := vrEach t o s fun m r a b d => fFma (vtCode t) m r o.md false a b d
    let fmaNa := vrEach t o s fun m r a b d => fFma (vtCode t) m r o.md true a b d
    let scl := vrEach t o s fun m r a b _ => fScale (vtCode t) m r a (iVal true (vtWidth t) b)
    let abs := vrEach t o s fun _ _ a b _ =>
      if vtFloat t then (a % 2 ^ (vtWidth t - 1), 0) else intE t o.md (fun x _ => x.natAbs) a b
    (vrReady p o add s = true → exec (.vadd p t o) s = .next (vrNext o 2 add s)) ∧
    (vrReady p o sub s = true → exec (.vsub p t o) s = .next (vrNext o 2 sub s)) ∧
    (vrReady p o mul s = true → exec (.vmul p t o) s = .next (vrNext o 2 mul s)) ∧
    (vrReady p o mn s = true → exec (.vmin p t o) s = .next (vrNext o 2 mn s)) ∧
    (vrReady p o mx s = true → exec (.vmax p t o) s = .next (vrNext o 2 mx s)) ∧
    (vrReady p o fma s = true → exec (.vfma p t o) s = .next (vrNext o 4 fma s)) ∧
    (vrReady p o fmaNa s = true → exec (.vfmaNa p t o) s = .next (vrNext o 4 fmaNa s)) ∧
    (vrReady p o scl s = true → exec (.vscale p t o) s = .next (vrNext o 2 scl s)) ∧
    (vrReady p o abs s = true → exec (.vabs p t o) s = .next (vrNext o 2 abs s))

/-- R129: bitwise operations, moves and shifts raise no flag; VSEL writes every lane, va where km is 1 and vb elsewhere. -/
def Obligations.VectorBits : Prop :=
  ∀ (p : Syl) (o : VR) (s : State), ready p o.qs o.qd s = true →
    let x := vrIn o s
    let b := x.c.rdV o.vb.val
    let w := if o.md then 16 else 32
    let sh (k : Nat) : VWord × BitVec 5 := mapE w x.km fun e => (shiftE k w (elemOf x.a w e) (elemOf b w e), 0)
    exec (.vand p o) s = .next (vrNext o 2 (x.a &&& b, 0) s) ∧ exec (.vor p o) s = .next (vrNext o 2 (x.a ||| b, 0) s) ∧
    exec (.vxor p o) s = .next (vrNext o 2 (x.a ^^^ b, 0) s) ∧ exec (.vmov p o) s = .next (vrNext o 2 (x.a, 0) s) ∧
    exec (.vsel p o) s = .next (vNext o.qs 2 (vrDst o) (-1) (mergeLanes x.km b x.a, 0) s) ∧
    ((sh 0).2 = 0 ∧ exec (.vshl p o) s = .next (vrNext o 2 (sh 0) s)) ∧
    ((sh 1).2 = 0 ∧ exec (.vshr p o) s = .next (vrNext o 2 (sh 1) s)) ∧
    ((sh 2).2 = 0 ∧ exec (.vsra p o) s = .next (vrNext o 2 (sh 2) s))

/-- R127, R130, R131: comparison into a mask, whose flags are those of the active lanes' elements together, conversion, and the four
functions. -/
def Obligations.VectorCompareConvert : Prop :=
  (∀ (p : Syl) (t : VTy) (o : VK) (s : State),
    let x := vIn o.qs o.va.val o.km.val s
    let b := x.c.rdV o.vb.val
    let n := 32 / vtWidth t
    let el (i : Nat) : List (Bool × BitVec 5) := (List.range n).map fun j =>
      cmpE t x.m o.cond.val (elemOf x.a (vtWidth t) (n * i + j)) (elemOf b (vtWidth t) (n * i + j))
    ready p o.qs false s = true →
    (∀ i : Fin 64, x.km.getLsbD i.val = true → ∀ y ∈ el i.val, traps0 s y.2 = true) →
    let active := (List.range 64).filter fun i => x.km.getLsbD i
    let fl : BitVec 5 := (active.flatMap el).foldl (fun f y => f ||| y.2) 0
    ∃ v : VWord, exec (.vcmp p t o) s = .next (vNext o.qs 2 (.mask o.kd.val) 1 (v, fl) s) ∧
      ∀ i : Fin 64, v.getLsbD i.val = (x.km.getLsbD i.val && (el i.val).all (·.1))) ∧
  (∀ (p : Syl) (o : VX) (s : State),
    let x := vIn o.qs o.va.val o.km.val s
    let w := 32 / perLane o.tf.val
    let y := mapE w x.km fun e =>
      if e < 64 * min (perLane o.ff.val) (perLane o.tf.val) then
        let z := convert o.ff.val o.tf.val x.m (rndE x.r w e) (cvtRead o.ff.val x.a e)
        (cvtPlace o.tf.val z.1, z.2)
      else (0, 0)
    ready p o.qs false s = true → traps0 s y.2 = true →
    exec (.vcvt p o) s = .next (vNext o.qs 3 (.vec o.vd.val) x.km y s)) ∧
  (∀ (p : Syl) (o : VR) (s : State),
    let f (k : Nat) : VWord × BitVec 5 := vrEach .f32 o s fun m r a _ _ => fFunc k m r a
    (vrReady p o (f 0) s = true → exec (.vrcp p o) s = .next (vrNext o 8 (f 0) s)) ∧
    (vrReady p o (f 1) s = true → exec (.vrsq p o) s = .next (vrNext o 8 (f 1) s)) ∧
    (vrReady p o (f 2) s = true → exec (.vexp2 p o) s = .next (vrNext o 8 (f 2) s)) ∧
    (vrReady p o (f 3) s = true → exec (.vlog2 p o) s = .next (vrNext o 8 (f 3) s)))

/-- R134: lane movement. Register and lane numbers of 32 and above come from MOD, QD or QS as the instruction has it. -/
def Obligations.VectorMoves : Prop :=
  ∀ (p : Syl) (o : VR) (s : State),
    let c := issuer s
    let nb := (if o.md then 32 else 0) + o.vb.val
    (ready p o.qs o.qd s = true →
      exec (.vperm p o) s =
        .next (vrNext o 2 (mapL fun i => lane (vrIn o s).a (lane (c.rdV o.vb.val) i % 64), 0) s) ∧
      exec (.vbcast p o) s = .next (vrNext o 2 (mapL fun _ => (c.rdS nb).toNat % 2 ^ 32, 0) s) ∧
      exec (.vrot p o) s = .next (vrNext o 2 (mapL fun i => lane (vrIn o s).a ((i + nb) % 64), 0) s) ∧
      exec (.viota p o) s = .next (vrNext o 2
        (mapL fun i => (List.range i).countP fun j => (c.rdK o.km.val).getLsbD j, 0) s) ∧
      exec (.vpack p o) s = .next (vrNext o 2 (mapL fun i =>
        if i < 32 then lane (vrIn o s).a (i + if o.md then 32 else 0)
        else lane (c.rdV o.vb.val) (i - 32 + if o.md then 32 else 0), 0) s) ∧
      exec (.vunpk p o) s = .next (vrNext o 2 (vecOf ((List.range 64).map fun j =>
        elemOf (vrIn o s).a 16 (2 * j + if o.md then 1 else 0)) 16, 0) s)) ∧
    (ready p o.qs false s = true →
      exec (.vext p o) s = .next (vNext o.qs 2 (.scalar ((if o.qd then 32 else 0) + o.vd.val)) 1
        (BitVec.ofNat 2048 (lane (vrIn o s).a nb), 0) s)) ∧
    (ready p false false s = true →
      exec (.vins p o) s = .next (vNext false 2 (.vec o.vd.val) (c.rdK o.km.val &&& BitVec.ofNat 64 (2 ^ nb))
        (mapL fun _ => (c.rdS ((if o.qs then 32 else 0) + o.va.val)).toNat % 2 ^ 32, 0) s))

namespace Sys2Proof.Claims

/-- The identities of R72, of sum and sum.sat (0, 1), max (2) and min (3). -/
def identity (t : VTy) (op : Nat) : Nat :=
  match t with
  | .f32 => if op < 2 then 0x80000000 else if op = 2 then 0xFF800000 else 0x7F800000
  | .f16 => if op < 2 then 0x8000 else if op = 2 then 0xFC00 else 0x7C00
  | .bf16 => if op < 2 then 0x8000 else if op = 2 then 0xFF80 else 0x7F80
  | .i32 => if op < 2 then 0 else if op = 2 then 0x80000000 else 0x7FFFFFFF
  | .ui32 => if op < 2 then 0 else if op = 2 then 0 else 0xFFFFFFFF
  | .i16 => if op < 2 then 0 else if op = 2 then 0x8000 else 0x7FFF
  | .ui16 => if op < 2 then 0 else if op = 2 then 0 else 0xFFFF
/-- The element that enters a reduction: of a lane that is off the identity. -/
def entering (t : VTy) (op : Nat) (x : VIn) (e : Nat) : Nat :=
  if x.km.getLsbD (e * vtWidth t / 32) then elemOf x.a (vtWidth t) e else identity t op
/-- Op of node i, or of the step that forms element i: the sum, wrapped or saturated, the maximum or the minimum. -/
def combining (t : VTy) (op : Nat) (x : VIn) (i a b : Nat) : Nat × BitVec 5 :=
  if op < 2 then addE t (op == 1) x.m (rndE x.r (vtWidth t) i) a b else minMaxE t (op == 2) x.m a b
/-- t[j][i] of R72's tree. -/
def treeNode (f : Nat → Nat → Nat → Nat × BitVec 5) (el : Nat → Nat) : Nat → Nat → Nat
  | 0, i => el i
  | j + 1, i => (f i (treeNode f el j (2 * i)) (treeNode f el j (2 * i + 1))).1
/-- The flags that the tree's nodes raise, n levels of them. -/
def treeFlags (f : Nat → Nat → Nat → Nat × BitVec 5) (el : Nat → Nat) (n : Nat) : BitVec 5 :=
  orAll ((List.range n).flatMap fun j => (List.range (2 ^ (n - 1 - j))).map fun i =>
    f i (treeNode f el j (2 * i)) (treeNode f el j (2 * i + 1)))
/-- out[i] of R73's prefix, out[0] given. -/
def prefixAt (f : Nat → Nat → Nat → Nat × BitVec 5) (el : Nat → Nat) (out0 : Nat) : Nat → Nat
  | 0 => out0
  | i + 1 => (f (i + 1) (prefixAt f el out0 i) (el (i + 1))).1

end Sys2Proof.Claims

/-- R72, R132: a reduction in a tree of 6 or 7 levels, its result element 0 and every other bit 0. R73, R133: a scan in element
order. R135: the packed dot product, of integers the sum of the products and the addend, wrapped or saturated. That element 0 of a scan is
delivered as it stands, or flushed under FTZ, is the model's choice (log 101), as is what `dotLane` raises beside a NaN (log 31). -/
def Obligations.VectorReductions : Prop :=
  ∀ (p : Syl) (t : VTy) (o : VR) (s : State),
    let x := vrIn o s
    let n := 2048 / vtWidth t
    let el := entering t (redOp o) x
    let f := combining t (redOp o) x
    let levels := if vtWidth t = 32 then 6 else 7
    (ready p o.qs false s = true → traps0 s (treeFlags f el levels) = true →
      exec (.vred p t o) s = .next (vNext o.qs 6 (.vec o.vd.val) (-1)
        (BitVec.ofNat 2048 (treeNode f el levels 0), treeFlags f el levels) s)) ∧
    (let h := if t = .f32 ∧ fmFTZ x.m = true ∧ el 0 / 2 ^ 23 % 256 = 0 then el 0 / 2 ^ 31 * 2 ^ 31 else el 0
     let fl := orAll ((List.range (n - 1)).map fun i => f (i + 1) (prefixAt f el h i) (el (i + 1)))
     ready p o.qs false s = true → traps0 s fl = true →
      exec (.vscan p t o) s =
        .next (vNext o.qs 6 (.vec o.vd.val) (-1) (vecOf ((List.range n).map (prefixAt f el h)) (vtWidth t), fl) s)) ∧
    (∀ src : Fin 8,
      let y := vrEach .f32 o s fun m r a b d => dotLane src.val o.md m r a b d
      vrReady p o y s = true → exec (.vdot p src o) s = .next (vrNext o 4 y s)) ∧
    (∀ (src : Fin 8) (sat : Bool) (m r : Word32) (a b d : Nat), src.val = 2 ∨ src.val = 3 ∨ src.val = 6 ∨ src.val = 7 →
      let w := if src.val = 2 ∨ src.val = 3 then 8 else 16
      let sg := decide (src.val = 2 ∨ src.val = 6)
      let el (v j : Nat) : Int := if sg then (BitVec.ofNat w (v / 2 ^ (w * j))).toInt else (BitVec.ofNat w (v / 2 ^ (w * j))).toNat
      let sum := ((List.range (32 / w)).map fun j => el a j * el b j).sum +
        if sg then (BitVec.ofNat 32 d).toInt else ((BitVec.ofNat 32 d).toNat : Int)
      let lo : Int := if sg then -2 ^ 31 else 0
      let hi : Int := if sg then 2 ^ 31 - 1 else 2 ^ 32 - 1
      dotLane src.val sat m r a b d = ((BitVec.ofInt 32 (if sat then max lo (min hi sum) else sum)).toNat, 0))

/-! The B unit and the special registers. -/

/-- R138, R140, R143, R153: NOP; jumps and calls to a bundle or to the address in a register, whose course issues 3 cycles
on; EXIT; YIELD. -/
def Obligations.JumpsAndEnds : Prop :=
  ∀ (p : Syl) (s : State), guardOn p s = true →
    exec (.nop p) s = .next s ∧
    (∀ off : Int, exec (.jmp p off) s = .next (branchTo s (bundleAt s off) false)) ∧
    (∀ sa : Fin 64, exec (.jmpi p sa) s = .next (branchTo s ((issuer s).rdS sa.val).toNat false)) ∧
    (∀ sa : Fin 64, exec (.ret p sa) s = .next (branchTo s ((issuer s).rdS sa.val).toNat false)) ∧
    (∀ (sd : Fin 64) (off : Int), exec (.call p sd off) s =
      .next (branchTo (putS s sd.val (BitVec.ofNat 64 s.iss.next) 1) (bundleAt s off) false)) ∧
    (∀ (o : BC), exec (.brc p o) s =
      .next (if (issuer s).rdP o.pc.val = o.v then branchTo s (bundleAt s o.off) false else s)) ∧
    exec (.exit p) s = .next (exitContext s s.iss.g) ∧
    exec (.yield p) s = .next (modCore s (coreOf s.iss.g) fun k => { k with yielded := some s.iss.g })

/-- R33, R136: a taken branch makes the target the next course, 4-byte aligned below 2^57, 3 cycles on, or 1 for a near LOOP, and changes
nothing else of the machine. R31, R139: a BRT takes the target of its tree's outcome, outcome 4 being the fall through. -/
def Obligations.Branches : Prop :=
  (∀ (s : State) (target : Nat) (near : Bool),
     let t := branchTo s target near
     let c := getCtx t s.iss.g
     c.pc = target % 2 ^ 57 / 4 * 4 ∧ c.next = localTime s (coreOf s.iss.g) + (if near then 1 else 3) ∧
     { c with pc := (issuer s).pc, next := (issuer s).next, bubble := (issuer s).bubble } = issuer s ∧
     (∀ g, g ≠ s.iss.g → getCtx t g = getCtx s g) ∧ { t with ctxs := s.ctxs } = s) ∧
  (∀ (p : Syl) (o : BT) (s : State), guardOn p s = true →
    let n := treeOutcome o.shape.val ((issuer s).rdP o.t0.val) ((issuer s).rdP o.t1.val) ((issuer s).rdP o.t2.val)
      ((issuer s).rdP o.t3.val)
    exec (.brt p o) s = .next (if h : n < 4 then
      branchTo s (bundleAt s ([o.l0, o.l1, o.l2, o.l3][n]'(by simpa using h))) false else s)) ∧
  (∀ t0 t1 t2 t3 : Bool, treeOutcome 0 t0 t1 t2 t3 = ([t0, t1, t2, t3].findIdx fun x => x) ∧
    treeOutcome 1 t0 t1 t2 t3 = (if t0 then (if t1 then 0 else 1) else (if t2 then 2 else (if t3 then 3 else 4))) ∧
    treeOutcome 2 t0 t1 t2 t3 = (if t0 then (if t1 then 0 else 1) else (if t2 then 2 else 3)) ∧
    treeOutcome 3 t0 t1 t2 t3 = (if t0 then (if t1 then 0 else (if t2 then 1 else 2)) else (if t3 then 3 else 4)))

/-- R36, R141: while EIX + 1 is below ITR + STG - 1 LOOP counts, rotates, marks whether an iteration begins, and branches;
at equality it counts, rotates, clears the rotating predicates and falls through; R142: what LSET sets. -/
def Obligations.Loops : Prop :=
  ∀ (p : Syl) (s : State), guardOn p s = true →
    let c := issuer s
    let counted := putSr (putSr s 7 (c.eix + 1)) 3 ((c.rot + 1) % 16)
    (∀ off : Int,
      ((c.eix : Int) + 1 < (c.itr : Int) + c.stg - 1 → exec (.loop p off) s =
        .next (branchTo (putPhysP counted (physP ((c.rot + 1) % 16) 8) (decide (c.eix + 1 < c.itr))) (bundleAt s off)
          (decide (-16 ≤ off ∧ off ≤ 0)))) ∧
      ((c.eix : Int) + 1 = (c.itr : Int) + c.stg - 1 → exec (.loop p off) s =
        .next ((List.range 8).foldl (fun s j => putPhysP s (physP ((c.rot + 1) % 16) (8 + j)) false) counted)) ∧
      ((c.itr : Int) + c.stg - 1 < (c.eix : Int) + 1 → exec (.loop p off) s = .next s)) ∧
    (∀ (sa : Fin 64) (sm : Fin 8), exec (.lset p sa sm) s =
      .next ((List.range 7).foldl (fun s j => putP s (9 + j) false 1)
        (putP (putSr (putSr (putSr s 1 ((c.rdS sa.val).toNat % 2 ^ 32)) 2 (sm.val + 1)) 7 0) 8
          (decide (0 < (c.rdS sa.val).toNat % 2 ^ 32)) 1)))

/-- R339, R347: in system mode, or in user mode on what R339 lets it name, MFSR reads the register as it stands and MTSR
writes it a cycle on, PC by a branch; else both take a permission trap. -/
def Obligations.SpecialRegisterAccess : Prop :=
  ∀ (p : Syl) (o : XS) (s : State), guardOn p s = true →
    ((system s || srUser o.srn false) = true → exec (.mfsr p o) s = .next (putS s o.s.val (srRead s o.srn) 1)) ∧
    ((system s || srUser o.srn false) = false → exec (.mfsr p o) s = trapNow s 0x05 0) ∧
    ((system s || srUser o.srn true) = true →
      (o.srn = 0 → exec (.mtsr p o) s = .next (branchTo s ((issuer s).rdS o.s.val).toNat false)) ∧
      (o.srn ≠ 0 → exec (.mtsr p o) s = .next (emit s (.sr o.srn) (wide64 ((issuer s).rdS o.s.val)) 1 1 0))) ∧
    ((system s || srUser o.srn true) = false → exec (.mtsr p o) s = trapNow s 0x05 0)

/-- R344, R345: the entry of a precise trap, in a context with TVEC not 0 and IN = 0, at a boundary at which nothing is
due: what is saved, the mode, where the pc goes, what is held; all else of the context, and every other context, stays. R346:
at a boundary with IN = 0, past the bubbles of a branch (log 93), at which the next course traps not itself, the oldest
asynchronous trap is taken, an undelivered engine fault as cause 0x10 with what it left in APINFO. With TVEC = 0, or a precise trap with
IN = 1, the context is frozen at the boundary instead and event 0x01, or 0x02 with IN = 1, carries the cause. -/
def Obligations.TrapEntry : Prop :=
  (∀ (s : State) (g cause pc next : Nat) (info : Word64), (getCtx s g).tvec ≠ 0 → (getCtx s g).inh = false →
     (∀ f ∈ (getCtx s g).flight, localTime s (coreOf g) < f.due) →
     let c := getCtx s g
     let now := localTime s (coreOf g)
     getCtx (takeTrap s g cause info false pc next) g =
       { c with
         tpc := pc, tnext := next, tcause := BitVec.ofNat 64 cause, tinfo := info, pmode := c.mode, mode := true, inh := true
         hld := true, pc := c.tvec / 4 * 4, next := now + 3, bubble := false, trapAt := c.scyc, flight := []
         held := c.held ++ c.flight.map fun f => { f with due := f.due - now, trap := true }
         laq := c.laq.map fun r => { r with trap := true } } ∧
     (∀ x, x ≠ g → getCtx (takeTrap s g cause info false pc next) x = getCtx s x)) ∧
  (∀ (s : State) (g cause pc next : Nat) (info : Word64) (async : Bool),
     let c := getCtx s g
     let now := localTime s (coreOf g)
     let stopped := setCtx s g { c with pc := pc, next := now, bubble := false }
     let t := takeTrap s g cause info async pc next
     c.tvec = 0 ∨ (async = false ∧ c.inh = true) →
     t = postCtx (freezeNow stopped g) g (if c.inh then 0x02 else 0x01) (BitVec.ofNat 64 (cause + if async then 256 else 0)) info ∧
     (c.frozen = false → c.phase = .resident → (∀ f ∈ c.flight, now < f.due) →
       getCtx t g = { c with pc := pc, next := 0, bubble := false, frozen := true, flight := [],
                             held := c.held ++ c.flight.map fun f => { f with due := f.due - now, trap := false } })) ∧
  (∀ (g : Nat) (s : State),
     let c := getCtx s g
     let pc := firstOf s g c.pc
     c.inh = false → coreFrozen s (coreOf g) = false → mayIssue s g = true → (∀ t, tryCourse s g ≠ .trap t) →
     (∀ cause info r, c.apq = (cause, info) :: r →
       exec (.asyncTrapEntry g) s = .next (takeTrap (setCtx s g { c with apq := r }) g cause info true pc pc)) ∧
     (c.apq = [] → c.undel ≠ 0 →
       exec (.asyncTrapEntry g) s = .next (takeTrap (setCtx s g { c with undel := 0, apinfo := 0 }) g 0x10 c.apinfo true pc pc)))

/-- R341, R345, R347, R348: TRAP takes trap 9 with its code; ERET restores the mode, which of a steward context stays system mode, the
pc and what was held, once nothing earlier is in flight; HALT freezes at the next boundary and posts event 3, whose word for the PC is
the HALT's own (log 42); in user mode ERET and HALT take a permission trap; R371: TRIG, in system mode or with UTRIG = 1; else it does
nothing. -/
def Obligations.SystemBranches : Prop :=
  ∀ (p : Syl) (s : State), guardOn p s = true →
    let c := issuer s
    (∀ code : Fin 256, exec (.trap p code) s = trapNow s 0x09 (BitVec.ofNat 64 code.val)) ∧
    (system s = true → (c.flight.take s.iss.old).isEmpty = true →
      let d := eretCtx c (isSteward s.iss.g) (localTime s (coreOf s.iss.g))
      exec (.eret p) s = .next (setCtx s s.iss.g d) ∧ d.mode = (isSteward s.iss.g || c.pmode) ∧ d.inh = false ∧ d.hld = false ∧
      d.pc = c.tpc / 4 * 4) ∧
    (system s = true → exec (.halt p) s =
      .next (postCtx { s with freezes := s.freezes ++ [s.iss.g] } s.iss.g 0x03 (BitVec.ofNat 64 s.iss.pc) 0)) ∧
    (system s = false → exec (.eret p) s = trapNow s 0x05 0 ∧ exec (.halt p) s = trapNow s 0x05 0) ∧
    (∀ n : Fin 256,
      let d := dieOfCore (coreOf s.iss.g)
      let s1 := traceRec s s.iss.g 3 n.val s.iss.pc
      exec (.trig p n) s = .next (
        if system s = true ∨ (d < 4 ∧ rbit s (trccfg d) 2 = true) then
          (if d < 4 ∧ (rbit s (trccfg d) 8 = true ∨ rfld s (trccfg d) 9 8 = n.val) then trigger s1 d else s1)
        else s))

/-- R157: BARA marks an arrival, to be counted behind the requests pushed before it, and goes on; BAR arrives and waits, and
goes on when its phase is complete; BARW goes on unless an arrival stands in an open phase. `barAt`, by which a BAR that waits
remembers its arrival, is the model's (log 25). A slot that the group has not takes a bounds trap. -/
def Obligations.BarrierSyllables : Prop :=
  ∀ (p : Syl) (n : Fin 16) (s : State), guardOn p s = true →
    ((groupOf s s.iss.g).slots.length ≤ n.val →
      exec (.bar p n) s = trapFree s 0x03 ∧ exec (.bara p n) s = trapFree s 0x03 ∧ exec (.barw p n) s = trapFree s 0x03) ∧
    (n.val < (groupOf s s.iss.g).slots.length →
    let c := issuer s
    let arrived := modCtx s s.iss.g fun c =>
      { c with arrived := setField c.arrived n.val 1 1, uncounted := c.uncounted ++ [(n.val, c.reqSeq)] }
    (c.arrived.getLsbD n.val = false →
      exec (.bara p n) s = .next arrived ∧ exec (.barw p n) s = .next s ∧
      (c.barAt = some s.iss.pc → exec (.bar p n) s = .next (modCtx s s.iss.g fun c => { c with barAt := none })) ∧
      (c.barAt ≠ some s.iss.pc → exec (.bar p n) s =
        waitWith (modCtx arrived s.iss.g fun c => { c with barAt := some s.iss.pc }))) ∧
    (c.arrived.getLsbD n.val = true →
      exec (.bara p n) s = waitWith s ∧ exec (.barw p n) s = waitWith s ∧ exec (.bar p n) s = waitWith s))

/-! The A unit at issue. -/

/-- R237 to R239: once the guard reads 1, LAQ has room and every check is passed, a memory syllable pushes its request. -/
def Obligations.RequestsPushed : Prop :=
  ∀ (p : Syl) (s : State),
    let c := issuer s
    let hOf (i : Instr) : Option HWord := (aForm c i).h.map c.rdH
    let ok (i : Instr) : Prop :=
      guardOn p s = true → c.laq.length < 32 → chkAccess s s.iss.g i (aForm c i) ((hOf i).getD 0) = .ok →
        exec i s = .next (pushReq s i (aForm c i) (hOf i))
    (∀ (n : Fin 7) (o : AM), ok (.lda p n o)) ∧ (∀ (n : Fin 4) (o : AM), ok (.sta p n o)) ∧
    (∀ (w : Fin 4) (o : AM), ok (.ldv p w o) ∧ ok (.ldvs p w o) ∧ ok (.ldg p w o) ∧ ok (.stv p w o) ∧ ok (.stvs p w o) ∧
      ok (.stg p w o)) ∧
    (∀ o : AM, ok (.feset p o) ∧ ok (.fewait p o)) ∧
    (∀ (op : Fin 11) (o : AT), ok (.amo32 p op o) ∧ ok (.amo64 p op o) ∧ ok (.amos32 p op o) ∧ ok (.amos64 p op o)) ∧
    (∀ (n : Fin 3) (o : AT), ok (.cas p n o)) ∧
    (∀ o : AY, ok (.acqX p o) ∧ ok (.acqSh p o) ∧ ok (.acqEv p o) ∧ ok (.relUn p o) ∧ ok (.relPost p o)) ∧
    (∀ o : AP, ok (.pcmdAddI32 p o) ∧ ok (.pcmdAddF32 p o) ∧ ok (.pcmdAxpyF32 p o) ∧ ok (.pcmdMaxF32 p o) ∧
      ok (.pcmdCvtBf16 p o) ∧ ok (.pcmdFill p o) ∧ ok (.pcmdCopy p o) ∧ ok (.pcmdAcc p o))

/-- R245 to R249, R257 to R259: the bases, the handles, BIND and the fences at issue. -/
def Obligations.BasesHandlesFences : Prop :=
  ∀ (p : Syl) (s : State), guardOn p s = true →
    let c := issuer s
    let none' : AForm := { h := none, base := 0, off := 0, step := 0, vx := none }
    (∀ o : AA,
      exec (.aadd p o) s = .next (emit s (dstB c o.bd.val)
        (wide64 ((c.rdB o.bd.val + c.rdS o.sa.val + BitVec.ofInt 64 o.imm) &&& 0x1FFFFF)) 1 1 0) ∧
      exec (.bset p o) s = .next (emit s (dstB c o.bd.val)
        (wide64 ((c.rdS o.sa.val + BitVec.ofInt 64 o.imm) &&& 0x1FFFFF)) 1 1 0)) ∧
    (∀ o : AH,
      exec (.hrel p o) s = .next (emit s (.h o.h.val) ((c.rdH o.h.val &&& ~~~ (1 : HWord)).zeroExtend 2048) 1 1 0) ∧
      ((isSteward s.iss.g || !rbit s (vmcfg (vfOf s s.iss.g)) 0) = true → exec (.trans p o) s =
        .next (emit s (.h o.h.val)
          ((translate s (isSteward s.iss.g) (vfOf s s.iss.g) ((c.rdS o.sa.val).toNat % 2 ^ 57)).zeroExtend 2048) 1 24 0)) ∧
      ((isSteward s.iss.g || !rbit s (vmcfg (vfOf s s.iss.g)) 0) = false → ∃ t, exec (.trans p o) s = .next t ∧
        tfind t.walks s.ids = some { g := s.iss.g, hn := o.h.val, va := (c.rdS o.sa.val).toNat % 2 ^ 57,
                                     vf := vfOf s s.iss.g, dead := false, res := 0 }) ∧
      (c.laq.length < 32 →
        exec (.hchk p o) s = .next (pushReq s (.hchk p o) (aForm c (.hchk p o)) (some (c.rdH o.h.val))) ∧
        (let h := c.rdH o.h.val
         let fm := aForm c (.preq p o)
         let a := (fm.base + fm.off).toNat
         (chkHandle o.h.val h a).and (chkPage h a 1) = .ok →
           exec (.preq p o) s = .next (if hBit h 3 then s else pushReq s (.preq p o) fm (some h))))) ∧
    (∀ o : AB,
      (o.m = false → exec (.bind p o) s = .next s) ∧
      (let fm := aForm c (.bind p o)
       let h := c.rdH o.base.val
       o.m = true → c.laq.length < 32 →
       chkBind s o h (fm.base + fm.off).toNat (c.rdS o.sl.val) (c.rdS o.so.val) = .ok →
         exec (.bind p o) s = .next (pushReq s (.bind p o) fm (some h)))) ∧
    (∀ o : AF, c.laq.length < 32 →
      exec (.fence p o) s = .next (pushReq s (.fence p o) none' none) ∧
      exec (.pfence p o) s = .next (pushReq s (.pfence p o) none' none))

/-! The M unit at issue. -/

namespace Sys2Proof.Claims

/-- A command entered in the launch engine of the issuing context's core (R307). -/
def lengEntered (op : Instr) (a b : Word64) (pkt : Flit) (s : State) : State :=
  modCore { s with ids := s.ids + 1 } (coreOf s.iss.g) fun k =>
    { k with leng := k.leng ++ [{ op := op, id := s.ids, g := s.iss.g, ipc := s.iss.pc, a := a, b := b, pkt := pkt,
                                  seq := (issuer s).reqSeq, sys := (issuer s).mode, stage := 0, w := 0, txn := 0 }] }
/-- A command entered in the matrix queue of the issuing context's core, with G0 to G7, FMODE and SEED as they stand
(R305, R322). -/
def mxEntered (op : Instr) (a b : Word64) (s : State) : State :=
  modCore { s with ids := s.ids + 1 } (coreOf s.iss.g) fun k =>
    { k with mq := k.mq ++ [{ op := op, g := s.iss.g, ipc := s.iss.pc, a := a, b := b, ga := (List.range 8).map (issuer s).rdG,
                              fmode := (issuer s).fmode, seed := (issuer s).seed, sys := (issuer s).mode,
                              seq := (issuer s).reqSeq, id := s.ids, parked := false }] }
/-- A launch engine with room. -/
def lengRoom (s : State) : Prop := (getCore s (coreOf s.iss.g)).leng.length < 4
/-- A matrix queue with room, on a core that has one. -/
def mqRoom (s : State) : Prop := isSteward s.iss.g = false ∧ (getCore s (coreOf s.iss.g)).mq.length < 8

end Sys2Proof.Claims

/-- R268, R308, R314, R316: a copy, a put and the multicasts capture their operands and enter their channel. -/
def Obligations.CopiesAndPutsIssued : Prop :=
  ∀ (p : Syl) (s : State), guardOn p s = true →
    let c := issuer s
    (∀ (va : Fin 32) (ch : Fin 4),
      let pkt := packetOf (c.rdV va.val)
      chanFull s (chanKey (coreOf s.iss.g) ch.val) = false → walkPending (namedHandle c pkt 17 1) = false →
      walkPending (namedHandle c pkt 18 2) = false →
      exec (.cpy p va ch) s = .next (issueCmd s ch.val fun x =>
        let y := { x with kind := 1, g := s.iss.g, pkt := pkt, src := namedHandle c pkt 17 1, dst := namedHandle c pkt 18 2,
                          buf := [] }
        { y with fault := copyFault y })) ∧
    (∀ (n : Fin 6) (o : MP),
      let a := c.rdS o.sa.val
      let w := c.rdS o.sb.val
      let put (kind : Nat) : State := issueCmd s (w.toNat % 4) fun x =>
        { x with kind := kind, g := s.iss.g, pkt := (w ++ a).zeroExtend 512, n := 8 * 2 ^ n.val,
                 data := c.rdV o.va.val &&& BitVec.ofNat 2048 (2 ^ (8 * (8 * 2 ^ n.val)) - 1) }
      chanFull s (chanKey (coreOf s.iss.g) (w.toNat % 4)) = false → a.toNat % (8 * 2 ^ n.val) = 0 →
      exec (.put p n o) s = .next (put 3) ∧ exec (.putm p n o) s = .next (put 4) ∧ exec (.putmO p n o) s = .next (put 5))

/-- R174, R270, R276, R307, R309 to R312, R317, R318: the launch engine's commands, the waits on channels, whose records have come into
their ring too, and on counters, whose word is read here in a slot of the core's (R184; log 110) or has come by a request, and which
VDRAIN may end (R366), publication. -/
def Obligations.EngineCommandsIssued : Prop :=
  ∀ (p : Syl) (s : State), guardOn p s = true →
    let c := issuer s
    let g := s.iss.g
    (lengRoom s →
      (∀ (va : Fin 32) (sa : Fin 64),
        exec (.cpyq p va sa) s = .next (lengEntered (.cpyq p va sa) (c.rdS sa.val) 0 (withKind (c.rdV va.val) 2) s) ∧
        exec (.lnch p va sa) s = .next (lengEntered (.lnch p va sa) (c.rdS sa.val) 0 (withKind (c.rdV va.val) 1) s)) ∧
      (∀ o : MS,
        let a := c.rdS o.sa.val
        let b := c.rdS o.sb.val
        (a.toNat % 8 = 0 →
          exec (.cadd p o) s = .next (lengEntered (.cadd p o) a b (comp3 a b 0) s) ∧
          exec (.cset p o) s = .next (lengEntered (.cset p o) a b (comp3 a b 0) s)) ∧
        (a.toNat / 16 % 2 ^ 12 = 0 → exec (.shdw p o) s = .next (lengEntered (.shdw p o) a b (comp3 a b 0) s)))) ∧
    (∀ chs : Fin 8,
      let l := if chs.val = 7 then [0, 1, 2, 3] else [chs.val]
      (l.all fun ch => chanDone s (chanKey (coreOf g) ch) (markOf s) true) = true → recordWaits s (coreOf g) l = false →
        exec (.drain p chs) s = .next s) ∧
    (∀ o : MS,
      let a := (c.rdS o.sa.val).toNat
      let w : Who := { g := g, vf := vfOf s g, sys := c.mode }
      let h := engHandle s w true a
      let pa := engPa s w h true false a
      let acquire (s : State) : State := if 4 ≤ o.sc.val then rdcAcquireAll s (dieOfCore (coreOf g)) w.vf else s
      (c.waitEnd = some (s.iss.pc, true) → exec (.cwait p o) s = .next s ∧ exec (.waitev p o) s = .next s) ∧
      (c.waitEnd ≠ some (s.iss.pc, true) → a % 8 = 0 → chkCounter s w h (engVa s w true a) a = .ok →
        (∀ (y : Nat) (s1 : State), pollFar s g h pa = none → slotFree s g = true → pollHere (takeSlot s g) w.vf h pa = (some y, s1) →
          (c.rdS o.sb.val).toNat ≤ y →
          exec (.cwait p o) s = .next (acquire s1) ∧ exec (.waitev p o) s = .next (acquire s1)) ∧
        (∀ (m : Option Nat) (l : Nat × BitVec 1024), pollFar s g h pa = some m →
          (c.codeLn.find? fun l => l.1 == pollKey m pa) = some l →
          (c.rdS o.sb.val).toNat ≤ natOfBytes ((List.range 8).map fun i => byteAt l.2 i) →
          let s1 := modIssuer s fun c => { c with codeLn := c.codeLn.filter fun l => l.1 != pollKey m pa }
          exec (.cwait p o) s = .next (acquire s1) ∧ exec (.waitev p o) s = .next (acquire s1)))) ∧
    (∀ o : MS,
      let i := (c.rdS o.sa.val).toNat
      let v := vfOf s g
      let obj := rfld s (twr v i + 24) 0 50
      i < 16 → lengRoom s → rbit s (twr v i) 0 = true →
      ([0, 1, 2, 3].all fun ch => chanDone s (chanKey (coreOf g) ch) (markOf s) false) = true →
      ((List.range 16).any fun j => badByte s (obj + j)) = false → holdOf s obj = 0 → hwReady s obj 16 = true →
      migFrame s obj = false →
      exec (.publ p o) s = .next (publish s v i obj))

/-- R277 to R279, R319 to R321: a stream is defined, subscribed to, fed and released. -/
def Obligations.StreamsIssued : Prop :=
  ∀ (p : Syl) (s : State), guardOn p s = true →
    let c := issuer s
    let g := s.iss.g
    (∀ sid : Fin 16, sid.val < (groupOf s g).slots.length →
      let x := issuerSlot s sid.val
      ((getStream s x).defined = false → exec (.sdef p sid) s =
        .next (modCtx (modStream s x fun _ => { Stream.free with gid := c.gid, defined := true, ctx := g }) g fun c =>
          c.setShadow (0x10 + sid.val) (BitVec.ofNat 64 (2 ^ 40))) ∧ exec (.srel p sid) s = .next s) ∧
      ((getStream s x).defined = true → (getStream s x).feeds = [] →
        ((getStream s x).subs.all fun u => u.count == (getStream s x).filled) = true → exec (.srel p sid) s =
        .next (modCtx (freeStream s x) (getStream s x).ctx fun c =>
          c.setShadow (0x10 + sid.val) (setField (c.rdShadow (0x10 + sid.val)) 40 1 0)))) ∧
    (∀ o : MU, o.sid.val < (groupOf s g).slots.length →
      let w := (c.rdS o.sa.val).toNat
      let x := issuerSlot s o.sid.val
      let s1 := endSub s g o.pt.val
      0 < w → w < 256 → (getStream s x).defined = true → (getStream s x).subs.length < 8 →
      exec (.ssub p o) s =
        .next (modCtx (modStream s1 x fun u =>
            { u with subs := u.subs ++ [{ g := g, port := o.pt.val, window := w, count := (getStream s1 x).low }] }) g
          fun c => c.setShadow (8 + o.pt.val) (subWord o.sid.val w (getStream s1 x).low))) ∧
    (∀ o : MF, o.sid.val < (groupOf s g).slots.length →
      let pkt := packetOf (c.rdV o.va.val)
      let x := issuerSlot s o.sid.val
      let k := chanKey (coreOf g) o.ch.val
      (getStream s x).defined = true → chanFull s k = false → walkPending (namedHandle c pkt 17 1) = false →
      walkPending (namedHandle c pkt 18 2) = false →
      ∃ t, exec (.sfeed p o) s = .next (askDone t k s.ids) ∧ (getStream t x).feeds = (getStream s x).feeds ++ [(k, s.ids)] ∧
        (chanCmds t k).map (·.id) = (chanCmds s k).map (·.id) ++ [s.ids])

/-- R322 to R329: the matrix commands enter the core's queue; MWAIT goes on when the context has none under way; MRDA reads
an idle unit's row; ENGW writes a shadow register. -/
def Obligations.MatrixCommandsIssued : Prop :=
  ∀ (p : Syl) (s : State), guardOn p s = true →
    let c := issuer s
    let k := getCore s (coreOf s.iss.g)
    (mqRoom s →
      (∀ o : MS, (c.rdS o.sa.val).toNat % 4 = 0 → mloadN (c.rdS o.sb.val) ≠ 0 →
        mloadW (c.rdS o.sb.val) + mloadN (c.rdS o.sb.val) ≤ 4096 →
        exec (.mload p o) s = .next (mxEntered (.mload p o) (c.rdS o.sa.val) (c.rdS o.sb.val) s)) ∧
      (∀ en : Fin 4096, exec (.mcall p en) s = .next (mxEntered (.mcall p en) (BitVec.ofNat 64 en.val) 0 s)) ∧
      (∀ t : Fin 16, exec (.mzro p t) s = .next (mxEntered (.mzro p t) (BitVec.ofNat 64 t.val) 0 s)) ∧
      (∀ o : MX,
        let a := c.rdS o.sa.val
        let b := c.rdS o.sb.val
        a.toNat % 256 = 0 → mrdaN b ≠ 0 → mrdaFirst b + mrdaN b ≤ 64 →
        a.toNat + 256 * mrdaN b ≤ (groupOf s s.iss.g).size →
        exec (.mrdaScratchpad p o) s = .next (mxEntered (.mrdaScratchpad p o) a b s))) ∧
    (isSteward s.iss.g = false →
      (mxIdleFor k s.iss.g = true → exec (.mwait p) s = .next s) ∧
      (∀ o : MV, roomFor o.qd s = true → k.mq = [] → k.run = none → k.busyCmd = none →
        badIn k o.tl.val (64 * o.row.val) 64 = false →
        exec (.mrdaVector p o) s = .next (deliver s o.qd (dstV c o.vd.val) (tileRow k o.tl.val o.row.val) (-1) 4 0))) ∧
    (∀ (sa : Fin 64) (ix : Nat),
      (system s = true → exec (.engw p sa ix) s =
        .next (modCtx s s.iss.g fun d => d.setShadow ix (c.rdS sa.val))) ∧
      (system s = false → exec (.engw p sa ix) s = trapNow s 0x05 0))

/-- R354, R366, R367: in system mode, freezing, thawing and discarding what a selector names, once no routine of it stands in
a group and no part of it is on its way (R355; log 118), and the drain, the invalidation and the scrub of a virtual function; in user mode
these and R357's CSAVE and CLOAD take a permission trap with TINFO 0. The marks by which a course knows that its operation has begun, and
the cycle in which a freeze takes hold, are logs 24 and 72; what VDRAIN waits for is log 70, what SCRUB clears log 71. -/
def Obligations.StewardCommands : Prop :=
  (∀ (p : Syl) (s : State), guardOn p s = true → system s = true →
     let c := issuer s
     (∀ o : MS,
       let sel := selected s (c.rdS o.sa.val)
       let b := (c.rdS o.sb.val).toNat
       (c.rdS o.sa.val).toNat < 2 ^ 26 →
       (b = 0 → sel.any (midGroup s) = false → (sel.all fun g => (getCtx s g).frozen) = true →
         exec (.freeze p o) s = .next s) ∧
       (b = 0 → sel.any (midGroup s) = false → marked s = true → exec (.freeze p o) s = .next s) ∧
       (b = 0 → marked s = false → (sel.filter fun g => !(getCtx s g).frozen) ≠ [] →
         exec (.freeze p o) s =
           waitMark { s with freezes := s.freezes ++ sel.filter fun g => !(getCtx s g).frozen }) ∧
       (b = 1 → (sel.all fun g => !(getCtx s g).frozen) = true → exec (.thaw p o) s = .next s) ∧
       (b = 1 → marked s = true → exec (.thaw p o) s = .next s) ∧
       (b = 1 → marked s = false → (sel.filter fun g => (getCtx s g).frozen) ≠ [] →
         exec (.thaw p o) s = waitMark { s with thaws := s.thaws ++ sel.filter fun g => (getCtx s g).frozen }) ∧
       (b = 2 → (sel.all fun g => (getCtx s g).frozen) = true →
         (s.chans.any fun x => x.2.any fun c => sel.contains c.g && !c.parts.isEmpty) = false →
         exec (.discard p o) s = .next (sel.foldl discardCtx s))) ∧
     (∀ sa : Fin 64,
       let v := (c.rdS sa.val).toNat
       v < 128 →
       (vfQuiet s v = true → vfEmpty (rsetF (vfDrop s v) (frcfg v + 16) 32 16 0) v = true →
         exec (.vdrain p sa) s = .next (rsetF (vfDrop s v) (frcfg v + 16) 32 16 0)) ∧
       (let s1 := invalidateHeld (if marked s then s else invalidate s v 0 (2 ^ 41) false) v 0 (2 ^ 41) false
        invalPending s1 v 0 (2 ^ 41) = false → exec (.hinvv p sa) s = .next s1)) ∧
     (∀ o : MS,
       let v := (c.rdS o.sa.val).toNat
       let b := (c.rdS o.sb.val).toNat
       v < 128 → b < 16 → (b % 8 = 0 ∨ vfQuiet s v = true) → exec (.scrub p o) s = .next (scrub s v b))) ∧
  (∀ (p : Syl) (s : State), guardOn p s = true → system s = false →
     (∀ o : MS, exec (.freeze p o) s = trapNow s 0x05 0 ∧ exec (.thaw p o) s = trapNow s 0x05 0 ∧
       exec (.discard p o) s = trapNow s 0x05 0 ∧ exec (.scrub p o) s = trapNow s 0x05 0 ∧
       exec (.csave p o) s = trapNow s 0x05 0 ∧ exec (.cload p o) s = trapNow s 0x05 0) ∧
     (∀ sa : Fin 64, exec (.vdrain p sa) s = trapNow s 0x05 0 ∧ exec (.hinvv p sa) s = trapNow s 0x05 0))

/-- R357 to R361: a context in system mode saves and loads one that is frozen, or itself (OTHER = 0) in its trap handler; an address of 0
names its CSA; ACC asks that every context of the core be frozen or free, and that no word of the tiles be spoiled; a context that is no
steward names an area of its own partition (R362). What is selected is written to the area's regions, or restored from them. That the
whole is one step, and where the fields of a region lie, is log 17. -/
def Obligations.SaveAndLoad : Prop :=
  ∀ (p : Syl) (o : MS) (s : State), guardOn p s = true → system s = true →
    let b := (issuer s).rdS o.sb.val
    let x := saveCtl s b
    let named := ((issuer s).rdS o.sa.val).toNat
    let a := if named = 0 then (getCtx s x.g).csa else named
    let n := saScr + (groupOf s x.g).size
    x.legal b = true → a % 4096 = 0 → (tierOf a = some 0 ∨ tierOf a = some 1) → (x.other = true → (getCtx s x.g).frozen = true) →
    (x.acc = true → ∀ i : Fin 4, quietCtx s (ctxBase (coreOf x.g) + i.val) = true) →
    (isSteward s.iss.g = true ∨
      (partOk s (vfOf s s.iss.g) a = true ∧ partOk s (vfOf s s.iss.g) (a + saScr) = true)) →
    areaWhole s = none → areaPending s a n = false →
    ((x.other = true ∨ (issuer s).hld = true) → saveReady s x = true →
      (x.acc = true → (getCore s (coreOf x.g)).badTile = []) → areaStopped s a n = false →
      areaAway s a (saveRegions s x (savedRoutine s x).isSome) = [] →
      exec (.csave p o) s = .next (saveEnd (saveWrite s a x) x)) ∧
    (let routine := x.eng && nf (rd8 s a) 25 1 == 1
     (x.other = true ∨ ((issuer s).hld = false ∧ earlierDone s x.g (getCtx s x.g).reqSeq = true)) →
     areaBad s a 256 = false → loadOk s a x = true → ((saveRegions s x routine).any fun r => areaBad s (a + r.1) r.2) = false →
     areaAway s a [(0, 256)] = [] → areaAway s a (saveRegions s x routine) = [] →
       exec (.cload p o) s = .next (loadAll s a x routine))

/-! Results, queues and requests. -/

/-- R15: a write to s0, k0 or p0 is discarded, and they read as 0, all ones and 1; of a write to a b register bits [63:21] are discarded,
and they read as 0. -/
def Obligations.HardWiredRegisters : Prop :=
  ∀ (c : Ctx) (steward : Bool) (f : Flight),
    (f.dest = .s 0 ∨ f.dest = .k 0 ∨ f.dest = .p 0 → c.land steward f = c) ∧
    c.rdS 0 = 0 ∧ c.rdK 0 = -1 ∧ c.rdP 0 = true ∧
    (∀ n, f.dest = .b n → tget 0 (c.land steward f).b n = (f.val.truncate 64 &&& 0x1FFFFF)) ∧
    (∀ n, c.rdB n &&& ~~~ (0x1FFFFF : Word64) = 0)

/-- R26, R28: of every context of a core that is not frozen, what is due lands; nothing else of the machine changes. R15, R19, R34, R121:
where one result lands: its register alone, of a vector the lanes of its mask; s0, k0 and p0 take nothing; the flags are ORed
into FMODE[12:8]. -/
def Obligations.ResultsLand : Prop :=
  (∀ (core : Nat) (s : State), coreFrozen s core = false →
     ∃ t, exec (.resultLanding core) s = .next t ∧
       (∀ i : Fin 4, (getCtx s (ctxBase core + i.val)).frozen = false →
         getCtx t (ctxBase core + i.val) =
           (getCtx s (ctxBase core + i.val)).landDue (isSteward (ctxBase core + i.val)) (localTime s core)) ∧
       (∀ g, (∀ i : Fin 4, g = ctxBase core + i.val → (getCtx s g).frozen = true) → getCtx t g = getCtx s g) ∧
       { t with ctxs := s.ctxs } = s) ∧
  (∀ (c : Ctx) (steward : Bool) (now : Nat) (f : Flight), f.due ≤ now →
     let d := { c with flight := [f] }.landDue steward now
     let e : Ctx := { c with flight := [], fmode := c.fmode ||| (f.flags.zeroExtend 32 <<< 8) }
     (∀ n, f.dest = .s n → { d with s := c.s } = e ∧
       ∀ m, tget 0 d.s m = if m = n ∧ n ≠ 0 then f.val.truncate 64 else tget 0 c.s m) ∧
     (∀ n, f.dest = .k n → { d with k := c.k } = e ∧
       ∀ m, tget 0 d.k m = if m = n ∧ n ≠ 0 then f.val.truncate 64 else tget 0 c.k m) ∧
     (∀ n, f.dest = .p n → { d with p := c.p } = e ∧
       ∀ m, tget false d.p m = if m = n ∧ n ≠ 0 then f.val.getLsbD 0 else tget false c.p m) ∧
     (∀ n, f.dest = .v n → { d with v := c.v } = e ∧
       ∀ m, tget 0 d.v m = if m = n then mergeLanes f.mask (tget 0 c.v n) f.val else tget 0 c.v m) ∧
     (∀ n, f.dest = .b n → { d with b := c.b } = e ∧
       ∀ m, tget 0 d.b m = if m = n then f.val.truncate 64 &&& 0x1FFFFF else tget 0 c.b m) ∧
     (∀ n, f.dest = .h n → { d with h := c.h } = e ∧
       ∀ m, tget 0 d.h m = if m = n then f.val.truncate 128 else tget 0 c.h m) ∧
     (∀ n, f.dest = .g n → { d with g := c.g } = e ∧
       ∀ m, tget 0 d.g m = if m = n then f.val.truncate 64 else tget 0 c.g m) ∧
     (f.dest = .sr 0x014 → { d with tinfo := c.tinfo } = e ∧ d.tinfo = f.val.truncate 64) ∧
     (f.dest = .sr 0x010 → { d with tvec := c.tvec } = e ∧ d.tvec = (f.val.truncate 64 : Word64).toNat % 2 ^ 57))

/-- R38, R42, R154, R239: a scalar store or load through a b register, at the head of LAQ with its banks free and no release of the
context's that changes its bytes before it (R187): the store's bytes and no other byte of memory; the load's bytes in a new LDQ entry. -/
def Obligations.ScratchpadAccess : Prop :=
  ∀ (g : Nat) (s : State) (q : Req) (p : Syl) (o : AM), headReady s g = some q → q.h = none → o.fe = 0 → s.spoiled = [] →
    winRelFirst s g q = false →
    let at' (j : Nat) : Nat := cluBase (groupOf s g).cluster + (groupOf s g).base + (q.addr.toNat + j)
    (∀ n : Fin 4, q.op = .sta p n o →
      banksFree s (groupOf s g).cluster (bankCounts ((List.range (2 ^ n.val)).map at')) = true →
      ∃ t, exec (.laqRequestLeave g) s = .next t ∧
        (∀ j, j < 2 ^ n.val → mread t (at' j) = byteAt (sdqOf s g q).val j) ∧
        (∀ a, (∀ j, j < 2 ^ n.val → a ≠ at' j) → mread t a = mread s a) ∧
        (getCtx t g).laq = (getCtx s g).laq.drop 1 ∧ t.regs = s.regs ∧ (∀ x, x ≠ g → getCtx t x = getCtx s x)) ∧
    (∀ n : Fin 7, q.op = .lda p n o → (getCtx s g).phase = .resident →
      (∀ e ∈ (getCtx s g).ldq, e.req.seq ≠ q.seq) → (∀ j, j < ldaSize n.val → (tierOf (at' j)).isSome) →
      banksFree s (groupOf s g).cluster (bankCounts ((List.range (ldaSize n.val)).map at')) = true →
      ∃ t e, exec (.laqRequestLeave g) s = .next t ∧ t.mem = s.mem ∧ t.regs = s.regs ∧
        (getCtx t g).ldq = (getCtx s g).ldq ++ [e] ∧ e.left = 0 ∧ e.failed = false ∧ e.filled = false ∧
        (∀ j, j < ldaSize n.val → tget 0 e.raw j = mread s (at' j)) ∧ (getCtx t g).laq = (getCtx s g).laq.drop 1)

/-- R40, R44, R241: the oldest entry of LDQ fills once it has everything; a FEWAIT through a b register leaves LAQ once its granule is in
the state that it waits for and its bank is free (R43); a .fw or .fwc load takes its granules in ascending order as each is full, .fwc
emptying it, and leaves with the last; a .sf store waits for nothing and sets its granules full. -/
def Obligations.QueueEventsEnd : Prop :=
  (∀ (g : Nat) (s : State) (e : LdqEntry) (r : List LdqEntry), (getCtx s g).ldq = e :: r → e.filled = false →
    e.left = 0 → e.due ≤ localTime s (coreOf g) → e.failed = false →
    ∃ t x, exec (.ldqFill g) s = .next t ∧ (getCtx t g).ldq.head? = some x ∧ x.filled = true ∧
      x.val = (entryValue s g e).1 ∧ t.mem = s.mem ∧ (∀ y, y ≠ g → getCtx t y = getCtx s y)) ∧
  (∀ (g : Nat) (s : State) (q : Req) (p : Syl) (o : AM), headReady s g = some q → q.h = none → q.op = .fewait p o →
    q.slot = true → q.done = 0 →
    let a := (granules [winPlace s g (q.addr.toNat / 16 * 16)]).headD 0
    feGet s a = (o.fe != 0) → banksFree s (clusterOfPa a) (bankCounts [a]) = true →
    ∃ t, exec (.fullEmptyWaitEnd g) s = .next t ∧ (getCtx t g).laq = (getCtx s g).laq.drop 1 ∧ t.mem = s.mem ∧
      (∀ a, feGet t a = feGet s a)) ∧
  (∀ (g : Nat) (s : State) (q : Req), headReady s g = some q → q.h = none → feNeeds q = some true → (aop q.op).resLoad = true →
    (feOf q.op = 1 ∨ feOf q.op = 2) → q.slot = true → s.spoiled = [] →
    let items := loadItems s g q (winPlace s g)
    let gr := granules (items.map (·.1))
    ∀ (a : Nat) (r : List Nat), gr.drop q.done = a :: r → feGet s a = true → banksFree s (clusterOfPa a) (bankCounts [a]) = true →
      (∀ x ∈ items, tierOf x.1 = some 2) →
      ∃ t, exec (.fullEmptyWaitEnd g) s = .next t ∧ t.mem = s.mem ∧ feGet t a = (feOf q.op == 1) ∧
        (∀ x, (∀ y ∈ gr, x / 16 ≠ y / 16) → feGet t x = feGet s x) ∧
        (r ≠ [] → (getCtx t g).laq = (getCtx s g).laq.drop 1 ∨
          ∃ n, q.done < n ∧ n < gr.length ∧ (getCtx t g).laq.head? = some { q with done := n }) ∧
        (r = [] → (getCtx t g).laq = (getCtx s g).laq.drop 1 ∧ (∀ x, feGet t x = if x / 16 = a / 16 then feOf q.op == 1 else feGet s x) ∧
          ∀ e ∈ (getCtx t g).ldq, e.req.seq = q.seq → e.filled = false →
            e.left = 0 ∧ ∀ x ∈ items, x.1 / 16 = a / 16 → tget 0 e.raw x.2 = mread s x.1)) ∧
  (∀ (g : Nat) (s : State) (q : Req) (p : Syl) (o : AM) (n : Fin 4), headReady s g = some q → q.h = none → q.op = .sta p n o → o.fe ≠ 0 →
    s.spoiled = [] → winRelFirst s g q = false →
    let at' (j : Nat) : Nat := cluBase (groupOf s g).cluster + (groupOf s g).base + (q.addr.toNat + j)
    (∀ j, j < 2 ^ n.val → tierOf (at' j) = some 2) →
    banksFree s (groupOf s g).cluster (bankCounts ((List.range (2 ^ n.val)).map at')) = true →
    ∃ t, exec (.laqRequestLeave g) s = .next t ∧ (∀ j, j < 2 ^ n.val → mread t (at' j) = byteAt (sdqOf s g q).val j) ∧
      (∀ a, (∀ j, j < 2 ^ n.val → a ≠ at' j) → mread t a = mread s a) ∧
      (∀ x, feGet t x = (((List.range (2 ^ n.val)).any fun j => x / 16 == at' j / 16) || feGet s x)))

/-! Requests at their homes. -/

namespace Sys2Proof.Claims

/-- A part of kind k that nothing holds back at its home here. -/
def passes (s : State) (id : Nat) (k : TxnKind) (t : Txn) : Prop :=
  getTxn s id = some t ∧ t.kind = k ∧ t.peer = none ∧ t.out = false ∧ s.mig.held.contains id = false ∧ gate s id t = .pass

/-- A byte of tier 0, 1 or 2 that can be read and written and on which no Pump part is pending. -/
def plainByte (s : State) (a : Nat) : Prop :=
  (tierOf a = some 0 ∨ tierOf a = some 1 ∨ tierOf a = some 2) ∧ stopped s a = false ∧ inSpoiled s a = false ∧
    (pendingAt s a).isEmpty = true

end Sys2Proof.Claims

/-- R209, R211: a load's part, a store's part and an atomic of a context, performed at plain bytes of this module whose banks are
free (R43): the bytes a load delivers are those of memory, and its lines are kept as their cache policy says (R179, R180); a store
writes its bytes and no other; an atomic writes its new value, and its entry of LDQ, where it has one, gets the old bytes and its flags,
which of another form reach the context. -/
def Obligations.PartsPerformed : Prop :=
  ∀ (id g : Nat) (s s1 : State) (t : Txn), t.src = .ctx g → t.twin = 0 → withBanks s t = some s1 →
    let s2 := served s1 t
    (passes s id .load t → t.fe = 0 → t.err = 0 → (∀ x ∈ t.rd, plainByte s x.1) → plainByte s t.pa →
      exec (.loadPerform id) s = .next (deposit (delTxn (l2Add (rdcKeep s2 t (t.rd.map (·.1))) t.cp (t.rd.map (·.1))) id) g
        t.req.seq (t.rd.map fun x => (x.2, mread s x.1)))) ∧
    (passes s id .store t → t.red = 0 → t.fe = 0 → plainByte s t.pa → (∀ c ∈ t.wr, plainByte s c.pa ∧ c.msk = 0xFF) →
      (t.wr.map (·.pa)).Nodup → s.spoiled = [] → (∀ l ∈ s.rdc, l.bad = 0) →
      ∃ u, exec (.storePerform id) s = .next u ∧ (∀ c ∈ t.wr, mread u c.pa = c.val) ∧
        (∀ a, (∀ c ∈ t.wr, a ≠ c.pa) → mread u a = mread s a) ∧ u.regs = s2.regs ∧ getTxn u id = none) ∧
    (passes s id .atomic t → (∀ j, j < t.len → plainByte s (t.pa + j)) → plainByte s t.pa → aop t.req.op ≠ .none →
      let x := natOfBytes (mreadN s t.pa t.len)
      let y := atomicNew (aop t.req.op) t.req.fmode (laneOf t.req.rnd 0) t.entry x
      ∃ u, exec (.atomicPerform id) s = .next u ∧ (∀ j, j < t.len → mread u (t.pa + j) = byteAt (BitVec.ofNat 128 y.1) j) ∧
        (∀ a, (∀ j, j < t.len → a ≠ t.pa + j) → mread u a = mread s a) ∧ u.regs = s2.regs ∧ getTxn u id = none ∧
        ((aop t.req.op).pushesLdq = true → (getCtx u g).ldq.length = (getCtx s g).ldq.length ∧
          ∀ (n : Nat) (e : LdqEntry), (getCtx s g).ldq[n]? = some e → e.req.seq = t.req.seq → e.filled = false →
            ∃ e1, (getCtx u g).ldq[n]? = some e1 ∧ (∀ j, j < t.len → tget 0 e1.raw j = mread s (t.pa + j)) ∧ e1.flags = y.2 ∧
              e1.left = e.left - 1) ∧
        ((aop t.req.op).pushesLdq = false → getCtx u g = getCtx (engineFlags s g y.2) g))

/-- R216, R218, R219, R256: the steps of sync objects by contexts: an acquire that its object lets pass and no other waits
for, a release or post, and a release that leaves the core's buffer: no write that it carries is on its way, its slot (R184) is
free, and at .dom scope no store of its die is on its way to where another agent of the die may have read it. -/
def Obligations.SyncObjects : Prop :=
  (∀ (id g : Nat) (s s1 : State) (t : Txn), t.src = .ctx g → t.twin = 0 → (∀ j, j < 16 → plainByte s (t.pa + j)) →
    withBanks s t = some s1 →
    (passes s id .acquire t →
      let k := (acqKind t.req.op).1
      acqReady s t.pa k (t.entry.truncate 64) = true →
      (s.txns.any fun e => e.1 != id && e.2.kind == .acquire && e.2.pa == t.pa && e.2.peer.isNone) = false →
      exec (.syncAcquireStep id) s = .next (acquired (delTxn (acqStep s1 t.pa k (ownerOf s g)) id) g t)) ∧
    (∀ (p : Syl) (o : AY), passes s id .release t → (t.req.op = .relUn p o ∨ t.req.op = .relPost p o) →
      let post := decide (t.req.op = .relPost p o)
      let r := relStep s1 t.pa post (t.entry.truncate 64)
      exec (.syncReleaseStep id) s =
        .next (written (if r.2 then rincHold r.1 (mistat t.vf) 0 32 else r.1) id t [] 0))) ∧
  (∀ (core id : Nat) (s : State) (r : Rel) (p : Syl) (o : AY), ((getCore s core).rels.find? fun r => r.id == id) = some r →
    (r.req.op = .relUn p o ∨ r.req.op = .relPost p o) →
    let t := syncTxn s r.g .release r.req (r.req.y.zeroExtend 2048)
    carriedBy s r.g r.req.seq (fun o => boundTo s t.vf o t.peer t.pa) = false →
    (o.sc.val = 5 → dieStores s (dieOfCore core) = false) → (r.req.h.isSome = true → slotFree s r.g = true) →
    ∃ u, exec (.releasePerform core id) s = .next u ∧
      (getCore u core).rels = ((getCore s core).rels.filter fun r => r.id != id) ∧
      ∃ n x, tfind u.txns n = some x ∧ x.kind = .release ∧ x.req.op = r.req.op ∧ x.pa = t.pa ∧ x.peer = t.peer)

/-- R217, R222, R225, R233, R257 to R259: what waits at the head of LAQ ends: a FENCE, at .dom scope once no store of its die is on
its way to where another agent of the die may have read it (R218), a PFENCE, behind which no target's line is left in the die's
cache, a BIND. -/
def Obligations.FencesAndBindings : Prop :=
  ∀ (g : Nat) (s : State) (q : Req) (p : Syl), headReady s g = some q →
    (∀ o : AF, q.op = .fence p o → earlierDone s g q.seq = true →
      (2 ≤ o.k.val → q.slot = true ∧ (o.sc.val = 5 → dieStores s (dieOfCore (coreOf g)) = false)) →
      (o.k.val % 2 = 1 → loadsFilled (getCtx s g) q.seq = true) →
      let s1 := popHead (modCore s (coreOf g) fun c =>
        { c with rels := c.rels.filter fun r => !(r.g == g && r.req.seq == q.seq) }) g
      exec (.fenceComplete g) s = .next
        (if o.k.val % 2 = 1 ∧ 4 ≤ o.sc.val then rdcAcquireAll s1 (dieOfCore (coreOf g)) (vfOf s g) else s1)) ∧
    (∀ o : AF, q.op = .pfence p o → pumpQueued s g = false →
      (s.txns.any fun e => e.2.src == .ctx g && e.2.kind == .pcmd && decide (e.2.req.seq < q.seq)) = false →
      let d := dieOfCore (coreOf g)
      exec (.pfenceComplete g) s = .next (popHead (noFill (rdcDrop s fun l => l.die == d && tierOf (l.line % 2 ^ 65) == some 0) d
        fun t => tierOf t.pa == some 0) g)) ∧
    (∀ (o : AB) (h : HWord), q.op = .bind p o → q.h = some h → o.u = false → earlierDone s g q.seq = true →
      (s.binds.filter fun b => b.vf == vfOf s g).length < 64 →
      ∃ t, exec (.bindPerform g) s = .next t ∧ (getCtx t g).laq = (getCtx s g).laq.drop 1 ∧
        t.binds = { vf := vfOf s g, hva := hVa h, off := q.x.toNat % 2 ^ 32, len := q.x.toNat / 2 ^ 32,
                    obj := q.y.toNat } :: s.binds)

/-- R230 to R235, R260: a Pump part enters its bank's queue, on a twin page at the current frame (R275), and the oldest part of a
bank is executed. Of an integer add every word of the part becomes its sum with the operand. Of the others: each word its rounded sum with
c, its product with α rounded with c once, its maximum with c, c itself, or its combination with its lane's word where the lane's mask
says so; FTZ does not act, and the random value of an element is that of its number in the command (R64). A .cvt.bf16 packs the granule's
scaled elements in its first half and clears the second; a .copy takes the bytes of the granule that lies D away. -/
def Obligations.PumpParts : Prop :=
  (∀ (id : Nat) (s s1 s2 : State) (t : Txn), passes s id .pcmd t → withBanks s t = some s1 →
    let pa := t.home s1 t.pa
    stopped s1 pa = false → enqueue s1 { t with orig := id, pa := pa, twin := 0 } = some s2 →
    exec (.pumpPartEnqueue id) s = .next (delTxn (l2Drop s2 pa) id)) ∧
  (∀ (bank : Nat) (s : State) (x : PumpPart) (r : List PumpPart) (p : Syl) (o : AP), bankQ s bank = x :: r →
    bankQ s (holdKey (bank / 16)) = [] → s.spoiled = [] → x.txn.kind = .pcmd → x.txn.req.op = .pcmdAddI32 p o →
    x.txn.flags = 0 →
    (∀ g, x.txn.src = .ctx g → ∃ t, exec (.pumpPartExecute bank) s = .next t ∧ bankQ t bank = r ∧
      (∀ j, j < x.txn.len / 4 →
        mread4 t (x.txn.pa + 4 * j) = (mread4 s (x.txn.pa + 4 * j) + elemOf x.txn.entry 32 0) % 2 ^ 32) ∧
      (∀ a, (a < x.txn.pa ∨ x.txn.pa + x.txn.len / 4 * 4 ≤ a) → mread t a = mread s a))) ∧
  (∀ (bank k : Nat) (s : State) (x : PumpPart) (r : List PumpPart), bankQ s bank = x :: r → bankQ s (holdKey (bank / 16)) = [] →
    s.spoiled = [] → x.txn.kind = .pcmd → aop x.txn.req.op = .pcmd k →
    ((∃ g, x.txn.src = .ctx g) ∨ (∃ m tag, x.txn.src = .peer m tag)) →
    let u := x.txn
    let c := elemOf u.entry 32 0
    let m := u.req.fmode &&& ~~~ (16 : Word32)
    let rnd (j : Nat) : Word32 := if fmRM m == rmSR then engineRnd u.req.seed (u.ix + j) else 0
    let old (j : Nat) : Nat := mread4 s (u.pa + 4 * j)
    let new (j : Nat) : Nat :=
      if k = 0 then old j + c
      else if k = 1 then (fAdd 0 m (rnd j) (old j) c).1
      else if k = 2 then (fFma 0 m (rnd j) false false c (old j) (elemOf u.entry 32 1)).1
      else if k = 3 then (fMinMax 0 m true (old j) c).1
      else if k = 5 then c
      else if u.lmask.getLsbD j = false then old j
      else if u.red = 1 then old j + elemOf u.entry 32 j
      else if u.red = 2 then (fAdd 0 m (rnd j) (old j) (elemOf u.entry 32 j)).1
      else (fMinMax 0 m true (old j) (elemOf u.entry 32 j)).1
    let scaled (j : Nat) : Nat := (finish 2 m (rnd j) [decode 0 (old j), decode 0 c] ((decode 0 (old j)).mul (decode 0 c))).1
    (k ≠ 4 → k ≠ 6 → ∃ t, exec (.pumpPartExecute bank) s = .next t ∧ (bankQ t bank).map (·.id) = r.map (·.id) ∧
      (∀ j, j < u.len / 4 → mread4 t (u.pa + 4 * j) = new j % 2 ^ 32) ∧
      (∀ a, (a < u.pa ∨ u.pa + u.len / 4 * 4 ≤ a) → mread t a = mread s a)) ∧
    (k = 4 → ∃ t, exec (.pumpPartExecute bank) s = .next t ∧ (bankQ t bank).map (·.id) = r.map (·.id) ∧
      (∀ j, j < 64 → mread t (u.pa + 2 * j) = BitVec.ofNat 8 (scaled j) ∧
        mread t (u.pa + 2 * j + 1) = BitVec.ofNat 8 (scaled j / 256)) ∧
      (∀ j, 128 ≤ j → j < 256 → mread t (u.pa + j) = 0) ∧ (∀ a, (a < u.pa ∨ u.pa + 256 ≤ a) → mread t a = mread s a)) ∧
    (∀ a, k = 6 → copySource s u = some a → ∃ t, exec (.pumpPartExecute bank) s = .next t ∧
      (bankQ t bank).map (·.id) = r.map (·.id) ∧ (∀ j, j < u.len → mread t (u.pa + j) = mread s (a + j)) ∧
      (∀ a, (a < u.pa ∨ u.pa + u.len ≤ a) → mread t a = mread s a)))

/-! The matrix unit. -/

/-- R297, R330 to R332: the control words of a routine: END, the tile, the loops, whose count of 0 skips the body, SIG, which sends its
add of 1 or stops the routine, with cause 0x11 whatever check of its target fails (log 63), WAITS. R285, R294 to R296, R330: the words
that take entries of the ports: a STEP pops an entry of each of ports A and B and sums them for the selected tile's pipe, or, in the f19
and f32 classes, keeps them for its second micro-cycle; SCL scales the open partial, which lands a micro-cycle on, BAND takes a band, SKIP
uses none. SKIP as an event of its own pops all that it still has to (log 61). -/
def Obligations.MatrixWords : Prop :=
  (∀ (s : State) (r : Routine), (getCore s s.cur).run = some r →
     exec .uend s = .next (setRun s s.cur { r with ended := true }) ∧
     (∀ (j : Bool) (tile : Fin 16), exec (.accsel j tile) s = .next (setRun s s.cur { r with tile := tile.val })) ∧
     (∀ (j : Bool) (i : Fin 8),
       exec (.accselG j i) s = .next (setRun s s.cur { r with tile := (r.cmd.ga.getD i.val 0).toNat % 16 })) ∧
     (∀ (count : Fin 4096) (len : Fin 2048), count ≠ 0 → exec (.uloop count len) s =
       .next (setRun s s.cur { r with
         upc := r.upc + 1, loops := { start := r.upc + 1, len := len.val, left := count.val } :: r.loops })) ∧
     (∀ len : Fin 2048, exec (.uloop 0 len) s = .next (setRun s s.cur { r with
       upc := (afterWord r.loops (r.upc + len.val)).1, loops := (afterWord r.loops (r.upc + len.val)).2 })) ∧
     (∀ (i : Fin 8) (len : Fin 2048), (r.cmd.ga.getD i.val 0).toNat % 2 ^ 32 ≠ 0 → exec (.uloopG i len) s =
       .next (setRun s s.cur { r with
         upc := r.upc + 1,
         loops := { start := r.upc + 1, len := len.val, left := (r.cmd.ga.getD i.val 0).toNat % 2 ^ 32 } :: r.loops })) ∧
     (∀ (i : Fin 8) (len : Fin 2048), (r.cmd.ga.getD i.val 0).toNat % 2 ^ 32 = 0 → exec (.uloopG i len) s =
       .next (setRun s s.cur { r with
         upc := (afterWord r.loops (r.upc + len.val)).1, loops := (afterWord r.loops (r.upc + len.val)).2 })) ∧
     (∀ (j : Bool) (pt : Fin 4) (n : Fin 256), exec (.waits j pt n) s = .next s) ∧
     (∀ (j : Bool) (i : Fin 8),
       (∀ h pa, sigTarget s r i.val = some (h, pa) → ∃ t x, exec (.sig j i) s = .next t ∧
         (getCore t s.cur).run = some { r with sigs := r.sigs + 1 } ∧ getTxn t s.ids = some x ∧ x.kind = .atomic ∧
         x.src = .mx s.cur ∧ x.pa = pa ∧ x.len = 8 ∧ x.add = 1 ∧ t.mem = s.mem) ∧
       (sigTarget s r i.val = none → exec (.sig j i) s = .next (setRun s s.cur (r.halt 0x11 r.word))))) ∧
  (∀ (s : State) (r : Routine) (j : Bool), (getCore s s.cur).run = some r →
     (∀ (o : UStep) (x y : BitVec 1024 × Option Nat), portPeek s r.cmd.g 0 = some x → portPeek s r.cmd.g 1 = some y →
       let popped := portPop (portPop s r.cmd.g 0) r.cmd.g 1
       ((mxClass o.fa.val).n ≠ 2 →
         let q := stepSums (entryRows o.fa.val x.1) (entryRows o.fb.val y.1)
         exec (.step j o) s = .next (setRun popped s.cur
           { r with first := some o, busy := (mxClass o.fa.val).t - 1, flags := r.flags ||| q.2,
                    pipe := r.pipe ++ [{ sums := q.1, tile := r.tile, left := 4, word := r.gword }] })) ∧
       ((mxClass o.fa.val).n = 2 → exec (.step j o) s = .next (setRun popped s.cur
         { r with first := some o, busy := (mxClass o.fa.val).t - 1,
                  second := some { a := x.1, b := y.1, tile := r.tile, word := r.gword } }))) ∧
     (∀ (e : BitVec 1024 × Option Nat), portPeek s r.cmd.g 2 = some e →
       (let l := sclWords r.pair e.1 r.bandA r.bandB r.part
        exec (.scl j) s = .next (setRun (portPop s r.cmd.g 2) s.cur
          { r with part := [], open_ := false, flags := r.flags ||| orAll (l.map fun x => (0, x.2.2)),
                   lands := r.lands ++ [{ sums := (l.filter fun x => x.2.1 != .zero).map fun x => (x.1, x.2.1),
                                          tile := r.tile, left := 1, word := r.gword }] })) ∧
       exec (.band j true) s = .next (setRun (portPop s r.cmd.g 2) s.cur { r with bandB := e.1 }) ∧
       exec (.band j false) s = .next (setRun (portPop s r.cmd.g 2) s.cur { r with bandA := e.1 })) ∧
     (∀ (pt : Fin 4) (n : Fin 256),
       (pt.val ≠ 2 → exec (.skip j pt n) s =
         .next (setRun (popMany s r.cmd.g pt.val (n.val - r.skipA)) s.cur { r with skipA := 0 })) ∧
       (pt.val = 2 → exec (.skip j pt n) s =
         .next (setRun (popMany s r.cmd.g 2 (n.val - r.skipS)) s.cur { r with skipS := 0 }))))

/-- R289, R297, R300, R322, R324, R328: a matrix command begins in its turn: MCALL starts its routine, MZRO clears its tile; a
routine that has ended and landed leaves MSTAT and its flags. -/
def Obligations.MatrixCommandsRun : Prop :=
  (∀ (core : Nat) (s : State) (m : MCmd) (l : List MCmd), (getCore s core).busyCmd = none → (getCore s core).run = none →
    (getCore s core).mq = m :: l → mxAnswers s core .atomic = [] →
    (∀ (p : Syl) (t : Fin 16), m.op = .mzro p t → exec (.matrixCommandBegin core) s =
      .next (modCore s core fun k =>
        { k with mq := l, tiles := k.tiles.filter fun x => x.1 / 64 != t.val,
                 badTile := k.badTile.filter fun w => w / 4096 != t.val })) ∧
    (∀ (p : Syl) (en : Fin 4096), m.op = .mcall p en → (getCore s core).susp = [] →
      exec (.matrixCommandBegin core) s =
        .next (modCore s core fun k => { k with mq := l, run := some (Routine.start m), susp := [] }))) ∧
  (∀ (core : Nat) (s : State) (r : Routine), (getCore s core).run = some r → r.ended = true → r.stop = none →
    r.empty = true →
    let lost := r.open_ && !r.part.isEmpty
    let st := (if lost then 1 else 0) + (if r.corr then 4 else 0) + r.mcyc % 2 ^ 32 * 2 ^ 32
    exec (.routineComplete core) s =
      .next (modCtx (engineFlags (modCore s core fun k => { k with run := none }) r.cmd.g r.flags) r.cmd.g fun c =>
        c.setShadow 0x20 (BitVec.ofNat 64 st)))

/-- R302 to R304: at the end of a cycle its weight enters the window of 64, and a core whose window's sum exceeds LIM is
frozen for 8 times its length from the next cycle on; the last cycle of a freeze checks again. -/
def Obligations.Governor : Prop :=
  ∀ (core : Nat) (s : State),
    let k := getCore s core
    let frz (u : State) (sum : Nat) : State :=
      if rfld s (mxctl core) 0 16 < sum then
        modCore u core fun k => { k with frozenTo := s.clock + 1 + 8 * max 1 (rfld s (mxctl core) 16 4) } else u
    (core < 1024 → coreFrozen s core = false →
      let w := (k.weight :: k.window).take 64
      exec (.governorCheck core) s = .next (frz (modCore s core fun k => { k with window := w, weight := 0 }) w.sum)) ∧
    (k.frozenTo = s.clock + 1 → exec (.governorFreezeEnd core) s = .next (frz s k.window.sum))

/-! Walks, groups, launches. -/

/-- R199, R202: a finished walk gives its handle register the walk's result; HINVAL clears VALID over its range, also in
the requests that a hold has come to keep meanwhile, and clears GO once nothing of the old handles is on its way. -/
def Obligations.WalksAndInvalidations : Prop :=
  (∀ (id : Nat) (s : State) (w : Walk), tfind s.walks id = some w → pendingWalk ((getCtx s w.g).rdH w.hn) id = true →
    ∃ t, exec (.tableWalkComplete id) s = .next t ∧ (getCtx t w.g).rdH w.hn = translate s false w.vf w.va ∧
      tfind t.walks id = none ∧ t.mem = s.mem ∧ (∀ x, x ≠ w.g → getCtx t x = getCtx s x)) ∧
  (∀ s : State,
    let v := rfld s (hinval + 16) 0 7
    let lo := rfld s hinval 16 41
    let hi := rfld s (hinval + 8) 16 41
    exec .hinvalStart s = .next (after (invalidate s v lo hi true) 1 .hinvalComplete) ∧
    (let s1 := invalidateHeld s v lo hi true
     invalPending s1 v lo hi = false → exec .hinvalComplete s = .next (rsetF s1 (hinval + 16) 8 1 0)))

/-- R157, R224: an arrival whose earlier requests have all been performed is counted; the last one completes the
phase: the count starts again, PH turns, and no context's arrival stands. R159: of a context that has exited the slot then expects
one fewer (log 13). -/
def Obligations.ArrivalsCounted : Prop :=
  ∀ (g slot seq : Nat) (s : State), ((getCtx s g).uncounted.find? fun u => u.1 == slot) = some (slot, seq) →
    earlierDone s g seq = true →
    let gid := (getCtx s g).gid
    let b := getBar s gid slot
    (b.arr + 1 ≠ b.exp → (getCtx s g).phase ≠ .exited → ∃ t, exec (.barrierArrivalCount g slot) s = .next t ∧
      getBar t gid slot = { b with arr := b.arr + 1 } ∧ (∀ x, (getCtx t x).arrived = (getCtx s x).arrived)) ∧
    (b.arr + 1 = b.exp → (getCtx s g).phase ≠ .exited → ∃ t, exec (.barrierArrivalCount g slot) s = .next t ∧
      getBar t gid slot = { b with arr := 0, phase := !b.phase } ∧
      (∀ x ∈ (getGroup s gid).ctxs, (getCtx t x).arrived.getLsbD slot = false)) ∧
    ((getCtx s g).phase = .exited →
      let counted := countArrival (modCtx s g fun c => { c with uncounted := c.uncounted.filter fun u => u.1 != slot }) g slot
      exec (.barrierArrivalCount g slot) s = .next (leaveSlot counted g slot ((getCtx counted g).arrived.getLsbD slot)))

/-- R168, R354: a group all of whose contexts are done gives back its contexts and counts in its launch; a launch whose
groups have all retired completes. -/
def Obligations.GroupsRetire : Prop :=
  (∀ (gid : Nat) (s : State) (gr : Group), tfind s.groups gid = some gr → gr.ctxs.all (ctxDone s) = true →
    ∃ t, exec (.groupRetire gid) s = .next t ∧ tfind t.groups gid = none ∧ (∀ g ∈ gr.ctxs, getCtx t g = Ctx.reset) ∧
      t.mem = s.mem ∧ ∀ l, tfind s.launches gr.lid = some l →
        tfind t.launches gr.lid = some { l with retired := l.retired + 1, dead := l.dead || gr.dead }) ∧
  (∀ (lid : Nat) (s : State) (l : Launch), tfind s.launches lid = some l →
    (l.done = false → l.retired = l.total → l.dead = false → (pkOrdered l.pkt && addsBefore s lid l) = false →
      (List.range 4).any (dieStores s) = false → pkCounter l.pkt = 0 →
      exec (.launchComplete lid) s = .next (dropLaunch s lid)) ∧
    (∀ tid x, l.done = true → addAnswer s lid = some (tid, x) → x.err = 0 →
      exec (.launchComplete lid) s = .next (dropLaunch (delTxn s tid) lid)))

/-- R154, R165 to R167, R273, R342: an enabled queue's packet is copied and its launch entered in the table, its KIND becomes 0, RIDX
goes past it, and then it is validated; the dispatcher places a group of a valid one on the first cluster on which it
fits, from the one after that of its partition's last group on; a steward core does so for its own queue; a shared copy queue's
packet enters its channel. -/
def Obligations.PacketsAndPlacement : Prop :=
  (∀ (q : Nat) (s : State) (p : Flit) (idx a : Nat),
    queuePeek s (lqName s q) (lqDesc s q) = .slot p idx a → mayBegin s q p = true →
    let i : Instr := if q < 256 then .launchPacketTake q else .stewardPacketTake (q - 256)
    (q < 256 ∧ rbit s (lqcfg q) 0 = true ∧ tableFull s = false ∧ unchecked s q = none ∨
      256 ≤ q ∧ q < 261 ∧ rbit s (sqcfg (q - 256)) 0 = true ∧ launchesOf s q = []) →
    let l : Launch := { q := q, ridx := idx, pkt := p, vf := lqVf s q, part := lqPart s q, next := 0, retired := 0,
                        done := false, dead := false, checked := false }
    let entered := { s with ids := s.ids + 1, launches := tset s.launches s.ids l, disp := { s.disp with fresh := tdel s.disp.fresh q } }
    let taken := queueTake entered (lqName s q) (lqDesc s q) idx a
    exec i s = .next (checkLaunch taken s.ids l) ∧
    (migFrame s (lqDesc s q) = false → migFrame s a = false →
      mread8 taken (lqDesc s q + 8) = BitVec.ofNat 64 (idx + 1) ∧ mread taken a = 0) ∧
    (validate taken q p = (0, none) → ∃ t, exec i s = .next t ∧ tfind t.launches s.ids = some { l with checked := true })) ∧
  (∀ (s : State) (l : Nat × Launch) (c : Nat) (f : List Nat × Nat × List Nat), s.disp.lastAt + 2 ≤ s.clock →
    started s = true →
    ((eligible s).findSome? fun l =>
      (afterIn (partClusters s l.2.part) (lastClu s l.2.part)).findSome? fun c =>
        (fitOn s c l.2.pkt l.2.vf).map fun f => (l, c, f)) = some (l, c, f) →
    ∃ t, exec .dispatchStep s = .next t ∧ lastClu t l.2.part = c ∧
      (∀ part, partKey s part ≠ partKey s l.2.part → lastClu t part = lastClu s part) ∧ t.disp.lastAt = s.clock ∧
      (∃ gr, tfind t.groups s.ids = some gr ∧ gr.ctxs = f.1 ∧ gr.base = f.2.1 ∧ gr.slots = f.2.2 ∧ gr.cluster = c ∧
        gr.index = l.2.next) ∧
      tfind t.launches l.1 = some { l.2 with next := l.2.next + 1 }) ∧
  (∀ (n lid : Nat) (s : State) (l : Launch) (r : List (Nat × Launch)), launchesOf s (256 + n) = (lid, l) :: r →
    l.checked = true → l.next < l.total → started s = true →
    exec (.stewardPacketTake n) s = .next (stewardPlace s n lid l)) ∧
  (∀ (q : Nat) (s : State) (p : Flit) (idx a : Nat), rbit s (cqcfg q) 0 = true → chanFull s (queueKey q) = false →
    let vf := rfld s (cqcfg q) 1 7
    let d := rfld s (cqcfg q) 16 41 * 2 ^ 16
    let name : QName := { reg := cqcfg q, kind := 1, q := q, vf := vf }
    queuePeek s name d = .slot p idx a → copyValid p true = true →
    ∃ t, exec (.sharedCopyPacketTake q) s = .next t ∧
      chanCmds t (queueKey q) = chanCmds s (queueKey q) ++
        [{ CCmd.blank (queueTake s name d idx a).ids 1 noCtx p with vf := vf, cidx := idx % 2 ^ 32 }])

/-! Engines. -/

/-- R164, R174, R309, R312, R317: the launch engine takes up a command once what precedes it is done, and ends it with its
answer; what releases at .dom scope, an add or DW0 for another module (R223), waits for its die's stores; SHDW with no pages
disables its entry. -/
def Obligations.LaunchEngineWorks : Prop :=
  ∀ (core id : Nat) (s : State) (c : LCmd), lengFind s core id = some c →
    (c.stage = 0 → earlierDone s c.g c.seq = true → lengBehind s core c = false →
      (∀ h pa, lengDesc s c = .ok (h, pa) → exec (.launchEngineAppend core id) s =
        .next (lengSend s core c 1 { lengTxn s core c .atomic h pa 8 with add := 1 })) ∧
      (∀ h pa, counterAt s (c.who s) true c.a.toNat = .ok (h, pa) →
        (dieStores s (dieOfCore core) = false → exec (.counterAddPerform core id) s =
          .next (lengSend s core c 1 { lengTxn s core c .atomic h pa 8 with add := c.b.toNat })) ∧
        exec (.counterSetPerform core id) s =
          .next (lengSend s core c 1 { lengTxn s core c .store h pa 8 with wr := cellsAt pa (bytesOf c.b 8) })) ∧
      (c.b.toNat % 2 ^ 20 = 0 → exec (.shdwPerform core id) s =
        .next (lengDrop (rsetF s (twr (vfOf s c.g) (c.a.toNat % 16)) 0 1 0) core id))) ∧
    (∀ tid t, c.stage ≠ 0 → lengAnswer s c = some (tid, t) → t.err = 0 →
      ((c.stage = 3 ∧ t.peer.isSome = true → dieStores s (dieOfCore core) = false) →
        exec (.launchEngineAppend core id) s = .next (appendNext (delTxn s tid) core c t)) ∧
      exec (.counterAddPerform core id) s = .next (lengDrop (delTxn s tid) core id) ∧
      exec (.counterSetPerform core id) s = .next (lengDrop (delTxn s tid) core id))

/-- R184, R203, R268, R269, R271, R277, R278, R314: a channel sends a part in its cluster's slot; a part lands as a store; a
command with nothing out ends; a feed fills its stream's next entry, the last one with zeros past its bytes. -/
def Obligations.ChannelsWork : Prop :=
  (∀ (chan : Nat) (s s1 : State), (getClu s (chanClu s chan)).engAt ≤ s.clock →
    issueFrom (askAll s chan) chan [] (chanCmds s chan) = some s1 → exec (.enginePartIssue chan) s = .next s1) ∧
  (∀ (id : Nat) (s : State) (t : Txn),
    (∀ s1, passes s id .store t → withBanks s t = some s1 →
      exec (.copyPartLand id) s = .next (performStore (served s1 t) id t)) ∧
    (∀ k cid c, getTxn s id = some t → t.out = true → t.src = .chan k cid → findCmd s k cid = some c →
      exec (.copyPartLand id) s = .next (partLanded s k c id t))) ∧
  (∀ (chan id : Nat) (s : State) (c : CCmd), findCmd s chan id = some c → c.parts = [] → c.carried = false →
    c.parked = false → c.allSent s = true → c.fault = none → (c.posted = true ∨ c.counter = 0) →
    (c.kind ≠ 2 → exec (.copyComplete chan id) s = .next (endCmd s chan c)) ∧
    exec (.putComplete chan id) s = .next (endCmd s chan c)) ∧
  (∀ (slot k id : Nat) (s : State) (r : List (Nat × Nat)) (c : CCmd),
    let x := (slot / 16, slot % 16)
    let st := getStream s x
    let j := st.filled - c.entry
    st.feeds = (k, id) :: r → findCmd s k id = some c → c.kind = 2 → c.next ≠ 0 → c.carried = false → c.fault = none →
    let n := min 128 ((tileOf c.pkt).bytes - 128 * j)
    n ≠ 0 → st.room st.filled = true → (∀ b, b < n → (tfind c.buf (128 * j + b)).isSome = true) →
    ∃ t w f, exec (.feederEntryFill slot) s = .next t ∧ (getStream t x).filled = st.filled + 1 ∧
      tfind (getStream t x).entries st.filled = some (w, f) ∧
      ∀ b, b < 128 → byteAt w b = if b < n then tget 0 c.buf (128 * j + b) else 0)

/-! Faults, events, trace, the hardware's failures. -/

/-- R282, R283, R351 to R353: arming an entry starts its counts from 0 and replays the Sump's records of its range; a batch is
flushed when it is full or old; the commands parked behind a record retry; an event that waited is written when there is
room; a ring with nothing waiting and below a quarter full stops batching. -/
def Obligations.RingsAndBatches : Prop :=
  (∀ (g i : Nat) (s : State), exec (.rarmArm g i) s =
    .next (sumpReplay (modClu s g fun c => { c with counts := c.counts.filter fun x => x.1 / 65536 != i }) g i)) ∧
  (∀ (vf : Nat) (s : State),
    let l := tget [] s.faults.batch vf
    l ≠ [] → (64 ≤ l.length ∨ tget 0 s.faults.bstart vf + 25000 ≤ s.clock) →
    exec (.faultBatchFlush vf) s = .next (flushBatch s vf)) ∧
  (∀ (vf ix : Nat) (s : State) (r : RangeRec), (s.faults.ranges.find? fun r => r.vf == vf && r.ix == ix) = some r →
    exec (.faultResume vf ix) s = .next (r.cmds.foldl unpark (rsetF
      { s with faults := { s.faults with ranges := s.faults.ranges.filter fun x => !(x.vf == vf && x.ix == ix) } }
      (frcfg vf + 16) 32 16 (rfld s (frcfg vf + 16) 32 16 - r.cmds.length)))) ∧
  (∀ (s : State) (e : Event), s.evq = [e] → rbit s evcfg 0 = true → evRoom s = true →
    exec .eventRingRoom s = .next { evWrite s e with evq := [] }) ∧
  (∀ (vf : Nat) (s : State), s.faults.wait = [] → vf < 128 →
    unread s (frcfg vf + 8) < 2 ^ (rfld s (frcfg vf) 1 5 - 2) →
    exec (.faultRingRoom vf) s = .next (rsetF
      { s with faults := { s.faults with full := tput false s.faults.full vf false } } (frcfg vf + 16) 1 1 0))

/-- R364, R370, R372: a sample is recorded of a running context, where samples are asked for; a host's FLR sets FLRP and posts event
9. R206, R455: an ALERT counts; the fourth in a row sets FAIL, posts event 0x0A, fails what waits at the pseudo-channel and
retires it in RETPC at once (log 87). R379: an internal link is lost, once; a link that is bypassed posts event 0x10. R183,
R301: an uncorrectable error spoils a word, a part of a cached line, a tile's word, or is one of the array's. -/
def Obligations.HardwareEvents : Prop :=
  (∀ (core : Nat) (s : State),
    let g := ctxBase core + (getCore s core).running
    exec (.traceSample core) s = .next
      (if rfld s (bkpt core 0 + 8) 6 16 ≠ 0 ∧ (getCtx s g).phase = .resident ∧ (getCtx s g).frozen = false ∧ core < 1024 then
        traceRec s g 5 0 (getCtx s g).pc else s)) ∧
  (∀ (vf : Nat) (s : State), exec (.hostFlr vf) s =
    .next (postPlain (rset s (vfctl vf) (rget s (vfctl vf) ||| 64)) 0x09 vf (BitVec.ofNat 64 vf) 0)) ∧
  (∀ (slice : Nat) (s : State), slice < 512 →
    let n := tget 0 s.alerts slice
    let counted (m : Nat) : State := rincHold { s with alerts := tset s.alerts slice m } (mcstat slice) 0 32
    (n < 3 → exec (.parityAlert slice true) s = .next (counted (n + 1))) ∧
    (n < 4 → exec (.parityAlert slice false) s = .next (counted 1)) ∧
    (n = 3 →
      let stopped := rset (counted 4) (mcstat slice + 8) (rget (counted 4) (mcstat slice + 8) ||| 1)
      let u := failBanks (postPlain stopped 0x0A 0 (BitVec.ofNat 64 slice) 0) slice
      exec (.parityAlert slice true) s = .next (postPlain (remeasure
        (rset u (retpc (slice / 64)) (rget u (retpc (slice / 64)) ||| BitVec.ofNat 64 (2 ^ (slice % 64)))) 7)
        0x16 0 (BitVec.ofNat 64 slice) 0)) ∧
    (4 ≤ n → ∀ again : Bool, exec (.parityAlert slice again) s = .next s)) ∧
  (∀ (die link : Nat) (s : State),
    (die = link ∨ s.fab.links.contains (min die link, max die link) = true → exec (.internalLinkFailure die link) s = .next s) ∧
    (die ≠ link → s.fab.links.contains (min die link, max die link) = false →
      let s1 := { s with fab := { s.fab with links := s.fab.links ++ [(min die link, max die link)] } }
      exec (.internalLinkFailure die link) s = .next (if pathOk s1 die link then
        postPlain s1 0x10 0 (BitVec.ofNat 64 die) (BitVec.ofNat 64 link) else s1))) ∧
  (∀ (s : State),
    (∀ pa w n : Nat, eccWord pa = some (w, n) →
      ∃ t, exec (.uncorrectableError (.word pa)) s = .next t ∧ inSpoiled t pa = true ∧ { t with spoiled := s.spoiled } = s) ∧
    (∀ die line : Nat, exec (.uncorrectableError (.rdc die line)) s = .next { s with rdc := s.rdc.map fun l =>
      if l.die = die ∧ l.line = line / 128 * 128 then { l with bad := l.bad ||| 2 ^ (line % 128 / 32) } else l }) ∧
    (∀ core tile word : Nat, (getCore s core).badTile.contains (4096 * tile + word) = false →
      exec (.uncorrectableError (.tile core tile word)) s =
        .next (modCore s core fun k => { k with badTile := (4096 * tile + word) :: k.badTile })) ∧
    (∀ (core : Nat) (r : Routine) (q : Pipe), (getCore s core).run = some r → r.second = none → r.pipe.getLast? = some q →
      exec (.uncorrectableError (.array core false)) s =
        .next (setRun (rincHold s (mxctl core + 16) 0 32) core { r with corr := true }) ∧
      exec (.uncorrectableError (.array core true)) s = .next (setRun
        (if r.stop.isSome then s else rincHold s (mxctl core + 16) 32 32) core
        { r.halt 0x0F q.word with pipe := r.pipe.dropLast, busy := 0 })))

/-! The machine as a whole. -/

/-- What the register tables give at reset (R304, R393, R411, R449, R451), and memory in its canonical form with nothing
listed (log 1). -/
def Obligations.StartingState : Prop :=
  let s := State.reset
  (∀ n, n < 1024 → rfld s (mxctl n) 0 16 = 0xFFFF ∧ rfld s (mxctl n) 16 4 = 1 ∧ rget s (mxctl n + 8) = 0 ∧
    rget s (mxctl n + 16) = 0) ∧
  (∀ p, p < 47 → rbit s (rport p) 0 = true ∧ portState s p = 0 ∧ rfld s (rport p) 40 8 = 192 ∧
    rfld s (rport p) 48 4 = 4 ∧ rget s (rport p + 8) = 0 ∧ rget s (rport p + 16) = 0 ∧ rfld s (rport p + 24) 0 16 = 1000) ∧
  (rbit s fabcfg 0 = false ∧ moduleNo s = 0 ∧ rfld s fabcfg 15 10 = 1 ∧ rfld s (fabcfg + 8) 0 16 = 64 ∧
    rfld s (fabcfg + 8) 16 16 = 2000 ∧ rfld s (fabcfg + 8) 32 16 = 2000 ∧ rfld s (fabcfg + 16) 44 6 = 63 ∧
    escInstalled s = false ∧ rget s (fabcfg + 24) = 0) ∧
  (rfld s startst 0 3 = 0 ∧ rbit s startst 3 = false ∧ rbit s startst 5 = true) ∧
  (rfld s powcfg 0 16 = 3400 ∧ rfld s powcfg 32 8 = 45 ∧ rfld s powcfg 40 16 = 64) ∧
  memWf s.mem = true ∧ ∀ a, mread s a = memDefault

/-- What a step takes up (log 4): an input from outside, a message that has arrived, the cycle's next event, a timed event that is
due, or else the next cycle; each runs `exec` of its instruction, a message the one of its OP (R395). -/
def Obligations.WhatAStepTakesUp : Prop :=
  (∀ s : State,
    (∀ i r, s.inputs = i :: r → external i = true → s.start.powered = true → step s = exec i { s with inputs := r }) ∧
    (∀ o r, s.inputs = .coldStart o :: r → step s = exec (.coldStart o) { s with inputs := r }) ∧
    (s.inputs = [] → s.start.powered = true →
      (∀ m r, s.fab.arrived = m :: r → step s = deliverMsg m { s with fab := { s.fab with arrived := r } }) ∧
      (s.fab.arrived = [] →
        (∀ core i r, s.turn = (core, i) :: r → step s = exec i { s with turn := r, cur := core }) ∧
        (s.turn = [] →
          (∀ t i r, s.agenda = (t, i) :: r → t ≤ s.clock → step s = exec i { s with agenda := r }) ∧
          ((∀ e ∈ s.agenda.head?, s.clock < e.1) → step s = .next (tick s)))))) ∧
  (∀ (m : Msg) (s : State),
    (m.op = 0x01 → deliverMsg m s = exec (.read m) s) ∧ (m.op = 0x02 → deliverMsg m s = exec (.putWithoutPost m) s) ∧
    (m.op = 0x03 → deliverMsg m s = exec (.putWithPost m) s) ∧ (m.op = 0x04 → deliverMsg m s = exec (.atomic m) s) ∧
    (m.op = 0x05 → deliverMsg m s = exec (.sync m) s) ∧ (m.op = 0x06 → deliverMsg m s = exec (.pcmdPart m) s) ∧
    (m.op = 0x07 → deliverMsg m s = exec (.orderedMulticastToRoot m) s) ∧
    (m.op = 0x08 → deliverMsg m s = exec (.orderedMulticastCopy m) s) ∧ (m.op = 0x09 → deliverMsg m s = exec (.probe m) s) ∧
    (m.op = 0x10 → deliverMsg m s = exec (.ack m) s) ∧ (m.op = 0x11 → deliverMsg m s = exec (.data m) s) ∧
    (m.op = 0x12 → deliverMsg m s = exec (.atomicData m) s) ∧ (m.op = 0x13 → deliverMsg m s = exec (.probeack m) s) ∧
    (m.op = 0x1F → deliverMsg m s = exec (.error m) s) ∧ (m.op = 0x20 → deliverMsg m s = exec (.allReducePartial m) s) ∧
    (m.op = 0x21 → deliverMsg m s = exec (.allReduceResult m) s) ∧
    (m.op = 0x22 → deliverMsg m s = exec (.allReduceAbort m) s) ∧ (m.op = 0x23 → deliverMsg m s = exec (.pull m) s) ∧
    (m.op = 0x24 → deliverMsg m s = exec (.pagedata m) s) ∧ (m.op = 0x25 → deliverMsg m s = exec (.redirack m) s))

namespace Sys2Proof.Claims

/-- The course at context g's pc is one syllable w with a stop bit that decodes to i: l is its bundle, and neither the bundle nor the
course breaks a rule; no breakpoint stands there and nothing holds the syllable back (R21 to R23, R78 to R81, R137, R345, R372). -/
def oneSyllable (s : State) (g w : Nat) (l : List Byte) (i : Instr) : Prop :=
  let pc := (getCtx s g).pc
  let lend := lendAt ((wordsIn l).headD 0) (pc / 4 % 4)
  chkBound s g pc = true ∧ readBundle s g pc = .bytes l ∧ (wordsIn l).getD (pc / 4 % 4) 0 = w ∧ bitOf w 31 = true ∧
    bundleErrs (wordsIn l) = [] ∧ decodeSyl lend w = .ok i ∧ (isSteward g && matrixOp i) = false ∧
    (lend.lt = 0 ∨ isBrt w = true) ∧ (∀ act, breakAt s g pc act = none) ∧ (getCtx s g).hld = false

/-- That syllable as its course holds it. -/
def theSyllable (s : State) (g w : Nat) (l : List Byte) (i : Instr) : CSyl :=
  let pc := (getCtx s g).pc
  { bundle := pc / 16 * 16, unit := fld w 28 3, p := sylOf (lendAt ((wordsIn l).headD 0) (pc / 4 % 4)) w, i := i }
/-- The state in which its course opens. -/
def opened (s : State) (g w : Nat) (l : List Byte) (i : Instr) : State :=
  let pc := (getCtx s g).pc
  let next := pc / 16 * 16 + 4 * (pc / 4 % 4 + 1)
  openCourse s g pc next (firstOf s g next) [theSyllable s g w l i]
/-- The state in which the syllable executes: its bundle's address is known, and it has not failed. -/
def atSyllable (s : State) (x : CSyl) : State := { s with iss := { s.iss with bundle := x.bundle, fate := .go } }

end Sys2Proof.Claims

/-- R24, R150: a step that selects the contexts of a core looks first at the running one, and executes there the instruction that the
bytes at its pc decode to: where it can issue, the next state is its own, the core's record of what runs and weighs behind
it; where it traps, the trap's. So a course of a NOP, or of an ADD whose operands are there, issues, in the state given. A frozen core does
nothing (R303); a core none of whose contexts may be tried goes on without a course, and counts a bubble of its running context's
branch (R373). -/
def Obligations.StepRunsTheDecodedInstruction : Prop :=
  (∀ (core : Nat) (s : State),
    let run := ctxBase core + (getCore s core).running
    let s1 := modCore s core fun k => { k with yielded := none }
    (coreFrozen s core = true → exec (.contextSelect core) s = .next s) ∧
    (coreFrozen s core = false → (∀ i, i < 4 → mayIssue s (ctxBase core + i) = false) → (getCore s core).running < 4 →
      exec (.contextSelect core) s = .next (
        if (getCtx s run).phase = .resident ∧ (getCtx s run).frozen = false ∧ localTime s core < (getCtx s run).next ∧
            (getCtx s run).bubble = true then
          countIdle s1 run 32
        else s1))) ∧
  ∀ (core : Nat) (s : State) (w : Nat) (l : List Byte) (i : Instr),
    let s1 := modCore s core fun k => { k with yielded := none }
    let g := ctxBase core + (getCore s core).running
    let x := theSyllable s1 g w l i
    coreFrozen s core = false → (getCore s core).yielded = none → (getCore s core).running < 4 → mayIssue s g = true →
    oneSyllable s1 g w l i →
    (∀ t u, exec i (atSyllable (opened s1 g w l i) x) = .next t → t.iss.fate = .go →
      exec i (atSyllable (modCtx (countCourse (opened s1 g w l i) g (getCtx s1 g).pc [x]) g fun c => { c with skb := false }) x) =
        .next u →
      exec (.contextSelect core) s = .next (modCore (modCtx u g fun c => { c with mark := none, waitEnd := none }) core fun k =>
        { k with running := g % 4, weight := k.weight + sylWeight x.unit i })) ∧
    (∀ t, exec i (atSyllable (opened s1 g w l i) x) = .next t → t.iss.fate = .trap →
      exec (.contextSelect core) s = .next (modCore t core fun k => { k with running := g % 4 })) ∧
    (∀ (s0 : State) (r : List (Nat × Instr)), s0.inputs = [] → s0.start.powered = true → s0.fab.arrived = [] →
      s0.turn = (core, .contextSelect core) :: r → s = { s0 with turn := r, cur := core } →
      step s0 = exec (.contextSelect core) s) ∧
    (let v := atSyllable (modCtx (countCourse (opened s1 g w l i) g (getCtx s1 g).pc [x]) g fun c => { c with skb := false }) x
     let done (u : State) : State := modCore (modCtx u g fun c => { c with mark := none, waitEnd := none }) core fun k =>
       { k with running := g % 4, weight := k.weight + sylWeight x.unit i }
     (∀ p, i = .nop p → exec (.contextSelect core) s = .next (done v)) ∧
     (∀ p o, i = .add p o → xrReady p o (atSyllable (opened s1 g w l i) x) = true → xrReady p o v = true →
       exec (.contextSelect core) s = .next (done (xrNext o 1 (srcA o v + srcB o v) v))))

/-- The words that the worked encodings of R103, R145 and the programs' listings write out decode to what they stand for. -/
def Obligations.WordsOfTheSpec : Prop :=
  let p (stop : Bool) (g : Fin 16) : Syl := { stop := stop, guard := g, leaf := 0 }
  decodeSyl (.leaf 0x80) 0x22201400 = .ok (.ldv (p false 8) 1
    { m := false, base := 0, sx := 5, fe := 0, imm := 0, kr := 0 }) ∧
  decodeSyl (.leaf 0x80) 0x18E20012 = .ok (.vmov (p false 10)
    { vd := 2, va := 0, vb := 0, qd := false, qs := true, md := false, km := 0 }) ∧
  decodeSyl (.leaf 0x00) 0x80041048 = .ok (.add (p true 0) { sd := 8, sa := 8, sb := 9, qs := false, qd := false, qb := false }) ∧
  decodeSyl .none 0xA619A800 = .ok (.amo32 (p true 0) 0 { m := true, base := 9, sx := 42, t := false, imm := 0 }) ∧
  decodeSyl .none 0xA739A800 = .ok (.amo32 (p true 0) 9 { m := true, base := 9, sx := 42, t := false, imm := 0 }) ∧
  decodeSyl .none 0xAEF37600 = .ok (.relPost (p true 0) { m := true, base := 3, sx := 29, sc := 4, imm := 0 }) ∧
  decodeSyl .none 0xB4709C00 = .ok (.ssub (p true 0) { sid := 8, pt := 1, sa := 14 }) ∧
  decodeSyl .none 0xB4903805 = .ok (.sfeed (p true 5) { sid := 8, va := 3, ch := 2 }) ∧
  decodeSyl .none 0xB6012000 = .ok (.bar (p true 0) 9) ∧
  decodeSyl .none 0xB580C220 = .ok (.mrdaScratchpad (p true 0) { tl := 0, sa := 24, sb := 17 }) ∧
  decodeSyl .none 0xB1A42CF0 = .ok (.put (p true 0) 5 { va := 4, sa := 11, sb := 15 }) ∧
  decodeSyl .none 0xB4298105 = .ok (.publ (p true 5) { sa := 19, sb := 0, sc := 4 }) ∧
  decodeMicro 0x30000000 = some (.band false false) ∧ decodeMicro 0x34000000 = some (.band false true) ∧
  decodeMicro 0x5400000E = some (.uloopG 0 14) ∧ decodeMicro 0x28000000 = some (.scl true) ∧
  decodeMicro 0x20000000 = some (.scl false)

namespace Sys2Proof.Claims

/-- The instructions that stand in the microprogram store. -/
def isMicro : Instr → Bool
  | .uend | .step _ _ | .scl _ | .band _ _ | .accsel _ _ | .accselG _ _ | .uloop _ _ | .uloopG _ _ | .skip _ _ _ | .sig _ _
  | .waits _ _ _ => true
  | _ => false

end Sys2Proof.Claims

/-- R76 to R94, R291: the decoder reads from the encoder's word the instruction encoded, with every operand; FREEZE, THAW and DISCARD
are one word, which sb tells apart as it executes (R354). R77, R82, R95: what the decoder reads is well-formed, and the
encoder gives its word back: no bit is dropped. -/
def Obligations.EncodingsAgree : Prop :=
  (∀ (i : Instr) (l : Lend) (w : Nat), wellFormed i = true → encode i = some (l, w) →
     (isMicro i = true → decodeMicro w = some i) ∧
     (isMicro i = false → decodeSyl l w = .ok (match i with
       | .thaw p o => .freeze p o
       | .discard p o => .freeze p o
       | i => i)) ∧
     w < 2 ^ 32) ∧
  (∀ (l : Lend) (w : Nat) (i : Instr), w < 2 ^ 32 → decodeSyl l w = .ok i →
    wellFormed i = true ∧ isMicro i = false ∧ (encode i).map (·.2) = some w) ∧
  (∀ (w : Nat) (i : Instr), w < 2 ^ 32 → decodeMicro w = some i →
    wellFormed i = true ∧ isMicro i = true ∧ encode i = some (.none, w))

/-! Frames and the invariant of memory. -/

namespace Sys2Proof.Claims

/-- The instructions of the X and V units, the branches of the B unit that take no trap of their own, and the A unit's
forms on bases and handles: their results are registers, queue entries and the next course. -/
def registerForm : Instr → Bool
  | .add _ _ | .sub _ _ | .mul _ _ | .mulh _ _ | .mulhU _ _ | .div _ _ | .divU _ _ | .rem _ _ | .remU _ _ | .abs _ _ => true
  | .and _ _ | .or _ _ | .xor _ _ | .andn _ _ | .shl _ _ | .shr _ _ | .sra _ _ | .rotl _ _ | .clz _ _ | .popc _ _ => true
  | .extb _ _ | .extbS _ _ | .depb _ _ | .min _ _ | .max _ _ | .minU _ _ | .maxU _ _ | .mov _ _ | .lea _ _ _ => true
  | .addi _ _ | .shlImm _ _ | .shrImm _ _ | .sraImm _ _ | .rotlImm _ _ | .movi _ _ | .mfsr _ _ | .mtsr _ _ => true
  | .cmp _ _ | .cmpi _ _ | .plog _ _ | .pset _ _ | .klog _ _ | .kpopc _ _ | .kfirst _ _ | .sel _ _ _ => true
  | .vadd _ _ _ | .vsub _ _ _ | .vmul _ _ _ | .vmin _ _ _ | .vmax _ _ _ | .vfma _ _ _ | .vfmaNa _ _ _ | .vcmp _ _ _ => true
  | .vand _ _ | .vor _ _ | .vxor _ _ | .vsel _ _ | .vshl _ _ | .vshr _ _ | .vsra _ _ | .vmov _ _ | .vabs _ _ _ => true
  | .vscale _ _ _ | .vcvt _ _ | .vrcp _ _ | .vrsq _ _ | .vexp2 _ _ | .vlog2 _ _ | .vperm _ _ | .vbcast _ _ => true
  | .vrot _ _ | .vext _ _ | .vins _ _ | .viota _ _ | .vpack _ _ | .vunpk _ _ | .vred _ _ _ | .vscan _ _ _ => true
  | .vdot _ _ _ | .aadd _ _ | .bset _ _ | .hrel _ _ => true
  | .nop _ | .brt _ _ | .brc _ _ | .jmp _ _ | .jmpi _ _ | .call _ _ _ | .ret _ _ | .loop _ _ | .lset _ _ _ => true
  | _ => false

end Sys2Proof.Claims

namespace Sys2Proof.Claims

/-- A syllable's stop bit, guard and leaf tag. -/
def sylPart : Instr → Option Syl
  | .add p _ | .sub p _ | .mul p _ | .mulh p _ | .mulhU p _ | .div p _ | .divU p _ | .rem p _ | .remU p _ | .abs p _ => some p
  | .and p _ | .or p _ | .xor p _ | .andn p _ | .shl p _ | .shr p _ | .sra p _ | .rotl p _ | .clz p _ | .popc p _ => some p
  | .extb p _ | .extbS p _ | .depb p _ | .min p _ | .max p _ | .minU p _ | .maxU p _ | .mov p _ | .lea p _ _ => some p
  | .addi p _ | .shlImm p _ | .shrImm p _ | .sraImm p _ | .rotlImm p _ | .movi p _ | .mfsr p _ | .mtsr p _ | .cmp p _ => some p
  | .cmpi p _ | .plog p _ | .pset p _ | .klog p _ | .kpopc p _ | .kfirst p _ | .sel p _ _ | .vadd p _ _ | .vsub p _ _ => some p
  | .vmul p _ _ | .vmin p _ _ | .vmax p _ _ | .vfma p _ _ | .vfmaNa p _ _ | .vcmp p _ _ | .vand p _ | .vor p _ => some p
  | .vxor p _ | .vsel p _ | .vshl p _ | .vshr p _ | .vsra p _ | .vmov p _ | .vabs p _ _ | .vscale p _ _ | .vcvt p _ => some p
  | .vrcp p _ | .vrsq p _ | .vexp2 p _ | .vlog2 p _ | .vperm p _ | .vbcast p _ | .vrot p _ | .vext p _ | .vins p _ => some p
  | .viota p _ | .vpack p _ | .vunpk p _ | .vred p _ _ | .vscan p _ _ | .vdot p _ _ | .lda p _ _ | .sta p _ _ => some p
  | .bind p _ | .fence p _ | .pfence p _ | .ldv p _ _ | .ldvs p _ _ | .ldg p _ _ | .stv p _ _ | .stvs p _ _ => some p
  | .stg p _ _ | .aadd p _ | .bset p _ | .trans p _ | .hrel p _ | .hchk p _ | .preq p _ | .feset p _ | .fewait p _ => some p
  | .amo32 p _ _ | .amo64 p _ _ | .amos32 p _ _ | .amos64 p _ _ | .cas p _ _ | .acqX p _ | .acqSh p _ | .acqEv p _ => some p
  | .relUn p _ | .relPost p _ | .pcmdAddI32 p _ | .pcmdAddF32 p _ | .pcmdAxpyF32 p _ | .pcmdMaxF32 p _ => some p
  | .pcmdCvtBf16 p _ | .pcmdFill p _ | .pcmdCopy p _ | .pcmdAcc p _ | .cpy p _ _ | .cpyq p _ _ | .drain p _ => some p
  | .cwait p _ | .cadd p _ | .cset p _ | .put p _ _ | .putm p _ _ | .putmO p _ _ | .shdw p _ | .publ p _ | .sdef p _ => some p
  | .ssub p _ | .sfeed p _ | .srel p _ | .mload p _ | .mcall p _ | .mwait p | .mrdaVector p _ | .mrdaScratchpad p _ => some p
  | .mzro p _ | .engw p _ _ | .bar p _ | .bara p _ | .barw p _ | .waitev p _ | .lnch p _ _ | .csave p _ | .cload p _ => some p
  | .freeze p _ | .thaw p _ | .discard p _ | .vdrain p _ | .hinvv p _ | .scrub p _ | .trig p _ | .nop p | .brt p _ => some p
  | .brc p _ | .jmp p _ | .jmpi p _ | .call p _ _ | .ret p _ | .loop p _ | .lset p _ _ | .exit p | .yield p => some p
  | .trap p _ | .eret p | .halt p => some p
  | _ => none

end Sys2Proof.Claims

/-- R30, R32: a syllable whose guard reads 0, or whose leaf tag is not the outcome of its course's BRT, has no effect: it stalls for
nothing and takes no trap. (A matrix instruction on a steward core is no instruction: R341.) -/
def Obligations.GuardedOff : Prop :=
  ∀ (i : Instr) (p : Syl) (s : State), sylPart i = some p → guardOn p s = false →
    (isSteward s.iss.g && matrixOp i) = false → exec i s = .next s

/-- The frame of the register forms (R26, R33, R40, R41, R63): where the course does not trap, memory, the module's registers and
every other context stay; the context keeps every register and flag, what was in flight stays there before what is added,
and only LDQ, SDQ, the lane generators and the next course's place and time may differ. -/
def Obligations.RegisterFormsFrame : Prop :=
  ∀ (i : Instr) (s t : State), registerForm i = true → exec i s = .next t → t.iss.fate ≠ .trap →
    let c := getCtx s s.iss.g
    let d := getCtx t s.iss.g
    (∀ a, mread t a = mread s a) ∧ (∀ a, rget t a = rget s a) ∧ { t with ctxs := s.ctxs, iss := s.iss } = s ∧
    { t.iss with fate := s.iss.fate } = s.iss ∧ (∀ g, g ≠ s.iss.g → getCtx t g = getCtx s g) ∧ c.flight <+: d.flight ∧
    { d with flight := c.flight, ldq := c.ldq, sdq := c.sdq, sdqSeq := c.sdqSeq, gens := c.gens, pc := c.pc, next := c.next,
             bubble := c.bubble } = c

/-- Memory keeps its canonical form through every step, whatever it takes up: addresses strictly rise and no entry says what an
unlisted address reads as. -/
def Obligations.MemoryStaysCanonical : Prop :=
  ∀ s t : State, memWf s.mem = true → step s = .next t → memWf t.mem = true

/-! The fabric's links. -/

namespace Sys2Proof.Claims

/-- Flit f, its single wrong bits mended as g (R386), is of kind k; the module routes (R411) and the port is neither down nor isolated
(R393). -/
def flitIn (s : State) (p : Nat) (f g : Flit) (k : Nat) : Prop :=
  fabOn s = true ∧ (correct f).1 = g ∧ flitKind g = k ∧ portState s p ≠ 0 ∧ portState s p ≠ 3
/-- The mended bits are counted, on the port and for their lanes (R386, R389). -/
def mended (s : State) (p : Nat) (f : Flit) : State :=
  if (correct f).2 = [] then s
  else modPort (rincHold s (rport p + 8) 0 32) p fun q =>
    { q with cb := (((correct f).2.map (laneOfBit (rxMap s p))).eraseDups).foldl (fun t i => tset t i (tget 0 t i + 1)) q.cb }
/-- Its ACK and CRED are taken (R387, R388). -/
def taken (s : State) (p : Nat) (f g : Flit) : State := credIn (ackIn (mended s p f) p (flitAck g)) p (flitCred g)
/-- So is its SEQ, of an unsequenced flit: a NAK that is repeated has been answered (R387). -/
def takenCtl (s : State) (p : Nat) (f g : Flit) : State :=
  modPort (taken s p f g) p fun q => if flitSeq g = q.rxE then { q with nak := none } else q
/-- The state in which a sequenced flit in its turn is accepted: the next one is awaited and an ACK owed (R387). -/
def awaitNext (s : State) (p : Nat) : State := modPort s p fun q => { q with rxE := (q.rxE + 1) % 4096, owe := max q.owe 1 }

end Sys2Proof.Claims

/-- R384, R386, R387, R391, R401: flits received. A sequenced flit in its turn is accepted, with those held behind it; one up to 64
ahead is held; any other is acknowledged again (the model's reading of its discard, log 76); none is taken while an RSACK of
MODE 0 is awaited. NULL, NAK, RSREQ and RSACK are acted on; a flit that fails asks for repetition. R381, R394: what the acceptance of a flit does: LINKID names the far end, and
on a port that is up a TREE flit is heard, a SOLO flit is a message and a HEAD flit begins one. -/
def Obligations.FlitsReceived : Prop :=
  (∀ (s : State) (p : Nat) (f g : Flit),
    let u := taken s p f g
    let q := getPort u p
    let ahead := (flitSeq g + 4096 - q.rxE) % 4096
    let awaits := match (getPort s p).stripe with
      | some x => x.mode == 0
      | none => false
    (∀ i k, (i, k) ∈ [(Instr.head p f, 1), (.body p f, 2), (.tail p f, 3), (.solo p f, 4), (.linkid p f, 0xC), (.treeAdv p f, 0x20),
        (.treeDone p f, 0x21), (.treeInstall p f, 0x22)] → flitIn s p f g k →
      (awaits = true → exec i s = .next u) ∧
      (awaits = false →
        (ahead = 0 → exec i s = .next (drainHeld p 64 (acceptFlit u p g))) ∧
        (0 < ahead → ahead ≤ 64 → (q.reorder.any fun r => r.1 == flitSeq g) = false →
          exec i s = .next (setPort u p { q with reorder := q.reorder ++ [(flitSeq g, g)] })) ∧
        (0 < ahead → ahead ≤ 64 → (q.reorder.any fun r => r.1 == flitSeq g) = true → exec i s = .next u) ∧
        (64 < ahead → exec i s = .next (modPort u p fun q => { q with owe := max q.owe 1 })))) ∧
    (flitIn s p f g 0 → exec (.null p f) s = .next (takenCtl s p f g)) ∧
    (flitIn s p f g 8 → exec (.nak p f) s = .next (onNak (takenCtl s p f g) p (flitPayload g))) ∧
    (flitIn s p f g 9 → exec (.rsreq p f) s = .next (onRsreq (takenCtl s p f g) p (flitPayload g))) ∧
    (flitIn s p f g 0xA → exec (.rsack p f) s = .next (onRsack (takenCtl s p f g) p)) ∧
    (flitIn s p f g 0x10 → exec (.flitCrcFail p f) s =
      .next (sendNak (modPort (rincHold (mended s p f) (rport p + 8) 32 32) p fun q => { q with cc := q.cc + 1 }) p))) ∧
  (∀ (s : State) (p : Nat) (g : Flit),
    let u := awaitNext s p
    (flitType g = 0xC → acceptFlit s p g = onLinkid u p (flitPayload g)) ∧
    (flitType g ≠ 0xC → portUp s p = false → acceptFlit s p g = u) ∧
    (portUp s p = true →
      (flitType g = 0xB → acceptFlit s p g = onTree u p (flitPayload g)) ∧
      (flitType g = 4 → acceptFlit s p g = messageIn u p (parseHeader (flitPayload g)) (flitVc g) 1) ∧
      (flitType g = 1 → acceptFlit s p g = modPort u p fun q => { q with
        rx := (q.rx.filter fun r => r.vc != flitVc g) ++ [{ vc := flitVc g, m := parseHeader (flitPayload g), got := 1 }] })))

/-- R387 to R393: a NAK and an RSREQ are repeated, the RSREQ 8 times before the port goes down; a lane's lock, score, hold and
training, which begins with EN given to a port that is down (R392); EN taken from a port. The CRC failures of a window go to the active
lane with the most mended bits and missing margin, the lowest of several, and to none where every lane's sum is 0 (R389; the lanes of the
receive map, log 83). A training attempt gives both directions the same lanes, and leaves STATE 4 as it is (log 75); with FABCFG.EN = 0
none begins (log 115). R399 to R402: the timers of the escape tree and of messages that wait; a module that joins seeds its route
generator. -/
def Obligations.LinksAndTimers : Prop :=
  (∀ (p : Nat) (s : State), p < 47 →
     (∀ due, (getPort s p).nak = some ((getPort s p).rxE, due) → due ≤ s.clock → exec (.nakRepeat p) s =
       .next (after (modPort (sendCtl s p 8 (nakPayload (getPort s p))) p fun q =>
         { q with nak := some ((getPort s p).rxE, s.clock + 1250) }) 1250 (.nakRepeat p))) ∧
     (∀ x, (getPort s p).stripe = some x →
       (x.reps < 8 → exec (.rsreqTimeout p x.stamp) s =
         .next (after (sendCtl (modPort s p fun q => { q with stripe := some { x with reps := x.reps + 1 } }) p 9 (rsreqPayload x))
           1250 (.rsreqTimeout p x.stamp))) ∧
       (8 ≤ x.reps → exec (.rsreqTimeout p x.stamp) s = .next (portDown s p))) ∧
     (∀ lane, lane < 8 → exec (.laneLockLost p lane) s = .next (shedNext (modPort s p fun q =>
       { q with lost := q.lost.filter (· != lane) ++ [lane], good := tdel q.good lane }) p)) ∧
     (∀ lane, lane < 8 → laneState s p lane = 3 → ∃ t, exec (.laneHoldRelease p lane) s = .next t ∧ laneState t p lane = 2 ∧
       t.mem = s.mem) ∧
     (∀ margins : List Nat,
       let q := getPort s p
       let lanes := lanesOf (rxMap s p)
       let missing (i : Nat) : Nat := 32 - min 255 (margins.getD i 0)
       let sum (i : Nat) : Nat := tget 0 q.cb i + missing i
       let failures (i : Nat) : Nat :=
         if i ∈ lanes ∧ sum i ≠ 0 ∧ (∀ j ∈ lanes, sum j ≤ sum i) ∧ (∀ j ∈ lanes, j < i → sum j < sum i) then q.cc else 0
       ∃ t, exec (.laneScoreUpdate p margins) s = .next (readmitNext (shedNext t p) p) ∧
         t.mem = s.mem ∧ (getPort t p).cc = 0 ∧ (getPort t p).cb = [] ∧
         ∀ i, i < 8 → rfld t (laneReg p i) 8 8 = min 255 (margins.getD i 0) ∧
           laneScore t p i =
             min 255 (laneScore s p i - laneScore s p i / 8 + tget 0 q.cb i + 4 * failures i + missing i)) ∧
     (∀ passed, rbit s (rport p) 0 = true → rbit s fabcfg 0 = true → portUp s p = false →
       let ls := (lanesOf passed).filter fun i => laneState s p i != 3
       4 ≤ ls.length → ∃ t, exec (.portTrainingAttempt p passed) s = .next t ∧
         portState t p = (if portState s p = 4 then 4 else 1) ∧ lanesOf (rxMap t p) = ls ∧ lanesOf (txMap t p) = ls) ∧
     (let down := portState s p = 0 ∨ portState s p = 3
      exec (.portEnableWrite p true) s = .next
        (if down ∧ rbit s (rport p) 0 = true ∧ rbit s fabcfg 0 = true then setPState s p 1 else s) ∧
      exec (.portEnableWrite p false) s = .next (if down then s else portDown s p))) ∧
  (∀ s : State, exec (.treeStableTimer s.fab.tree.stamp) s = .next (treeCheck s)) ∧
  (∀ s : State, s.fab.tree.quiet = false → parityHeld s (s.fab.tree.epoch % 2 == 1) = false →
    (tget 0 s.fab.tree.epAt (s.fab.tree.epoch % 2) = 0 ∨
      tget 0 s.fab.tree.epAt (s.fab.tree.epoch % 2) + 1250 ≤ s.clock) →
    exec (.escapeParityQuiet s.fab.tree.stamp) s = .next (tryInstall (advAll (setTree s { s.fab.tree with quiet := true })))) ∧
  (∀ (id : Nat) (s : State) (q : QMsg), (s.fab.queue.filter fun q => q.id == id) = [q] → q.head ≠ 0 →
    (q.sent = 0 → q.m.esc = false → q.port.isSome = true → q.head + rfld s (fabcfg + 8) 16 16 * 5 / 4 ≤ s.clock + 1 → escInstalled s = true →
      let x := enterEscape s q
      let l := x.1.fab.queue.map fun y => if y.id = id then x.2 else y
      exec (.escapeWaitExpire id) s = .next { x.1 with fab := { x.1.fab with queue := l } }) ∧
    (q.port = none → q.m.esc = true → q.head + 62500 ≤ s.clock + 1 →
      exec (.escapeTableWaitExpire id) s = .next (dispose s q 7))) ∧
  (∀ s : State, ∃ t, exec .fabricJoin s = .next t ∧ t.fab.gen ≠ 0 ∧
    t.fab.gen = BitVec.ofNat 32 (moduleNo s) ^^^ 0x9E3779B9 ∧ t.regs = s.regs ∧ t.mem = s.mem)

/-! Requests between modules. -/

/-- R404 to R407, R409, R426, R458: a request is entered and sent, or answered at once, in the order that its agent's earlier requests
and the buffer of releases leave it; a put whose bytes have moved parts from its post first (R427); its answers, its timeouts, probes and
fences. Status 10 stands where log 21 puts it. What a fence notice does, and that a PROBE is always answered, is log 73; the notice is an
output and an input of its own (log 28). -/
def Obligations.RequestsToPeers : Prop :=
  (∀ (id : Nat) (s : State) (t : Txn) (m0 : Msg), getTxn s id = some t → t.peer.isSome = true → t.out = false →
    (txnMsgs s t)[t.sent]? = some m0 →
    let m := redirected s m0
    let t1 := { t with sent := t.sent + 1, left := t.left + 1 }
    let a := t.agent s
    (pathOk s t.die 4 = true → dstStatus s m.dst = 0 → heldBack s id t = false → granuleBusy s a m = false →
      s.fab.outst.length < 65536 →
      (m.dst = m0.dst ∨ t.splitPost = t → exec (.fabricRequestInject id) s = .next (enter (setTxn s id t1) m0 (.txn id) a)) ∧
      (m.dst ≠ m0.dst → t.splitPost ≠ t → exec (.fabricRequestInject id) s = .next (setTxn s id t.splitPost))) ∧
    (pathOk s t.die 4 = true → dstStatus s m.dst = 0 → (heldBack s id t = true ∨ granuleBusy s a m = true ∨
        65536 ≤ s.fab.outst.length) → exec (.fabricRequestInject id) s = .next s) ∧
    (pathOk s t.die 4 = false →
      exec (.fabricRequestInject id) s = .next (msgAnswered (setTxn s id t1) id { t1 with err := 9 } [])) ∧
    (pathOk s t.die 4 = true → dstStatus s m.dst ≠ 0 →
      exec (.fabricRequestInject id) s = .next (msgAnswered (setTxn s id t1) id { t1 with err := 0x0A } []))) ∧
  (∀ (r : Msg) (s : State) (o : Outst), tfind s.fab.outst r.tag = some o →
    let s1 := setOutst s (tdel s.fab.outst r.tag)
    (∀ id, o.use = .txn id →
      (r.op = 0x10 → exec (.ack r) s = .next (txnAnswer s1 id o.orig o.m r)) ∧
      (r.op = 0x11 → exec (.data r) s = .next (txnAnswer s1 id o.orig o.m r)) ∧
      (r.op = 0x12 → exec (.atomicData r) s = .next (txnAnswer s1 id o.orig o.m r)) ∧
      (r.op = 0x1F →
        (errStatus r ≠ 9 → errStatus r ≠ 10 → exec (.error r) s = .next (txnAnswer s1 id o.orig o.m r)) ∧
        (errStatus r = 9 → exec (.error r) s = .next (sendAgain s r.tag o)) ∧
        (let dest := r.opa.toNat % 2 ^ 14
         let dframe := r.opa.toNat / 2 ^ 16 % 2 ^ 34
         let moved := partPost (redirectTo s o.m.dst (o.m.addr / 2 ^ 16) dest dframe o.m.vf r.vf) o
         errStatus r = 10 → o.tries < 4 → exec (.error r) s = .next
           (sendAgain moved.1 r.tag
             { o with m := { moved.2 with dst := dest, addr := dframe * 2 ^ 16 + o.m.addr % 2 ^ 16 }, tries := o.tries + 1 })) ∧
        (errStatus r = 10 → 4 ≤ o.tries → exec (.error r) s = .next (txnAnswer s1 id o.orig o.m r)))) ∧
    (∀ m, o.use = .probe m → r.op = 0x13 →
      let s2 := { s1 with fab := { s1.fab with probes := s1.fab.probes.filter fun p => p.1 != m } }
      exec (.probeack r) s = .next (if (upPorts s2).any fun p => portPeer s2 p == m then unfence s2 m else s2))) ∧
  (∀ (tag : Nat) (s : State) (o : Outst), tfind s.fab.outst tag = some o →
    exec (.requestTimeout tag o.stamp) s = .next (synthesise (rincHold s (fabcfg + 24) 32 32) tag o 2)) ∧
  (∀ (m stamp : Nat) (s : State), s.fab.probes.contains (m, stamp) = true → fenced s m = false →
    let s1 := { s with fab := { s.fab with probes := s.fab.probes.filter fun p => p.1 != m } }
    exec (.probeTimeout m stamp) s = .next (postPlain (flood (fence s1 m) m) 0x0D 0 (BitVec.ofNat 64 m) 0)) ∧
  (∀ (port : Nat) (s : State), portUp s port = true → fenced s (portPeer s port) = true → s.fab.outst.length < 65536 →
    exec (.probePeriodic port) s = .next (after (enterBy (queueOn port) s (probeMsg s (portPeer s port)) (.probe (portPeer s port))
      (.peer (moduleNo s) 65540)) 125000 (.probePeriodic port))) ∧
  (∀ (m : Nat) (s : State), fenced s m = false → exec (.fenceNotice m) s = .next (flood (fence s m) m)) ∧
  (∀ (m : Msg) (s : State), exec (.probe m) s =
    .next (sendMsg s { msgBlank m.src (moduleNo s) 0x13 with vf := m.vf, dl := m.dl, tag := m.tag }))

namespace Sys2Proof.Claims

/-- The instruction puts a request of a peer's message m on its way to its home here, as transaction x. -/
def startsFor (i : Instr) (s : State) (m : Msg) (ok : Txn → Prop) : Prop :=
  ∃ t x, exec i s = .next t ∧ getTxn t s.ids = some x ∧ x.src = .peer m.src m.tag ∧ x.vf = m.vf ∧ x.pa = m.addr ∧ x.peer = none ∧
    ok x ∧ (∀ n, n ≠ s.ids → getTxn t n = getTxn s n) ∧ t.mem = s.mem ∧ t.regs = s.regs

end Sys2Proof.Claims

/-- R395, R409, R410, R271: what a message from a peer asks for at tiers 0 to 2; outside them it is answered with status 3 (logs 47, 82).
Attributes stand where log 20 puts them; a copy of an ordered multicast that comes again is acknowledged (log 81). -/
def Obligations.RequestsFromPeers : Prop :=
  ∀ (m : Msg) (s : State),
    (peerReach m.addr m.len = false → exec (.read m) s = .next (respondError s m 3)) ∧
    (peerReach m.addr m.len = true → startsFor (.read m) s m fun x =>
      x.kind = .load ∧ x.rd = (List.range m.len).map fun i => (m.addr + i, i)) ∧
    (peerReach m.addr (max 1 m.len) = true → startsFor (.putWithoutPost m) s m fun x => x.kind = .store ∧ x.wr = putCells m) ∧
    (peerReach m.addr m.len = true → peerReach m.cnt 8 = true → startsFor (.putWithPost m) s m fun x =>
      x.kind = .store ∧ x.wr = putCells m ∧ x.cnt = m.cnt ∧ x.add = if m.cu then m.len else 1) ∧
    (let n := 4 * 2 ^ m.size
     peerReach m.addr n = true → (m.sub < 11 ∧ m.size < 2 ∨ m.sub = 11 ∧ m.size ≤ 2) →
     startsFor (.atomic m) s m fun x => x.kind = .atomic ∧ x.len = n ∧
       (m.sub < 11 → aop x.req.op = .amo true m.sub n false ∧ x.entry = m.opa.zeroExtend 2048) ∧
       (m.sub = 11 → aop x.req.op = .cas n false)) ∧
    (peerReach m.addr 16 = true → m.sub ≤ 4 → startsFor (.sync m) s m fun x =>
      x.kind = (if m.sub < 3 then .acquire else .release) ∧ x.entry = m.opa.zeroExtend 2048 ∧ x.add = m.opb.toNat) ∧
    (∀ (i : Instr) (k : Nat), Sys2Proof.decodeTableWord 32 (m.opa.toNat % 2 ^ 32) = some i → aop i = .pcmd k →
      tierOf m.addr = some 0 → m.addr % 256 + m.cnt % 512 ≤ 256 → m.cnt % 512 ≠ 0 → startsFor (.pcmdPart m) s m fun x =>
        x.kind = .pcmd ∧ x.req.op = i ∧ x.len = m.cnt % 512 ∧ x.entry = m.data ∧ x.lmask = m.opb) ∧
    (peerReach m.addr m.len = true →
      (let t := { omTxn m with fe := 10 }
       exec (.orderedMulticastToRoot m) s =
         .next (omRoot (setTxn { s with ids := s.ids + 1 } s.ids { t with kind := .fe }) s.ids t)) ∧
      (let k := omKey m.vf m.sub
       let d := (m.sq + 2 ^ 32 - tget 0 s.fab.omNext k) % 2 ^ 32
       let s1 := { s with fab := { s.fab with omNext := tset s.fab.omNext k ((m.sq + 1) % 2 ^ 32) } }
       (d = 0 → exec (.orderedMulticastCopy m) s = .next (omDrain k 256 (omPerform s1 (omTxn m)))) ∧
       (d ≠ 0 → d < 2 ^ 31 → (s.fab.omHeld.filter fun x => omKey x.vf x.sub == k).length < 256 →
         exec (.orderedMulticastCopy m) s = .next { s with fab := { s.fab with omHeld := s.fab.omHeld ++ [m] } }) ∧
       (2 ^ 31 ≤ d → exec (.orderedMulticastCopy m) s = .next (respond s m 0x10 0 0 0 0))))

/-! Collectives, migration, the host, starts. -/

/-- R415 to R419: a contribution, by a context's STA.64 or a host function of the entry's own VF, or by the physical function, which is
taken for any VF (log 77), opens its sequence, or is refused and counted; a partial is counted in the sequence open here, or one held for
the next (log 77); results and aborts go down, an abort behind a record that still waits for its place (R231); EN taken away discards what
stands; a sequence without a record times out. -/
def Obligations.AllReduce : Prop :=
  ∀ (v i : Nat) (s : State),
    let n := arNext s v i
    let own (src : ReqSrc) : Bool := match src with
      | .ctx g _ => vfOf s g == v
      | .host (some f) => f == v
      | _ => true
    (∀ (src : ReqSrc) (c : Word64),
      own src = false ∨ (arFind s v i).isSome = true ∨ rbit s (arcfg v i) 0 = false ∨ 8 < rfld s (arcfg v i) 1 4 ∨ arList s v i = none ∨
          (∃ l, arList s v i = some l ∧ arIndex s l = none) →
        exec (.arcontWrite src v i c) s = .next (rincHold s (arcfg v i + 24) 32 32)) ∧
    (∀ (src : ReqSrc) (c : Word64) (l : List Nat), own src = true → arFind s v i = none → rbit s (arcfg v i) 0 = true →
      rfld s (arcfg v i) 1 4 ≤ 8 → arList s v i = some l → (arIndex s l).isSome = true →
      let mine := s.arHeld.filter fun h => h.v == v && h.i == i && h.n == n
      let s1 := arSet { s with arHeld := s.arHeld.filter fun h => !(h.v == v && h.i == i && h.n == n) }
        { v := v, i := i, n := n, c := some c, parts := mine.map fun h => (h.child, h.val), sentUp := false, since := s.clock,
          toWrite := none, redo := false, ends := false }
      exec (.arcontWrite src v i c) s = .next (arTry (after s1 1250000 (.allreduceTimeout v i n)) v i)) ∧
    (∀ c : Word64, c.getLsbD 0 = false → ∃ t, exec (.arcfgWrite v i 0 c) s = .next t ∧ arFind t v i = none ∧
      (∀ h ∈ t.arHeld, ¬ (h.v = v ∧ h.i = i)) ∧ arNext t v i = 0) ∧
    (∀ a, arFind s v i = some a →
      (∀ x st, a.toWrite = some (x, st) → exec (.allreduceTimeout v i a.n) s = .next
        (let s1 := arRecord s v i a.n x st
         if a.ends = true ∧ arFind s1 v i = none then arAbortHere s1 v i ((a.n + 1) % 2 ^ 32) else s1)) ∧
      (a.toWrite = none → a.c.isSome = true → a.since + 1250000 ≤ s.clock →
        exec (.allreduceTimeout v i a.n) s = .next (arRecord s v i a.n 0 3))) ∧
    (∀ (m : Msg) (l : List Nat) (j k : Nat), m.vf = v → m.sub = i → arList s v i = some l → arIndex s l = some j →
      l.findIdx? (fun x => x == m.src) = some k → (arKids l.length j).contains k = true →
      (∀ a, arFind s v i = some a → a.n = m.sq → exec (.allReducePartial m) s =
        .next (arTry (respond (arSet s { a with parts := (a.parts.filter fun p => p.1 != k) ++ [(k, m.opa)] }) m 0x10 0 0 0 0) v i)) ∧
      (arFind s v i = none → m.sq = n → (s.arHeld.any fun h => h.v == v && h.i == i && h.child == k) = false →
        exec (.allReducePartial m) s = .next (respond
          { s with arHeld := s.arHeld ++ [{ v := v, i := i, n := m.sq, child := k, val := m.opa }] } m 0x10 0 0 0 0))) ∧
    (∀ m : Msg, m.vf = v → m.sub = i →
      exec (.allReduceResult m) s = .next (arDown (respond s m 0x10 0 0 0 0) v i m.sq m.opa 0) ∧
      (∀ a, arFind s v i = some a → a.toWrite.isSome = true → (a.n + 1) % 2 ^ 32 = m.sq % 2 ^ 32 →
        exec (.allReduceAbort m) s = .next (arSet (respond s m 0x10 0 0 0 0) { a with ends := true })) ∧
      (let s1 := respond s m 0x10 0 0 0 0
       ∀ l, (∀ a, arFind s v i = some a → a.toWrite = none) → arList s v i = some l →
        (arIndex s l ≠ some 0 → exec (.allReduceAbort m) s = .next (arDown s1 v i m.sq 0 2)) ∧
        (arIndex s l = some 0 → tget 0 s1.arEnd (16 * v + i) ≠ m.sq + 1 → (arNext s1 v i + 2 ^ 32 - m.sq) % 2 ^ 32 < 2 ^ 31 →
          exec (.allReduceAbort m) s =
            .next (arDown { s1 with arEnd := tset s1.arEnd (16 * v + i) (m.sq + 1) } v i m.sq 0 2)) ∧
        (arIndex s l = some 0 → tget 0 s1.arEnd (16 * v + i) = m.sq + 1 → exec (.allReduceAbort m) s = .next s1))) ∧
    (∀ (x : Word64) (st : Nat), hwReady s (rfld s (arcfg v i + 8) 4 46 * 16) 16 = true →
      hwReady s (rfld s (arcfg v i + 16) 3 47 * 8) 8 = true → arRecord s v i n x st = arWrite s v i n x st)

/-- R422 to R428: the source seals and sends, is closed, and counts the peers that follow; the destination pulls, installs and
prefetches. A PULL is answered by an ACK, and the pace of prefetching is free (log 79); page data that comes after the install is
acknowledged and not written (log 78); a REDIRACK acknowledges the pair of the VF that it is tagged with, else the module's oldest, and the
write to REDIRACK drops the entries of that source VF (log 128). -/
def Obligations.Migration : Prop :=
  ∀ s : State,
    (∀ m : Msg,
      let v := m.opb.toNat % 128
      let u := m.opa.toNat % 2 ^ 57 / 2 ^ 16
      ((rbit s (migs v) 0 && decide (rfld s (migs v + 8) 16 41 ≤ u) && decide (u < rfld s (migs v + 16) 16 41)) = false →
        exec (.pull m) s = .next (respondError s m 11)) ∧
      ((rbit s (migs v) 0 && decide (rfld s (migs v + 8) 16 41 ≤ u) && decide (u < rfld s (migs v + 16) 16 41)) = true →
        (∀ x, (s.mig.seals.find? fun x => x.v == v && x.unit == u) = some x →
          exec (.pull m) s = .next (sendUnit (respond s m 0x10 0 0 0 0) x)) ∧
        (∀ e, (s.mig.seals.find? fun x => x.v == v && x.unit == u) = none → walkEntry s v (u * 2 ^ 16) = some (e, 0) →
          let h := handleOf (u * 2 ^ 16) e 0
          let x : Sealed := { frame := handlePa h (u * 2 ^ 16) / 2 ^ 16, v := v, unit := u, dest := rfld s (migs v) 5 14,
                              dframe := m.addr / 2 ^ 16, sent := false }
          hTier h < 2 → hTwin h = false → hMig h ≠ 3 → ∃ t, exec (.pull m) s = .next t ∧ t.mig.seals = s.mig.seals ++ [x] ∧
            (∀ a, a ≠ bmapAt s v u → mread t a = mread s a) ∧
            (hwReady s (bmapAt s v u) 1 = true → badByte s (bmapAt s v u) = false → migFrame t (bmapAt s v u) = false →
              tierOf (bmapAt s v u) = some 0 ∨ tierOf (bmapAt s v u) = some 1 → mread t (bmapAt s v u) = 1)))) ∧
    (∀ m : Msg,
      let s1 := respond s m 0x10 0 0 0 0
      ((s1.mig.units.find? fun u => u.frame == m.addr / 2 ^ 16) = none → exec (.pagedata m) s = .next s1) ∧
      (∀ u, (s1.mig.units.find? fun u => u.frame == m.addr / 2 ^ 16) = some u → u.bits.getLsbD (m.addr / 256 % 256) = false →
        srcFenced s u.v = false → hwReady s (m.addr / 256 * 256) 256 = true →
        let u1 := { u with bits := u.bits ||| BitVec.ofNat 256 (2 ^ (m.addr / 256 % 256)), got := u.got + 1 }
        let s2 := hwWriteHere s1 (cellsAt (m.addr / 256 * 256) (bytesOf m.data 256))
        let us := s2.mig.units.map fun x => if x.v == u.v && x.unit == u.unit then u1 else x
        let s3 := { s2 with mig := { s2.mig with units := us } }
        exec (.pagedata m) s = .next (if u.got + 1 = 256 then installUnit s3 u1 else s3)) ∧
      (∀ u, (s1.mig.units.find? fun u => u.frame == m.addr / 2 ^ 16) = some u → srcFenced s u.v = true →
        exec (.pagedata m) s = .next s)) ∧
    (∀ m : Msg,
      let v := m.opa.toNat % 128
      let s1 := respond s m 0x10 0 0 0 0
      let less (p : Nat × Nat × Nat) : State := rsetF
        { s1 with mig := { s1.mig with peers := s1.mig.peers.filter fun x => x != p } } (migs v + 32) 0 32
        (rfld s1 (migs v + 32) 0 32 - 1)
      (s1.mig.peers.contains (v, m.src, m.vf) = true → exec (.redirack m) s = .next (less (v, m.src, m.vf))) ∧
      (∀ p, s1.mig.peers.contains (v, m.src, m.vf) = false → (s1.mig.peers.find? fun p => p.1 == v && p.2.1 == m.src) = some p →
        exec (.redirack m) s = .next (less p))) ∧
    (∀ (v : Nat) (c : Word64), ∃ t, exec (.redirackWrite v c) s = .next t ∧ t.mem = s.mem ∧
      ∀ r ∈ t.fab.redir, ¬ (r.m = c.toNat % 2 ^ 14 ∧ r.vf = c.toNat / 2 ^ 14 % 128)) ∧
    (∀ v, (rbit s (migs v) 2 = true → rfld s (migs v + 32) 0 32 = 0 →
        exec (.migsClose v) s = .next (rsetF s (migs v) 4 1 1)) ∧
      (rbit s (migs v) 2 = false → exec (.migsClose v) s = .next s)) ∧
    (∀ (x : Sealed) (stamp : Nat), (s.mig.seals.find? fun y => frameTimer y.frame == frameTimer x.frame) = some x →
      x.sent = false → exec (.pagedataTimeout (frameTimer x.frame) stamp) s = .next (sendUnit s x)) ∧
    (∀ (tag f i : Nat) (o : Outst), tag < 65536 → tfind s.fab.outst tag = some o → o.use = .page f i →
      exec (.pagedataTimeout tag o.stamp) s =
        .next (pageAgain (rincHold (setOutst s (tdel s.fab.outst tag)) (fabcfg + 24) 32 32) f i)) ∧
    (∀ (v u stamp : Nat) (x : MigUnit), (s.mig.units.find? fun x => x.v == v && x.unit == u && x.stamp == stamp && x.pulled) = some x →
      fenced s (rfld s (migd v) 2 14) = false → exec (.pullTimeout v u stamp) s =
        .next (if x.got = 256 then installUnit s x else sendPull s x)) ∧
    (∀ (v : Nat) (u : MigUnit), rbit s (migd v) 0 = true → rbit s (migd v) 1 = true →
      (s.mig.units.find? fun u => u.v == v && !u.pulled) = some u → srcFenced s v = false → ∃ t, exec (.migrationPrefetch v) s = .next t ∧
        t.mig = (sendPull s u).mig ∧ t.regs = (sendPull s u).regs ∧ t.fab = (sendPull s u).fab)

/-- R208, R227, R431 to R433: the host's accesses: one that comes by another port than its function's, with more bytes than a request
carries, or of which some byte fails its check, is completed with an abort and has no effect; else the access is on its way. What BAR0 and
BAR2 reach is log 89. An ATS Invalidation forgets its range. R429, R430: what a host's request finds at the arbiter, whatever HARB.EN holds
(log 90), and how the entry moves on. -/
def Obligations.HostSide : Prop :=
  (∀ (o : HostReq) (s : State),
     let spans := cutAt 65536 o.addr o.len
     let ok (nd : HostNeed) : Bool := hostTakes s o nd && spans.all fun p => (hostPlace s o nd p.1 p.2).isSome
     let bad : Host.Outcome State Fault Refusal := .next (emitOut s (.completion o.port o.tag false []))
     let starts (i : Instr) : Prop := ∃ t x, exec i s = .next t ∧ getTxn t s.ids = some x ∧ x.src = .host (o.port * 1024 + o.tag) ∧
       x.kind = .fe ∧ t.outbox = s.outbox ∧ t.mem = s.mem ∧ t.regs = s.regs
     let rd : HostNeed := { read := true, write := false, op := .none }
     let wr : HostNeed := { read := false, write := true, op := .none }
     (o.len ≠ 0 → ok rd = true → starts (.hostMemoryRead o)) ∧ (o.len = 0 ∨ ok rd = false → exec (.hostMemoryRead o) s = bad) ∧
     (o.len ≠ 0 → ok wr = true → starts (.hostMemoryWrite o)) ∧ (o.len = 0 ∨ ok wr = false → exec (.hostMemoryWrite o) s = bad) ∧
     (∀ i, hostOp o = some i → o.addr % o.len = 0 → o.bar0 = false →
       (ok { wr with op := aop i } = true → starts (.hostAtomicop o)) ∧
       (ok { wr with op := aop i } = false → exec (.hostAtomicop o) s = bad)) ∧
     (hostOp o = none ∨ o.addr % o.len ≠ 0 ∨ o.bar0 = true → exec (.hostAtomicop o) s = bad) ∧
     (∀ lo hi : Nat,
       let page (x : Nat) : Nat := x + rfld s (hostcfg + 8) 12 52
       exec (.atsInvalidation lo hi) s = .next (atsFinish
         { s with ats := s.ats.filter fun e => !(decide (lo ≤ page e.1) && decide (page e.1 ≤ hi)), atsWait := s.atsWait ++ [(lo, hi)] }))) ∧
  (∀ (v : Nat) (s : State),
     (let u := rfld s (harbReg v + 8) 16 41
      let st (n : Nat) : State := rsetF s (harbReg v + 8) 1 3 n
      (harbFind s v u = none → 256 ≤ s.harb.length → exec (.harbGo v) s = .next (st 4)) ∧
      (harbFind s v u = none → s.harb.length < 256 → ∃ t e, exec (.harbGo v) s = .next t ∧ rfld t (harbReg v + 8) 1 3 = 1 ∧
        harbFind t v u = some e ∧ e.st = .movingH) ∧
      (∀ e, harbFind s v u = some e → exec (.harbGo v) s =
        .next (st (match e.st with
          | .movingD => 2
          | .dwellD => 3
          | .movingH => 1
          | .dwellH => 1)))) ∧
     (∀ (u : Nat) (e : HarbEnt), harbFind s v u = some e →
       (e.st = .movingD → ∃ t x, exec (.harbDone v u) s = .next t ∧ harbFind t v u = some x ∧ x.st = .dwellD) ∧
       (e.st = .movingH → ∃ t x, exec (.harbDone v u) s = .next t ∧ harbFind t v u = some x ∧ x.st = .dwellH) ∧
       ((e.st = .dwellD ∨ e.st = .dwellH) → exec (.harbDone v u) s = .next s)) ∧
     (∀ (u stamp : Nat), ∃ t, exec (.harbDwellExpire v u stamp) s = .next t ∧ { t with harb := s.harb } = s ∧
       ∀ e, e ∈ t.harb ↔ e ∈ s.harb ∧ ¬ (e.v = v ∧ e.unit = u ∧ e.stamp = stamp ∧ (e.st = .dwellD ∨ e.st = .dwellH))))

/-- R447 to R449: a start, which is one step (log 84), a cold one with nothing in the module's memory (log 1) and no context, a warm one
with memory as it was or scrubbed; the host's memory stays; a step past its limit fails the start; GO in the service state gives the ports
their EN back and begins anew. R11, R182, R304, R451 to R453: a register write that may be made, of MXCTL's first word; the governor's
limits follow the power measured; wear, its flash, power-off, the quote, whose signature is opaque (log 85). -/
def Obligations.StartsPowerRegisters : Prop :=
  (∀ (o : StartIn) (s : State), ∃ t, exec (.coldStart o) s = .next t ∧ t.start.powered = true ∧ t.mem = hostMem s ∧ t.ctxs = [] ∧
    t.txns = [] ∧ t.groups = []) ∧
  (∀ (o : StartIn) (s : State), ∃ t, exec (.warmReset o) s = .next t ∧ t.start.powered = true ∧ (t.mem = s.mem ∨ t.mem = hostMem s) ∧
    t.ctxs = [] ∧ t.txns = [] ∧ t.groups = [] ∧ t.start.flash.wear = s.start.flash.wear) ∧
  (∀ (n : Nat) (s : State), rfld s startst 0 3 = n → exec (.startStepTimeout n s.start.stamp) s = .next (failStart s n)) ∧
  (∀ (o : StartIn) (s : State),
    (rbit s startst 3 = true → exec (.startstGo o) s =
      .next (beginStart ((List.range 47).foldl (fun s p => rsetF s (rport p) 0 1 1) (rsetF s startst 3 1 0)) o false false)) ∧
    (rbit s startst 3 = false → exec (.startstGo o) s = .next s)) ∧
  (∀ (src : ReqSrc) (n : Nat) (c : Word64) (s : State), n < 1024 →
    (regAllowed s src (mxctl n) true 8 = true → exec (.registerWrite src (mxctl n) c 8) s =
      .next (rset s (mxctl n) ((rget s (mxctl n) &&& ~~~ 0xFFFFF) ||| (c &&& 0xFFFFF)))) ∧
    (regAllowed s src (mxctl n) true 8 = false → exec (.registerWrite src (mxctl n) c 8) s = .next s)) ∧
  (∀ (die watts total : Nat) (s : State), ∃ t, exec (.powerAdjust die watts total) s = .next t ∧
    rfld t powcfg 16 16 = total % 65536 ∧ ∀ i, i < 256 →
      let n := 256 * (die % 4) + i
      let lim := rfld s (mxctl n) 0 16
      let step := rfld s powcfg 40 16
      rfld t (mxctl n) 0 16 = max 1024 (min 0xFFFF
        (if rfld s powcfg 0 16 * rfld s powcfg 32 8 < watts * 256 then lim - step else lim + step))) ∧
  (∀ (u temp : Nat) (s : State), u < 12 → ∃ t, exec (.thermalCycleCount u temp) s = .next t ∧
    rfld t (wearReg u + 16) 0 16 = max (rfld s (wearReg u + 16) 0 16) (min 0xFFFF temp) ∧ t.mem = s.mem) ∧
  (∀ s : State, (∃ t, exec .wearFlashUpdate s = .next t ∧ { t with start := s.start, agenda := s.agenda } = s ∧
      ∀ i, i < 48 → tget 0 t.start.flash.wear i = rget s (wearReg 0 + 8 * i)) ∧
    (∃ t, exec .powerOff s = .next t ∧ { t with start := s.start } = s ∧ t.start.powered = false ∧
      ∀ i, i < 48 → tget 0 t.start.flash.wear i = rget s (wearReg 0 + 8 * i))) ∧
  (∀ (tag : Nat) (s : State),
    let b := (List.range 32).flatMap fun i => bytesOf (rget s (measReg 0 + 8 * i)) 8
    exec (.attestationQuote tag) s = .next (emitOut s (.quote tag (b ++ Config.signature b))))
end

