-- ==== Sys2Proof/Laws/Exec.lean ====
section
/-!
SUPPORT. `exec` and `execSyl` give a syllable one meaning.
-/
namespace Sys2Proof.Machine

/-- Of every instruction: its meaning as a course holds it is its meaning, or it stands in no course. -/
theorem execSyl_eq (i : Instr) : (∀ s, execSyl i s = exec i s) ∨ (∀ s, execSyl i s = .next s) :=
  match i with
  | .add _ _ | .sub _ _ | .mul _ _ | .mulh _ _ | .mulhU _ _ | .div _ _ | .divU _ _ | .rem _ _ | .remU _ _ | .abs _ _
  | .and _ _ | .or _ _ | .xor _ _ | .andn _ _ | .shl _ _ | .shr _ _ | .sra _ _ | .rotl _ _ | .clz _ _ | .popc _ _
  | .extb _ _ | .extbS _ _ | .depb _ _ | .min _ _ | .max _ _ | .minU _ _ | .maxU _ _ | .mov _ _ | .lea _ _ _ | .addi _ _
  | .shlImm _ _ | .shrImm _ _ | .sraImm _ _ | .rotlImm _ _ | .movi _ _ | .mfsr _ _ | .mtsr _ _ | .cmp _ _ | .cmpi _ _
  | .plog _ _ | .pset _ _ | .klog _ _ | .kpopc _ _ | .kfirst _ _ | .sel _ _ _ | .vadd _ _ _ | .vsub _ _ _ | .vmul _ _ _
  | .vmin _ _ _ | .vmax _ _ _ | .vfma _ _ _ | .vfmaNa _ _ _ | .vcmp _ _ _ | .vand _ _ | .vor _ _ | .vxor _ _ | .vsel _ _
  | .vshl _ _ | .vshr _ _ | .vsra _ _ | .vmov _ _ | .vabs _ _ _ | .vscale _ _ _ | .vcvt _ _ | .vrcp _ _ | .vrsq _ _
  | .vexp2 _ _ | .vlog2 _ _ | .vperm _ _ | .vbcast _ _ | .vrot _ _ | .vext _ _ | .vins _ _ | .viota _ _ | .vpack _ _
  | .vunpk _ _ | .vred _ _ _ | .vscan _ _ _ | .vdot _ _ _ | .lda _ _ _ | .sta _ _ _ | .bind _ _ | .fence _ _
  | .pfence _ _ | .ldv _ _ _ | .ldvs _ _ _ | .ldg _ _ _ | .stv _ _ _ | .stvs _ _ _ | .stg _ _ _ | .aadd _ _ | .bset _ _
  | .trans _ _ | .hrel _ _ | .hchk _ _ | .preq _ _ | .feset _ _ | .fewait _ _ | .amo32 _ _ _ | .amo64 _ _ _
  | .amos32 _ _ _ | .amos64 _ _ _ | .cas _ _ _ | .acqX _ _ | .acqSh _ _ | .acqEv _ _ | .relUn _ _ | .relPost _ _
  | .pcmdAddI32 _ _ | .pcmdAddF32 _ _ | .pcmdAxpyF32 _ _ | .pcmdMaxF32 _ _ | .pcmdCvtBf16 _ _ | .pcmdFill _ _
  | .pcmdCopy _ _ | .pcmdAcc _ _ | .cpy _ _ _ | .cpyq _ _ _ | .drain _ _ | .cwait _ _ | .cadd _ _ | .cset _ _
  | .put _ _ _ | .putm _ _ _ | .putmO _ _ _ | .shdw _ _ | .publ _ _ | .sdef _ _ | .ssub _ _ | .sfeed _ _ | .srel _ _
  | .mload _ _ | .mcall _ _ | .mwait _ | .mrdaVector _ _ | .mrdaScratchpad _ _ | .mzro _ _ | .engw _ _ _ | .bar _ _
  | .bara _ _ | .barw _ _ | .waitev _ _ | .lnch _ _ _ | .csave _ _ | .cload _ _ | .freeze _ _ | .thaw _ _ | .discard _ _
  | .vdrain _ _ | .hinvv _ _ | .scrub _ _ | .trig _ _ | .nop _ | .brt _ _ | .brc _ _ | .jmp _ _ | .jmpi _ _ | .call _ _ _
  | .ret _ _ | .loop _ _ | .lset _ _ _ | .exit _ | .yield _ | .trap _ _ | .eret _ | .halt _ => .inl fun _ => rfl
  | .uend | .step _ _ | .scl _ | .band _ _ | .accsel _ _ | .accselG _ _ | .uloop _ _ | .uloopG _ _ | .skip _ _ _
  | .sig _ _ | .waits _ _ _ | .contextSelect _ | .asyncTrapEntry _ | .resultLanding _ | .laqRequestLeave _ | .ldqFill _
  | .fullEmptyWaitEnd _ | .loadPerform _ | .storePerform _ | .atomicPerform _ | .syncAcquireStep _ | .syncReleaseStep _
  | .releasePerform _ _ | .fenceComplete _ | .pfenceComplete _ | .bindPerform _ | .tableWalkComplete _ | .hinvalStart
  | .hinvalComplete | .barrierArrivalCount _ _ | .groupRetire _ | .launchComplete _ | .dispatchStep | .launchPacketTake _
  | .stewardPacketTake _ | .launchEngineAppend _ _ | .counterAddPerform _ _ | .counterSetPerform _ _ | .shdwPerform _ _
  | .enginePartIssue _ | .copyPartLand _ | .copyComplete _ _ | .putComplete _ _ | .sharedCopyPacketTake _
  | .feederEntryFill _ | .pumpPartEnqueue _ | .pumpPartExecute _ | .rarmArm _ _ | .matrixCommandBegin _
  | .routineComplete _ | .governorCheck _ | .governorFreezeEnd _ | .faultBatchFlush _ | .faultResume _ _ | .traceSample _
  | .hostFlr _ | .parityAlert _ _ | .internalLinkFailure _ _ | .null _ _ | .head _ _ | .body _ _ | .tail _ _ | .solo _ _
  | .flitCrcFail _ _ | .nak _ _ | .nakRepeat _ | .rsreq _ _ | .rsack _ _ | .rsreqTimeout _ _ | .linkid _ _
  | .laneScoreUpdate _ _ | .laneLockLost _ _ | .portTrainingAttempt _ _ | .portEnableWrite _ _ | .laneHoldRelease _ _
  | .treeAdv _ _ | .treeDone _ _ | .treeInstall _ _ | .treeStableTimer _ | .fabricRequestInject _ | .escapeWaitExpire _
  | .escapeTableWaitExpire _ | .requestTimeout _ _ | .probeTimeout _ _ | .probePeriodic _ | .fenceNotice _ | .read _
  | .putWithoutPost _ | .putWithPost _ | .atomic _ | .sync _ | .pcmdPart _ | .orderedMulticastToRoot _
  | .orderedMulticastCopy _ | .probe _ | .ack _ | .data _ | .atomicData _ | .probeack _ | .error _ | .allReducePartial _
  | .allReduceResult _ | .allReduceAbort _ | .pull _ | .pagedata _ | .redirack _ | .arcontWrite _ _ _ _
  | .arcfgWrite _ _ _ _ | .allreduceTimeout _ _ _ | .migsClose _ | .redirackWrite _ _ | .pagedataTimeout _ _
  | .pullTimeout _ _ _ | .migrationPrefetch _ | .harbGo _ | .harbDone _ _ | .harbDwellExpire _ _ _ | .hostMemoryRead _
  | .hostMemoryWrite _ | .hostAtomicop _ | .atsInvalidation _ _ | .coldStart _ | .warmReset _ | .startStepTimeout _ _
  | .startstGo _ | .powerAdjust _ _ _ | .thermalCycleCount _ _ | .wearFlashUpdate | .powerOff | .attestationQuote _
  | .registerWrite _ _ _ _ | .uncorrectableError _ | .faultRingRoom _ | .eventRingRoom | .escapeParityQuiet _
  | .fabricJoin => .inr fun _ => rfl

end Sys2Proof.Machine
end

