-- ==== Sys2Proof/Laws/Table.lean ====
section
/-!
SUPPORT. The laws of sparse tables: what a lookup finds after a removal, an insertion, a setting, and that each keeps the
canonical form.
-/
namespace Sys2Proof.Machine

variable {α : Type}

@[simp] theorem tfind_nil (k : Nat) : tfind ([] : Tab α) k = none := rfl
@[simp] theorem tget_nil (d : α) (k : Nat) : tget d [] k = d := rfl

theorem tfind_tdel (t : Tab α) (k j : Nat) : tfind (tdel t k) j = if j = k then none else tfind t j := by
  induction t with
  | nil => simp [tdel]
  | cons e r ih =>
    obtain ⟨i, v⟩ := e
    by_cases hi : i = k
    · simp only [tdel, hi, if_true, ih, tfind]
      by_cases hj : j = k
      · simp [hj]
      · simp [hj, Ne.symm hj]
    · simp only [tdel, hi, if_false, tfind, ih]
      by_cases hij : i = j
      · subst hij; simp [hi]
      · simp [hij]

theorem tfind_tins (t : Tab α) (k j : Nat) (v : α) (h : tfind t k = none) :
    tfind (tins t k v) j = if j = k then some v else tfind t j := by
  induction t with
  | nil => simp [tins, tfind, eq_comm]
  | cons e r ih =>
    obtain ⟨i, w⟩ := e
    have hik : i ≠ k := by
      intro e; simp [tfind, e] at h
    have hr : tfind r k = none := by simpa [tfind, hik] using h
    by_cases hlt : k < i
    · simp only [tins, hlt, if_true, tfind]
      by_cases hj : j = k
      · simp [hj]
      · simp [hj, Ne.symm hj]
    · simp only [tins, hlt, if_false, tfind, ih hr]
      by_cases hij : i = j
      · subst hij; simp [hik]
      · simp [hij]

theorem tfind_tset (t : Tab α) (k j : Nat) (v : α) : tfind (tset t k v) j = if j = k then some v else tfind t j := by
  unfold tset
  rw [tfind_tins _ _ _ _ (by simp [tfind_tdel]), tfind_tdel]
  split <;> simp

@[simp] theorem tfind_tset_self (t : Tab α) (k : Nat) (v : α) : tfind (tset t k v) k = some v := by simp [tfind_tset]

@[simp] theorem tget_tset_self (d : α) (t : Tab α) (k : Nat) (v : α) : tget d (tset t k v) k = v := by simp [tget]

theorem tget_tset (d : α) (t : Tab α) (k j : Nat) (v : α) : tget d (tset t k v) j = if j = k then v else tget d t j := by
  unfold tget
  rw [tfind_tset]
  split <;> simp

theorem tget_tset_ne (d : α) (t : Tab α) {k j : Nat} (v : α) (h : j ≠ k) : tget d (tset t k v) j = tget d t j := by
  simp [tget_tset, h]

theorem tget_tput [DecidableEq α] (d : α) (t : Tab α) (k j : Nat) (v : α) :
    tget d (tput d t k v) j = if j = k then v else tget d t j := by
  unfold tput
  split
  · next e => simp only [tget, tfind_tdel]; split <;> simp [e]
  · rw [tget_tset]

@[simp] theorem tget_tput_self [DecidableEq α] (d : α) (t : Tab α) (k : Nat) (v : α) : tget d (tput d t k v) k = v := by
  simp [tget_tput]

theorem tget_tput_ne [DecidableEq α] (d : α) (t : Tab α) {k j : Nat} (v : α) (h : j ≠ k) :
    tget d (tput d t k v) j = tget d t j := by
  simp [tget_tput, h]

/-! The canonical form. -/

theorem tsorted_mono {lo lo' : Nat} (t : Tab α) (hle : lo' ≤ lo) (h : tsorted lo t = true) : tsorted lo' t = true := by
  cases t with
  | nil => rfl
  | cons e r =>
    simp only [tsorted, Bool.and_eq_true, decide_eq_true_eq] at h ⊢
    exact ⟨by omega, h.2⟩

theorem tsorted_filter {lo : Nat} (t : Tab α) (p : Nat × α → Bool) (h : tsorted lo t = true) :
    tsorted lo (t.filter p) = true := by
  induction t generalizing lo with
  | nil => rfl
  | cons e r ih =>
    simp only [tsorted, Bool.and_eq_true, decide_eq_true_eq] at h
    rw [List.filter_cons]
    split
    · simp only [tsorted, Bool.and_eq_true, decide_eq_true_eq]
      exact ⟨h.1, ih h.2⟩
    · exact tsorted_mono _ (by omega) (ih h.2)

theorem tdel_eq_filter (t : Tab α) (k : Nat) : tdel t k = t.filter fun e => decide (e.1 ≠ k) := by
  induction t with
  | nil => rfl
  | cons e r ih => by_cases h : e.1 = k <;> simp [tdel, h, ih]

theorem tsorted_tins {lo : Nat} (t : Tab α) (k : Nat) (v : α) (hlo : lo ≤ k) (hk : ∀ e ∈ t, e.1 ≠ k)
    (h : tsorted lo t = true) : tsorted lo (tins t k v) = true := by
  induction t generalizing lo with
  | nil => simpa [tins, tsorted] using hlo
  | cons e r ih =>
    obtain ⟨i, w⟩ := e
    simp only [tsorted, Bool.and_eq_true, decide_eq_true_eq] at h
    have hik := hk _ (List.mem_cons_self ..)
    simp only at hik
    by_cases hlt : k < i
    · simp only [tins, hlt, if_true, tsorted, Bool.and_eq_true, decide_eq_true_eq]
      exact ⟨hlo, by omega, h.2⟩
    · simp only [tins, hlt, if_false, tsorted, Bool.and_eq_true, decide_eq_true_eq]
      exact ⟨h.1, ih (by omega) (fun e he => hk e (List.mem_cons_of_mem _ he)) h.2⟩

theorem mem_tins {t : Tab α} {k : Nat} {v : α} {e : Nat × α} (h : e ∈ tins t k v) : e = (k, v) ∨ e ∈ t := by
  induction t with
  | nil => simpa [tins] using h
  | cons x r ih =>
    obtain ⟨i, w⟩ := x
    by_cases hlt : k < i
    · simpa [tins, hlt] using h
    · simp only [tins, hlt, if_false, List.mem_cons] at h
      rcases h with h | h
      · exact .inr (by simp [h])
      · rcases ih h with h | h
        · exact .inl h
        · exact .inr (by simp [h])

variable [DecidableEq α] {d : α}

theorem twf_filter {t : Tab α} (p : Nat × α → Bool) (h : twf d t = true) : twf d (t.filter p) = true := by
  simp only [twf, Bool.and_eq_true, List.all_eq_true] at h ⊢
  exact ⟨tsorted_filter _ _ h.1, fun e he => h.2 e ((List.mem_filter.1 he).1)⟩

theorem twf_tdel {t : Tab α} (k : Nat) (h : twf d t = true) : twf d (tdel t k) = true := by
  rw [tdel_eq_filter]
  exact twf_filter _ h

theorem twf_tset {t : Tab α} (k : Nat) (v : α) (hv : v ≠ d) (h : twf d t = true) : twf d (tset t k v) = true := by
  have hd := twf_tdel k h
  simp only [twf, Bool.and_eq_true, List.all_eq_true] at hd ⊢
  refine ⟨tsorted_tins _ _ _ (Nat.zero_le _) ?_ hd.1, ?_⟩
  · intro e he
    rw [tdel_eq_filter] at he
    simpa using (List.mem_filter.1 he).2
  · intro e he
    rcases mem_tins he with rfl | he
    · simpa using hv
    · exact hd.2 e he

theorem twf_tput {t : Tab α} (k : Nat) (v : α) (h : twf d t = true) : twf d (tput d t k v) = true := by
  unfold tput
  split
  · exact twf_tdel k h
  · next hv => exact twf_tset k v hv h

end Sys2Proof.Machine
end

