-- ==== Sys2Proof/Laws/State.lean ====
section
/-!
SUPPORT. The fields of the state under each named update: the field it changes, and every other field as it was; reading
back a context, a core, a cluster, a port, a register after an update.
-/
namespace Sys2Proof.Machine
section
variable (s : State) (g : Nat) (c : Ctx)
@[simp] theorem setCtx_clock : (setCtx s g c).clock = s.clock := rfl
@[simp] theorem setCtx_ctr : (setCtx s g c).ctr = s.ctr := rfl
@[simp] theorem setCtx_ids : (setCtx s g c).ids = s.ids := rfl
@[simp] theorem setCtx_cur : (setCtx s g c).cur = s.cur := rfl
@[simp] theorem setCtx_iss : (setCtx s g c).iss = s.iss := rfl
@[simp] theorem setCtx_ctxs : (setCtx s g c).ctxs = tset s.ctxs g c := rfl
@[simp] theorem setCtx_cores : (setCtx s g c).cores = s.cores := rfl
@[simp] theorem setCtx_clusters : (setCtx s g c).clusters = s.clusters := rfl
@[simp] theorem setCtx_groups : (setCtx s g c).groups = s.groups := rfl
@[simp] theorem setCtx_launches : (setCtx s g c).launches = s.launches := rfl
@[simp] theorem setCtx_disp : (setCtx s g c).disp = s.disp := rfl
@[simp] theorem setCtx_mem : (setCtx s g c).mem = s.mem := rfl
@[simp] theorem setCtx_fe : (setCtx s g c).fe = s.fe := rfl
@[simp] theorem setCtx_spoiled : (setCtx s g c).spoiled = s.spoiled := rfl
@[simp] theorem setCtx_regs : (setCtx s g c).regs = s.regs := rfl
@[simp] theorem setCtx_l2 : (setCtx s g c).l2 = s.l2 := rfl
@[simp] theorem setCtx_rdc : (setCtx s g c).rdc = s.rdc := rfl
@[simp] theorem setCtx_txns : (setCtx s g c).txns = s.txns := rfl
@[simp] theorem setCtx_walks : (setCtx s g c).walks = s.walks := rfl
@[simp] theorem setCtx_chans : (setCtx s g c).chans = s.chans := rfl
@[simp] theorem setCtx_banks : (setCtx s g c).banks = s.banks := rfl
@[simp] theorem setCtx_alerts : (setCtx s g c).alerts = s.alerts := rfl
@[simp] theorem setCtx_binds : (setCtx s g c).binds = s.binds := rfl
@[simp] theorem setCtx_sump : (setCtx s g c).sump = s.sump := rfl
@[simp] theorem setCtx_faults : (setCtx s g c).faults = s.faults := rfl
@[simp] theorem setCtx_evq : (setCtx s g c).evq = s.evq := rfl
@[simp] theorem setCtx_fab : (setCtx s g c).fab = s.fab := rfl
@[simp] theorem setCtx_ar : (setCtx s g c).ar = s.ar := rfl
@[simp] theorem setCtx_arHeld : (setCtx s g c).arHeld = s.arHeld := rfl
@[simp] theorem setCtx_arEnd : (setCtx s g c).arEnd = s.arEnd := rfl
@[simp] theorem setCtx_mig : (setCtx s g c).mig = s.mig := rfl
@[simp] theorem setCtx_harb : (setCtx s g c).harb = s.harb := rfl
@[simp] theorem setCtx_ats : (setCtx s g c).ats = s.ats := rfl
@[simp] theorem setCtx_atsWait : (setCtx s g c).atsWait = s.atsWait := rfl
@[simp] theorem setCtx_freezes : (setCtx s g c).freezes = s.freezes := rfl
@[simp] theorem setCtx_thaws : (setCtx s g c).thaws = s.thaws := rfl
@[simp] theorem setCtx_start : (setCtx s g c).start = s.start := rfl
@[simp] theorem setCtx_outbox : (setCtx s g c).outbox = s.outbox := rfl
@[simp] theorem setCtx_inputs : (setCtx s g c).inputs = s.inputs := rfl
@[simp] theorem setCtx_turn : (setCtx s g c).turn = s.turn := rfl
@[simp] theorem setCtx_agenda : (setCtx s g c).agenda = s.agenda := rfl
end

section
variable (s : State) (g : Nat) (f : Ctx → Ctx)
@[simp] theorem modCtx_clock : (modCtx s g f).clock = s.clock := rfl
@[simp] theorem modCtx_ctr : (modCtx s g f).ctr = s.ctr := rfl
@[simp] theorem modCtx_ids : (modCtx s g f).ids = s.ids := rfl
@[simp] theorem modCtx_cur : (modCtx s g f).cur = s.cur := rfl
@[simp] theorem modCtx_iss : (modCtx s g f).iss = s.iss := rfl
@[simp] theorem modCtx_cores : (modCtx s g f).cores = s.cores := rfl
@[simp] theorem modCtx_clusters : (modCtx s g f).clusters = s.clusters := rfl
@[simp] theorem modCtx_groups : (modCtx s g f).groups = s.groups := rfl
@[simp] theorem modCtx_launches : (modCtx s g f).launches = s.launches := rfl
@[simp] theorem modCtx_disp : (modCtx s g f).disp = s.disp := rfl
@[simp] theorem modCtx_mem : (modCtx s g f).mem = s.mem := rfl
@[simp] theorem modCtx_fe : (modCtx s g f).fe = s.fe := rfl
@[simp] theorem modCtx_spoiled : (modCtx s g f).spoiled = s.spoiled := rfl
@[simp] theorem modCtx_regs : (modCtx s g f).regs = s.regs := rfl
@[simp] theorem modCtx_l2 : (modCtx s g f).l2 = s.l2 := rfl
@[simp] theorem modCtx_rdc : (modCtx s g f).rdc = s.rdc := rfl
@[simp] theorem modCtx_txns : (modCtx s g f).txns = s.txns := rfl
@[simp] theorem modCtx_walks : (modCtx s g f).walks = s.walks := rfl
@[simp] theorem modCtx_chans : (modCtx s g f).chans = s.chans := rfl
@[simp] theorem modCtx_banks : (modCtx s g f).banks = s.banks := rfl
@[simp] theorem modCtx_alerts : (modCtx s g f).alerts = s.alerts := rfl
@[simp] theorem modCtx_binds : (modCtx s g f).binds = s.binds := rfl
@[simp] theorem modCtx_sump : (modCtx s g f).sump = s.sump := rfl
@[simp] theorem modCtx_faults : (modCtx s g f).faults = s.faults := rfl
@[simp] theorem modCtx_evq : (modCtx s g f).evq = s.evq := rfl
@[simp] theorem modCtx_fab : (modCtx s g f).fab = s.fab := rfl
@[simp] theorem modCtx_ar : (modCtx s g f).ar = s.ar := rfl
@[simp] theorem modCtx_arHeld : (modCtx s g f).arHeld = s.arHeld := rfl
@[simp] theorem modCtx_arEnd : (modCtx s g f).arEnd = s.arEnd := rfl
@[simp] theorem modCtx_mig : (modCtx s g f).mig = s.mig := rfl
@[simp] theorem modCtx_harb : (modCtx s g f).harb = s.harb := rfl
@[simp] theorem modCtx_ats : (modCtx s g f).ats = s.ats := rfl
@[simp] theorem modCtx_atsWait : (modCtx s g f).atsWait = s.atsWait := rfl
@[simp] theorem modCtx_freezes : (modCtx s g f).freezes = s.freezes := rfl
@[simp] theorem modCtx_thaws : (modCtx s g f).thaws = s.thaws := rfl
@[simp] theorem modCtx_start : (modCtx s g f).start = s.start := rfl
@[simp] theorem modCtx_outbox : (modCtx s g f).outbox = s.outbox := rfl
@[simp] theorem modCtx_inputs : (modCtx s g f).inputs = s.inputs := rfl
@[simp] theorem modCtx_turn : (modCtx s g f).turn = s.turn := rfl
@[simp] theorem modCtx_agenda : (modCtx s g f).agenda = s.agenda := rfl
end

section
variable (s : State) (f : Ctx → Ctx)
@[simp] theorem modIssuer_clock : (modIssuer s f).clock = s.clock := rfl
@[simp] theorem modIssuer_ctr : (modIssuer s f).ctr = s.ctr := rfl
@[simp] theorem modIssuer_ids : (modIssuer s f).ids = s.ids := rfl
@[simp] theorem modIssuer_cur : (modIssuer s f).cur = s.cur := rfl
@[simp] theorem modIssuer_iss : (modIssuer s f).iss = s.iss := rfl
@[simp] theorem modIssuer_cores : (modIssuer s f).cores = s.cores := rfl
@[simp] theorem modIssuer_clusters : (modIssuer s f).clusters = s.clusters := rfl
@[simp] theorem modIssuer_groups : (modIssuer s f).groups = s.groups := rfl
@[simp] theorem modIssuer_launches : (modIssuer s f).launches = s.launches := rfl
@[simp] theorem modIssuer_disp : (modIssuer s f).disp = s.disp := rfl
@[simp] theorem modIssuer_mem : (modIssuer s f).mem = s.mem := rfl
@[simp] theorem modIssuer_fe : (modIssuer s f).fe = s.fe := rfl
@[simp] theorem modIssuer_spoiled : (modIssuer s f).spoiled = s.spoiled := rfl
@[simp] theorem modIssuer_regs : (modIssuer s f).regs = s.regs := rfl
@[simp] theorem modIssuer_l2 : (modIssuer s f).l2 = s.l2 := rfl
@[simp] theorem modIssuer_rdc : (modIssuer s f).rdc = s.rdc := rfl
@[simp] theorem modIssuer_txns : (modIssuer s f).txns = s.txns := rfl
@[simp] theorem modIssuer_walks : (modIssuer s f).walks = s.walks := rfl
@[simp] theorem modIssuer_chans : (modIssuer s f).chans = s.chans := rfl
@[simp] theorem modIssuer_banks : (modIssuer s f).banks = s.banks := rfl
@[simp] theorem modIssuer_alerts : (modIssuer s f).alerts = s.alerts := rfl
@[simp] theorem modIssuer_binds : (modIssuer s f).binds = s.binds := rfl
@[simp] theorem modIssuer_sump : (modIssuer s f).sump = s.sump := rfl
@[simp] theorem modIssuer_faults : (modIssuer s f).faults = s.faults := rfl
@[simp] theorem modIssuer_evq : (modIssuer s f).evq = s.evq := rfl
@[simp] theorem modIssuer_fab : (modIssuer s f).fab = s.fab := rfl
@[simp] theorem modIssuer_ar : (modIssuer s f).ar = s.ar := rfl
@[simp] theorem modIssuer_arHeld : (modIssuer s f).arHeld = s.arHeld := rfl
@[simp] theorem modIssuer_arEnd : (modIssuer s f).arEnd = s.arEnd := rfl
@[simp] theorem modIssuer_mig : (modIssuer s f).mig = s.mig := rfl
@[simp] theorem modIssuer_harb : (modIssuer s f).harb = s.harb := rfl
@[simp] theorem modIssuer_ats : (modIssuer s f).ats = s.ats := rfl
@[simp] theorem modIssuer_atsWait : (modIssuer s f).atsWait = s.atsWait := rfl
@[simp] theorem modIssuer_freezes : (modIssuer s f).freezes = s.freezes := rfl
@[simp] theorem modIssuer_thaws : (modIssuer s f).thaws = s.thaws := rfl
@[simp] theorem modIssuer_start : (modIssuer s f).start = s.start := rfl
@[simp] theorem modIssuer_outbox : (modIssuer s f).outbox = s.outbox := rfl
@[simp] theorem modIssuer_inputs : (modIssuer s f).inputs = s.inputs := rfl
@[simp] theorem modIssuer_turn : (modIssuer s f).turn = s.turn := rfl
@[simp] theorem modIssuer_agenda : (modIssuer s f).agenda = s.agenda := rfl
end

section
variable (s : State) (n : Nat) (c : CoreSt)
@[simp] theorem setCore_clock : (setCore s n c).clock = s.clock := rfl
@[simp] theorem setCore_ctr : (setCore s n c).ctr = s.ctr := rfl
@[simp] theorem setCore_ids : (setCore s n c).ids = s.ids := rfl
@[simp] theorem setCore_cur : (setCore s n c).cur = s.cur := rfl
@[simp] theorem setCore_iss : (setCore s n c).iss = s.iss := rfl
@[simp] theorem setCore_ctxs : (setCore s n c).ctxs = s.ctxs := rfl
@[simp] theorem setCore_cores : (setCore s n c).cores = tset s.cores n c := rfl
@[simp] theorem setCore_clusters : (setCore s n c).clusters = s.clusters := rfl
@[simp] theorem setCore_groups : (setCore s n c).groups = s.groups := rfl
@[simp] theorem setCore_launches : (setCore s n c).launches = s.launches := rfl
@[simp] theorem setCore_disp : (setCore s n c).disp = s.disp := rfl
@[simp] theorem setCore_mem : (setCore s n c).mem = s.mem := rfl
@[simp] theorem setCore_fe : (setCore s n c).fe = s.fe := rfl
@[simp] theorem setCore_spoiled : (setCore s n c).spoiled = s.spoiled := rfl
@[simp] theorem setCore_regs : (setCore s n c).regs = s.regs := rfl
@[simp] theorem setCore_l2 : (setCore s n c).l2 = s.l2 := rfl
@[simp] theorem setCore_rdc : (setCore s n c).rdc = s.rdc := rfl
@[simp] theorem setCore_txns : (setCore s n c).txns = s.txns := rfl
@[simp] theorem setCore_walks : (setCore s n c).walks = s.walks := rfl
@[simp] theorem setCore_chans : (setCore s n c).chans = s.chans := rfl
@[simp] theorem setCore_banks : (setCore s n c).banks = s.banks := rfl
@[simp] theorem setCore_alerts : (setCore s n c).alerts = s.alerts := rfl
@[simp] theorem setCore_binds : (setCore s n c).binds = s.binds := rfl
@[simp] theorem setCore_sump : (setCore s n c).sump = s.sump := rfl
@[simp] theorem setCore_faults : (setCore s n c).faults = s.faults := rfl
@[simp] theorem setCore_evq : (setCore s n c).evq = s.evq := rfl
@[simp] theorem setCore_fab : (setCore s n c).fab = s.fab := rfl
@[simp] theorem setCore_ar : (setCore s n c).ar = s.ar := rfl
@[simp] theorem setCore_arHeld : (setCore s n c).arHeld = s.arHeld := rfl
@[simp] theorem setCore_arEnd : (setCore s n c).arEnd = s.arEnd := rfl
@[simp] theorem setCore_mig : (setCore s n c).mig = s.mig := rfl
@[simp] theorem setCore_harb : (setCore s n c).harb = s.harb := rfl
@[simp] theorem setCore_ats : (setCore s n c).ats = s.ats := rfl
@[simp] theorem setCore_atsWait : (setCore s n c).atsWait = s.atsWait := rfl
@[simp] theorem setCore_freezes : (setCore s n c).freezes = s.freezes := rfl
@[simp] theorem setCore_thaws : (setCore s n c).thaws = s.thaws := rfl
@[simp] theorem setCore_start : (setCore s n c).start = s.start := rfl
@[simp] theorem setCore_outbox : (setCore s n c).outbox = s.outbox := rfl
@[simp] theorem setCore_inputs : (setCore s n c).inputs = s.inputs := rfl
@[simp] theorem setCore_turn : (setCore s n c).turn = s.turn := rfl
@[simp] theorem setCore_agenda : (setCore s n c).agenda = s.agenda := rfl
end

section
variable (s : State) (n : Nat) (f : CoreSt → CoreSt)
@[simp] theorem modCore_clock : (modCore s n f).clock = s.clock := rfl
@[simp] theorem modCore_ctr : (modCore s n f).ctr = s.ctr := rfl
@[simp] theorem modCore_ids : (modCore s n f).ids = s.ids := rfl
@[simp] theorem modCore_cur : (modCore s n f).cur = s.cur := rfl
@[simp] theorem modCore_iss : (modCore s n f).iss = s.iss := rfl
@[simp] theorem modCore_ctxs : (modCore s n f).ctxs = s.ctxs := rfl
@[simp] theorem modCore_clusters : (modCore s n f).clusters = s.clusters := rfl
@[simp] theorem modCore_groups : (modCore s n f).groups = s.groups := rfl
@[simp] theorem modCore_launches : (modCore s n f).launches = s.launches := rfl
@[simp] theorem modCore_disp : (modCore s n f).disp = s.disp := rfl
@[simp] theorem modCore_mem : (modCore s n f).mem = s.mem := rfl
@[simp] theorem modCore_fe : (modCore s n f).fe = s.fe := rfl
@[simp] theorem modCore_spoiled : (modCore s n f).spoiled = s.spoiled := rfl
@[simp] theorem modCore_regs : (modCore s n f).regs = s.regs := rfl
@[simp] theorem modCore_l2 : (modCore s n f).l2 = s.l2 := rfl
@[simp] theorem modCore_rdc : (modCore s n f).rdc = s.rdc := rfl
@[simp] theorem modCore_txns : (modCore s n f).txns = s.txns := rfl
@[simp] theorem modCore_walks : (modCore s n f).walks = s.walks := rfl
@[simp] theorem modCore_chans : (modCore s n f).chans = s.chans := rfl
@[simp] theorem modCore_banks : (modCore s n f).banks = s.banks := rfl
@[simp] theorem modCore_alerts : (modCore s n f).alerts = s.alerts := rfl
@[simp] theorem modCore_binds : (modCore s n f).binds = s.binds := rfl
@[simp] theorem modCore_sump : (modCore s n f).sump = s.sump := rfl
@[simp] theorem modCore_faults : (modCore s n f).faults = s.faults := rfl
@[simp] theorem modCore_evq : (modCore s n f).evq = s.evq := rfl
@[simp] theorem modCore_fab : (modCore s n f).fab = s.fab := rfl
@[simp] theorem modCore_ar : (modCore s n f).ar = s.ar := rfl
@[simp] theorem modCore_arHeld : (modCore s n f).arHeld = s.arHeld := rfl
@[simp] theorem modCore_arEnd : (modCore s n f).arEnd = s.arEnd := rfl
@[simp] theorem modCore_mig : (modCore s n f).mig = s.mig := rfl
@[simp] theorem modCore_harb : (modCore s n f).harb = s.harb := rfl
@[simp] theorem modCore_ats : (modCore s n f).ats = s.ats := rfl
@[simp] theorem modCore_atsWait : (modCore s n f).atsWait = s.atsWait := rfl
@[simp] theorem modCore_freezes : (modCore s n f).freezes = s.freezes := rfl
@[simp] theorem modCore_thaws : (modCore s n f).thaws = s.thaws := rfl
@[simp] theorem modCore_start : (modCore s n f).start = s.start := rfl
@[simp] theorem modCore_outbox : (modCore s n f).outbox = s.outbox := rfl
@[simp] theorem modCore_inputs : (modCore s n f).inputs = s.inputs := rfl
@[simp] theorem modCore_turn : (modCore s n f).turn = s.turn := rfl
@[simp] theorem modCore_agenda : (modCore s n f).agenda = s.agenda := rfl
end

section
variable (s : State) (n : Nat) (c : Cluster)
@[simp] theorem setClu_clock : (setClu s n c).clock = s.clock := rfl
@[simp] theorem setClu_ctr : (setClu s n c).ctr = s.ctr := rfl
@[simp] theorem setClu_ids : (setClu s n c).ids = s.ids := rfl
@[simp] theorem setClu_cur : (setClu s n c).cur = s.cur := rfl
@[simp] theorem setClu_iss : (setClu s n c).iss = s.iss := rfl
@[simp] theorem setClu_ctxs : (setClu s n c).ctxs = s.ctxs := rfl
@[simp] theorem setClu_cores : (setClu s n c).cores = s.cores := rfl
@[simp] theorem setClu_clusters : (setClu s n c).clusters = tset s.clusters n c := rfl
@[simp] theorem setClu_groups : (setClu s n c).groups = s.groups := rfl
@[simp] theorem setClu_launches : (setClu s n c).launches = s.launches := rfl
@[simp] theorem setClu_disp : (setClu s n c).disp = s.disp := rfl
@[simp] theorem setClu_mem : (setClu s n c).mem = s.mem := rfl
@[simp] theorem setClu_fe : (setClu s n c).fe = s.fe := rfl
@[simp] theorem setClu_spoiled : (setClu s n c).spoiled = s.spoiled := rfl
@[simp] theorem setClu_regs : (setClu s n c).regs = s.regs := rfl
@[simp] theorem setClu_l2 : (setClu s n c).l2 = s.l2 := rfl
@[simp] theorem setClu_rdc : (setClu s n c).rdc = s.rdc := rfl
@[simp] theorem setClu_txns : (setClu s n c).txns = s.txns := rfl
@[simp] theorem setClu_walks : (setClu s n c).walks = s.walks := rfl
@[simp] theorem setClu_chans : (setClu s n c).chans = s.chans := rfl
@[simp] theorem setClu_banks : (setClu s n c).banks = s.banks := rfl
@[simp] theorem setClu_alerts : (setClu s n c).alerts = s.alerts := rfl
@[simp] theorem setClu_binds : (setClu s n c).binds = s.binds := rfl
@[simp] theorem setClu_sump : (setClu s n c).sump = s.sump := rfl
@[simp] theorem setClu_faults : (setClu s n c).faults = s.faults := rfl
@[simp] theorem setClu_evq : (setClu s n c).evq = s.evq := rfl
@[simp] theorem setClu_fab : (setClu s n c).fab = s.fab := rfl
@[simp] theorem setClu_ar : (setClu s n c).ar = s.ar := rfl
@[simp] theorem setClu_arHeld : (setClu s n c).arHeld = s.arHeld := rfl
@[simp] theorem setClu_arEnd : (setClu s n c).arEnd = s.arEnd := rfl
@[simp] theorem setClu_mig : (setClu s n c).mig = s.mig := rfl
@[simp] theorem setClu_harb : (setClu s n c).harb = s.harb := rfl
@[simp] theorem setClu_ats : (setClu s n c).ats = s.ats := rfl
@[simp] theorem setClu_atsWait : (setClu s n c).atsWait = s.atsWait := rfl
@[simp] theorem setClu_freezes : (setClu s n c).freezes = s.freezes := rfl
@[simp] theorem setClu_thaws : (setClu s n c).thaws = s.thaws := rfl
@[simp] theorem setClu_start : (setClu s n c).start = s.start := rfl
@[simp] theorem setClu_outbox : (setClu s n c).outbox = s.outbox := rfl
@[simp] theorem setClu_inputs : (setClu s n c).inputs = s.inputs := rfl
@[simp] theorem setClu_turn : (setClu s n c).turn = s.turn := rfl
@[simp] theorem setClu_agenda : (setClu s n c).agenda = s.agenda := rfl
end

section
variable (s : State) (n : Nat) (f : Cluster → Cluster)
@[simp] theorem modClu_clock : (modClu s n f).clock = s.clock := rfl
@[simp] theorem modClu_ctr : (modClu s n f).ctr = s.ctr := rfl
@[simp] theorem modClu_ids : (modClu s n f).ids = s.ids := rfl
@[simp] theorem modClu_cur : (modClu s n f).cur = s.cur := rfl
@[simp] theorem modClu_iss : (modClu s n f).iss = s.iss := rfl
@[simp] theorem modClu_ctxs : (modClu s n f).ctxs = s.ctxs := rfl
@[simp] theorem modClu_cores : (modClu s n f).cores = s.cores := rfl
@[simp] theorem modClu_groups : (modClu s n f).groups = s.groups := rfl
@[simp] theorem modClu_launches : (modClu s n f).launches = s.launches := rfl
@[simp] theorem modClu_disp : (modClu s n f).disp = s.disp := rfl
@[simp] theorem modClu_mem : (modClu s n f).mem = s.mem := rfl
@[simp] theorem modClu_fe : (modClu s n f).fe = s.fe := rfl
@[simp] theorem modClu_spoiled : (modClu s n f).spoiled = s.spoiled := rfl
@[simp] theorem modClu_regs : (modClu s n f).regs = s.regs := rfl
@[simp] theorem modClu_l2 : (modClu s n f).l2 = s.l2 := rfl
@[simp] theorem modClu_rdc : (modClu s n f).rdc = s.rdc := rfl
@[simp] theorem modClu_txns : (modClu s n f).txns = s.txns := rfl
@[simp] theorem modClu_walks : (modClu s n f).walks = s.walks := rfl
@[simp] theorem modClu_chans : (modClu s n f).chans = s.chans := rfl
@[simp] theorem modClu_banks : (modClu s n f).banks = s.banks := rfl
@[simp] theorem modClu_alerts : (modClu s n f).alerts = s.alerts := rfl
@[simp] theorem modClu_binds : (modClu s n f).binds = s.binds := rfl
@[simp] theorem modClu_sump : (modClu s n f).sump = s.sump := rfl
@[simp] theorem modClu_faults : (modClu s n f).faults = s.faults := rfl
@[simp] theorem modClu_evq : (modClu s n f).evq = s.evq := rfl
@[simp] theorem modClu_fab : (modClu s n f).fab = s.fab := rfl
@[simp] theorem modClu_ar : (modClu s n f).ar = s.ar := rfl
@[simp] theorem modClu_arHeld : (modClu s n f).arHeld = s.arHeld := rfl
@[simp] theorem modClu_arEnd : (modClu s n f).arEnd = s.arEnd := rfl
@[simp] theorem modClu_mig : (modClu s n f).mig = s.mig := rfl
@[simp] theorem modClu_harb : (modClu s n f).harb = s.harb := rfl
@[simp] theorem modClu_ats : (modClu s n f).ats = s.ats := rfl
@[simp] theorem modClu_atsWait : (modClu s n f).atsWait = s.atsWait := rfl
@[simp] theorem modClu_freezes : (modClu s n f).freezes = s.freezes := rfl
@[simp] theorem modClu_thaws : (modClu s n f).thaws = s.thaws := rfl
@[simp] theorem modClu_start : (modClu s n f).start = s.start := rfl
@[simp] theorem modClu_outbox : (modClu s n f).outbox = s.outbox := rfl
@[simp] theorem modClu_inputs : (modClu s n f).inputs = s.inputs := rfl
@[simp] theorem modClu_turn : (modClu s n f).turn = s.turn := rfl
@[simp] theorem modClu_agenda : (modClu s n f).agenda = s.agenda := rfl
end

section
variable (s : State) (n : Nat) (f : Group → Group)
@[simp] theorem modGroup_clock : (modGroup s n f).clock = s.clock := rfl
@[simp] theorem modGroup_ctr : (modGroup s n f).ctr = s.ctr := rfl
@[simp] theorem modGroup_ids : (modGroup s n f).ids = s.ids := rfl
@[simp] theorem modGroup_cur : (modGroup s n f).cur = s.cur := rfl
@[simp] theorem modGroup_iss : (modGroup s n f).iss = s.iss := rfl
@[simp] theorem modGroup_ctxs : (modGroup s n f).ctxs = s.ctxs := rfl
@[simp] theorem modGroup_cores : (modGroup s n f).cores = s.cores := rfl
@[simp] theorem modGroup_clusters : (modGroup s n f).clusters = s.clusters := rfl
@[simp] theorem modGroup_launches : (modGroup s n f).launches = s.launches := rfl
@[simp] theorem modGroup_disp : (modGroup s n f).disp = s.disp := rfl
@[simp] theorem modGroup_mem : (modGroup s n f).mem = s.mem := rfl
@[simp] theorem modGroup_fe : (modGroup s n f).fe = s.fe := rfl
@[simp] theorem modGroup_spoiled : (modGroup s n f).spoiled = s.spoiled := rfl
@[simp] theorem modGroup_regs : (modGroup s n f).regs = s.regs := rfl
@[simp] theorem modGroup_l2 : (modGroup s n f).l2 = s.l2 := rfl
@[simp] theorem modGroup_rdc : (modGroup s n f).rdc = s.rdc := rfl
@[simp] theorem modGroup_txns : (modGroup s n f).txns = s.txns := rfl
@[simp] theorem modGroup_walks : (modGroup s n f).walks = s.walks := rfl
@[simp] theorem modGroup_chans : (modGroup s n f).chans = s.chans := rfl
@[simp] theorem modGroup_banks : (modGroup s n f).banks = s.banks := rfl
@[simp] theorem modGroup_alerts : (modGroup s n f).alerts = s.alerts := rfl
@[simp] theorem modGroup_binds : (modGroup s n f).binds = s.binds := rfl
@[simp] theorem modGroup_sump : (modGroup s n f).sump = s.sump := rfl
@[simp] theorem modGroup_faults : (modGroup s n f).faults = s.faults := rfl
@[simp] theorem modGroup_evq : (modGroup s n f).evq = s.evq := rfl
@[simp] theorem modGroup_fab : (modGroup s n f).fab = s.fab := rfl
@[simp] theorem modGroup_ar : (modGroup s n f).ar = s.ar := rfl
@[simp] theorem modGroup_arHeld : (modGroup s n f).arHeld = s.arHeld := rfl
@[simp] theorem modGroup_arEnd : (modGroup s n f).arEnd = s.arEnd := rfl
@[simp] theorem modGroup_mig : (modGroup s n f).mig = s.mig := rfl
@[simp] theorem modGroup_harb : (modGroup s n f).harb = s.harb := rfl
@[simp] theorem modGroup_ats : (modGroup s n f).ats = s.ats := rfl
@[simp] theorem modGroup_atsWait : (modGroup s n f).atsWait = s.atsWait := rfl
@[simp] theorem modGroup_freezes : (modGroup s n f).freezes = s.freezes := rfl
@[simp] theorem modGroup_thaws : (modGroup s n f).thaws = s.thaws := rfl
@[simp] theorem modGroup_start : (modGroup s n f).start = s.start := rfl
@[simp] theorem modGroup_outbox : (modGroup s n f).outbox = s.outbox := rfl
@[simp] theorem modGroup_inputs : (modGroup s n f).inputs = s.inputs := rfl
@[simp] theorem modGroup_turn : (modGroup s n f).turn = s.turn := rfl
@[simp] theorem modGroup_agenda : (modGroup s n f).agenda = s.agenda := rfl
end

section
variable (s : State) (n : Nat) (p : Port)
@[simp] theorem setPort_clock : (setPort s n p).clock = s.clock := rfl
@[simp] theorem setPort_ctr : (setPort s n p).ctr = s.ctr := rfl
@[simp] theorem setPort_ids : (setPort s n p).ids = s.ids := rfl
@[simp] theorem setPort_cur : (setPort s n p).cur = s.cur := rfl
@[simp] theorem setPort_iss : (setPort s n p).iss = s.iss := rfl
@[simp] theorem setPort_ctxs : (setPort s n p).ctxs = s.ctxs := rfl
@[simp] theorem setPort_cores : (setPort s n p).cores = s.cores := rfl
@[simp] theorem setPort_clusters : (setPort s n p).clusters = s.clusters := rfl
@[simp] theorem setPort_groups : (setPort s n p).groups = s.groups := rfl
@[simp] theorem setPort_launches : (setPort s n p).launches = s.launches := rfl
@[simp] theorem setPort_disp : (setPort s n p).disp = s.disp := rfl
@[simp] theorem setPort_mem : (setPort s n p).mem = s.mem := rfl
@[simp] theorem setPort_fe : (setPort s n p).fe = s.fe := rfl
@[simp] theorem setPort_spoiled : (setPort s n p).spoiled = s.spoiled := rfl
@[simp] theorem setPort_regs : (setPort s n p).regs = s.regs := rfl
@[simp] theorem setPort_l2 : (setPort s n p).l2 = s.l2 := rfl
@[simp] theorem setPort_rdc : (setPort s n p).rdc = s.rdc := rfl
@[simp] theorem setPort_txns : (setPort s n p).txns = s.txns := rfl
@[simp] theorem setPort_walks : (setPort s n p).walks = s.walks := rfl
@[simp] theorem setPort_chans : (setPort s n p).chans = s.chans := rfl
@[simp] theorem setPort_banks : (setPort s n p).banks = s.banks := rfl
@[simp] theorem setPort_alerts : (setPort s n p).alerts = s.alerts := rfl
@[simp] theorem setPort_binds : (setPort s n p).binds = s.binds := rfl
@[simp] theorem setPort_sump : (setPort s n p).sump = s.sump := rfl
@[simp] theorem setPort_faults : (setPort s n p).faults = s.faults := rfl
@[simp] theorem setPort_evq : (setPort s n p).evq = s.evq := rfl
@[simp] theorem setPort_ar : (setPort s n p).ar = s.ar := rfl
@[simp] theorem setPort_arHeld : (setPort s n p).arHeld = s.arHeld := rfl
@[simp] theorem setPort_arEnd : (setPort s n p).arEnd = s.arEnd := rfl
@[simp] theorem setPort_mig : (setPort s n p).mig = s.mig := rfl
@[simp] theorem setPort_harb : (setPort s n p).harb = s.harb := rfl
@[simp] theorem setPort_ats : (setPort s n p).ats = s.ats := rfl
@[simp] theorem setPort_atsWait : (setPort s n p).atsWait = s.atsWait := rfl
@[simp] theorem setPort_freezes : (setPort s n p).freezes = s.freezes := rfl
@[simp] theorem setPort_thaws : (setPort s n p).thaws = s.thaws := rfl
@[simp] theorem setPort_start : (setPort s n p).start = s.start := rfl
@[simp] theorem setPort_outbox : (setPort s n p).outbox = s.outbox := rfl
@[simp] theorem setPort_inputs : (setPort s n p).inputs = s.inputs := rfl
@[simp] theorem setPort_turn : (setPort s n p).turn = s.turn := rfl
@[simp] theorem setPort_agenda : (setPort s n p).agenda = s.agenda := rfl
end

section
variable (s : State) (n : Nat) (f : Port → Port)
@[simp] theorem modPort_clock : (modPort s n f).clock = s.clock := rfl
@[simp] theorem modPort_ctr : (modPort s n f).ctr = s.ctr := rfl
@[simp] theorem modPort_ids : (modPort s n f).ids = s.ids := rfl
@[simp] theorem modPort_cur : (modPort s n f).cur = s.cur := rfl
@[simp] theorem modPort_iss : (modPort s n f).iss = s.iss := rfl
@[simp] theorem modPort_ctxs : (modPort s n f).ctxs = s.ctxs := rfl
@[simp] theorem modPort_cores : (modPort s n f).cores = s.cores := rfl
@[simp] theorem modPort_clusters : (modPort s n f).clusters = s.clusters := rfl
@[simp] theorem modPort_groups : (modPort s n f).groups = s.groups := rfl
@[simp] theorem modPort_launches : (modPort s n f).launches = s.launches := rfl
@[simp] theorem modPort_disp : (modPort s n f).disp = s.disp := rfl
@[simp] theorem modPort_mem : (modPort s n f).mem = s.mem := rfl
@[simp] theorem modPort_fe : (modPort s n f).fe = s.fe := rfl
@[simp] theorem modPort_spoiled : (modPort s n f).spoiled = s.spoiled := rfl
@[simp] theorem modPort_regs : (modPort s n f).regs = s.regs := rfl
@[simp] theorem modPort_l2 : (modPort s n f).l2 = s.l2 := rfl
@[simp] theorem modPort_rdc : (modPort s n f).rdc = s.rdc := rfl
@[simp] theorem modPort_txns : (modPort s n f).txns = s.txns := rfl
@[simp] theorem modPort_walks : (modPort s n f).walks = s.walks := rfl
@[simp] theorem modPort_chans : (modPort s n f).chans = s.chans := rfl
@[simp] theorem modPort_banks : (modPort s n f).banks = s.banks := rfl
@[simp] theorem modPort_alerts : (modPort s n f).alerts = s.alerts := rfl
@[simp] theorem modPort_binds : (modPort s n f).binds = s.binds := rfl
@[simp] theorem modPort_sump : (modPort s n f).sump = s.sump := rfl
@[simp] theorem modPort_faults : (modPort s n f).faults = s.faults := rfl
@[simp] theorem modPort_evq : (modPort s n f).evq = s.evq := rfl
@[simp] theorem modPort_ar : (modPort s n f).ar = s.ar := rfl
@[simp] theorem modPort_arHeld : (modPort s n f).arHeld = s.arHeld := rfl
@[simp] theorem modPort_arEnd : (modPort s n f).arEnd = s.arEnd := rfl
@[simp] theorem modPort_mig : (modPort s n f).mig = s.mig := rfl
@[simp] theorem modPort_harb : (modPort s n f).harb = s.harb := rfl
@[simp] theorem modPort_ats : (modPort s n f).ats = s.ats := rfl
@[simp] theorem modPort_atsWait : (modPort s n f).atsWait = s.atsWait := rfl
@[simp] theorem modPort_freezes : (modPort s n f).freezes = s.freezes := rfl
@[simp] theorem modPort_thaws : (modPort s n f).thaws = s.thaws := rfl
@[simp] theorem modPort_start : (modPort s n f).start = s.start := rfl
@[simp] theorem modPort_outbox : (modPort s n f).outbox = s.outbox := rfl
@[simp] theorem modPort_inputs : (modPort s n f).inputs = s.inputs := rfl
@[simp] theorem modPort_turn : (modPort s n f).turn = s.turn := rfl
@[simp] theorem modPort_agenda : (modPort s n f).agenda = s.agenda := rfl
end

section
variable (s : State) (t : Tree)
@[simp] theorem setTree_clock : (setTree s t).clock = s.clock := rfl
@[simp] theorem setTree_ctr : (setTree s t).ctr = s.ctr := rfl
@[simp] theorem setTree_ids : (setTree s t).ids = s.ids := rfl
@[simp] theorem setTree_cur : (setTree s t).cur = s.cur := rfl
@[simp] theorem setTree_iss : (setTree s t).iss = s.iss := rfl
@[simp] theorem setTree_ctxs : (setTree s t).ctxs = s.ctxs := rfl
@[simp] theorem setTree_cores : (setTree s t).cores = s.cores := rfl
@[simp] theorem setTree_clusters : (setTree s t).clusters = s.clusters := rfl
@[simp] theorem setTree_groups : (setTree s t).groups = s.groups := rfl
@[simp] theorem setTree_launches : (setTree s t).launches = s.launches := rfl
@[simp] theorem setTree_disp : (setTree s t).disp = s.disp := rfl
@[simp] theorem setTree_mem : (setTree s t).mem = s.mem := rfl
@[simp] theorem setTree_fe : (setTree s t).fe = s.fe := rfl
@[simp] theorem setTree_spoiled : (setTree s t).spoiled = s.spoiled := rfl
@[simp] theorem setTree_regs : (setTree s t).regs = s.regs := rfl
@[simp] theorem setTree_l2 : (setTree s t).l2 = s.l2 := rfl
@[simp] theorem setTree_rdc : (setTree s t).rdc = s.rdc := rfl
@[simp] theorem setTree_txns : (setTree s t).txns = s.txns := rfl
@[simp] theorem setTree_walks : (setTree s t).walks = s.walks := rfl
@[simp] theorem setTree_chans : (setTree s t).chans = s.chans := rfl
@[simp] theorem setTree_banks : (setTree s t).banks = s.banks := rfl
@[simp] theorem setTree_alerts : (setTree s t).alerts = s.alerts := rfl
@[simp] theorem setTree_binds : (setTree s t).binds = s.binds := rfl
@[simp] theorem setTree_sump : (setTree s t).sump = s.sump := rfl
@[simp] theorem setTree_faults : (setTree s t).faults = s.faults := rfl
@[simp] theorem setTree_evq : (setTree s t).evq = s.evq := rfl
@[simp] theorem setTree_ar : (setTree s t).ar = s.ar := rfl
@[simp] theorem setTree_arHeld : (setTree s t).arHeld = s.arHeld := rfl
@[simp] theorem setTree_arEnd : (setTree s t).arEnd = s.arEnd := rfl
@[simp] theorem setTree_mig : (setTree s t).mig = s.mig := rfl
@[simp] theorem setTree_harb : (setTree s t).harb = s.harb := rfl
@[simp] theorem setTree_ats : (setTree s t).ats = s.ats := rfl
@[simp] theorem setTree_atsWait : (setTree s t).atsWait = s.atsWait := rfl
@[simp] theorem setTree_freezes : (setTree s t).freezes = s.freezes := rfl
@[simp] theorem setTree_thaws : (setTree s t).thaws = s.thaws := rfl
@[simp] theorem setTree_start : (setTree s t).start = s.start := rfl
@[simp] theorem setTree_outbox : (setTree s t).outbox = s.outbox := rfl
@[simp] theorem setTree_inputs : (setTree s t).inputs = s.inputs := rfl
@[simp] theorem setTree_turn : (setTree s t).turn = s.turn := rfl
@[simp] theorem setTree_agenda : (setTree s t).agenda = s.agenda := rfl
end

section
variable (s : State) (a : Nat) (v : Word64)
@[simp] theorem rset_clock : (rset s a v).clock = s.clock := rfl
@[simp] theorem rset_ctr : (rset s a v).ctr = s.ctr := rfl
@[simp] theorem rset_ids : (rset s a v).ids = s.ids := rfl
@[simp] theorem rset_cur : (rset s a v).cur = s.cur := rfl
@[simp] theorem rset_iss : (rset s a v).iss = s.iss := rfl
@[simp] theorem rset_ctxs : (rset s a v).ctxs = s.ctxs := rfl
@[simp] theorem rset_cores : (rset s a v).cores = s.cores := rfl
@[simp] theorem rset_clusters : (rset s a v).clusters = s.clusters := rfl
@[simp] theorem rset_groups : (rset s a v).groups = s.groups := rfl
@[simp] theorem rset_launches : (rset s a v).launches = s.launches := rfl
@[simp] theorem rset_disp : (rset s a v).disp = s.disp := rfl
@[simp] theorem rset_mem : (rset s a v).mem = s.mem := rfl
@[simp] theorem rset_fe : (rset s a v).fe = s.fe := rfl
@[simp] theorem rset_spoiled : (rset s a v).spoiled = s.spoiled := rfl
@[simp] theorem rset_regs : (rset s a v).regs = tput (regDefault a) s.regs a v := rfl
@[simp] theorem rset_l2 : (rset s a v).l2 = s.l2 := rfl
@[simp] theorem rset_rdc : (rset s a v).rdc = s.rdc := rfl
@[simp] theorem rset_txns : (rset s a v).txns = s.txns := rfl
@[simp] theorem rset_walks : (rset s a v).walks = s.walks := rfl
@[simp] theorem rset_chans : (rset s a v).chans = s.chans := rfl
@[simp] theorem rset_banks : (rset s a v).banks = s.banks := rfl
@[simp] theorem rset_alerts : (rset s a v).alerts = s.alerts := rfl
@[simp] theorem rset_binds : (rset s a v).binds = s.binds := rfl
@[simp] theorem rset_sump : (rset s a v).sump = s.sump := rfl
@[simp] theorem rset_faults : (rset s a v).faults = s.faults := rfl
@[simp] theorem rset_evq : (rset s a v).evq = s.evq := rfl
@[simp] theorem rset_fab : (rset s a v).fab = s.fab := rfl
@[simp] theorem rset_ar : (rset s a v).ar = s.ar := rfl
@[simp] theorem rset_arHeld : (rset s a v).arHeld = s.arHeld := rfl
@[simp] theorem rset_arEnd : (rset s a v).arEnd = s.arEnd := rfl
@[simp] theorem rset_mig : (rset s a v).mig = s.mig := rfl
@[simp] theorem rset_harb : (rset s a v).harb = s.harb := rfl
@[simp] theorem rset_ats : (rset s a v).ats = s.ats := rfl
@[simp] theorem rset_atsWait : (rset s a v).atsWait = s.atsWait := rfl
@[simp] theorem rset_freezes : (rset s a v).freezes = s.freezes := rfl
@[simp] theorem rset_thaws : (rset s a v).thaws = s.thaws := rfl
@[simp] theorem rset_start : (rset s a v).start = s.start := rfl
@[simp] theorem rset_outbox : (rset s a v).outbox = s.outbox := rfl
@[simp] theorem rset_inputs : (rset s a v).inputs = s.inputs := rfl
@[simp] theorem rset_turn : (rset s a v).turn = s.turn := rfl
@[simp] theorem rset_agenda : (rset s a v).agenda = s.agenda := rfl
end

section
variable (s : State) (a lo n v : Nat)
@[simp] theorem rsetF_clock : (rsetF s a lo n v).clock = s.clock := rfl
@[simp] theorem rsetF_ctr : (rsetF s a lo n v).ctr = s.ctr := rfl
@[simp] theorem rsetF_ids : (rsetF s a lo n v).ids = s.ids := rfl
@[simp] theorem rsetF_cur : (rsetF s a lo n v).cur = s.cur := rfl
@[simp] theorem rsetF_iss : (rsetF s a lo n v).iss = s.iss := rfl
@[simp] theorem rsetF_ctxs : (rsetF s a lo n v).ctxs = s.ctxs := rfl
@[simp] theorem rsetF_cores : (rsetF s a lo n v).cores = s.cores := rfl
@[simp] theorem rsetF_clusters : (rsetF s a lo n v).clusters = s.clusters := rfl
@[simp] theorem rsetF_groups : (rsetF s a lo n v).groups = s.groups := rfl
@[simp] theorem rsetF_launches : (rsetF s a lo n v).launches = s.launches := rfl
@[simp] theorem rsetF_disp : (rsetF s a lo n v).disp = s.disp := rfl
@[simp] theorem rsetF_mem : (rsetF s a lo n v).mem = s.mem := rfl
@[simp] theorem rsetF_fe : (rsetF s a lo n v).fe = s.fe := rfl
@[simp] theorem rsetF_spoiled : (rsetF s a lo n v).spoiled = s.spoiled := rfl
@[simp] theorem rsetF_l2 : (rsetF s a lo n v).l2 = s.l2 := rfl
@[simp] theorem rsetF_rdc : (rsetF s a lo n v).rdc = s.rdc := rfl
@[simp] theorem rsetF_txns : (rsetF s a lo n v).txns = s.txns := rfl
@[simp] theorem rsetF_walks : (rsetF s a lo n v).walks = s.walks := rfl
@[simp] theorem rsetF_chans : (rsetF s a lo n v).chans = s.chans := rfl
@[simp] theorem rsetF_banks : (rsetF s a lo n v).banks = s.banks := rfl
@[simp] theorem rsetF_alerts : (rsetF s a lo n v).alerts = s.alerts := rfl
@[simp] theorem rsetF_binds : (rsetF s a lo n v).binds = s.binds := rfl
@[simp] theorem rsetF_sump : (rsetF s a lo n v).sump = s.sump := rfl
@[simp] theorem rsetF_faults : (rsetF s a lo n v).faults = s.faults := rfl
@[simp] theorem rsetF_evq : (rsetF s a lo n v).evq = s.evq := rfl
@[simp] theorem rsetF_fab : (rsetF s a lo n v).fab = s.fab := rfl
@[simp] theorem rsetF_ar : (rsetF s a lo n v).ar = s.ar := rfl
@[simp] theorem rsetF_arHeld : (rsetF s a lo n v).arHeld = s.arHeld := rfl
@[simp] theorem rsetF_arEnd : (rsetF s a lo n v).arEnd = s.arEnd := rfl
@[simp] theorem rsetF_mig : (rsetF s a lo n v).mig = s.mig := rfl
@[simp] theorem rsetF_harb : (rsetF s a lo n v).harb = s.harb := rfl
@[simp] theorem rsetF_ats : (rsetF s a lo n v).ats = s.ats := rfl
@[simp] theorem rsetF_atsWait : (rsetF s a lo n v).atsWait = s.atsWait := rfl
@[simp] theorem rsetF_freezes : (rsetF s a lo n v).freezes = s.freezes := rfl
@[simp] theorem rsetF_thaws : (rsetF s a lo n v).thaws = s.thaws := rfl
@[simp] theorem rsetF_start : (rsetF s a lo n v).start = s.start := rfl
@[simp] theorem rsetF_outbox : (rsetF s a lo n v).outbox = s.outbox := rfl
@[simp] theorem rsetF_inputs : (rsetF s a lo n v).inputs = s.inputs := rfl
@[simp] theorem rsetF_turn : (rsetF s a lo n v).turn = s.turn := rfl
@[simp] theorem rsetF_agenda : (rsetF s a lo n v).agenda = s.agenda := rfl
end

section
variable (s : State) (a lo n : Nat)
@[simp] theorem rincHold_clock : (rincHold s a lo n).clock = s.clock := rfl
@[simp] theorem rincHold_ctr : (rincHold s a lo n).ctr = s.ctr := rfl
@[simp] theorem rincHold_ids : (rincHold s a lo n).ids = s.ids := rfl
@[simp] theorem rincHold_cur : (rincHold s a lo n).cur = s.cur := rfl
@[simp] theorem rincHold_iss : (rincHold s a lo n).iss = s.iss := rfl
@[simp] theorem rincHold_ctxs : (rincHold s a lo n).ctxs = s.ctxs := rfl
@[simp] theorem rincHold_cores : (rincHold s a lo n).cores = s.cores := rfl
@[simp] theorem rincHold_clusters : (rincHold s a lo n).clusters = s.clusters := rfl
@[simp] theorem rincHold_groups : (rincHold s a lo n).groups = s.groups := rfl
@[simp] theorem rincHold_launches : (rincHold s a lo n).launches = s.launches := rfl
@[simp] theorem rincHold_disp : (rincHold s a lo n).disp = s.disp := rfl
@[simp] theorem rincHold_mem : (rincHold s a lo n).mem = s.mem := rfl
@[simp] theorem rincHold_fe : (rincHold s a lo n).fe = s.fe := rfl
@[simp] theorem rincHold_spoiled : (rincHold s a lo n).spoiled = s.spoiled := rfl
@[simp] theorem rincHold_l2 : (rincHold s a lo n).l2 = s.l2 := rfl
@[simp] theorem rincHold_rdc : (rincHold s a lo n).rdc = s.rdc := rfl
@[simp] theorem rincHold_txns : (rincHold s a lo n).txns = s.txns := rfl
@[simp] theorem rincHold_walks : (rincHold s a lo n).walks = s.walks := rfl
@[simp] theorem rincHold_chans : (rincHold s a lo n).chans = s.chans := rfl
@[simp] theorem rincHold_banks : (rincHold s a lo n).banks = s.banks := rfl
@[simp] theorem rincHold_alerts : (rincHold s a lo n).alerts = s.alerts := rfl
@[simp] theorem rincHold_binds : (rincHold s a lo n).binds = s.binds := rfl
@[simp] theorem rincHold_sump : (rincHold s a lo n).sump = s.sump := rfl
@[simp] theorem rincHold_faults : (rincHold s a lo n).faults = s.faults := rfl
@[simp] theorem rincHold_evq : (rincHold s a lo n).evq = s.evq := rfl
@[simp] theorem rincHold_fab : (rincHold s a lo n).fab = s.fab := rfl
@[simp] theorem rincHold_ar : (rincHold s a lo n).ar = s.ar := rfl
@[simp] theorem rincHold_arHeld : (rincHold s a lo n).arHeld = s.arHeld := rfl
@[simp] theorem rincHold_arEnd : (rincHold s a lo n).arEnd = s.arEnd := rfl
@[simp] theorem rincHold_mig : (rincHold s a lo n).mig = s.mig := rfl
@[simp] theorem rincHold_harb : (rincHold s a lo n).harb = s.harb := rfl
@[simp] theorem rincHold_ats : (rincHold s a lo n).ats = s.ats := rfl
@[simp] theorem rincHold_atsWait : (rincHold s a lo n).atsWait = s.atsWait := rfl
@[simp] theorem rincHold_freezes : (rincHold s a lo n).freezes = s.freezes := rfl
@[simp] theorem rincHold_thaws : (rincHold s a lo n).thaws = s.thaws := rfl
@[simp] theorem rincHold_start : (rincHold s a lo n).start = s.start := rfl
@[simp] theorem rincHold_outbox : (rincHold s a lo n).outbox = s.outbox := rfl
@[simp] theorem rincHold_inputs : (rincHold s a lo n).inputs = s.inputs := rfl
@[simp] theorem rincHold_turn : (rincHold s a lo n).turn = s.turn := rfl
@[simp] theorem rincHold_agenda : (rincHold s a lo n).agenda = s.agenda := rfl
end

section
variable (s : State) (a : Nat) (b : Byte)
@[simp] theorem mwrite_clock : (mwrite s a b).clock = s.clock := rfl
@[simp] theorem mwrite_ctr : (mwrite s a b).ctr = s.ctr := rfl
@[simp] theorem mwrite_ids : (mwrite s a b).ids = s.ids := rfl
@[simp] theorem mwrite_cur : (mwrite s a b).cur = s.cur := rfl
@[simp] theorem mwrite_iss : (mwrite s a b).iss = s.iss := rfl
@[simp] theorem mwrite_ctxs : (mwrite s a b).ctxs = s.ctxs := rfl
@[simp] theorem mwrite_cores : (mwrite s a b).cores = s.cores := rfl
@[simp] theorem mwrite_clusters : (mwrite s a b).clusters = s.clusters := rfl
@[simp] theorem mwrite_groups : (mwrite s a b).groups = s.groups := rfl
@[simp] theorem mwrite_launches : (mwrite s a b).launches = s.launches := rfl
@[simp] theorem mwrite_disp : (mwrite s a b).disp = s.disp := rfl
@[simp] theorem mwrite_mem : (mwrite s a b).mem = tput memDefault s.mem a b := rfl
@[simp] theorem mwrite_fe : (mwrite s a b).fe = s.fe := rfl
@[simp] theorem mwrite_spoiled : (mwrite s a b).spoiled = s.spoiled := rfl
@[simp] theorem mwrite_regs : (mwrite s a b).regs = s.regs := rfl
@[simp] theorem mwrite_l2 : (mwrite s a b).l2 = s.l2 := rfl
@[simp] theorem mwrite_rdc : (mwrite s a b).rdc = s.rdc := rfl
@[simp] theorem mwrite_txns : (mwrite s a b).txns = s.txns := rfl
@[simp] theorem mwrite_walks : (mwrite s a b).walks = s.walks := rfl
@[simp] theorem mwrite_chans : (mwrite s a b).chans = s.chans := rfl
@[simp] theorem mwrite_banks : (mwrite s a b).banks = s.banks := rfl
@[simp] theorem mwrite_alerts : (mwrite s a b).alerts = s.alerts := rfl
@[simp] theorem mwrite_binds : (mwrite s a b).binds = s.binds := rfl
@[simp] theorem mwrite_sump : (mwrite s a b).sump = s.sump := rfl
@[simp] theorem mwrite_faults : (mwrite s a b).faults = s.faults := rfl
@[simp] theorem mwrite_evq : (mwrite s a b).evq = s.evq := rfl
@[simp] theorem mwrite_fab : (mwrite s a b).fab = s.fab := rfl
@[simp] theorem mwrite_ar : (mwrite s a b).ar = s.ar := rfl
@[simp] theorem mwrite_arHeld : (mwrite s a b).arHeld = s.arHeld := rfl
@[simp] theorem mwrite_arEnd : (mwrite s a b).arEnd = s.arEnd := rfl
@[simp] theorem mwrite_mig : (mwrite s a b).mig = s.mig := rfl
@[simp] theorem mwrite_harb : (mwrite s a b).harb = s.harb := rfl
@[simp] theorem mwrite_ats : (mwrite s a b).ats = s.ats := rfl
@[simp] theorem mwrite_atsWait : (mwrite s a b).atsWait = s.atsWait := rfl
@[simp] theorem mwrite_freezes : (mwrite s a b).freezes = s.freezes := rfl
@[simp] theorem mwrite_thaws : (mwrite s a b).thaws = s.thaws := rfl
@[simp] theorem mwrite_start : (mwrite s a b).start = s.start := rfl
@[simp] theorem mwrite_outbox : (mwrite s a b).outbox = s.outbox := rfl
@[simp] theorem mwrite_inputs : (mwrite s a b).inputs = s.inputs := rfl
@[simp] theorem mwrite_turn : (mwrite s a b).turn = s.turn := rfl
@[simp] theorem mwrite_agenda : (mwrite s a b).agenda = s.agenda := rfl
end

section
variable (s : State) (n : Nat) (i : Instr)
@[simp] theorem after_clock : (after s n i).clock = s.clock := rfl
@[simp] theorem after_ctr : (after s n i).ctr = s.ctr := rfl
@[simp] theorem after_ids : (after s n i).ids = s.ids := rfl
@[simp] theorem after_cur : (after s n i).cur = s.cur := rfl
@[simp] theorem after_iss : (after s n i).iss = s.iss := rfl
@[simp] theorem after_ctxs : (after s n i).ctxs = s.ctxs := rfl
@[simp] theorem after_cores : (after s n i).cores = s.cores := rfl
@[simp] theorem after_clusters : (after s n i).clusters = s.clusters := rfl
@[simp] theorem after_groups : (after s n i).groups = s.groups := rfl
@[simp] theorem after_launches : (after s n i).launches = s.launches := rfl
@[simp] theorem after_disp : (after s n i).disp = s.disp := rfl
@[simp] theorem after_mem : (after s n i).mem = s.mem := rfl
@[simp] theorem after_fe : (after s n i).fe = s.fe := rfl
@[simp] theorem after_spoiled : (after s n i).spoiled = s.spoiled := rfl
@[simp] theorem after_regs : (after s n i).regs = s.regs := rfl
@[simp] theorem after_l2 : (after s n i).l2 = s.l2 := rfl
@[simp] theorem after_rdc : (after s n i).rdc = s.rdc := rfl
@[simp] theorem after_txns : (after s n i).txns = s.txns := rfl
@[simp] theorem after_walks : (after s n i).walks = s.walks := rfl
@[simp] theorem after_chans : (after s n i).chans = s.chans := rfl
@[simp] theorem after_banks : (after s n i).banks = s.banks := rfl
@[simp] theorem after_alerts : (after s n i).alerts = s.alerts := rfl
@[simp] theorem after_binds : (after s n i).binds = s.binds := rfl
@[simp] theorem after_sump : (after s n i).sump = s.sump := rfl
@[simp] theorem after_faults : (after s n i).faults = s.faults := rfl
@[simp] theorem after_evq : (after s n i).evq = s.evq := rfl
@[simp] theorem after_fab : (after s n i).fab = s.fab := rfl
@[simp] theorem after_ar : (after s n i).ar = s.ar := rfl
@[simp] theorem after_arHeld : (after s n i).arHeld = s.arHeld := rfl
@[simp] theorem after_arEnd : (after s n i).arEnd = s.arEnd := rfl
@[simp] theorem after_mig : (after s n i).mig = s.mig := rfl
@[simp] theorem after_harb : (after s n i).harb = s.harb := rfl
@[simp] theorem after_ats : (after s n i).ats = s.ats := rfl
@[simp] theorem after_atsWait : (after s n i).atsWait = s.atsWait := rfl
@[simp] theorem after_freezes : (after s n i).freezes = s.freezes := rfl
@[simp] theorem after_thaws : (after s n i).thaws = s.thaws := rfl
@[simp] theorem after_start : (after s n i).start = s.start := rfl
@[simp] theorem after_outbox : (after s n i).outbox = s.outbox := rfl
@[simp] theorem after_inputs : (after s n i).inputs = s.inputs := rfl
@[simp] theorem after_turn : (after s n i).turn = s.turn := rfl
@[simp] theorem after_agenda : (after s n i).agenda = insAgenda (s.clock + n) i s.agenda := rfl
end

section
variable (s : State) (o : Out)
@[simp] theorem emitOut_clock : (emitOut s o).clock = s.clock := rfl
@[simp] theorem emitOut_ctr : (emitOut s o).ctr = s.ctr := rfl
@[simp] theorem emitOut_ids : (emitOut s o).ids = s.ids := rfl
@[simp] theorem emitOut_cur : (emitOut s o).cur = s.cur := rfl
@[simp] theorem emitOut_iss : (emitOut s o).iss = s.iss := rfl
@[simp] theorem emitOut_ctxs : (emitOut s o).ctxs = s.ctxs := rfl
@[simp] theorem emitOut_cores : (emitOut s o).cores = s.cores := rfl
@[simp] theorem emitOut_clusters : (emitOut s o).clusters = s.clusters := rfl
@[simp] theorem emitOut_groups : (emitOut s o).groups = s.groups := rfl
@[simp] theorem emitOut_launches : (emitOut s o).launches = s.launches := rfl
@[simp] theorem emitOut_disp : (emitOut s o).disp = s.disp := rfl
@[simp] theorem emitOut_mem : (emitOut s o).mem = s.mem := rfl
@[simp] theorem emitOut_fe : (emitOut s o).fe = s.fe := rfl
@[simp] theorem emitOut_spoiled : (emitOut s o).spoiled = s.spoiled := rfl
@[simp] theorem emitOut_regs : (emitOut s o).regs = s.regs := rfl
@[simp] theorem emitOut_l2 : (emitOut s o).l2 = s.l2 := rfl
@[simp] theorem emitOut_rdc : (emitOut s o).rdc = s.rdc := rfl
@[simp] theorem emitOut_txns : (emitOut s o).txns = s.txns := rfl
@[simp] theorem emitOut_walks : (emitOut s o).walks = s.walks := rfl
@[simp] theorem emitOut_chans : (emitOut s o).chans = s.chans := rfl
@[simp] theorem emitOut_banks : (emitOut s o).banks = s.banks := rfl
@[simp] theorem emitOut_alerts : (emitOut s o).alerts = s.alerts := rfl
@[simp] theorem emitOut_binds : (emitOut s o).binds = s.binds := rfl
@[simp] theorem emitOut_sump : (emitOut s o).sump = s.sump := rfl
@[simp] theorem emitOut_faults : (emitOut s o).faults = s.faults := rfl
@[simp] theorem emitOut_evq : (emitOut s o).evq = s.evq := rfl
@[simp] theorem emitOut_fab : (emitOut s o).fab = s.fab := rfl
@[simp] theorem emitOut_ar : (emitOut s o).ar = s.ar := rfl
@[simp] theorem emitOut_arHeld : (emitOut s o).arHeld = s.arHeld := rfl
@[simp] theorem emitOut_arEnd : (emitOut s o).arEnd = s.arEnd := rfl
@[simp] theorem emitOut_mig : (emitOut s o).mig = s.mig := rfl
@[simp] theorem emitOut_harb : (emitOut s o).harb = s.harb := rfl
@[simp] theorem emitOut_ats : (emitOut s o).ats = s.ats := rfl
@[simp] theorem emitOut_atsWait : (emitOut s o).atsWait = s.atsWait := rfl
@[simp] theorem emitOut_freezes : (emitOut s o).freezes = s.freezes := rfl
@[simp] theorem emitOut_thaws : (emitOut s o).thaws = s.thaws := rfl
@[simp] theorem emitOut_start : (emitOut s o).start = s.start := rfl
@[simp] theorem emitOut_outbox : (emitOut s o).outbox = s.outbox ++ [o] := rfl
@[simp] theorem emitOut_inputs : (emitOut s o).inputs = s.inputs := rfl
@[simp] theorem emitOut_turn : (emitOut s o).turn = s.turn := rfl
@[simp] theorem emitOut_agenda : (emitOut s o).agenda = s.agenda := rfl
end

section
variable (s : State) (d : Dest) (v : VWord) (m : Word64) (n : Nat) (f : BitVec 5)
@[simp] theorem emit_clock : (emit s d v m n f).clock = s.clock := rfl
@[simp] theorem emit_ctr : (emit s d v m n f).ctr = s.ctr := rfl
@[simp] theorem emit_ids : (emit s d v m n f).ids = s.ids := rfl
@[simp] theorem emit_cur : (emit s d v m n f).cur = s.cur := rfl
@[simp] theorem emit_iss : (emit s d v m n f).iss = s.iss := rfl
@[simp] theorem emit_cores : (emit s d v m n f).cores = s.cores := rfl
@[simp] theorem emit_clusters : (emit s d v m n f).clusters = s.clusters := rfl
@[simp] theorem emit_groups : (emit s d v m n f).groups = s.groups := rfl
@[simp] theorem emit_launches : (emit s d v m n f).launches = s.launches := rfl
@[simp] theorem emit_disp : (emit s d v m n f).disp = s.disp := rfl
@[simp] theorem emit_mem : (emit s d v m n f).mem = s.mem := rfl
@[simp] theorem emit_fe : (emit s d v m n f).fe = s.fe := rfl
@[simp] theorem emit_spoiled : (emit s d v m n f).spoiled = s.spoiled := rfl
@[simp] theorem emit_regs : (emit s d v m n f).regs = s.regs := rfl
@[simp] theorem emit_l2 : (emit s d v m n f).l2 = s.l2 := rfl
@[simp] theorem emit_rdc : (emit s d v m n f).rdc = s.rdc := rfl
@[simp] theorem emit_txns : (emit s d v m n f).txns = s.txns := rfl
@[simp] theorem emit_walks : (emit s d v m n f).walks = s.walks := rfl
@[simp] theorem emit_chans : (emit s d v m n f).chans = s.chans := rfl
@[simp] theorem emit_banks : (emit s d v m n f).banks = s.banks := rfl
@[simp] theorem emit_alerts : (emit s d v m n f).alerts = s.alerts := rfl
@[simp] theorem emit_binds : (emit s d v m n f).binds = s.binds := rfl
@[simp] theorem emit_sump : (emit s d v m n f).sump = s.sump := rfl
@[simp] theorem emit_faults : (emit s d v m n f).faults = s.faults := rfl
@[simp] theorem emit_evq : (emit s d v m n f).evq = s.evq := rfl
@[simp] theorem emit_fab : (emit s d v m n f).fab = s.fab := rfl
@[simp] theorem emit_ar : (emit s d v m n f).ar = s.ar := rfl
@[simp] theorem emit_arHeld : (emit s d v m n f).arHeld = s.arHeld := rfl
@[simp] theorem emit_arEnd : (emit s d v m n f).arEnd = s.arEnd := rfl
@[simp] theorem emit_mig : (emit s d v m n f).mig = s.mig := rfl
@[simp] theorem emit_harb : (emit s d v m n f).harb = s.harb := rfl
@[simp] theorem emit_ats : (emit s d v m n f).ats = s.ats := rfl
@[simp] theorem emit_atsWait : (emit s d v m n f).atsWait = s.atsWait := rfl
@[simp] theorem emit_freezes : (emit s d v m n f).freezes = s.freezes := rfl
@[simp] theorem emit_thaws : (emit s d v m n f).thaws = s.thaws := rfl
@[simp] theorem emit_start : (emit s d v m n f).start = s.start := rfl
@[simp] theorem emit_outbox : (emit s d v m n f).outbox = s.outbox := rfl
@[simp] theorem emit_inputs : (emit s d v m n f).inputs = s.inputs := rfl
@[simp] theorem emit_turn : (emit s d v m n f).turn = s.turn := rfl
@[simp] theorem emit_agenda : (emit s d v m n f).agenda = s.agenda := rfl
end

/-! Reading back. -/

section
variable (s : State) (g x : Nat)

theorem getCtx_setCtx (c : Ctx) : getCtx (setCtx s g c) x = if x = g then c else getCtx s x := tget_tset ..
@[simp] theorem getCtx_setCtx_self (c : Ctx) : getCtx (setCtx s g c) g = c := tget_tset_self ..
theorem getCtx_setCtx_ne (c : Ctx) (h : x ≠ g) : getCtx (setCtx s g c) x = getCtx s x := tget_tset_ne _ _ _ h
theorem getCtx_modCtx (f : Ctx → Ctx) : getCtx (modCtx s g f) x = if x = g then f (getCtx s g) else getCtx s x :=
  getCtx_setCtx ..
@[simp] theorem getCtx_modCtx_self (f : Ctx → Ctx) : getCtx (modCtx s g f) g = f (getCtx s g) := getCtx_setCtx_self ..
theorem getCtx_modCtx_ne (f : Ctx → Ctx) (h : x ≠ g) : getCtx (modCtx s g f) x = getCtx s x := getCtx_setCtx_ne _ _ _ _ h
theorem getCore_setCore (c : CoreSt) : getCore (setCore s g c) x = if x = g then c else getCore s x := tget_tset ..
@[simp] theorem getCore_setCore_self (c : CoreSt) : getCore (setCore s g c) g = c := tget_tset_self ..
theorem getCore_modCore (f : CoreSt → CoreSt) :
    getCore (modCore s g f) x = if x = g then f (getCore s g) else getCore s x := getCore_setCore ..
@[simp] theorem getCore_modCore_self (f : CoreSt → CoreSt) : getCore (modCore s g f) g = f (getCore s g) :=
  getCore_setCore_self ..
theorem getClu_setClu (c : Cluster) : getClu (setClu s g c) x = if x = g then c else getClu s x := tget_tset ..
@[simp] theorem getClu_setClu_self (c : Cluster) : getClu (setClu s g c) g = c := tget_tset_self ..
theorem getClu_modClu (f : Cluster → Cluster) : getClu (modClu s g f) x = if x = g then f (getClu s g) else getClu s x :=
  getClu_setClu ..
@[simp] theorem getClu_modClu_self (f : Cluster → Cluster) : getClu (modClu s g f) g = f (getClu s g) :=
  getClu_setClu_self ..
theorem getPort_setPort (p : Port) : getPort (setPort s g p) x = if x = g then p else getPort s x := tget_tset ..
@[simp] theorem getPort_setPort_self (p : Port) : getPort (setPort s g p) g = p := tget_tset_self ..
theorem getPort_modPort (f : Port → Port) : getPort (modPort s g f) x = if x = g then f (getPort s g) else getPort s x :=
  getPort_setPort ..
@[simp] theorem getPort_modPort_self (f : Port → Port) : getPort (modPort s g f) g = f (getPort s g) :=
  getPort_setPort_self ..

@[simp] theorem rget_rset_self (v : Word64) : rget (rset s g v) g = v := tget_tput_self ..
theorem rget_rset_ne (v : Word64) (h : x ≠ g) : rget (rset s g v) x = rget s x := by
  unfold rget rset tput
  split <;> simp [tget, tfind_tdel, tfind_tset, h]

/-- A read of contexts, cores, clusters, ports or registers sees only its own table. -/
theorem getCtx_congr {s t : State} (h : t.ctxs = s.ctxs) (x : Nat) : getCtx t x = getCtx s x := by simp [getCtx, h]
theorem getCore_congr {s t : State} (h : t.cores = s.cores) (x : Nat) : getCore t x = getCore s x := by simp [getCore, h]
theorem getClu_congr {s t : State} (h : t.clusters = s.clusters) (x : Nat) : getClu t x = getClu s x := by
  simp [getClu, h]
theorem getPort_congr {s t : State} (h : t.fab = s.fab) (x : Nat) : getPort t x = getPort s x := by simp [getPort, h]
theorem rget_congr {s t : State} (h : t.regs = s.regs) (x : Nat) : rget t x = rget s x := by simp [rget, h]
theorem mread_congr {s t : State} (h : t.mem = s.mem) (x : Nat) : mread t x = mread s x := by simp [mread, h]

end

end Sys2Proof.Machine
end

