-- ==== Sys2Proof/Laws/Issue.lean ====
section
/-!
SUPPORT. What the shared parts of a syllable's meaning can do: the guard, the pop of LDQ, the room of SDQ, the operand forms
of the X and V units, results sent on their way, branches.
-/
namespace Sys2Proof.Machine

section
variable {p : Syl} {s t : State}

/-! The guard. -/

theorem issue_off {f : State → Res} (h : guardOn p s = false) : issue p s f = .next s := by simp [issue, h]
theorem issue_on {f : State → Res} (h : guardOn p s = true) : issue p s f = f s := by simp [issue, h]

/-- A syllable that answers either has no effect, its guard reading 0, or is what its body answers. -/
theorem issue_next {f : State → Res} (h : issue p s f = .next t) : guardOn p s = false ∧ t = s ∨ guardOn p s = true ∧ f s = .next t := by
  unfold issue at h
  split at h
  · exact .inr ⟨‹_›, h⟩
  · next hg =>
    cases h
    exact .inl ⟨by simpa using hg, rfl⟩

/-! The queues. -/

theorem withRoom_room {q : Bool} {f : State → Res} (h : (q && sdqFull (issuer s)) = false) : withRoom q s f = f s := by
  simp [withRoom, h]

theorem withRoom_full {f : State → Res} (h : sdqFull (issuer s) = true) : withRoom true s f = stall s := by
  simp [withRoom, h]

theorem withRoom_next {q : Bool} {f : State → Res} (h : withRoom q s f = .next t) :
    stall s = .next t ∨ (q && sdqFull (issuer s)) = false ∧ f s = .next t := by
  unfold withRoom at h
  split at h
  · exact .inl h
  · next hq => exact .inr ⟨by simpa using hq, h⟩

@[simp] theorem withPop_false {f : Option VWord → State → Res} : withPop false s f = f none s := rfl

theorem withPop_empty {f : Option VWord → State → Res} (h : (issuer s).ldq = []) : withPop true s f = stall s := by
  simp [withPop, h]

theorem withPop_unfilled {f : Option VWord → State → Res} {e : LdqEntry} {r : List LdqEntry} (h : (issuer s).ldq = e :: r)
    (he : e.filled = false) : withPop true s f = stall s := by
  simp [withPop, h, he]

theorem withPop_failed {f : Option VWord → State → Res} {e : LdqEntry} {r : List LdqEntry} (h : (issuer s).ldq = e :: r)
    (he : e.filled = true) (hf : e.failed = true) : withPop true s f = trapNow s 0x08 0 := by
  simp [withPop, h, he, hf]

theorem withPop_filled {f : Option VWord → State → Res} {e : LdqEntry} {r : List LdqEntry} (h : (issuer s).ldq = e :: r)
    (he : e.filled = true) (hf : e.failed = false) :
    withPop true s f = f (some e.val) (modIssuer s fun c => { c with ldq := r }) := by
  simp [withPop, h, he, hf]

/-- Everything a pop can do. -/
theorem withPop_next {q : Bool} {f : Option VWord → State → Res} (h : withPop q s f = .next t) :
    q = false ∧ f none s = .next t ∨
    q = true ∧ (stall s = .next t ∨ trapNow s 0x08 0 = .next t ∨
      ∃ e r, (issuer s).ldq = e :: r ∧ e.filled = true ∧ e.failed = false ∧
        f (some e.val) (modIssuer s fun c => { c with ldq := r }) = .next t) := by
  cases q with
  | false => exact .inl ⟨rfl, h⟩
  | true =>
    refine .inr ⟨rfl, ?_⟩
    cases hl : (issuer s).ldq with
    | nil => exact .inl (by rwa [withPop_empty hl] at h)
    | cons e r =>
      cases he : e.filled with
      | false => exact .inl (by rwa [withPop_unfilled hl he] at h)
      | true =>
        cases hf : e.failed with
        | true => exact .inr (.inl (by rwa [withPop_failed hl he hf] at h))
        | false => exact .inr (.inr ⟨e, r, rfl, he, hf, by rwa [withPop_filled hl he hf] at h⟩)

/-! Results on their way. -/

/-- The record that `emit` puts in flight. -/
theorem getCtx_emit_self (d : Dest) (v : VWord) (m : Word64) (lat : Nat) (fl : BitVec 5) :
    getCtx (emit s d v m lat fl) s.iss.g = { issuer s with
      flight := (issuer s).flight ++ [{ dest := d, val := v, mask := m, due := localTime s (coreOf s.iss.g) + lat,
                                        flags := fl, trap := false }] } := by
  simp [emit, issuer]

theorem getCtx_emit_ne (d : Dest) (v : VWord) (m : Word64) (lat : Nat) (fl : BitVec 5) {g : Nat} (h : g ≠ s.iss.g) :
    getCtx (emit s d v m lat fl) g = getCtx s g := getCtx_modCtx_ne _ _ _ _ h

theorem deliver_reg (d : Dest) (v : VWord) (m : Word64) (lat : Nat) (fl : BitVec 5) :
    deliver s false d v m lat fl = emit s d v m lat fl := rfl

theorem getCtx_branchTo_ne (target : Nat) (near : Bool) {g : Nat} (h : g ≠ s.iss.g) :
    getCtx (branchTo s target near) g = getCtx s g := getCtx_modCtx_ne _ _ _ _ h

theorem getCtx_branchTo_self (target : Nat) (near : Bool) :
    getCtx (branchTo s target near) s.iss.g = { issuer s with
      pc := target % 2 ^ 57 / 4 * 4, next := nowOf s + (if near then 1 else 3), bubble := !near } :=
  getCtx_modCtx_self ..

/-! System mode. -/

theorem needSystem_sys {f : Res} (h : system s = true) : needSystem s f = f := by simp [needSystem, h]
theorem needSystem_user {f : Res} (h : system s = false) : needSystem s f = trapNow s 0x05 0 := by simp [needSystem, h]

/-! Traps. -/

/-- The entry of a precise trap (R344), where one is taken. -/
theorem getCtx_takeTrap {g cause pc next : Nat} {info : Word64} {async : Bool} (hv : (getCtx s g).tvec ≠ 0)
    (hi : (getCtx s g).inh = false) :
    ∃ u, u = setCtx s g { (getCtx s g).hold (isSteward g) (localTime s (coreOf g)) true with
        tpc := pc, tnext := next, tcause := BitVec.ofNat 64 (cause + if async then 256 else 0), tinfo := info,
        pmode := (getCtx s g).mode, mode := true, inh := true, hld := true, pc := (getCtx s g).tvec / 4 * 4,
        next := localTime s (coreOf g) + 3, bubble := false, trapAt := (getCtx s g).scyc } ∧
      takeTrap s g cause info async pc next = traceRec u g 0 cause pc :=
  ⟨_, rfl, by simp [takeTrap, hv, hi]⟩

end

/-! The marks. -/

theorem trapNow_fate {s t : State} {cause : Nat} {info : Word64} (h : trapNow s cause info = .next t) : t.iss.fate = .trap := by
  cases h
  rfl

theorem stall_fate {s t : State} (h : stall s = .next t) : t.iss.fate = .stall := by
  cases h
  rfl

end Sys2Proof.Machine
end

