-- ==== Sys2Proof/Laws/Memory.lean ====
section
/-!
SUPPORT. The laws of memory: what a byte reads as after a write of one byte, of a list of bytes, of a word, of cells; and
that every memory operation keeps the canonical form.
-/
namespace Sys2Proof.Machine

/-! Reading after writing. -/

theorem mread_mwrite (s : State) (a x : Nat) (b : Byte) : mread (mwrite s a b) x = if x = a then b else mread s x :=
  tget_tput ..

@[simp] theorem mread_mwrite_self (s : State) (a : Nat) (b : Byte) : mread (mwrite s a b) a = b := tget_tput_self ..

theorem mread_mwrite_ne (s : State) {a x : Nat} (b : Byte) (h : x ≠ a) : mread (mwrite s a b) x = mread s x :=
  tget_tput_ne _ _ _ h

@[simp] theorem mwriteL_nil (s : State) (a : Nat) : mwriteL s a [] = s := rfl

theorem mwriteL_cons (s : State) (a : Nat) (b : Byte) (r : List Byte) :
    mwriteL s a (b :: r) = mwriteL (mwrite s a b) (a + 1) r := rfl

/-- Bytes written one after another: inside the range the byte written there, outside what was there. -/
theorem mread_mwriteL (s : State) (a x : Nat) (l : List Byte) :
    mread (mwriteL s a l) x = if h : a ≤ x ∧ x < a + l.length then l[x - a] else mread s x := by
  induction l generalizing s a with
  | nil =>
    rw [dif_neg (by simp)]
    rfl
  | cons b r ih =>
    rw [mwriteL_cons, ih, mread_mwrite]
    simp only [List.length_cons]
    by_cases h1 : a + 1 ≤ x ∧ x < a + 1 + r.length
    · have h2 : a ≤ x ∧ x < a + (r.length + 1) := by omega
      rw [dif_pos h1, dif_pos h2]
      obtain ⟨k, hk⟩ : ∃ k, x - a = k + 1 := ⟨x - a - 1, by omega⟩
      have : x - (a + 1) = k := by omega
      simp only [hk, this, List.getElem_cons_succ]
    · rw [dif_neg h1]
      by_cases h3 : x = a
      · subst h3
        rw [if_pos rfl, dif_pos (by omega)]
        simp
      · rw [if_neg h3, dif_neg (by omega)]

theorem mread_mwriteL_out (s : State) {a x : Nat} (l : List Byte) (h : x < a ∨ a + l.length ≤ x) :
    mread (mwriteL s a l) x = mread s x := by
  rw [mread_mwriteL, dif_neg (by omega)]

theorem bytesOf_length {w : Nat} (x : BitVec w) (n : Nat) : (bytesOf x n).length = n := by simp [bytesOf]

theorem bytesOf_getElem {w : Nat} (x : BitVec w) (n i : Nat) (h : i < (bytesOf x n).length) :
    (bytesOf x n)[i] = byteAt x i := by simp [bytesOf]

/-- The bytes of a value written n bytes wide. -/
theorem mread_mwriteL_bytesOf {w : Nat} (s : State) (a y n : Nat) (x : BitVec w) :
    mread (mwriteL s a (bytesOf x n)) y = if a ≤ y ∧ y < a + n then byteAt x (y - a) else mread s y := by
  rw [mread_mwriteL]
  simp only [bytesOf_length]
  split <;> simp [bytesOf]

theorem mread_mwrite8 (s : State) (a y : Nat) (x : Word64) :
    mread (mwrite8 s a x) y = if a ≤ y ∧ y < a + 8 then byteAt x (y - a) else mread s y := mread_mwriteL_bytesOf ..

theorem mread_writeCell (s : State) (c : WCell) (x : Nat) :
    mread (writeCell s c) x = if x = c.pa then (mread s c.pa &&& ~~~ c.msk) ||| (c.val &&& c.msk) else mread s x :=
  mread_mwrite ..

theorem mread_writeCell_whole (s : State) (c : WCell) (h : c.msk = 0xFF) (x : Nat) :
    mread (writeCell s c) x = if x = c.pa then c.val else mread s x := by
  rw [mread_writeCell, h]
  have h1 : (~~~ (0xFF : Byte)) = 0#8 := rfl
  have h2 : (0xFF : Byte) = BitVec.allOnes 8 := rfl
  rw [h1, h2, BitVec.and_zero, BitVec.zero_or, BitVec.and_allOnes]

/-- Cells leave every other byte alone. -/
theorem mread_foldl_writeCell_out (l : List WCell) (s : State) (x : Nat) (h : ∀ c ∈ l, x ≠ c.pa) :
    mread (l.foldl writeCell s) x = mread s x := by
  induction l generalizing s with
  | nil => rfl
  | cons c r ih =>
    rw [List.foldl_cons, ih _ fun d hd => h d (List.mem_cons_of_mem _ hd), mread_writeCell,
      if_neg (h c (List.mem_cons_self ..))]

/-- Of whole cells at different addresses each holds its value. -/
theorem mread_foldl_writeCell_in (l : List WCell) (s : State) (hn : (l.map (·.pa)).Nodup) (hm : ∀ c ∈ l, c.msk = 0xFF)
    {c : WCell} (h : c ∈ l) : mread (l.foldl writeCell s) c.pa = c.val := by
  induction l generalizing s with
  | nil => simp at h
  | cons d r ih =>
    simp only [List.map_cons, List.nodup_cons] at hn
    rw [List.foldl_cons]
    rcases List.mem_cons.1 h with rfl | h
    · rw [mread_foldl_writeCell_out _ _ _ fun e he heq =>
          hn.1 (List.mem_map.2 ⟨e, he, heq.symm⟩),
        mread_writeCell_whole _ _ (hm _ (List.mem_cons_self ..)), if_pos rfl]
    · exact ih _ hn.2 (fun e he => hm e (List.mem_cons_of_mem _ he)) h

/-! The canonical form. -/

theorem memWf_mwrite {s : State} (a : Nat) (b : Byte) (h : memWf s.mem = true) : memWf (mwrite s a b).mem = true :=
  twf_tput a b h

theorem memWf_mwriteL {s : State} (a : Nat) (l : List Byte) (h : memWf s.mem = true) :
    memWf (mwriteL s a l).mem = true := by
  induction l generalizing s a with
  | nil => exact h
  | cons b r ih => exact ih _ (memWf_mwrite a b h)

theorem memWf_mwrite8 {s : State} (a : Nat) (x : Word64) (h : memWf s.mem = true) : memWf (mwrite8 s a x).mem = true :=
  memWf_mwriteL _ _ h

theorem memWf_mwrite4 {s : State} (a x : Nat) (h : memWf s.mem = true) : memWf (mwrite4 s a x).mem = true :=
  memWf_mwriteL _ _ h

theorem memWf_writeCell {s : State} (c : WCell) (h : memWf s.mem = true) : memWf (writeCell s c).mem = true :=
  memWf_mwrite _ _ h

/-- A fold of updates that each keep the form keeps it. -/
theorem memWf_foldl {β : Type} (f : State → β → State) (hf : ∀ s x, memWf s.mem = true → memWf (f s x).mem = true)
    (l : List β) {s : State} (h : memWf s.mem = true) : memWf (l.foldl f s).mem = true := by
  induction l generalizing s with
  | nil => exact h
  | cons x r ih => exact ih (hf _ _ h)

theorem memWf_writeCells {s t : State} (wr : List WCell) (h : memWf s.mem = true) (ht : writeCells s wr = some t) :
    memWf t.mem = true := by
  unfold writeCells at ht
  simp only at ht
  split at ht
  · cases ht
    exact memWf_foldl _ (fun _ c => memWf_writeCell c) _ (by exact h)
  · simp at ht

theorem memWf_zeroRange {s : State} (a n : Nat) (h : memWf s.mem = true) : memWf (zeroRange s a n).mem = true :=
  twf_filter _ h

theorem memWf_reset : memWf State.reset.mem = true := rfl

/-- What writes no memory keeps the form. -/
theorem memWf_congr {s t : State} (ht : t.mem = s.mem) (h : memWf s.mem = true) : memWf t.mem = true := ht ▸ h

end Sys2Proof.Machine
end

