-- ==== Sys2Proof/Laws/PerInstr.lean ====
section
/-!
SUPPORT. Per instruction: the word of a well-formed instruction has 32 bits (R76, R291).
-/
namespace Sys2Proof.Laws

theorem b2n_le (b : Bool) : b2n b ≤ 1 := by cases b <;> decide
theorem vtyIdx_lt (t : VTy) : t.idx < 7 := by cases t <;> decide
theorem vabsOp_lt (t : VTy) : vabsOp t < 128 := by cases t <;> decide
theorem vscaleOp_lt (t : VTy) : vscaleOp t < 128 := by cases t <;> decide

/-- The word of a syllable whose unit, opcode and operand fields lie in their places. -/
theorem sylWord_lt (p : Syl) {unit op x : Nat} (hu : unit < 8) (ho : op < 128) (hx : x ≤ 2 ^ 21 - 8) :
    sylWord p unit op x < 2 ^ 32 := by
  have := b2n_le p.stop
  unfold sylWord
  omega

theorem encE_lt (p : Syl) {unit op x e : Nat} (hu : unit < 8) (ho : op < 128) (hx : x ≤ 2 ^ 21 - 8) :
    (encE p unit op x e).2 < 2 ^ 32 := sylWord_lt p hu ho hx

/-- The same with an immediate of n bits at bit 3 between the operands. -/
theorem encImm_lt (p : Syl) {unit op x : Nat} (n : Nat) (imm : Int) (hu : unit < 8) (ho : op < 128)
    (hx : x + 2 ^ n * 8 ≤ 2 ^ 21) : (encImm p unit op x n imm).2 < 2 ^ 32 := by
  have h : encI (n + 8) imm % 2 ^ n < 2 ^ n := Nat.mod_lt _ (Nat.two_pow_pos n)
  exact sylWord_lt p hu ho (by omega)

/-- An exact field of n bits. -/
theorem encI_lt (n : Nat) (x : Int) : encI n x < 2 ^ n := by
  have h0 : (0 : Int) < 2 ^ n := Int.pow_pos (by decide)
  have h1 := Int.emod_nonneg x (Int.ne_of_gt h0)
  have h2 := Int.emod_lt_of_pos x h0
  unfold encI
  have h3 : ((2 : Int) ^ n) = ((2 ^ n : Nat) : Int) := by simp
  omega

theorem xr_lt (o : XR) (p : Syl) {op : Nat} (ho : op < 128) : (o.enc p op).2 < 2 ^ 32 := by
  have := b2n_le o.qs
  have := b2n_le o.qd
  have := b2n_le o.qb
  exact encE_lt p (by decide) ho (by omega)
theorem xu_lt (o : XU) (p : Syl) {op : Nat} (ho : op < 128) : (o.enc p op).2 < 2 ^ 32 := by
  have := b2n_le o.qs
  have := b2n_le o.qd
  exact encE_lt p (by decide) ho (by omega)
theorem xh_lt (o : XH) (p : Syl) {op : Nat} (ho : op < 128) : (o.enc p op).2 < 2 ^ 32 :=
  encE_lt p (by decide) ho (by omega)
theorem xl_lt (o : XL) (p : Syl) {op : Nat} (ho : op < 128) : (o.enc p op).2 < 2 ^ 32 :=
  encE_lt p (by decide) ho (by omega)
theorem xq_lt (o : XQ) (p : Syl) {op : Nat} (ho : op < 128) : (o.enc p op).2 < 2 ^ 32 :=
  encE_lt p (by decide) ho (by omega)
theorem vr_lt (o : VR) (p : Syl) {op : Nat} (ho : op < 128) : (o.enc p op).2 < 2 ^ 32 := by
  have := b2n_le o.qd
  have := b2n_le o.qs
  have := b2n_le o.md
  exact encE_lt p (by decide) ho (by omega)
theorem at_lt (o : AT) (p : Syl) {op : Nat} (ho : op < 128) : (o.enc p op).2 < 2 ^ 32 := by
  have := b2n_le o.m
  have := b2n_le o.t
  exact encImm_lt p _ _ (by decide) ho (by omega)
theorem ay_lt (o : AY) (p : Syl) {op : Nat} (ho : op < 128) : (o.enc p op).2 < 2 ^ 32 := by
  have := b2n_le o.m
  exact encImm_lt p _ _ (by decide) ho (by omega)
theorem ap_lt (o : AP) (p : Syl) {op : Nat} (ho : op < 128) : (o.enc p op).2 < 2 ^ 32 :=
  encE_lt p (by decide) ho (by omega)
theorem af_lt (o : AF) (p : Syl) {op : Nat} (ho : op < 128) : (o.enc p op).2 < 2 ^ 32 :=
  encE_lt p (by decide) ho (by omega)
theorem ah_lt (o : AH) (p : Syl) {op : Nat} (ho : op < 128) : (o.enc p op).2 < 2 ^ 32 :=
  encE_lt p (by decide) ho (by omega)
theorem aa_lt (o : AA) (p : Syl) {op : Nat} (ho : op < 128) : (o.enc p op).2 < 2 ^ 32 :=
  encImm_lt p _ _ (by decide) ho (by omega)
theorem ms_lt (o : MS) (p : Syl) {op : Nat} (ho : op < 128) : (o.enc p op).2 < 2 ^ 32 :=
  encE_lt p (by decide) ho (by omega)
theorem mp_lt (o : MP) (p : Syl) {op : Nat} (ho : op < 128) : (o.enc p op).2 < 2 ^ 32 :=
  encE_lt p (by decide) ho (by omega)
theorem am_lt (o : AM) (p : Syl) {op x : Nat} (ho : op < 128) (hx : x ≤ 63 * 2 ^ 10) : (o.encAt p op x).2 < 2 ^ 32 := by
  have := b2n_le o.m
  unfold AM.encAt AM.fields
  split
  · exact encImm_lt p _ _ (by decide) ho (by omega)
  · exact encE_lt p (by decide) ho (by omega)

namespace Bits

/-- The word of i, where i is well-formed and has one, has 32 bits. -/
def Statement (i : Instr) : Prop := ∀ l w, wellFormed i = true → encode i = some (l, w) → w < 2 ^ 32

theorem of_word {i : Instr} (x : Lend × Nat) (he : encode i = some x) (hx : wellFormed i = true → x.2 < 2 ^ 32) :
    Statement i := by
  intro l w hw h
  rw [he] at h
  cases h
  exact hx hw

theorem add (p : Syl) (o : XR) : Statement (.add p o) :=
  of_word _ rfl fun _ => xr_lt o p (by decide)
theorem sub (p : Syl) (o : XR) : Statement (.sub p o) :=
  of_word _ rfl fun _ => xr_lt o p (by decide)
theorem mul (p : Syl) (o : XR) : Statement (.mul p o) :=
  of_word _ rfl fun _ => xr_lt o p (by decide)
theorem mulh (p : Syl) (o : XR) : Statement (.mulh p o) :=
  of_word _ rfl fun _ => xr_lt o p (by decide)
theorem mulhU (p : Syl) (o : XR) : Statement (.mulhU p o) :=
  of_word _ rfl fun _ => xr_lt o p (by decide)
theorem div (p : Syl) (o : XR) : Statement (.div p o) :=
  of_word _ rfl fun _ => xr_lt o p (by decide)
theorem divU (p : Syl) (o : XR) : Statement (.divU p o) :=
  of_word _ rfl fun _ => xr_lt o p (by decide)
theorem rem (p : Syl) (o : XR) : Statement (.rem p o) :=
  of_word _ rfl fun _ => xr_lt o p (by decide)
theorem remU (p : Syl) (o : XR) : Statement (.remU p o) :=
  of_word _ rfl fun _ => xr_lt o p (by decide)
theorem abs (p : Syl) (o : XU) : Statement (.abs p o) :=
  of_word _ rfl fun _ => xu_lt o p (by decide)
theorem and (p : Syl) (o : XR) : Statement (.and p o) :=
  of_word _ rfl fun _ => xr_lt o p (by decide)
theorem or (p : Syl) (o : XR) : Statement (.or p o) :=
  of_word _ rfl fun _ => xr_lt o p (by decide)
theorem xor (p : Syl) (o : XR) : Statement (.xor p o) :=
  of_word _ rfl fun _ => xr_lt o p (by decide)
theorem andn (p : Syl) (o : XR) : Statement (.andn p o) :=
  of_word _ rfl fun _ => xr_lt o p (by decide)
theorem shl (p : Syl) (o : XR) : Statement (.shl p o) :=
  of_word _ rfl fun _ => xr_lt o p (by decide)
theorem shr (p : Syl) (o : XR) : Statement (.shr p o) :=
  of_word _ rfl fun _ => xr_lt o p (by decide)
theorem sra (p : Syl) (o : XR) : Statement (.sra p o) :=
  of_word _ rfl fun _ => xr_lt o p (by decide)
theorem rotl (p : Syl) (o : XR) : Statement (.rotl p o) :=
  of_word _ rfl fun _ => xr_lt o p (by decide)
theorem clz (p : Syl) (o : XU) : Statement (.clz p o) :=
  of_word _ rfl fun _ => xu_lt o p (by decide)
theorem popc (p : Syl) (o : XU) : Statement (.popc p o) :=
  of_word _ rfl fun _ => xu_lt o p (by decide)
theorem extb (p : Syl) (o : XR) : Statement (.extb p o) :=
  of_word _ rfl fun _ => xr_lt o p (by decide)
theorem extbS (p : Syl) (o : XR) : Statement (.extbS p o) :=
  of_word _ rfl fun _ => xr_lt o p (by decide)
theorem depb (p : Syl) (o : XR) : Statement (.depb p o) :=
  of_word _ rfl fun _ => xr_lt o p (by decide)
theorem min (p : Syl) (o : XR) : Statement (.min p o) :=
  of_word _ rfl fun _ => xr_lt o p (by decide)
theorem max (p : Syl) (o : XR) : Statement (.max p o) :=
  of_word _ rfl fun _ => xr_lt o p (by decide)
theorem minU (p : Syl) (o : XR) : Statement (.minU p o) :=
  of_word _ rfl fun _ => xr_lt o p (by decide)
theorem maxU (p : Syl) (o : XR) : Statement (.maxU p o) :=
  of_word _ rfl fun _ => xr_lt o p (by decide)
theorem mov (p : Syl) (o : XV) : Statement (.mov p o) := by
  have := b2n_le o.qs
  have := b2n_le o.qd
  exact of_word _ rfl fun _ => encE_lt p (by decide) (by omega) (by omega)
theorem lea (p : Syl) (n : Fin 4) (o : XR) : Statement (.lea p n o) :=
  of_word _ rfl fun _ => xr_lt o p (by omega)
theorem addi (p : Syl) (o : XI) : Statement (.addi p o) :=
  of_word _ rfl fun _ => encImm_lt p _ _ (by decide) (by omega) (by omega)
theorem shlImm (p : Syl) (o : XH) : Statement (.shlImm p o) :=
  of_word _ rfl fun _ => xh_lt o p (by decide)
theorem shrImm (p : Syl) (o : XH) : Statement (.shrImm p o) :=
  of_word _ rfl fun _ => xh_lt o p (by decide)
theorem sraImm (p : Syl) (o : XH) : Statement (.sraImm p o) :=
  of_word _ rfl fun _ => xh_lt o p (by decide)
theorem rotlImm (p : Syl) (o : XH) : Statement (.rotlImm p o) :=
  of_word _ rfl fun _ => xh_lt o p (by decide)
theorem movi (p : Syl) (o : XM) : Statement (.movi p o) :=
  of_word _ rfl fun _ => encImm_lt p _ _ (by decide) (by omega) (by omega)
theorem mfsr (p : Syl) (o : XS) : Statement (.mfsr p o) := by
  refine of_word _ rfl fun hw => encE_lt p (by decide) (by decide) ?_
  simp only [wellFormed, srnAssigned, Bool.or_eq_true, Bool.and_eq_true, decide_eq_true_eq] at hw
  omega
theorem mtsr (p : Syl) (o : XS) : Statement (.mtsr p o) := by
  refine of_word _ rfl fun hw => encE_lt p (by decide) (by decide) ?_
  simp only [wellFormed, srnAssigned, Bool.or_eq_true, Bool.and_eq_true, decide_eq_true_eq] at hw
  omega
theorem cmp (p : Syl) (o : XC) : Statement (.cmp p o) :=
  of_word _ rfl fun _ => encE_lt p (by decide) (by omega) (by omega)
theorem cmpi (p : Syl) (o : XK) : Statement (.cmpi p o) :=
  of_word _ rfl fun _ => encImm_lt p _ _ (by decide) (by omega) (by omega)
theorem plog (p : Syl) (o : XL) : Statement (.plog p o) :=
  of_word _ rfl fun _ => xl_lt o p (by decide)
theorem pset (p : Syl) (o : XP) : Statement (.pset p o) := by
  have := b2n_le o.v
  exact of_word _ rfl fun _ => encE_lt p (by decide) (by omega) (by omega)
theorem klog (p : Syl) (o : XL) : Statement (.klog p o) :=
  of_word _ rfl fun _ => xl_lt o p (by decide)
theorem kpopc (p : Syl) (o : XQ) : Statement (.kpopc p o) :=
  of_word _ rfl fun _ => xq_lt o p (by decide)
theorem kfirst (p : Syl) (o : XQ) : Statement (.kfirst p o) :=
  of_word _ rfl fun _ => xq_lt o p (by decide)
theorem sel (p : Syl) (n : Fin 16) (o : XR) : Statement (.sel p n o) :=
  of_word _ rfl fun _ => xr_lt o p (by omega)
theorem vadd (p : Syl) (t : VTy) (o : VR) : Statement (.vadd p t o) := by
  have := vtyIdx_lt t
  exact of_word _ rfl fun _ => vr_lt o p (by omega)
theorem vsub (p : Syl) (t : VTy) (o : VR) : Statement (.vsub p t o) := by
  have := vtyIdx_lt t
  exact of_word _ rfl fun _ => vr_lt o p (by omega)
theorem vmul (p : Syl) (t : VTy) (o : VR) : Statement (.vmul p t o) := by
  have := vtyIdx_lt t
  exact of_word _ rfl fun _ => vr_lt o p (by omega)
theorem vmin (p : Syl) (t : VTy) (o : VR) : Statement (.vmin p t o) := by
  have := vtyIdx_lt t
  exact of_word _ rfl fun _ => vr_lt o p (by omega)
theorem vmax (p : Syl) (t : VTy) (o : VR) : Statement (.vmax p t o) := by
  have := vtyIdx_lt t
  exact of_word _ rfl fun _ => vr_lt o p (by omega)
theorem vfma (p : Syl) (t : VTy) (o : VR) : Statement (.vfma p t o) := by
  have := vtyIdx_lt t
  exact of_word _ rfl fun _ => vr_lt o p (by omega)
theorem vfmaNa (p : Syl) (t : VTy) (o : VR) : Statement (.vfmaNa p t o) := by
  have := vtyIdx_lt t
  exact of_word _ rfl fun _ => vr_lt o p (by omega)
theorem vcmp (p : Syl) (t : VTy) (o : VK) : Statement (.vcmp p t o) := by
  have := b2n_le o.qs
  have := vtyIdx_lt t
  exact of_word _ rfl fun _ => encE_lt p (by decide) (by omega) (by omega)
theorem vand (p : Syl) (o : VR) : Statement (.vand p o) :=
  of_word _ rfl fun _ => vr_lt o p (by decide)
theorem vor (p : Syl) (o : VR) : Statement (.vor p o) :=
  of_word _ rfl fun _ => vr_lt o p (by decide)
theorem vxor (p : Syl) (o : VR) : Statement (.vxor p o) :=
  of_word _ rfl fun _ => vr_lt o p (by decide)
theorem vsel (p : Syl) (o : VR) : Statement (.vsel p o) :=
  of_word _ rfl fun _ => vr_lt o p (by decide)
theorem vshl (p : Syl) (o : VR) : Statement (.vshl p o) :=
  of_word _ rfl fun _ => vr_lt o p (by decide)
theorem vshr (p : Syl) (o : VR) : Statement (.vshr p o) :=
  of_word _ rfl fun _ => vr_lt o p (by decide)
theorem vsra (p : Syl) (o : VR) : Statement (.vsra p o) :=
  of_word _ rfl fun _ => vr_lt o p (by decide)
theorem vmov (p : Syl) (o : VR) : Statement (.vmov p o) :=
  of_word _ rfl fun _ => vr_lt o p (by decide)
theorem vabs (p : Syl) (t : VTy) (o : VR) : Statement (.vabs p t o) :=
  of_word _ rfl fun _ => vr_lt o p (vabsOp_lt t)
theorem vscale (p : Syl) (t : VTy) (o : VR) : Statement (.vscale p t o) :=
  of_word _ rfl fun _ => vr_lt o p (vscaleOp_lt t)
theorem vcvt (p : Syl) (o : VX) : Statement (.vcvt p o) := by
  have := b2n_le o.qs
  exact of_word _ rfl fun _ => encE_lt p (by decide) (by omega) (by omega)
theorem vrcp (p : Syl) (o : VR) : Statement (.vrcp p o) :=
  of_word _ rfl fun _ => vr_lt o p (by decide)
theorem vrsq (p : Syl) (o : VR) : Statement (.vrsq p o) :=
  of_word _ rfl fun _ => vr_lt o p (by decide)
theorem vexp2 (p : Syl) (o : VR) : Statement (.vexp2 p o) :=
  of_word _ rfl fun _ => vr_lt o p (by decide)
theorem vlog2 (p : Syl) (o : VR) : Statement (.vlog2 p o) :=
  of_word _ rfl fun _ => vr_lt o p (by decide)
theorem vperm (p : Syl) (o : VR) : Statement (.vperm p o) :=
  of_word _ rfl fun _ => vr_lt o p (by decide)
theorem vbcast (p : Syl) (o : VR) : Statement (.vbcast p o) :=
  of_word _ rfl fun _ => vr_lt o p (by decide)
theorem vrot (p : Syl) (o : VR) : Statement (.vrot p o) :=
  of_word _ rfl fun _ => vr_lt o p (by decide)
theorem vext (p : Syl) (o : VR) : Statement (.vext p o) :=
  of_word _ rfl fun _ => vr_lt o p (by decide)
theorem vins (p : Syl) (o : VR) : Statement (.vins p o) :=
  of_word _ rfl fun _ => vr_lt o p (by decide)
theorem viota (p : Syl) (o : VR) : Statement (.viota p o) :=
  of_word _ rfl fun _ => vr_lt o p (by decide)
theorem vpack (p : Syl) (o : VR) : Statement (.vpack p o) :=
  of_word _ rfl fun _ => vr_lt o p (by decide)
theorem vunpk (p : Syl) (o : VR) : Statement (.vunpk p o) :=
  of_word _ rfl fun _ => vr_lt o p (by decide)
theorem vred (p : Syl) (t : VTy) (o : VR) : Statement (.vred p t o) := by
  have := vtyIdx_lt t
  exact of_word _ rfl fun _ => vr_lt o p (by omega)
theorem vscan (p : Syl) (t : VTy) (o : VR) : Statement (.vscan p t o) := by
  have := vtyIdx_lt t
  exact of_word _ rfl fun _ => vr_lt o p (by omega)
theorem vdot (p : Syl) (src : Fin 8) (o : VR) : Statement (.vdot p src o) :=
  of_word _ rfl fun _ => vr_lt o p (by omega)
theorem lda (p : Syl) (n : Fin 7) (o : AM) : Statement (.lda p n o) :=
  of_word _ rfl fun _ => am_lt o p (by omega) (by omega)
theorem sta (p : Syl) (n : Fin 4) (o : AM) : Statement (.sta p n o) :=
  of_word _ rfl fun _ => am_lt o p (by omega) (by omega)
theorem bind (p : Syl) (o : AB) : Statement (.bind p o) := by
  have := b2n_le o.m
  have := b2n_le o.u
  exact of_word _ rfl fun _ => encE_lt p (by decide) (by omega) (by omega)
theorem fence (p : Syl) (o : AF) : Statement (.fence p o) :=
  of_word _ rfl fun _ => af_lt o p (by decide)
theorem pfence (p : Syl) (o : AF) : Statement (.pfence p o) :=
  of_word _ rfl fun _ => af_lt o p (by decide)
theorem ldv (p : Syl) (w : Fin 4) (o : AM) : Statement (.ldv p w o) :=
  of_word _ rfl fun _ => am_lt o p (by omega) (by omega)
theorem ldvs (p : Syl) (w : Fin 4) (o : AM) : Statement (.ldvs p w o) :=
  of_word _ rfl fun _ => am_lt o p (by omega) (by omega)
theorem ldg (p : Syl) (w : Fin 4) (o : AM) : Statement (.ldg p w o) :=
  of_word _ rfl fun hw => am_lt o p (by omega) (by
      simp only [wellFormed, Bool.and_eq_true, decide_eq_true_eq] at hw
      omega)
theorem stv (p : Syl) (w : Fin 4) (o : AM) : Statement (.stv p w o) :=
  of_word _ rfl fun _ => am_lt o p (by omega) (by omega)
theorem stvs (p : Syl) (w : Fin 4) (o : AM) : Statement (.stvs p w o) :=
  of_word _ rfl fun _ => am_lt o p (by omega) (by omega)
theorem stg (p : Syl) (w : Fin 4) (o : AM) : Statement (.stg p w o) :=
  of_word _ rfl fun hw => am_lt o p (by omega) (by
      simp only [wellFormed, Bool.and_eq_true, decide_eq_true_eq] at hw
      omega)
theorem aadd (p : Syl) (o : AA) : Statement (.aadd p o) :=
  of_word _ rfl fun _ => aa_lt o p (by decide)
theorem bset (p : Syl) (o : AA) : Statement (.bset p o) :=
  of_word _ rfl fun _ => aa_lt o p (by decide)
theorem trans (p : Syl) (o : AH) : Statement (.trans p o) :=
  of_word _ rfl fun _ => ah_lt o p (by decide)
theorem hrel (p : Syl) (o : AH) : Statement (.hrel p o) :=
  of_word _ rfl fun _ => ah_lt o p (by decide)
theorem hchk (p : Syl) (o : AH) : Statement (.hchk p o) :=
  of_word _ rfl fun _ => ah_lt o p (by decide)
theorem preq (p : Syl) (o : AH) : Statement (.preq p o) :=
  of_word _ rfl fun _ => ah_lt o p (by decide)
theorem feset (p : Syl) (o : AM) : Statement (.feset p o) :=
  of_word _ rfl fun _ => am_lt o p (by decide) (by omega)
theorem fewait (p : Syl) (o : AM) : Statement (.fewait p o) :=
  of_word _ rfl fun _ => am_lt o p (by decide) (by omega)
theorem amo32 (p : Syl) (op : Fin 11) (o : AT) : Statement (.amo32 p op o) :=
  of_word _ rfl fun _ => at_lt o p (by omega)
theorem amo64 (p : Syl) (op : Fin 11) (o : AT) : Statement (.amo64 p op o) :=
  of_word _ rfl fun _ => at_lt o p (by omega)
theorem amos32 (p : Syl) (op : Fin 11) (o : AT) : Statement (.amos32 p op o) :=
  of_word _ rfl fun _ => at_lt o p (by omega)
theorem amos64 (p : Syl) (op : Fin 11) (o : AT) : Statement (.amos64 p op o) :=
  of_word _ rfl fun _ => at_lt o p (by omega)
theorem cas (p : Syl) (n : Fin 3) (o : AT) : Statement (.cas p n o) :=
  of_word _ rfl fun _ => at_lt o p (by omega)
theorem acqX (p : Syl) (o : AY) : Statement (.acqX p o) :=
  of_word _ rfl fun _ => ay_lt o p (by decide)
theorem acqSh (p : Syl) (o : AY) : Statement (.acqSh p o) :=
  of_word _ rfl fun _ => ay_lt o p (by decide)
theorem acqEv (p : Syl) (o : AY) : Statement (.acqEv p o) :=
  of_word _ rfl fun _ => ay_lt o p (by decide)
theorem relUn (p : Syl) (o : AY) : Statement (.relUn p o) :=
  of_word _ rfl fun _ => ay_lt o p (by decide)
theorem relPost (p : Syl) (o : AY) : Statement (.relPost p o) :=
  of_word _ rfl fun _ => ay_lt o p (by decide)
theorem pcmdAddI32 (p : Syl) (o : AP) : Statement (.pcmdAddI32 p o) :=
  of_word _ rfl fun _ => ap_lt o p (by decide)
theorem pcmdAddF32 (p : Syl) (o : AP) : Statement (.pcmdAddF32 p o) :=
  of_word _ rfl fun _ => ap_lt o p (by decide)
theorem pcmdAxpyF32 (p : Syl) (o : AP) : Statement (.pcmdAxpyF32 p o) :=
  of_word _ rfl fun _ => ap_lt o p (by decide)
theorem pcmdMaxF32 (p : Syl) (o : AP) : Statement (.pcmdMaxF32 p o) :=
  of_word _ rfl fun _ => ap_lt o p (by decide)
theorem pcmdCvtBf16 (p : Syl) (o : AP) : Statement (.pcmdCvtBf16 p o) :=
  of_word _ rfl fun _ => ap_lt o p (by decide)
theorem pcmdFill (p : Syl) (o : AP) : Statement (.pcmdFill p o) :=
  of_word _ rfl fun _ => ap_lt o p (by decide)
theorem pcmdCopy (p : Syl) (o : AP) : Statement (.pcmdCopy p o) :=
  of_word _ rfl fun _ => ap_lt o p (by decide)
theorem pcmdAcc (p : Syl) (o : AP) : Statement (.pcmdAcc p o) :=
  of_word _ rfl fun _ => ap_lt o p (by decide)
theorem cpy (p : Syl) (va : Fin 32) (ch : Fin 4) : Statement (.cpy p va ch) :=
  of_word _ rfl fun _ => encE_lt p (by decide) (by omega) (by omega)
theorem cpyq (p : Syl) (va : Fin 32) (sa : Fin 64) : Statement (.cpyq p va sa) :=
  of_word _ rfl fun _ => encE_lt p (by decide) (by omega) (by omega)
theorem drain (p : Syl) (chs : Fin 8) : Statement (.drain p chs) :=
  of_word _ rfl fun _ => encE_lt p (by decide) (by omega) (by omega)
theorem cwait (p : Syl) (o : MS) : Statement (.cwait p o) :=
  of_word _ rfl fun _ => ms_lt o p (by decide)
theorem cadd (p : Syl) (o : MS) : Statement (.cadd p o) :=
  of_word _ rfl fun _ => ms_lt o p (by decide)
theorem cset (p : Syl) (o : MS) : Statement (.cset p o) :=
  of_word _ rfl fun _ => ms_lt o p (by decide)
theorem put (p : Syl) (n : Fin 6) (o : MP) : Statement (.put p n o) :=
  of_word _ rfl fun _ => mp_lt o p (by omega)
theorem putm (p : Syl) (n : Fin 6) (o : MP) : Statement (.putm p n o) :=
  of_word _ rfl fun _ => mp_lt o p (by omega)
theorem putmO (p : Syl) (n : Fin 6) (o : MP) : Statement (.putmO p n o) :=
  of_word _ rfl fun _ => mp_lt o p (by omega)
theorem shdw (p : Syl) (o : MS) : Statement (.shdw p o) :=
  of_word _ rfl fun _ => ms_lt o p (by decide)
theorem publ (p : Syl) (o : MS) : Statement (.publ p o) :=
  of_word _ rfl fun _ => ms_lt o p (by decide)
theorem sdef (p : Syl) (sid : Fin 16) : Statement (.sdef p sid) :=
  of_word _ rfl fun _ => encE_lt p (by decide) (by omega) (by omega)
theorem ssub (p : Syl) (o : MU) : Statement (.ssub p o) :=
  of_word _ rfl fun _ => encE_lt p (by decide) (by omega) (by omega)
theorem sfeed (p : Syl) (o : MF) : Statement (.sfeed p o) :=
  of_word _ rfl fun _ => encE_lt p (by decide) (by omega) (by omega)
theorem srel (p : Syl) (sid : Fin 16) : Statement (.srel p sid) :=
  of_word _ rfl fun _ => encE_lt p (by decide) (by omega) (by omega)
theorem mload (p : Syl) (o : MS) : Statement (.mload p o) :=
  of_word _ rfl fun _ => ms_lt o p (by decide)
theorem mcall (p : Syl) (en : Fin 4096) : Statement (.mcall p en) :=
  of_word _ rfl fun _ => encE_lt p (by decide) (by omega) (by omega)
theorem mwait (p : Syl) : Statement (.mwait p) :=
  of_word _ rfl fun _ => encE_lt p (by decide) (by omega) (by omega)
theorem mrdaVector (p : Syl) (o : MV) : Statement (.mrdaVector p o) := by
  have := b2n_le o.qd
  exact of_word _ rfl fun _ => encE_lt p (by decide) (by omega) (by omega)
theorem mrdaScratchpad (p : Syl) (o : MX) : Statement (.mrdaScratchpad p o) :=
  of_word _ rfl fun _ => encE_lt p (by decide) (by omega) (by omega)
theorem mzro (p : Syl) (t : Fin 16) : Statement (.mzro p t) :=
  of_word _ rfl fun _ => encE_lt p (by decide) (by omega) (by omega)
theorem engw (p : Syl) (sa : Fin 64) (ix : Nat) : Statement (.engw p sa ix) := by
  refine of_word _ rfl fun hw => encE_lt p (by decide) (by decide) ?_
  simp only [wellFormed, shadowIndex, Bool.or_eq_true, Bool.and_eq_true, decide_eq_true_eq] at hw
  omega
theorem bar (p : Syl) (n : Fin 16) : Statement (.bar p n) :=
  of_word _ rfl fun _ => encE_lt p (by decide) (by omega) (by omega)
theorem bara (p : Syl) (n : Fin 16) : Statement (.bara p n) :=
  of_word _ rfl fun _ => encE_lt p (by decide) (by omega) (by omega)
theorem barw (p : Syl) (n : Fin 16) : Statement (.barw p n) :=
  of_word _ rfl fun _ => encE_lt p (by decide) (by omega) (by omega)
theorem waitev (p : Syl) (o : MS) : Statement (.waitev p o) :=
  of_word _ rfl fun _ => ms_lt o p (by decide)
theorem lnch (p : Syl) (va : Fin 32) (sa : Fin 64) : Statement (.lnch p va sa) :=
  of_word _ rfl fun _ => encE_lt p (by decide) (by omega) (by omega)
theorem csave (p : Syl) (o : MS) : Statement (.csave p o) :=
  of_word _ rfl fun _ => ms_lt o p (by decide)
theorem cload (p : Syl) (o : MS) : Statement (.cload p o) :=
  of_word _ rfl fun _ => ms_lt o p (by decide)
theorem freeze (p : Syl) (o : MS) : Statement (.freeze p o) :=
  of_word _ rfl fun _ => ms_lt o p (by decide)
theorem thaw (p : Syl) (o : MS) : Statement (.thaw p o) :=
  of_word _ rfl fun _ => ms_lt o p (by decide)
theorem discard (p : Syl) (o : MS) : Statement (.discard p o) :=
  of_word _ rfl fun _ => ms_lt o p (by decide)
theorem vdrain (p : Syl) (sa : Fin 64) : Statement (.vdrain p sa) :=
  of_word _ rfl fun _ => encE_lt p (by decide) (by omega) (by omega)
theorem hinvv (p : Syl) (sa : Fin 64) : Statement (.hinvv p sa) :=
  of_word _ rfl fun _ => encE_lt p (by decide) (by omega) (by omega)
theorem scrub (p : Syl) (o : MS) : Statement (.scrub p o) :=
  of_word _ rfl fun _ => ms_lt o p (by decide)
theorem trig (p : Syl) (n : Fin 256) : Statement (.trig p n) :=
  of_word _ rfl fun _ => encE_lt p (by decide) (by omega) (by omega)
theorem nop (p : Syl) : Statement (.nop p) :=
  of_word _ rfl fun _ => encE_lt p (by decide) (by omega) (by omega)
theorem brt (p : Syl) (o : BT) : Statement (.brt p o) :=
  of_word _ rfl fun _ => sylWord_lt p (by decide) (by decide) (by omega)
theorem brc (p : Syl) (o : BC) : Statement (.brc p o) := by
  have := b2n_le o.v
  exact of_word _ rfl fun _ => encImm_lt p _ _ (by decide) (by omega) (by omega)
theorem jmp (p : Syl) (off : Int) : Statement (.jmp p off) := by
  have := encI_lt 18 off
  exact of_word _ rfl fun _ => encE_lt p (by decide) (by omega) (by omega)
theorem jmpi (p : Syl) (sa : Fin 64) : Statement (.jmpi p sa) :=
  of_word _ rfl fun _ => encE_lt p (by decide) (by omega) (by omega)
theorem call (p : Syl) (sd : Fin 64) (off : Int) : Statement (.call p sd off) :=
  of_word _ rfl fun _ => encImm_lt p _ _ (by decide) (by omega) (by omega)
theorem ret (p : Syl) (sa : Fin 64) : Statement (.ret p sa) :=
  of_word _ rfl fun _ => encE_lt p (by decide) (by omega) (by omega)
theorem loop (p : Syl) (off : Int) : Statement (.loop p off) := by
  have := encI_lt 18 off
  exact of_word _ rfl fun _ => encE_lt p (by decide) (by omega) (by omega)
theorem lset (p : Syl) (sa : Fin 64) (sm : Fin 8) : Statement (.lset p sa sm) :=
  of_word _ rfl fun _ => encE_lt p (by decide) (by omega) (by omega)
theorem exit (p : Syl) : Statement (.exit p) :=
  of_word _ rfl fun _ => encE_lt p (by decide) (by omega) (by omega)
theorem yield (p : Syl) : Statement (.yield p) :=
  of_word _ rfl fun _ => encE_lt p (by decide) (by omega) (by omega)
theorem trap (p : Syl) (code : Fin 256) : Statement (.trap p code) :=
  of_word _ rfl fun _ => encE_lt p (by decide) (by omega) (by omega)
theorem eret (p : Syl) : Statement (.eret p) :=
  of_word _ rfl fun _ => encE_lt p (by decide) (by omega) (by omega)
theorem halt (p : Syl) : Statement (.halt p) :=
  of_word _ rfl fun _ => encE_lt p (by decide) (by omega) (by omega)
theorem step (j : Bool) (o : UStep) : Statement (.step j o) := by
  have := b2n_le o.sat
  have := b2n_le j
  exact of_word _ rfl fun _ => by simp only [micro]; omega
theorem scl (j : Bool) : Statement (.scl j) := by
  have := b2n_le j
  exact of_word _ rfl fun _ => by simp only [micro]; omega
theorem band (j side : Bool) : Statement (.band j side) := by
  have := b2n_le side
  have := b2n_le j
  exact of_word _ rfl fun _ => by simp only [micro]; omega
theorem accsel (j : Bool) (tile : Fin 16) : Statement (.accsel j tile) := by
  have := b2n_le j
  exact of_word _ rfl fun _ => by simp only [micro]; omega
theorem accselG (j : Bool) (i : Fin 8) : Statement (.accselG j i) := by
  have := b2n_le j
  exact of_word _ rfl fun _ => by simp only [micro]; omega
theorem uloop (count : Fin 4096) (len : Fin 2048) : Statement (.uloop count len) := by
  have := b2n_le false
  exact of_word _ rfl fun _ => by simp only [micro]; omega
theorem uloopG (i : Fin 8) (len : Fin 2048) : Statement (.uloopG i len) := by
  have := b2n_le false
  exact of_word _ rfl fun _ => by simp only [micro]; omega
theorem skip (j : Bool) (pt : Fin 4) (n : Fin 256) : Statement (.skip j pt n) := by
  have := b2n_le j
  exact of_word _ rfl fun _ => by simp only [micro]; omega
theorem sig (j : Bool) (i : Fin 8) : Statement (.sig j i) := by
  have := b2n_le j
  exact of_word _ rfl fun _ => by simp only [micro]; omega
theorem waits (j : Bool) (pt : Fin 4) (n : Fin 256) : Statement (.waits j pt n) := by
  have := b2n_le j
  exact of_word _ rfl fun _ => by simp only [micro]; omega
theorem contextSelect (core : Nat) : Statement (.contextSelect core) := fun _ _ _ h => nomatch h
theorem asyncTrapEntry (g : Nat) : Statement (.asyncTrapEntry g) := fun _ _ _ h => nomatch h
theorem resultLanding (core : Nat) : Statement (.resultLanding core) := fun _ _ _ h => nomatch h
theorem laqRequestLeave (g : Nat) : Statement (.laqRequestLeave g) := fun _ _ _ h => nomatch h
theorem ldqFill (g : Nat) : Statement (.ldqFill g) := fun _ _ _ h => nomatch h
theorem fullEmptyWaitEnd (g : Nat) : Statement (.fullEmptyWaitEnd g) := fun _ _ _ h => nomatch h
theorem loadPerform (id : Nat) : Statement (.loadPerform id) := fun _ _ _ h => nomatch h
theorem storePerform (id : Nat) : Statement (.storePerform id) := fun _ _ _ h => nomatch h
theorem atomicPerform (id : Nat) : Statement (.atomicPerform id) := fun _ _ _ h => nomatch h
theorem syncAcquireStep (id : Nat) : Statement (.syncAcquireStep id) := fun _ _ _ h => nomatch h
theorem syncReleaseStep (id : Nat) : Statement (.syncReleaseStep id) := fun _ _ _ h => nomatch h
theorem releasePerform (core id : Nat) : Statement (.releasePerform core id) := fun _ _ _ h => nomatch h
theorem fenceComplete (g : Nat) : Statement (.fenceComplete g) := fun _ _ _ h => nomatch h
theorem pfenceComplete (g : Nat) : Statement (.pfenceComplete g) := fun _ _ _ h => nomatch h
theorem bindPerform (g : Nat) : Statement (.bindPerform g) := fun _ _ _ h => nomatch h
theorem tableWalkComplete (id : Nat) : Statement (.tableWalkComplete id) := fun _ _ _ h => nomatch h
theorem barrierArrivalCount (g slot : Nat) : Statement (.barrierArrivalCount g slot) := fun _ _ _ h => nomatch h
theorem groupRetire (gid : Nat) : Statement (.groupRetire gid) := fun _ _ _ h => nomatch h
theorem launchComplete (lid : Nat) : Statement (.launchComplete lid) := fun _ _ _ h => nomatch h
theorem launchPacketTake (q : Nat) : Statement (.launchPacketTake q) := fun _ _ _ h => nomatch h
theorem stewardPacketTake (n : Nat) : Statement (.stewardPacketTake n) := fun _ _ _ h => nomatch h
theorem launchEngineAppend (core id : Nat) : Statement (.launchEngineAppend core id) := fun _ _ _ h => nomatch h
theorem counterAddPerform (core id : Nat) : Statement (.counterAddPerform core id) := fun _ _ _ h => nomatch h
theorem counterSetPerform (core id : Nat) : Statement (.counterSetPerform core id) := fun _ _ _ h => nomatch h
theorem shdwPerform (core id : Nat) : Statement (.shdwPerform core id) := fun _ _ _ h => nomatch h
theorem enginePartIssue (chan : Nat) : Statement (.enginePartIssue chan) := fun _ _ _ h => nomatch h
theorem copyPartLand (id : Nat) : Statement (.copyPartLand id) := fun _ _ _ h => nomatch h
theorem copyComplete (chan id : Nat) : Statement (.copyComplete chan id) := fun _ _ _ h => nomatch h
theorem putComplete (chan id : Nat) : Statement (.putComplete chan id) := fun _ _ _ h => nomatch h
theorem sharedCopyPacketTake (q : Nat) : Statement (.sharedCopyPacketTake q) := fun _ _ _ h => nomatch h
theorem feederEntryFill (slot : Nat) : Statement (.feederEntryFill slot) := fun _ _ _ h => nomatch h
theorem pumpPartEnqueue (id : Nat) : Statement (.pumpPartEnqueue id) := fun _ _ _ h => nomatch h
theorem pumpPartExecute (bank : Nat) : Statement (.pumpPartExecute bank) := fun _ _ _ h => nomatch h
theorem rarmArm (g i : Nat) : Statement (.rarmArm g i) := fun _ _ _ h => nomatch h
theorem matrixCommandBegin (core : Nat) : Statement (.matrixCommandBegin core) := fun _ _ _ h => nomatch h
theorem routineComplete (core : Nat) : Statement (.routineComplete core) := fun _ _ _ h => nomatch h
theorem governorCheck (core : Nat) : Statement (.governorCheck core) := fun _ _ _ h => nomatch h
theorem governorFreezeEnd (core : Nat) : Statement (.governorFreezeEnd core) := fun _ _ _ h => nomatch h
theorem faultBatchFlush (vf : Nat) : Statement (.faultBatchFlush vf) := fun _ _ _ h => nomatch h
theorem faultResume (vf ix : Nat) : Statement (.faultResume vf ix) := fun _ _ _ h => nomatch h
theorem traceSample (core : Nat) : Statement (.traceSample core) := fun _ _ _ h => nomatch h
theorem nakRepeat (port : Nat) : Statement (.nakRepeat port) := fun _ _ _ h => nomatch h
theorem rsreqTimeout (port seq : Nat) : Statement (.rsreqTimeout port seq) := fun _ _ _ h => nomatch h
theorem portEnableWrite (port : Nat) (en : Bool) : Statement (.portEnableWrite port en) := fun _ _ _ h => nomatch h
theorem laneHoldRelease (port lane : Nat) : Statement (.laneHoldRelease port lane) := fun _ _ _ h => nomatch h
theorem treeStableTimer (stamp : Nat) : Statement (.treeStableTimer stamp) := fun _ _ _ h => nomatch h
theorem fabricRequestInject (id : Nat) : Statement (.fabricRequestInject id) := fun _ _ _ h => nomatch h
theorem escapeWaitExpire (id : Nat) : Statement (.escapeWaitExpire id) := fun _ _ _ h => nomatch h
theorem escapeTableWaitExpire (id : Nat) : Statement (.escapeTableWaitExpire id) := fun _ _ _ h => nomatch h
theorem requestTimeout (tag stamp : Nat) : Statement (.requestTimeout tag stamp) := fun _ _ _ h => nomatch h
theorem probeTimeout (m stamp : Nat) : Statement (.probeTimeout m stamp) := fun _ _ _ h => nomatch h
theorem probePeriodic (port : Nat) : Statement (.probePeriodic port) := fun _ _ _ h => nomatch h
theorem arcontWrite (src : ReqSrc) (v i : Nat) (c : Word64) : Statement (.arcontWrite src v i c) := fun _ _ _ h => nomatch h
theorem arcfgWrite (v i dw : Nat) (c : Word64) : Statement (.arcfgWrite v i dw c) := fun _ _ _ h => nomatch h
theorem allreduceTimeout (v i n : Nat) : Statement (.allreduceTimeout v i n) := fun _ _ _ h => nomatch h
theorem migsClose (v : Nat) : Statement (.migsClose v) := fun _ _ _ h => nomatch h
theorem redirackWrite (v : Nat) (c : Word64) : Statement (.redirackWrite v c) := fun _ _ _ h => nomatch h
theorem pagedataTimeout (tag stamp : Nat) : Statement (.pagedataTimeout tag stamp) := fun _ _ _ h => nomatch h
theorem pullTimeout (v u stamp : Nat) : Statement (.pullTimeout v u stamp) := fun _ _ _ h => nomatch h
theorem migrationPrefetch (v : Nat) : Statement (.migrationPrefetch v) := fun _ _ _ h => nomatch h
theorem harbGo (v : Nat) : Statement (.harbGo v) := fun _ _ _ h => nomatch h
theorem harbDone (v u : Nat) : Statement (.harbDone v u) := fun _ _ _ h => nomatch h
theorem harbDwellExpire (v u stamp : Nat) : Statement (.harbDwellExpire v u stamp) := fun _ _ _ h => nomatch h
theorem startStepTimeout (n stamp : Nat) : Statement (.startStepTimeout n stamp) := fun _ _ _ h => nomatch h
theorem startstGo (o : StartIn) : Statement (.startstGo o) := fun _ _ _ h => nomatch h
theorem faultRingRoom (vf : Nat) : Statement (.faultRingRoom vf) := fun _ _ _ h => nomatch h
theorem escapeParityQuiet (stamp : Nat) : Statement (.escapeParityQuiet stamp) := fun _ _ _ h => nomatch h
theorem uend : Statement .uend := of_word _ rfl fun _ => by decide
theorem hinvalStart : Statement .hinvalStart := fun _ _ _ h => nomatch h
theorem hinvalComplete : Statement .hinvalComplete := fun _ _ _ h => nomatch h
theorem dispatchStep : Statement .dispatchStep := fun _ _ _ h => nomatch h
theorem eventRingRoom : Statement .eventRingRoom := fun _ _ _ h => nomatch h
theorem fabricJoin : Statement .fabricJoin := fun _ _ _ h => nomatch h
theorem hostFlr (vf : Nat) : Statement (.hostFlr vf) := fun _ _ _ h => nomatch h
theorem parityAlert (slice : Nat) (again : Bool) : Statement (.parityAlert slice again) := fun _ _ _ h => nomatch h
theorem internalLinkFailure (die link : Nat) : Statement (.internalLinkFailure die link) := fun _ _ _ h => nomatch h
theorem null (port : Nat) (f : Flit) : Statement (.null port f) := fun _ _ _ h => nomatch h
theorem head (port : Nat) (f : Flit) : Statement (.head port f) := fun _ _ _ h => nomatch h
theorem body (port : Nat) (f : Flit) : Statement (.body port f) := fun _ _ _ h => nomatch h
theorem tail (port : Nat) (f : Flit) : Statement (.tail port f) := fun _ _ _ h => nomatch h
theorem solo (port : Nat) (f : Flit) : Statement (.solo port f) := fun _ _ _ h => nomatch h
theorem flitCrcFail (port : Nat) (f : Flit) : Statement (.flitCrcFail port f) := fun _ _ _ h => nomatch h
theorem nak (port : Nat) (f : Flit) : Statement (.nak port f) := fun _ _ _ h => nomatch h
theorem rsreq (port : Nat) (f : Flit) : Statement (.rsreq port f) := fun _ _ _ h => nomatch h
theorem rsack (port : Nat) (f : Flit) : Statement (.rsack port f) := fun _ _ _ h => nomatch h
theorem linkid (port : Nat) (f : Flit) : Statement (.linkid port f) := fun _ _ _ h => nomatch h
theorem laneScoreUpdate (port : Nat) (margins : List Nat) : Statement (.laneScoreUpdate port margins) := fun _ _ _ h => nomatch h
theorem laneLockLost (port lane : Nat) : Statement (.laneLockLost port lane) := fun _ _ _ h => nomatch h
theorem portTrainingAttempt (port passed : Nat) : Statement (.portTrainingAttempt port passed) := fun _ _ _ h => nomatch h
theorem treeAdv (port : Nat) (f : Flit) : Statement (.treeAdv port f) := fun _ _ _ h => nomatch h
theorem treeDone (port : Nat) (f : Flit) : Statement (.treeDone port f) := fun _ _ _ h => nomatch h
theorem treeInstall (port : Nat) (f : Flit) : Statement (.treeInstall port f) := fun _ _ _ h => nomatch h
theorem fenceNotice (m : Nat) : Statement (.fenceNotice m) := fun _ _ _ h => nomatch h
theorem read (m : Msg) : Statement (.read m) := fun _ _ _ h => nomatch h
theorem putWithoutPost (m : Msg) : Statement (.putWithoutPost m) := fun _ _ _ h => nomatch h
theorem putWithPost (m : Msg) : Statement (.putWithPost m) := fun _ _ _ h => nomatch h
theorem atomic (m : Msg) : Statement (.atomic m) := fun _ _ _ h => nomatch h
theorem sync (m : Msg) : Statement (.sync m) := fun _ _ _ h => nomatch h
theorem pcmdPart (m : Msg) : Statement (.pcmdPart m) := fun _ _ _ h => nomatch h
theorem orderedMulticastToRoot (m : Msg) : Statement (.orderedMulticastToRoot m) := fun _ _ _ h => nomatch h
theorem orderedMulticastCopy (m : Msg) : Statement (.orderedMulticastCopy m) := fun _ _ _ h => nomatch h
theorem probe (m : Msg) : Statement (.probe m) := fun _ _ _ h => nomatch h
theorem ack (m : Msg) : Statement (.ack m) := fun _ _ _ h => nomatch h
theorem data (m : Msg) : Statement (.data m) := fun _ _ _ h => nomatch h
theorem atomicData (m : Msg) : Statement (.atomicData m) := fun _ _ _ h => nomatch h
theorem probeack (m : Msg) : Statement (.probeack m) := fun _ _ _ h => nomatch h
theorem error (m : Msg) : Statement (.error m) := fun _ _ _ h => nomatch h
theorem allReducePartial (m : Msg) : Statement (.allReducePartial m) := fun _ _ _ h => nomatch h
theorem allReduceResult (m : Msg) : Statement (.allReduceResult m) := fun _ _ _ h => nomatch h
theorem allReduceAbort (m : Msg) : Statement (.allReduceAbort m) := fun _ _ _ h => nomatch h
theorem pull (m : Msg) : Statement (.pull m) := fun _ _ _ h => nomatch h
theorem pagedata (m : Msg) : Statement (.pagedata m) := fun _ _ _ h => nomatch h
theorem redirack (m : Msg) : Statement (.redirack m) := fun _ _ _ h => nomatch h
theorem hostMemoryRead (o : HostReq) : Statement (.hostMemoryRead o) := fun _ _ _ h => nomatch h
theorem hostMemoryWrite (o : HostReq) : Statement (.hostMemoryWrite o) := fun _ _ _ h => nomatch h
theorem hostAtomicop (o : HostReq) : Statement (.hostAtomicop o) := fun _ _ _ h => nomatch h
theorem atsInvalidation (lo hi : Nat) : Statement (.atsInvalidation lo hi) := fun _ _ _ h => nomatch h
theorem coldStart (o : StartIn) : Statement (.coldStart o) := fun _ _ _ h => nomatch h
theorem warmReset (o : StartIn) : Statement (.warmReset o) := fun _ _ _ h => nomatch h
theorem powerAdjust (die watts total : Nat) : Statement (.powerAdjust die watts total) := fun _ _ _ h => nomatch h
theorem thermalCycleCount (u temp : Nat) : Statement (.thermalCycleCount u temp) := fun _ _ _ h => nomatch h
theorem wearFlashUpdate : Statement .wearFlashUpdate := fun _ _ _ h => nomatch h
theorem powerOff : Statement .powerOff := fun _ _ _ h => nomatch h
theorem attestationQuote (tag : Nat) : Statement (.attestationQuote tag) := fun _ _ _ h => nomatch h
theorem registerWrite (src : ReqSrc) (pa : Nat) (c : Word64) (n : Fin 9) : Statement (.registerWrite src pa c n) := fun _ _ _ h => nomatch h
theorem uncorrectableError (o : ErrAt) : Statement (.uncorrectableError o) := fun _ _ _ h => nomatch h

end Bits

end Sys2Proof.Laws
end

