-- ==== Sys2Proof/Safety.lean ====
section
/-!
DEFINITION. What counts as a safe run: no step of it stops. The model stops at two places alone: at what the outside cannot put
in, and without power (R452); every trap, freeze, error completion and event of the spec is a next state. And the canonical
form that every reachable memory has.
-/
namespace Sys2Proof

open Machine

/-- The step answers a next state. -/
def stepsOn (s : State) : Prop := ∃ t, step s = .next t

/-- n steps from s stop nowhere. -/
def safeFor : Nat → State → Prop
  | 0, _ => True
  | n + 1, s => ∃ t, step s = .next t ∧ safeFor n t

/-- A run that never stops. -/
def safe (s : State) : Prop := ∀ n, safeFor n s

/-- The inputs waiting are ones that the outside can make. -/
def inputsExternal (s : State) : Bool := s.inputs.all external

/-- Memory is in its canonical form. -/
def canonical (s : State) : Bool := memWf s.mem

/-- t comes after s in a run. -/
inductive Reaches : State → State → Prop where
  | refl (s : State) : Reaches s s
  | step (s t u : State) : Reaches s t → Machine.step t = .next u → Reaches s u

end Sys2Proof
end

