-- ==== Sys2Proof/Tests/Slice0.lean ====
section
/-!
SUPPORT. Tests: the decoder on words written out from the spec, ill-formed terms that each check of `wellFormed` refuses, single
steps, and for every statement a state and operands that meet its hypotheses.
-/
namespace Sys2Proof.Tests

open Machine Claims

/- One test at a time: a hundred evaluations that wait for each other would hold a thread each. -/
set_option Elab.async false

/-! States of small programs' making. -/

/-- An unguarded syllable that ends its course, and one under p1. -/
def p0 : Syl := { stop := true, guard := 0, leaf := 0 }
def p1 : Syl := { stop := true, guard := 1, leaf := 0 }
/-- A NOP stands before context 0, in system mode. -/
def w0 : State := State.reset.withFetchWord 32 0xC0000000
def user : State := modCtx w0 0 fun c => { c with mode := false }
/-- Scalars and vectors of context 0. -/
def withS (l : List (Nat × Word64)) (s : State) : State := modCtx s 0 fun c => { c with s := l }
/-- A request that nothing looks at, and an entry of LDQ that has arrived. -/
def someReq : Req :=
  { op := .lda p0 6 { m := false, base := 0, sx := 0, fe := 0, imm := 0, kr := 0 }, seq := 0, addr := 0, step := 0, lanes := 0,
    x := 0, y := 0, h := none, sdq := none, fmode := 0, seed := 0, rnd := 0, ipc := 0, sys := true, trap := false, due := 0,
    slot := false, done := 0 }
def someEntry : LdqEntry :=
  { req := someReq, raw := [], left := 0, due := 0, filled := true, failed := false, val := 7, kval := 0, flags := 0 }
def withLdq (s : State) : State := modCtx s 0 fun c => { c with ldq := [someEntry] }

def xr : XR := { sd := 1, sa := 2, sb := 3, qs := false, qd := false, qb := false }
def vr : VR := { vd := 1, va := 2, vb := 3, qd := false, qs := false, md := false, km := 0 }
/-- Operands with one to pop and a result to push. -/
def xrq : XR := { xr with qs := true, qd := true, sa := 0, sd := 0 }
def vrq : VR := { vr with qs := true, qd := true, va := 0, vd := 0 }

/-! Every statement's hypotheses are met. -/

theorem witness_SumsProductsLogic : xrReady p0 xr w0 = true ∧ xrReady p0 xrq (withLdq w0) = true := by decide +kernel
theorem witness_Divisions :
    xrReady p0 xr w0 = true ∧ srcB xr w0 = 0 ∧ xrReady p0 xrq (withLdq (withS [(3, 5)] w0)) = true ∧
      srcB xrq (withLdq (withS [(3, 5)] w0)) ≠ 0 ∧
      (let s := withS [(2, BitVec.ofNat 64 (2 ^ 63)), (3, -1)] w0
       xrReady p0 xr s = true ∧ srcB xr s = -1 ∧ srcA xr s = BitVec.ofNat 64 (2 ^ 63)) := by decide +kernel
theorem witness_FieldsMove : xrReady p0 xr (withS [(3, 0x0804)] w0) = true := by decide +kernel
theorem witness_ChoicesImmediatesMoves :
    xrReady p0 xr w0 = true ∧ xuReady p0 { sd := 1, sa := 2, qs := false, qd := false } w0 = true ∧ guardOn p0 w0 = true ∧
      ready p0 true true (withLdq w0) = true := by decide +kernel
theorem witness_PredicatesAndMasks : guardOn p0 w0 = true := by decide +kernel
theorem witness_VectorArithmetic :
    (vrReady p0 vr (vrEach .f32 vr w0 fun m r a b _ => addE .f32 false m r a b) w0 &&
      vrReady p0 vr (vrEach .f32 vr w0 fun m r a b _ => subE .f32 false m r a b) w0 &&
      vrReady p0 vr (vrEach .i16 vr w0 fun m r a b _ => mulE .i16 false m r a b) w0 &&
      vrReady p0 vr (vrEach .i32 vr w0 fun m _ a b _ => minMaxE .i32 false m a b) w0 &&
      vrReady p0 vr (vrEach .i32 vr w0 fun m _ a b _ => minMaxE .i32 true m a b) w0) = true ∧
    (vrReady p0 vrq (vrEach .f32 vrq (withLdq w0) fun m r a b d => fFma (vtCode .f32) m r false false a b d) (withLdq w0) &&
      vrReady p0 vr (vrEach .bf16 vr w0 fun m r a b d => fFma (vtCode .bf16) m r false true a b d) w0 &&
      vrReady p0 vr (vrEach .f32 vr w0 fun m r a b _ => fScale (vtCode .f32) m r a (iVal true 32 b)) w0 &&
      vrReady p0 vr (vrEach .f32 vr w0 fun _ _ a b _ =>
        if vtFloat .f32 then (a % 2 ^ 31, 0) else intE .f32 false (fun x _ => x.natAbs) a b) w0) = true := by
  decide +kernel
theorem witness_VectorBits : ready p0 vr.qs vr.qd w0 = true ∧ ready p0 vrq.qs vrq.qd (withLdq w0) = true := by decide +kernel
theorem witness_VectorCompareConvert :
    let o : VK := { cond := 0, kd := 1, va := 2, vb := 3, qs := false, km := 0 }
    let x := vIn o.qs o.va.val o.km.val w0
    let b := x.c.rdV o.vb.val
    let v : VX := { tf := 1, ff := 0, vd := 1, va := 2, qs := false, km := 0 }
    let z := vIn v.qs v.va.val v.km.val w0
    let w := 32 / perLane v.tf.val
    ready p0 o.qs false w0 = true ∧
    ((List.range 64).all fun i => (List.range 1).all fun j =>
      traps0 w0 (cmpE .f32 x.m o.cond.val (elemOf x.a 32 (i + j)) (elemOf b 32 (i + j))).2) = true ∧
    traps0 w0 (mapE w z.km fun e =>
      if e < 64 * min (perLane v.ff.val) (perLane v.tf.val) then
        let y := convert v.ff.val v.tf.val z.m (rndE z.r w e) (cvtRead v.ff.val z.a e)
        (cvtPlace v.tf.val y.1, y.2)
      else (0, 0)).2 = true ∧
    ((List.range 4).all fun k => vrReady p0 vr (vrEach .f32 vr w0 fun m r a _ _ => fFunc k m r a) w0) = true := by
  decide +kernel
theorem witness_VectorMoves : ready p0 vrq.qs vrq.qd (withLdq w0) = true ∧ ready p0 vr.qs false w0 = true ∧
    ready p0 false false w0 = true := by decide +kernel
theorem witness_VectorReductions :
    let x := vrIn vr w0
    ready p0 vr.qs false w0 = true ∧
    traps0 w0 (treeFlags (combining .f32 (redOp vr) x) (entering .f32 (redOp vr) x) 6) = true ∧
    (let f := combining .i32 (redOp vr) x
     let el := entering .i32 (redOp vr) x
     traps0 w0 (orAll ((List.range 63).map fun i => f (i + 1) (prefixAt f el (el 0) i) (el (i + 1)))) = true) ∧
    vrReady p0 vr (vrEach .f32 vr w0 fun m r a b d => dotLane 2 vr.md m r a b d) w0 = true := by decide +kernel

/-! The B unit. -/

/-- A loop of 4 iterations in 2 stages after n advances. -/
def looping (n : Nat) : State := modCtx w0 0 fun c => { c with itr := 4, stg := 2, eix := n }
/-- A handler stands ready. -/
def handler : State := modCtx w0 0 fun c => { c with tvec := 0x20000 }
/-- What tryCourse answers at a boundary without a trap. -/
def noTrap (s : State) (g : Nat) : Bool :=
  match tryCourse s g with
  | .trap _ => false
  | .stall _ => true
  | .go _ => true

theorem witness_JumpsAndEnds : guardOn p0 w0 = true := by decide +kernel
theorem witness_Branches : guardOn p0 w0 = true := by decide +kernel
theorem witness_Loops :
    let in' (n : Nat) (c : Ctx) : Prop := (c.eix : Int) + 1 = n ∧ (c.itr : Int) + c.stg - 1 = 5
    guardOn p0 (looping 0) = true ∧ guardOn p0 (looping 5) = true ∧ in' 1 (issuer (looping 0)) ∧ in' 4 (issuer (looping 3)) ∧
      in' 5 (issuer (looping 4)) ∧ in' 6 (issuer (looping 5)) := by decide +kernel
theorem witness_SpecialRegisterAccess :
    guardOn p0 w0 = true ∧ guardOn p0 user = true ∧ (system w0 || srUser 0x10 false) = true ∧
      (system user || srUser 0x0F false) = true ∧ (system user || srUser 0x1B false) = true ∧
      (system user || srUser 0x10 false) = false ∧ (system user || srUser 0x1B true) = false ∧
      (system user || srUser 0 true) = true := by decide +kernel
theorem witness_TrapEntry_precise :
    (getCtx handler 0).tvec ≠ 0 ∧ (getCtx handler 0).inh = false ∧
      ∀ f ∈ (getCtx handler 0).flight, localTime handler (coreOf 0) < f.due := by decide +kernel
theorem witness_TrapEntry_freezes :
    let out (s : State) : State :=
      modCtx s 0 fun c => { c with flight := [{ dest := .s 1, val := 7, mask := 1, due := 5, flags := 0, trap := false }] }
    let a := out w0
    let b := out (modCtx handler 0 fun c => { c with inh := true })
    (getCtx a 0).tvec = 0 ∧ (getCtx b 0).inh = true ∧
      ∀ s ∈ [a, b], (getCtx s 0).frozen = false ∧ (getCtx s 0).phase = .resident ∧
        ∀ f ∈ (getCtx s 0).flight, localTime s (coreOf 0) < f.due := by decide +kernel
theorem witness_TrapEntry_pending :
    let a := modCtx handler 0 fun c => { c with apq := [(0x0A, 5)] }
    let b := modCtx handler 0 fun c => { c with undel := 1, apinfo := 9 }
    (∀ s ∈ [a, b], (getCtx s 0).inh = false ∧ (getCtx s 0).frozen = false ∧ (getCtx s 0).phase = .resident ∧
      coreFrozen s (coreOf 0) = false ∧ mayIssue s 0 = true ∧ noTrap s 0 = true) ∧
    (getCtx a 0).apq = (0x0A, 5) :: [] ∧ (getCtx b 0).apq = [] ∧ (getCtx b 0).undel ≠ 0 := by decide +kernel
/-- `noTrap` is the premise of the statement. -/
theorem noTrap_spec (s : State) (g : Nat) (h : noTrap s g = true) : ∀ t, tryCourse s g ≠ .trap t := by
  intro t ht
  simp [noTrap, ht] at h
theorem witness_SystemBranches :
    guardOn p0 w0 = true ∧ system w0 = true ∧ ((issuer w0).flight.take w0.iss.old).isEmpty = true ∧ guardOn p0 user = true ∧
      system user = false ∧ dieOfCore (coreOf w0.iss.g) < 4 ∧ dieOfCore (coreOf 4095) < 4 ∧
      (let t := rset user (trccfg 0) 4
       guardOn p0 t = true ∧ system t = false ∧ rbit t (trccfg (dieOfCore (coreOf t.iss.g))) 2 = true) := by decide +kernel
theorem witness_BarrierSyllables :
    let a := modCtx w0 0 fun c => { c with barAt := some w0.iss.pc }
    let b := modCtx w0 0 fun c => { c with arrived := 1 }
    guardOn p0 w0 = true ∧ guardOn p0 b = true ∧ 0 < (groupOf w0 w0.iss.g).slots.length ∧
      (groupOf w0 w0.iss.g).slots.length ≤ (1 : Fin 16).val ∧ (groupOf w0 w0.iss.g).slots.length ≤ (15 : Fin 16).val ∧
      (issuer w0).arrived.getLsbD 0 = false ∧ (issuer a).barAt = some a.iss.pc ∧ (issuer w0).barAt ≠ some w0.iss.pc ∧
      (issuer b).arrived.getLsbD 0 = true := by decide +kernel

/-! The A unit. -/

/-- h1 names the page at the given address, as R188 gives it. -/
def withH (a : Nat) (s : State) : State := modCtx s 0 fun c => { c with h := [(1, translate s false 0 a)] }
def am : AM := { m := false, base := 0, sx := 0, fe := 0, imm := 0, kr := 0 }
def at' : AT := { m := false, base := 0, sx := 0, t := false, imm := 0 }
def ay : AY := { m := false, base := 0, sx := 0, sc := 1, imm := 0 }
def ap : AP := { h := 1, sx := 0, sl := 3 }
/-- What a memory syllable needs so as to push its request. -/
def pushes (s : State) (i : Instr) : Bool :=
  guardOn p0 s && decide ((issuer s).laq.length < 32) &&
    (match chkAccess s s.iss.g i (aForm (issuer s) i) (((aForm (issuer s) i).h.map (issuer s).rdH).getD 0) with
     | .ok => true
     | .stall => false
     | .trap _ _ => false)
theorem witness_RequestsPushed :
    ([.lda p0 6 am, .lda p0 0 am, .sta p0 3 am, .ldv p0 0 am, .ldvs p0 0 am, .ldg p0 0 am, .stv p0 0 am, .stvs p0 0 am, .stg p0 0 am,
      .feset p0 am, .fewait p0 am, .amo32 p0 10 at', .amo64 p0 8 at', .amos32 p0 0 at', .amos64 p0 0 at', .cas p0 2 at',
      .acqX p0 ay, .acqSh p0 ay, .acqEv p0 ay, .relUn p0 ay, .relPost p0 ay].all (pushes w0)) = true ∧
    ([.lda p0 6 { am with m := true, base := 1 }, .pcmdAddI32 p0 ap, .pcmdAddF32 p0 ap, .pcmdAxpyF32 p0 ap, .pcmdMaxF32 p0 ap,
      .pcmdCvtBf16 p0 ap, .pcmdFill p0 ap, .pcmdCopy p0 ap].all (pushes (withS [(3, 256)] (withH 0 w0)))) = true ∧
    pushes (modCtx (withS [(3, 256)] w0) 0 fun c => { c with h := [(1, translate w0 false 0 0 ||| BitVec.ofNat 128 (2 ^ 19))] })
      (.pcmdAcc p0 ap) = true := by decide +kernel
theorem witness_BasesHandlesFences :
    let s := withS [(3, 2 ^ 32 * 256)] (withH 0 w0)
    let o : AH := { h := 1, sa := 2, kr := 0 }
    let b : AB := { m := true, base := 1, sl := 3, so := 4, u := false }
    let v := rset w0 (vmcfg 0) 1
    guardOn p0 s = true ∧ (isSteward s.iss.g || !rbit s (vmcfg (vfOf s s.iss.g)) 0) = true ∧ guardOn p0 v = true ∧
      (isSteward v.iss.g || !rbit v (vmcfg (vfOf v v.iss.g)) 0) = false ∧ (issuer s).laq.length < 32 ∧
      (let h := (issuer s).rdH o.h.val
       let fm := aForm (issuer s) (.preq p0 o)
       (chkHandle o.h.val h (fm.base + fm.off).toNat).and (chkPage h (fm.base + fm.off).toNat 1) = .ok) ∧
      (let fm := aForm (issuer s) (.bind p0 b)
       chkBind s b ((issuer s).rdH b.base.val) (fm.base + fm.off).toNat ((issuer s).rdS b.sl.val) ((issuer s).rdS b.so.val) =
         .ok) := by decide +kernel

/-! The M unit. -/

theorem witness_CopiesAndPutsIssued :
    guardOn p0 w0 = true ∧ chanFull w0 (chanKey (coreOf w0.iss.g) 3) = false ∧
      walkPending (namedHandle (issuer w0) (packetOf ((issuer w0).rdV 0)) 17 1) = false ∧
      walkPending (namedHandle (issuer w0) (packetOf ((issuer w0).rdV 0)) 18 2) = false ∧
      ((issuer w0).rdS 1).toNat % (8 * 2 ^ 5) = 0 ∧
      chanFull w0 (chanKey (coreOf w0.iss.g) (((issuer w0).rdS 2).toNat % 4)) = false := by decide +kernel
/-- Twin entry 0 is enabled, with its sync object at 0x3000. -/
def twinned : State := rset (rset w0 (twr 0 0) 1) (twr 0 0 + 24) 0x3000
theorem witness_EngineCommandsIssued :
    let s := withS [(2, 0x2000)] w0
    let w : Who := { g := 0, vf := vfOf s 0, sys := true }
    let h := engHandle s w true 0x2000
    guardOn p0 s = true ∧ lengRoom s ∧ ((issuer s).rdS 2).toNat % 8 = 0 ∧ ((issuer s).rdS 3).toNat / 16 % 2 ^ 12 = 0 ∧
      ([0, 1, 2, 3].all fun ch => chanDone s (chanKey 0 ch) (markOf s) true) = true ∧
      chkCounter s w h (engVa s w true 0x2000) 0x2000 = .ok ∧ (issuer s).waitEnd = none ∧
      pollFar s 0 h (engPa s w h true false 0x2000) = none ∧ recordWaits s 0 [0, 1, 2, 3] = false ∧ slotFree s 0 = true ∧
      (pollHere (takeSlot s 0) w.vf h (engPa s w h true false 0x2000)).1 = some 0 ∧ ((issuer s).rdS 3).toNat ≤ 0 ∧
      (let u : MigUnit := { v := 0, unit := 2, frame := 0, pulled := true, got := 255, bits := 0, stamp := 4 }
       let l := pollKey none (engPa s w h true false 0x2000)
       let t := modCtx { s with mig := { s.mig with units := [u] } } 0 fun c => { c with codeLn := [(l, 7)] }
       pollFar t 0 h (engPa s w h true false 0x2000) = some none ∧ engPa t w h true false 0x2000 = engPa s w h true false 0x2000 ∧
         engHandle t w true 0x2000 = h ∧ chkCounter t w h (engVa t w true 0x2000) 0x2000 = .ok ∧
         ((issuer t).codeLn.find? fun x => x.1 == l) = some (l, 7) ∧ ((issuer t).rdS 3).toNat ≤ 7 ∧ guardOn p0 t = true) ∧
      (let t := modCtx s 0 fun c => { c with waitEnd := some (s.iss.pc, true) }
       guardOn p0 t = true ∧ (issuer t).waitEnd = some (t.iss.pc, true)) ∧
      (let t := twinned
       let obj := rfld t (twr (vfOf t 0) 0 + 24) 0 50
       guardOn p0 t = true ∧ ((issuer t).rdS 2).toNat < 16 ∧ lengRoom t ∧ rbit t (twr (vfOf t 0) 0) 0 = true ∧
       ([0, 1, 2, 3].all fun ch => chanDone t (chanKey 0 ch) (markOf t) false) = true ∧
       ((List.range 16).any fun j => badByte t (obj + j)) = false ∧ holdOf t obj = 0 ∧ hwReady t obj 16 = true ∧ migFrame t obj = false) := by
  unfold lengRoom
  decide +kernel
/-- Slot 0 of context 0's group holds a stream, with no subscriber. -/
def streaming : State := modStream w0 (issuerSlot w0 0) fun _ => { Stream.free with defined := true }
theorem witness_StreamsIssued :
    let x := issuerSlot w0 0
    let o : MU := { sid := 0, pt := 1, sa := 2 }
    let s := withS [(2, 255)] streaming
    guardOn p0 w0 = true ∧ (0 : Fin 16).val < (groupOf w0 0).slots.length ∧ (getStream w0 x).defined = false ∧
      (getStream s x).defined = true ∧ (getStream s x).feeds = [] ∧
      ((getStream s x).subs.all fun u => u.count == (getStream s x).filled) = true ∧ guardOn p0 s = true ∧
      0 < ((issuer s).rdS o.sa.val).toNat ∧ ((issuer s).rdS o.sa.val).toNat < 256 ∧ (getStream s x).subs.length < 8 ∧
      chanFull s (chanKey 0 0) = false ∧ walkPending (namedHandle (issuer s) (packetOf ((issuer s).rdV 0)) 17 1) = false ∧
      walkPending (namedHandle (issuer s) (packetOf ((issuer s).rdV 0)) 18 2) = false := by decide +kernel
theorem witness_MatrixCommandsIssued :
    let s := withS [(2, 256), (3, 64)] w0
    let t := withS [(3, 4096 * 4096)] w0
    let k := getCore s (coreOf s.iss.g)
    guardOn p0 s = true ∧ guardOn p0 t = true ∧ mqRoom s ∧ mqRoom t ∧ ((issuer t).rdS 2).toNat % 4 = 0 ∧
      mloadN ((issuer t).rdS 3) ≠ 0 ∧ mloadW ((issuer t).rdS 3) + mloadN ((issuer t).rdS 3) ≤ 4096 ∧
      ((issuer s).rdS 2).toNat % 256 = 0 ∧ mrdaN ((issuer s).rdS 3) ≠ 0 ∧
      mrdaFirst ((issuer s).rdS 3) + mrdaN ((issuer s).rdS 3) ≤ 64 ∧
      ((issuer s).rdS 2).toNat + 256 * mrdaN ((issuer s).rdS 3) ≤ (groupOf s s.iss.g).size ∧ mxIdleFor k s.iss.g = true ∧
      roomFor true s = true ∧ k.mq = [] ∧ k.run = none ∧ k.busyCmd = none ∧ badIn k 15 (64 * 63) 64 = false ∧ system s = true ∧
      system user = false ∧ guardOn p0 user = true := by
  unfold mqRoom
  decide +kernel

/-! The stewards. -/

/-- Context 4096 of steward core 0 issues; context 0 is placed, frozen or not. -/
def steward (frozen : Bool) : State :=
  let s := modCtx w0 0 fun c => { c with frozen := frozen }
  let t := modCtx s 4096 fun c => { c with phase := .resident, mode := true }
  { t with iss := { t.iss with g := 4096 } }
def stewS (frozen : Bool) (l : List (Nat × Word64)) : State := modCtx (steward frozen) 4096 fun c => { c with s := l }
def ms : MS := { sa := 2, sb := 3, sc := 0 }
theorem witness_StewardCommands :
    let a := stewS true [(3, 0)]
    let b := stewS false [(3, 1)]
    let d := stewS true [(3, 2)]
    let e := stewS false [(3, 0)]
    let f := stewS true [(3, 1)]
    let m (s : State) : State := modIssuer s fun c => { c with mark := some (s.iss.pc, 0) }
    (∀ s ∈ [a, b, d, e, f], guardOn p0 s = true ∧ system s = true ∧ ((issuer s).rdS 2).toNat < 2 ^ 26) ∧
    ((issuer a).rdS 3).toNat = 0 ∧ ((selected a ((issuer a).rdS 2)).all fun g => (getCtx a g).frozen) = true ∧
    (selected a ((issuer a).rdS 2)).any (midGroup a) = false ∧ (selected (m a) ((issuer (m a)).rdS 2)).any (midGroup (m a)) = false ∧
    d.chans = [] ∧ marked (m a) = true ∧ marked e = false ∧
    ((selected e ((issuer e).rdS 2)).filter fun g => !(getCtx e g).frozen) ≠ [] ∧
    ((issuer b).rdS 3).toNat = 1 ∧ ((selected b ((issuer b).rdS 2)).all fun g => !(getCtx b g).frozen) = true ∧
    marked (m b) = true ∧ marked f = false ∧ ((selected f ((issuer f).rdS 2)).filter fun g => (getCtx f g).frozen) ≠ [] ∧
    ((issuer d).rdS 3).toNat = 2 ∧ ((selected d ((issuer d).rdS 2)).all fun g => (getCtx d g).frozen) = true := by
  decide +kernel
theorem witness_StewardCommands_functions :
    let s := stewS true [(2, 127), (3, 15)]
    let s1 := invalidateHeld (invalidate s 127 0 (2 ^ 41) false) 127 0 (2 ^ 41) false
    guardOn p0 s = true ∧ system s = true ∧ ((issuer s).rdS 2).toNat < 128 ∧ vfQuiet s 127 = true ∧
      vfEmpty (rsetF (vfDrop s 127) (frcfg 127 + 16) 32 16 0) 127 = true ∧ marked s = false ∧
      invalPending s1 127 0 (2 ^ 41) = false ∧ ((issuer s).rdS 3).toNat < 16 ∧ guardOn p0 user = true ∧ system user = false := by
  decide +kernel
/-- An area at 0x10000 whose first word says what CLOAD wants. -/
def withHeader (s : State) : State := mwrite8 s 0x10000 0x4014B53
/-- A steward saves the frozen context 0; context 0 in system mode saves itself, in its handler, and loads itself, after it. -/
def saving (sb : Word64) : State := withHeader (stewS true [(2, 0x10000), (3, sb)])
def selfSaving (hld : Bool) : State := withHeader (modCtx w0 0 fun c => { c with csa := 0x10000, hld := hld })
/-- What every form of CSAVE and CLOAD asks, and what one of them asks besides. -/
def areaB (s : State) : Bool :=
  let x := saveCtl s ((issuer s).rdS 3)
  let named := ((issuer s).rdS 2).toNat
  let a := if named = 0 then (getCtx s x.g).csa else named
  guardOn p0 s && system s && x.legal ((issuer s).rdS 3) && a % 4096 == 0 && tierOf a == some 0 && (!x.other || (getCtx s x.g).frozen) &&
    (!x.acc || (List.range 4).all fun i => quietCtx s (ctxBase (coreOf x.g) + i)) &&
    (isSteward s.iss.g || (partOk s (vfOf s s.iss.g) a && partOk s (vfOf s s.iss.g) (a + saScr))) && (areaWhole s).isNone &&
    !areaPending s a (saScr + (groupOf s x.g).size)
def saveB (s : State) : Bool :=
  let x := saveCtl s ((issuer s).rdS 3)
  (x.other || (issuer s).hld) && saveReady s x && (!x.acc || (getCore s (coreOf x.g)).badTile == []) &&
    !areaStopped s 0x10000 (saScr + (groupOf s x.g).size) && areaAway s 0x10000 (saveRegions s x (savedRoutine s x).isSome) == []
def loadB (s : State) : Bool :=
  let x := saveCtl s ((issuer s).rdS 3)
  let regs := saveRegions s x (x.eng && nf (rd8 s 0x10000) 25 1 == 1)
  (x.other || (!(issuer s).hld && earlierDone s x.g (getCtx s x.g).reqSeq)) && !areaBad s 0x10000 256 && loadOk s 0x10000 x &&
    !(regs.any fun r => areaBad s (0x10000 + r.1) r.2) && areaAway s 0x10000 [(0, 256)] == [] && areaAway s 0x10000 regs == []
theorem witness_SaveAndLoad :
    (∀ s ∈ [saving 0x1000, saving 0x5000, selfSaving true, selfSaving false], areaB s = true) ∧
    (∀ s ∈ [saving 0x1000, saving 0x5000, selfSaving true], saveB s = true) ∧
    (∀ s ∈ [saving 0x1000, saving 0x5000, selfSaving false], loadB s = true) ∧
    (saveCtl (saving 0x5000) 0x5000).acc = true ∧ ((issuer (selfSaving true)).rdS 2).toNat = 0 ∧
    isSteward (selfSaving true).iss.g = false := by decide +kernel

/-! Results, queues and requests. -/

def flight (d : Dest) : Flight := { dest := d, val := 1, mask := 1, due := 0, flags := 1, trap := false }
theorem witness_HardWiredRegisters :
    (flight (.s 0)).dest = .s 0 ∧ (flight (.k 0)).dest = .k 0 ∧ (flight (.p 0)).dest = .p 0 ∧ (flight (.b 7)).dest = .b 7 := by
  decide +kernel
theorem witness_ResultsLand :
    coreFrozen w0 0 = false ∧ (∀ i : Fin 4, (getCtx w0 (ctxBase 0 + i.val)).frozen = false) ∧
      (∀ d ∈ [Dest.s 63, .s 0, .k 15, .k 0, .p 15, .p 0, .v 31, .b 7, .h 15, .g 7, .sr 0x014, .sr 0x010],
        (flight d).due ≤ 0 ∧ (flight d).dest = d) := by decide +kernel
/-- The request i at the head of context 0's LAQ, with SDQ entry 0. -/
def headed (i : Instr) (f : Req → Req) : State :=
  modCtx w0 0 fun c => { c with laq := [f { someReq with op := i, sdq := some 0 }],
                                sdq := [{ seq := 0, filled := true, val := 0x1234, mask := -1 }] }
theorem witness_ScratchpadAccess :
    let a := headed (.sta p0 3 am) fun q => { q with addr := 1016 }
    let b := headed (.lda p0 6 am) fun q => { q with addr := 1016 }
    let at' (s : State) (n : Nat) : List Nat := (List.range n).map fun j =>
      cluBase (groupOf s 0).cluster + (groupOf s 0).base + (1016 + j)
    headReady a 0 = some { someReq with op := .sta p0 3 am, sdq := some 0, addr := 1016 } ∧
      headReady b 0 = some { someReq with op := .lda p0 6 am, sdq := some 0, addr := 1016 } ∧ am.fe = 0 ∧ a.spoiled = [] ∧
      (∀ s ∈ [a, b], ∀ q ∈ headReady s 0, winRelFirst s 0 q = false) ∧
      banksFree a (groupOf a 0).cluster (bankCounts (at' a 8)) = true ∧ (getCtx b 0).phase = .resident ∧
      (∀ e ∈ (getCtx b 0).ldq, e.req.seq ≠ 0) ∧ (∀ x ∈ at' b (ldaSize 6), (tierOf x).isSome = true) ∧
      banksFree b (groupOf b 0).cluster (bankCounts (at' b (ldaSize 6))) = true := by decide +kernel
theorem witness_QueueEventsEnd :
    let a := modCtx w0 0 fun c => { c with ldq := [{ someEntry with filled := false }] }
    let b := headed (.fewait p0 { am with fe := 0 }) fun q => { q with slot := true }
    (getCtx a 0).ldq = [{ someEntry with filled := false }] ∧ someEntry.left = 0 ∧ someEntry.due ≤ localTime a (coreOf 0) ∧
      someEntry.failed = false ∧
      headReady b 0 = some { someReq with op := .fewait p0 { am with fe := 0 }, sdq := some 0, slot := true } ∧
      (let a := (granules [winPlace b 0 (0 / 16 * 16)]).headD 0
       feGet b a = ((0 : Fin 4) != 0) ∧ banksFree b (clusterOfPa a) (bankCounts [a]) = true) := by decide +kernel
/-- A vector load of 64 words by b register that takes full granules (.fwc), of which `done` have been taken and the next is full; its
entry of LDQ waits. -/
def taking (fe : Fin 4) (done : Nat) : State :=
  let s := modCtx (headed (.ldv p0 0 { am with fe := fe }) fun q => { q with addr := 64, lanes := -1, slot := true, done := done }) 0 fun c =>
    { c with ldq := c.laq.map fun q => { someEntry with req := q, filled := false, left := 1 } }
  feSet s (((granules ((loadItems s 0 ((headReady s 0).getD someReq) (winPlace s 0)).map (·.1))).drop done).headD 0) true
def takesB (s : State) (n : Nat) : Bool :=
  match headReady s 0 with
  | none => false
  | some q =>
    let items := loadItems s 0 q (winPlace s 0)
    let l := (granules (items.map (·.1))).drop q.done
    let a := l.headD 0
    q.h.isNone && feNeeds q == some true && (aop q.op).resLoad && (feOf q.op == 1 || feOf q.op == 2) && q.slot && s.spoiled.isEmpty &&
      l.length == n && feGet s a && banksFree s (clusterOfPa a) (bankCounts [a]) && (items.all fun x => tierOf x.1 == some 2) &&
      (getCtx s 0).ldq.any fun e => e.req.seq == q.seq && !e.filled
theorem witness_QueueEventsEnd_granules :
    takesB (taking 1 0) 16 = true ∧ takesB (taking 2 15) 1 = true ∧
    (let s := headed (.sta p0 3 { am with fe := 3 }) fun q => { q with addr := 1016 }
     let at' : List Nat := (List.range 8).map fun j => cluBase (groupOf s 0).cluster + (groupOf s 0).base + (1016 + j)
     (headReady s 0).isSome = true ∧ (∀ q ∈ headReady s 0, q.h = none ∧ winRelFirst s 0 q = false) ∧ s.spoiled = [] ∧
       (∀ x ∈ at', tierOf x = some 2) ∧ banksFree s (groupOf s 0).cluster (bankCounts at') = true) := by decide +kernel

/-! Homes. -/

/-- A part of context 0 at byte 0x100 of tier 0, numbered 5. -/
def part (k : TxnKind) (i : Instr) (f : Txn → Txn) : Txn :=
  f (Txn.base k (.ctx 0) { someReq with op := i } 0 0 0x100)
def atHome (t : Txn) (s : State) : State := setTxn s 5 t
def plainB (s : State) (a : Nat) : Bool :=
  (tierOf a == some 0 || tierOf a == some 1 || tierOf a == some 2) && !stopped s a && !inSpoiled s a && (pendingAt s a).isEmpty
theorem plainB_spec (s : State) (a : Nat) (h : plainB s a = true) : plainByte s a := by
  simpa [plainB, plainByte, and_assoc, or_assoc] using h
def passB (s : State) (k : TxnKind) (t : Txn) : Bool :=
  getTxn s 5 == some t && t.kind == k && t.peer == none && !t.out && !s.mig.held.contains 5 && gate s 5 t == .pass
theorem passB_spec (s : State) (k : TxnKind) (t : Txn) (h : passB s k t = true) : passes s 5 k t := by
  simpa [passB, passes, and_assoc] using h
def loadPart : Txn := part .load (.lda p0 6 { am with m := true, base := 1 }) fun t => { t with rd := [(0x100, 0), (0x1FF, 1)], len := 2 }
def storePart : Txn := part .store (.sta p0 0 { am with m := true, base := 1 }) fun t =>
  { t with wr := [{ pa := 0x100, val := 3, msk := 0xFF }], len := 1 }
def atomicPart : Txn := part .atomic (.amo64 p0 0 { at' with m := true, base := 1 }) fun t => { t with len := 8, entry := 3 }
def silentPart : Txn := part .atomic (.amos64 p0 0 { at' with m := true, base := 1 }) fun t => { t with len := 8, entry := 3 }
/-- A store's part in the scratchpad of cluster 0, whose banks are free. -/
def scrPart : Txn := { storePart with wr := [{ pa := cluBase 0, val := 3, msk := 0xFF }], pa := cluBase 0 }
theorem witness_PartsPerformed :
    (withBanks (atHome loadPart w0) loadPart).isSome = true ∧ (withBanks (atHome storePart w0) storePart).isSome = true ∧
    (withBanks (atHome atomicPart w0) atomicPart).isSome = true ∧ (withBanks (atHome scrPart w0) scrPart).isSome = true ∧
    (passB (atHome scrPart w0) .store scrPart && plainB (atHome scrPart w0) scrPart.pa) = true ∧ loadPart.err = 0 ∧ w0.rdc = [] ∧
    (passB (atHome loadPart w0) .load loadPart && loadPart.twin == 0 && loadPart.fe == 0 &&
      (loadPart.rd.all fun x => plainB (atHome loadPart w0) x.1) && plainB (atHome loadPart w0) loadPart.pa) = true ∧
    (passB (atHome storePart w0) .store storePart && storePart.twin == 0 && storePart.red == 0 && storePart.fe == 0 &&
      plainB (atHome storePart w0) storePart.pa &&
      (storePart.wr.all fun c => plainB (atHome storePart w0) c.pa && c.msk == 0xFF) && w0.spoiled.isEmpty) = true ∧
    (storePart.wr.map (·.pa)).Nodup ∧
    (passB (atHome atomicPart w0) .atomic atomicPart && atomicPart.twin == 0 &&
      ((List.range 8).all fun j => plainB (atHome atomicPart w0) (atomicPart.pa + j)) &&
      plainB (atHome atomicPart w0) atomicPart.pa) = true ∧ aop atomicPart.req.op ≠ .none ∧
    (aop atomicPart.req.op).pushesLdq = true ∧ passB (atHome silentPart w0) .atomic silentPart = true ∧
    (withBanks (atHome silentPart w0) silentPart).isSome = true ∧ (aop silentPart.req.op).pushesLdq = false ∧
    (let s := modCtx (atHome atomicPart w0) 0 fun c => { c with ldq := [{ someEntry with filled := false, left := 1 }] }
     (getCtx s 0).ldq[0]? = some { someEntry with filled := false, left := 1 } ∧ someEntry.req.seq = atomicPart.req.seq ∧
       passB s .atomic atomicPart = true) := by decide +kernel
def acqPart : Txn := part .acquire (.acqX p0 ay) fun t => { t with len := 16 }
def relPart (post : Bool) : Txn := part .release (if post then .relPost p0 ay else .relUn p0 ay) fun t => { t with len := 16 }
theorem witness_SyncObjects :
    let r (i : Instr) : State := modCore w0 0 fun k => { k with rels := [{ id := 7, g := 0, req := { someReq with op := i, addr := 0x100 } }] }
    let free (i : Instr) : Bool :=
      let x : Rel := { id := 7, g := 0, req := { someReq with op := i, addr := 0x100 } }
      let t := syncTxn (r i) 0 .release x.req (x.req.y.zeroExtend 2048)
      ((getCore (r i) 0).rels.find? fun x => x.id == 7) == some x && !carriedBy (r i) 0 0 (fun o => boundTo (r i) t.vf o t.peer t.pa) &&
        !dieStores (r i) 0
    (passB (atHome acqPart w0) .acquire acqPart && ((List.range 16).all fun j => plainB (atHome acqPart w0) (acqPart.pa + j)) &&
      acqReady (atHome acqPart w0) acqPart.pa 0 (acqPart.entry.truncate 64) &&
      !((atHome acqPart w0).txns.any fun e => e.1 != 5 && e.2.kind == .acquire && e.2.pa == acqPart.pa && e.2.peer.isNone)) = true ∧
    (passB (atHome (relPart false) w0) .release (relPart false) && passB (atHome (relPart true) w0) .release (relPart true)) = true ∧
    (withBanks (atHome acqPart w0) acqPart).isSome = true ∧ (withBanks (atHome (relPart true) w0) (relPart true)).isSome = true ∧
    (free (.relUn p0 ay) && free (.relPost p0 { ay with sc := 5 })) = true := by decide +kernel
theorem witness_FencesAndBindings :
    let f (k : Fin 4) (sc : Fin 8) : Instr := .fence p0 { k := k, sc := sc }
    let a := headed (f 3 4) fun q => { q with slot := true }
    let b := headed (f 1 5) id
    let c := headed (.pfence p0 { k := 0, sc := 2 }) id
    let d := headed (.bind p0 { m := true, base := 1, sl := 3, so := 4, u := false }) fun q => { q with h := some 1 }
    (headReady a 0).isSome = true ∧ dieStores a (dieOfCore (coreOf 0)) = false ∧ earlierDone a 0 0 = true ∧ loadsFilled (getCtx a 0) 0 = true ∧ (headReady b 0).isSome = true ∧
      earlierDone b 0 0 = true ∧ loadsFilled (getCtx b 0) 0 = true ∧ (headReady c 0).isSome = true ∧ pumpQueued c 0 = false ∧
      (c.txns.any fun e => e.2.src == .ctx 0 && e.2.kind == .pcmd && decide (e.2.req.seq < 0)) = false ∧
      (headReady d 0).isSome = true ∧ earlierDone d 0 0 = true ∧ (d.binds.filter fun b => b.vf == vfOf d 0).length < 64 := by
  decide +kernel
def pumpPart : Txn := part .pcmd (.pcmdAddI32 p0 ap) fun t => { t with len := 8, entry := 5, lmask := -1 }
theorem witness_PumpParts :
    let s := atHome pumpPart w0
    let b := setBankQ w0 3 [{ txn := pumpPart, id := 0, seen := [] }]
    passB s .pcmd pumpPart = true ∧ (withBanks s pumpPart).isSome = true ∧ pumpPart.home s pumpPart.pa = pumpPart.pa ∧
      stopped s pumpPart.pa = false ∧ (enqueue s { pumpPart with orig := 5 }).isSome = true ∧ pumpPart.flags = 0 ∧
      bankQ b 3 = [{ txn := pumpPart, id := 0, seen := [] }] ∧ bankQ b (holdKey (3 / 16)) = [] ∧ b.spoiled = [] ∧ pumpPart.kind = .pcmd ∧
      pumpPart.src = .ctx 0 ∧
      (∀ i ∈ [(Instr.pcmdAddI32 p0 ap, 0), (.pcmdAddF32 p0 ap, 1), (.pcmdAxpyF32 p0 ap, 2), (.pcmdMaxF32 p0 ap, 3), (.pcmdCvtBf16 p0 ap, 4),
          (.pcmdFill p0 ap, 5), (.pcmdCopy p0 ap, 6), (.pcmdAcc p0 ap, 7)],
        ∀ src ∈ [Agent.ctx 0, .peer 1 9],
          let x : PumpPart := { txn := { part .pcmd i.1 fun t => { t with len := 8, entry := 16 } with src := src }, id := 0, seen := [] }
          let s := setBankQ w0 3 [x]
          bankQ s 3 = [x] ∧ bankQ s (holdKey (3 / 16)) = [] ∧ x.txn.kind = .pcmd ∧ aop x.txn.req.op = .pcmd i.2 ∧
            (i.2 = 6 → copySource s x.txn = some 0x110)) := by decide +kernel

/-! The matrix unit. -/

/-- Core 0 runs the routine r; every port of context 0 has an entry. -/
def ported (r : Routine) : State :=
  let e : Tab (BitVec 1024 × Option Nat) := [(0, (3, none))]
  let s := modStream w0 (issuerSlot w0 0) fun _ => { Stream.free with
    defined := true, filled := 1, entries := e
    subs := [{ g := 0, port := 0, window := 4, count := 0 }, { g := 0, port := 1, window := 4, count := 0 },
             { g := 0, port := 2, window := 4, count := 0 }] }
  modCore s 0 fun k => { k with run := some r }
theorem witness_MatrixWords :
    let r := { probeRoutine with cmd := { probeRoutine.cmd with ga := [0x100, 0, 0, 0, 0, 0, 0, 2] } }
    let s := ported r
    (getCore s s.cur).run = some r ∧ (4095 : Fin 4096) ≠ 0 ∧ (r.cmd.ga.getD 7 0).toNat % 2 ^ 32 ≠ 0 ∧
      (sigTarget s r 0).isSome = true ∧ (portPeek s r.cmd.g 0).isSome = true ∧ (portPeek s r.cmd.g 1).isSome = true ∧
      (portPeek s r.cmd.g 2).isSome = true ∧ (mxClass 1).n ≠ 2 ∧ (mxClass 3).n = 2 ∧ (3 : Fin 4).val ≠ 2 ∧ (2 : Fin 4).val = 2 ∧
      (sigTarget s r 7).isNone = true ∧ (r.cmd.ga.getD 6 0).toNat % 2 ^ 32 = 0 := by decide +kernel
def mcmd (i : Instr) : MCmd := { probeRoutine.cmd with op := i }
theorem witness_MatrixCommandsRun :
    let a := modCore w0 1023 fun k => { k with mq := [mcmd (.mzro p0 15)] }
    let b := modCore w0 0 fun k => { k with mq := [mcmd (.mcall p0 4095)] }
    let r := { probeRoutine with ended := true }
    (getCore a 1023).busyCmd = none ∧ (getCore a 1023).run = none ∧ (getCore a 1023).mq = [mcmd (.mzro p0 15)] ∧
      mxAnswers a 1023 .atomic = [] ∧ (getCore b 0).busyCmd = none ∧ (getCore b 0).run = none ∧
      (getCore b 0).mq = [mcmd (.mcall p0 4095)] ∧ mxAnswers b 0 .atomic = [] ∧ (getCore b 0).susp = [] ∧
      (getCore (ported r) 0).run = some r ∧ r.ended = true ∧ r.stop = none ∧ r.empty = true := by decide +kernel
theorem witness_Governor :
    let a := modCore w0 1023 fun k => { k with frozenTo := 1 }
    1023 < 1024 ∧ coreFrozen w0 1023 = false ∧ (getCore a 1023).frozenTo = a.clock + 1 := by decide +kernel

/-! Walks, groups, launches. -/

def walking : State :=
  let h := pendHandle 0x10000 9
  let s := modCtx w0 0 fun c => { c with h := [(1, h)] }
  { s with walks := [(9, { g := 0, hn := 1, va := 0x10000, vf := 0, dead := false, res := 0 })] }
theorem witness_WalksAndInvalidations :
    (tfind walking.walks 9).isSome = true ∧ pendingWalk ((getCtx walking 0).rdH 1) 9 = true ∧
      invalPending w0 (rfld w0 (hinval + 16) 0 7) (rfld w0 hinval 16 41) (rfld w0 (hinval + 8) 16 41) = false := by decide +kernel
theorem witness_ArrivalsCounted :
    let s (e : Nat) : State := modBar (modCtx w0 0 fun c => { c with uncounted := [(0, 0)] }) 0 0 fun b => { b with exp := e }
    (∀ e ∈ [1, 2], ((getCtx (s e) 0).uncounted.find? fun u => u.1 == 0) = some (0, 0) ∧ earlierDone (s e) 0 0 = true) ∧
    (getBar (s 2) (getCtx (s 2) 0).gid 0).arr + 1 ≠ (getBar (s 2) (getCtx (s 2) 0).gid 0).exp ∧
    (getBar (s 1) (getCtx (s 1) 0).gid 0).arr + 1 = (getBar (s 1) (getCtx (s 1) 0).gid 0).exp ∧ (getCtx (s 1) 0).phase ≠ .exited ∧
    (let x := modCtx (s 2) 0 fun c => { c with phase := .exited }
     ((getCtx x 0).uncounted.find? fun u => u.1 == 0) = some (0, 0) ∧ earlierDone x 0 0 = true ∧ (getCtx x 0).phase = .exited) := by
  decide +kernel
def launch : Launch :=
  { q := 0, ridx := 0, pkt := 0, vf := 0, part := 0, next := 0, retired := 0, done := false, dead := false, checked := true }
theorem witness_GroupsRetire :
    let s := modCtx w0 0 fun c => { c with phase := .exited }
    let a := { w0 with launches := [(3, { launch with retired := launch.total })] }
    let t : Txn := { Txn.base .atomic (.disp 3) Req.blank 0 0 0 with out := true }
    let b := setTxn { w0 with launches := [(3, { launch with done := true })] } 8 t
    (tfind s.groups 0).isSome = true ∧ (groupOf s 0).ctxs.all (ctxDone s) = true ∧ (tfind a.launches 3).isSome = true ∧
      (pkOrdered launch.pkt && addsBefore a 3 launch) = false ∧ (List.range 4).any (dieStores a) = false ∧
      pkCounter launch.pkt = 0 ∧ addAnswer b 3 = some (8, t) ∧ t.err = 0 := by decide +kernel

/-! Packets, engines, events. -/

/-- A ring of one slot at 0x1000 that holds p, its descriptor at d. -/
def ringed (d : Nat) (p : Flit) (s : State) : State :=
  mwriteL (mwriteL (mwriteL s d [1]) (d + 16) [0, 16]) 0x1000 (bytesOf p 64)
/-- One context, code at 0x10000, occupancy record at 0x300, one group, timeout 1. -/
def packet : Flit := BitVec.ofNat 512 (1 + 0x10000 * 2 ^ 64 + (1 + 2 ^ 32 + 2 ^ 48) * 2 ^ 128 + 0x300 * 2 ^ 192 + 2 ^ 384)
/-- A copy of one element of one byte from address 0x100. -/
def tile1 : Flit := BitVec.ofNat 512 (0x102 + 0x100 * 2 ^ 64 + 0x200 * 2 ^ 128)
def isSlot (q : QPeek) (p : Flit) : Bool :=
  match q with
  | .slot x i a => x == p && i == 0 && a == 0x1000
  | _ => false
def launch1 : Launch := { launch with pkt := packet }
/-- The packet of queue q is valid once it is taken from slot 0 at 0x1000. -/
def validOk (s : State) (q : Nat) : Bool :=
  let l : Launch := { q := q, ridx := 0, pkt := packet, vf := lqVf s q, part := lqPart s q, next := 0, retired := 0, done := false,
                      dead := false, checked := false }
  let e : State := { s with ids := s.ids + 1, launches := tset s.launches s.ids l, disp := { s.disp with fresh := tdel s.disp.fresh q } }
  match validate (queueTake e (lqName s q) (lqDesc s q) 0 0x1000) q packet with
  | (0, none) => true
  | _ => false
theorem witness_PacketsAndPlacement :
    let u (q : Nat) : State := ringed 0x200 packet (rset w0 (lqcfg q) 0x201)
    let v (n : Nat) : State := ringed 0x200 packet (rset w0 (sqcfg n) 0x201)
    let d : State := rset { w0 with clock := 2, disp := { w0.disp with lastAt := 0 }, launches := [(9, launch1)] } startst 7
    let f := (eligible d).findSome? fun l => (afterIn (partClusters d l.2.part) (lastClu d l.2.part)).findSome? fun c =>
        (fitOn d c l.2.pkt l.2.vf).map fun f => (l, c, f)
    let w : State := rset { w0 with launches := [(9, { launch1 with q := 260 })] } startst 7
    let c (q : Nat) : State := ringed 0x20000 tile1 (rset w0 (cqcfg q) 0x20001)
    (∀ q ∈ [0, 255], lqDesc (u q) q = 0x200 ∧ isSlot (queuePeek (u q) (lqName (u q) q) 0x200) packet = true ∧ mayBegin (u q) q packet = true ∧
      validOk (u q) q = true ∧ rbit (u q) (lqcfg q) 0 = true ∧ tableFull (u q) = false ∧ (unchecked (u q) q).isNone = true) ∧
    (∀ n ∈ [0, 4], isSlot (queuePeek (v n) (lqName (v n) (256 + n)) (lqDesc (v n) (256 + n))) packet = true ∧
      mayBegin (v n) (256 + n) packet = true ∧ validOk (v n) (256 + n) = true ∧
      rbit (v n) (sqcfg n) 0 = true ∧ launchesOf (v n) (256 + n) = []) ∧
    (∀ q ∈ [0, 255], migFrame (u q) (lqDesc (u q) q) = false) ∧ migFrame w0 0x1000 = false ∧
    d.disp.lastAt + 2 ≤ d.clock ∧ started d = true ∧ f.isSome = true ∧
    (let t := rset d isocfg 1
     partKey t 1 ≠ partKey t 0) ∧
    launchesOf w 260 = [(9, { launch1 with q := 260 })] ∧ launch1.checked = true ∧ launch1.next < launch1.total ∧ started w = true ∧
    (∀ q ∈ [0, 255], rbit (c q) (cqcfg q) 0 = true ∧ chanFull (c q) (queueKey q) = false ∧
      isSlot (queuePeek (c q) { reg := cqcfg q, kind := 1, q := q, vf := rfld (c q) (cqcfg q) 1 7 } (rfld (c q) (cqcfg q) 16 41 * 2 ^ 16))
        tile1 = true ∧ copyValid tile1 true = true) := by
  decide +kernel
/-- A command of core 0's launch engine on address 0x240. -/
def lcmd (i : Instr) : LCmd :=
  { op := i, id := 3, g := 0, ipc := 0, a := 0x240, b := 0, pkt := 0, seq := 0, sys := true, stage := 0, w := 0, txn := 0 }
theorem witness_LaunchEngineWorks :
    let s (c : LCmd) : State := modCore w0 0 fun k => { k with leng := [c] }
    let c := lcmd (.cadd p0 { sa := 0, sb := 0, sc := 0 })
    let e := { c with stage := 1, txn := 9 }
    let t : Txn := { Txn.base .atomic (.eng 0 3) Req.blank 0 0 0x240 with out := true }
    lengFind (s c) 0 3 = some c ∧ c.stage = 0 ∧ earlierDone (s c) c.g c.seq = true ∧ lengBehind (s c) 0 c = false ∧ (lengDesc (s c) c).toBool = true ∧
      (counterAt (s c) (c.who (s c)) true c.a.toNat).toBool = true ∧ dieStores (s c) (dieOfCore 0) = false ∧
      c.b.toNat % 2 ^ 20 = 0 ∧ e.stage ≠ 0 ∧ lengAnswer (setTxn (s e) 8 t) e = some (8, t) ∧ t.err = 0 ∧
      (let x := { t with peer := some 1 }
       let y := setTxn (s { e with stage := 3 }) 8 x
       lengAnswer y { e with stage := 3 } = some (8, x) ∧ dieStores y (dieOfCore 0) = false) := by
  decide +kernel
/-- Command 3 of kind k on channel 0, without a context. -/
def ccmd (k : Nat) : CCmd := { CCmd.blank 3 k noCtx tile1 with sys := true, fault := none }
def withCmd (c : CCmd) : State := setChan w0 0 [c]
theorem witness_ChannelsWork :
    let a := withCmd { ccmd 0 with g := 0 }
    let f := { ccmd 2 with next := 1, pkt := BitVec.ofNat 512 (0x102 + 127 * 2 ^ (256 + 36)),
                           buf := (List.range 128).map fun b => (b, BitVec.ofNat 8 (b + 1)) }
    let s := modStream (withCmd f) (15, 15) fun st => { st with feeds := [(0, 3)] }
    let e := { ccmd 0 with next := 1 }
    let t : Txn := { storePart with src := .chan 0 3, out := true }
    (getClu a (chanClu a 0)).engAt ≤ a.clock ∧ (issueFrom (askAll a 0) 0 [] (chanCmds a 0)).isSome = true ∧
      passB (atHome storePart w0) .store storePart = true ∧ (withBanks (atHome storePart w0) storePart).isSome = true ∧
      getTxn (setTxn (withCmd (ccmd 0)) 5 t) 5 = some t ∧ t.out = true ∧
      findCmd (setTxn (withCmd (ccmd 0)) 5 t) 0 3 = some (ccmd 0) ∧
      findCmd (withCmd e) 0 3 = some e ∧ e.parts = [] ∧ e.carried = false ∧ e.parked = false ∧ e.allSent (withCmd e) = true ∧
      e.fault = none ∧ e.counter = 0 ∧ e.kind ≠ 2 ∧
      (getStream s (15, 15)).feeds = [(0, 3)] ∧ findCmd s 0 3 = some f ∧ f.kind = 2 ∧ f.next ≠ 0 ∧ f.carried = false ∧
      f.fault = none ∧ min 128 ((tileOf f.pkt).bytes - 128 * ((getStream s (15, 15)).filled - f.entry)) = 128 ∧
      (getStream s (15, 15)).room (getStream s (15, 15)).filled = true ∧
      (∀ b : Fin 128, (tfind f.buf (128 * ((getStream s (15, 15)).filled - f.entry) + b.val)).isSome = true) := by
  decide +kernel
theorem witness_RingsAndBatches :
    let e : BatchEnt := { cause := 3, page := 5, cmds := [(0, 3)] }
    let s (n : Nat) (f : Nat) : State :=
      { w0 with clock := 25000, faults := { w0.faults with batch := [(0, List.replicate n e)], bstart := [(0, f)] } }
    let r : RangeRec := { vf := 0, ix := 2, cmds := [(0, 3)] }
    let t := { w0 with faults := { w0.faults with ranges := [r] } }
    let v : Event := { kind := 1, g := 0, vf := 0, cyc := 0, i0 := 0, i1 := 0 }
    let x := rset { w0 with evq := [v] } evcfg 1
    let y := rset (rset w0 (frcfg 127) 5) (frcfg 127 + 8) 0
    (tget [] (s 64 25000).faults.batch 0).length = 64 ∧ tget [] (s 1 0).faults.batch 0 ≠ [] ∧
      tget 0 (s 1 0).faults.bstart 0 + 25000 ≤ (s 1 0).clock ∧
      (t.faults.ranges.find? fun r => r.vf == 0 && r.ix == 2) = some r ∧
      x.evq = [v] ∧ rbit x evcfg 0 = true ∧ evRoom x = true ∧
      y.faults.wait = [] ∧ unread y (frcfg 127 + 8) < 2 ^ (rfld y (frcfg 127) 1 5 - 2) := by decide +kernel
theorem witness_HardwareEvents :
    let a := rset w0 (bkpt 0 0 + 8) 64
    let s (n : Nat) : State := { w0 with alerts := [(511, n)] }
    rfld a (bkpt 0 0 + 8) 6 16 ≠ 0 ∧ (getCtx a (ctxBase 0 + (getCore a 0).running)).phase = .resident ∧
      (getCtx a (ctxBase 0 + (getCore a 0).running)).frozen = false ∧
      (∀ n ∈ [1, 2, 3, 4], tget 0 (s n).alerts 511 = n) ∧ { w0 with fab := { w0.fab with links := [(0, 1)] } }.fab.links.contains (0, 1) = true ∧
      (getCore w0 1023).badTile.contains (4096 * 15 + 4095) = false ∧
      (let q : Pipe := { sums := [], tile := 0, left := 4, word := 0 }
       let r := { probeRoutine with pipe := [q] }
       (∀ x ∈ [r, r.halt 0x0C 7], (getCore (modCore w0 0 fun k => { k with run := some x }) 0).run = some x ∧ x.second = none ∧
         x.pipe.getLast? = some q) ∧ r.stop = none ∧ (r.halt 0x0C 7).stop.isSome = true) ∧ w0.fab.links.contains (0, 1) = false ∧
      eccWord 0 = some (0, 32) ∧ (eccWord (tierBase 1)).isSome = true ∧ (eccWord (tierBase 2)).isSome = true := by decide +kernel

/-! The whole machine. -/

theorem witness_WhatAStepTakesUp :
    let o : StartIn := { fuseId := 0, spares := [], retired := [], temps := [], hashOk := true, redo := [], redoMem := false, upto := 7 }
    let a := { w0 with inputs := [.hostFlr 0] }
    let b := { w0 with inputs := [.coldStart o] }
    let c := { w0 with turn := [] }
    let d := { c with agenda := [(c.clock, .treeStableTimer 0)] }
    let e := { w0 with fab := { w0.fab with arrived := [msgBlank 1 0 0x13] } }
    a.inputs = [.hostFlr 0] ∧ external (.hostFlr 0) = true ∧ a.start.powered = true ∧ b.inputs = [.coldStart o] ∧
      e.inputs = [] ∧ e.start.powered = true ∧ e.fab.arrived = [msgBlank 1 0 0x13] ∧
      w0.inputs = [] ∧ w0.start.powered = true ∧ w0.fab.arrived = [] ∧ w0.turn = [(0, .contextSelect 0)] ∧
      c.inputs = [] ∧ c.fab.arrived = [] ∧ c.turn = [] ∧ (∀ e ∈ c.agenda.head?, c.clock < e.1) ∧ d.turn = [] ∧ d.inputs = [] ∧
      d.fab.arrived = [] ∧ d.agenda = [(c.clock, .treeStableTimer 0)] := by decide +kernel
theorem no_break (s : State) (g pc : Nat) (act : Nat → Bool)
    (h : ∀ j ∈ List.range 4, rbit s (bkpt (coreOf g) j + 8) 0 = false) : breakAt s g pc act = none := by
  unfold breakAt
  simp only
  split
  · rfl
  · exact List.find?_eq_none.mpr fun j hj => by simp [h j hj]
/-- The state before a word whose step runs it, and the bytes that its core finds there. -/
def before (w : Nat) : State := { State.reset.withFetchWord 32 w with turn := [], cur := 0 }
def bundleOf (w : Nat) : List Byte :=
  let r : List Byte := [0, 0, 0, if w / 2 ^ 28 % 8 = 4 then 0x80 else 0xC0]
  bytesOf (BitVec.ofNat 32 w) 4 ++ r ++ r ++ r
theorem bytes_read (x : CodeRead) (l : List Byte)
    (h : (match x with
      | .bytes y => y == l
      | _ => false) = true) : x = .bytes l := by cases x <;> simp_all
/-- The decoder reads i from w. -/
def reads (l : Lend) (w : Nat) (i : Instr) : Bool :=
  match decodeSyl l w with
  | .ok j => j == i
  | .error _ => false
theorem reads_spec (l : Lend) (w : Nat) (i : Instr) (h : reads l w i = true) : decodeSyl l w = .ok i := by
  unfold reads at h
  split at h <;> simp_all
/-- What stands before the word w, which is i. -/
def standsB (w : Nat) (i : Instr) : Bool :=
  let s := modCore (before w) 0 fun k => { k with yielded := none }
  (match readBundle s 0 0x10000 with
    | .bytes y => y == bundleOf w
    | _ => false) &&
  decide ((getCtx s 0).pc = 0x10000 ∧ chkBound s 0 0x10000 = true ∧ (wordsIn (bundleOf w)).getD 0 0 = w ∧ bitOf w 31 = true ∧
    bundleErrs (wordsIn (bundleOf w)) = [] ∧ reads (lendAt ((wordsIn (bundleOf w)).headD 0) 0) w i = true ∧
    (isSteward 0 && matrixOp i) = false ∧ (lendAt ((wordsIn (bundleOf w)).headD 0) 0).lt = 0 ∧
    (∀ j ∈ List.range 4, rbit s (bkpt (coreOf 0) j + 8) 0 = false) ∧ (getCtx s 0).hld = false)
theorem stands (w : Nat) (i : Instr) (h : standsB w i = true) :
    oneSyllable (modCore (before w) 0 fun k => { k with yielded := none }) 0 w (bundleOf w) i := by
  simp only [standsB, Bool.and_eq_true, decide_eq_true_eq] at h
  obtain ⟨hb, hpc, h1, h2, h3, h4, h5, h6, h7, h8, h9⟩ := h
  unfold oneSyllable
  rw [hpc]
  exact ⟨h1, bytes_read _ _ hb, h2, h3, h4, reads_spec _ _ _ h5, h6, .inl h7, fun act => no_break _ _ _ act h8, h9⟩
/-- How the syllable i ends where it opens its course. -/
def fateOf (w : Nat) (i : Instr) : Option Fate :=
  let s1 := modCore (before w) 0 fun k => { k with yielded := none }
  match exec i (atSyllable (opened s1 0 w (bundleOf w) i) (theSyllable s1 0 w (bundleOf w) i)) with
  | .next t => some t.iss.fate
  | _ => none
theorem witness_StepRunsTheDecodedInstruction :
    (∀ w ∈ [0xC0000000, 0xC160A000, 0x80008418], coreFrozen (before w) 0 = false ∧ (getCore (before w) 0).yielded = none ∧
      (getCore (before w) 0).running = 0 ∧ mayIssue (before w) 0 = true) ∧
    standsB 0xC0000000 (.nop p0) = true ∧ standsB 0xC160A000 (.trap p0 5) = true ∧
    fateOf 0xC0000000 (.nop p0) = some .go ∧ fateOf 0xC160A000 (.trap p0 5) = some .trap ∧
    (let w := 0x80008418
     let i := Instr.add p0 xr
     let s1 := modCore (before w) 0 fun k => { k with yielded := none }
     let x := theSyllable s1 0 w (bundleOf w) i
     let o := opened s1 0 w (bundleOf w) i
     standsB w i = true ∧ xrReady p0 xr (atSyllable o x) = true ∧
       xrReady p0 xr (atSyllable (modCtx (countCourse o 0 (getCtx s1 0).pc [x]) 0 fun c => { c with skb := false }) x) = true) ∧
    (let late (b : Bool) : State := modCtx (before 0xC0000000) 0 fun c => { c with next := 5, bubble := b }
     coreFrozen (modCore (before 0xC0000000) 0 fun k => { k with frozenTo := 9 }) 0 = true ∧
       ∀ b ∈ [true, false], coreFrozen (late b) 0 = false ∧ (∀ i : Fin 4, mayIssue (late b) (ctxBase 0 + i.val) = false) ∧
         (getCore (late b) 0).running < 4 ∧ (getCtx (late b) 0).phase = .resident ∧ (getCtx (late b) 0).frozen = false ∧
         localTime (late b) 0 < (getCtx (late b) 0).next) := by decide +kernel
theorem witness_EncodingsAgree :
    wellFormed (.thaw p0 { sa := 1, sb := 2, sc := 0 }) = true ∧ (encode (.thaw p0 { sa := 1, sb := 2, sc := 0 })).isSome = true ∧
      isMicro .uend = true ∧ wellFormed .uend = true ∧ (encode .uend).isSome = true ∧ wellFormed (.add p1 xr) = true ∧
      (encode (.add p1 xr)).isSome = true ∧ reads .none 0xC0000000 (.nop p0) = true ∧
      decodeMicro 0x30000000 = some (.band false false) := by decide +kernel
theorem witness_GuardedOff :
    sylPart (.trap p1 5) = some p1 ∧ guardOn p1 w0 = false ∧ (isSteward w0.iss.g && matrixOp (.trap p1 5)) = false := by
  decide +kernel
/-- The outcome is a next state of which f holds. -/
def goes (r : Host.Outcome State Fault Refusal) (f : State → Bool) : Bool :=
  match r with
  | .next t => f t
  | _ => false
theorem witness_RegisterFormsFrame :
    (registerForm (.add p0 xr) && goes (exec (.add p0 xr) w0) fun t => t.iss.fate != .trap) = true ∧
      (registerForm (.call p0 2 0) && goes (exec (.call p0 2 0) w0) fun t => t.iss.fate != .trap) = true := by decide +kernel
theorem witness_MemoryStaysCanonical : memWf w0.mem = true ∧ goes (step w0) (fun _ => true) = true := by decide +kernel

/-! The fabric. -/

/-- Port 46 in state st, as q. -/
def portIn (st : Nat) (q : Port) : State := rset (setPort (rsetF w0 (rport 46) 1 3 st) 46 q) fabcfg 1
def flitOf (ty seq : Nat) (p : Payload) : Flit := makeFlit p (ctlWord ty 0 seq 0 0)
/-- The hypotheses of `flitIn` for a flit that arrives unharmed. -/
def flitB (f : Flit) (k : Nat) : Bool :=
  fabOn (portIn 2 Port.reset) && burstRem f.toNat 512 == 0 && flitKind f == k && portState (portIn 2 Port.reset) 46 == 2
theorem flitB_spec (f : Flit) (k : Nat) (h : flitB f k = true) : flitIn (portIn 2 Port.reset) 46 f f k := by
  simp only [flitB, Bool.and_eq_true, beq_iff_eq] at h
  obtain ⟨⟨⟨h0, h1⟩, h2⟩, h3⟩ := h
  exact ⟨h0, by simp [correct, h1], h2, by simp [h3], by simp [h3]⟩
/-- Port 46 awaits an RSACK of MODE 0. -/
def striped : State := portIn 2 { Port.reset with stripe := some { map := 0xF, mode := 0, e := 0, reps := 1, stamp := 3 } }
theorem witness_FlitsReceived :
    (∀ x ∈ [(1, 1, 0), (2, 2, 0), (3, 3, 0), (4, 4, 0), (0xC, 0xC, 0), (0xB, 0x20, 0), (0xB, 0x21, 1), (0xB, 0x22, 2)],
      flitB (flitOf x.1 0 (BitVec.ofNat 384 x.2.2)) x.2.1 = true ∧ flitSeq (flitOf x.1 0 (BitVec.ofNat 384 x.2.2)) = 0) ∧
    (getPort (portIn 2 Port.reset) 46).rxE = 0 ∧
    (∀ n ∈ [1, 64, 65], flitB (flitOf 1 n 0) 1 = true ∧ flitSeq (flitOf 1 n 0) = n) ∧
    (∀ n ∈ [0, 64, 65], (getPort (taken (portIn 2 Port.reset) 46 (flitOf 1 n 0) (flitOf 1 n 0)) 46).rxE = 0 ∧
      (getPort (taken (portIn 2 Port.reset) 46 (flitOf 1 n 0) (flitOf 1 n 0)) 46).reorder = []) ∧
    (getPort (taken (portIn 2 { Port.reset with reorder := [(64, flitOf 1 64 0)] }) 46 (flitOf 1 64 0) (flitOf 1 64 0)) 46).reorder =
      [(64, flitOf 1 64 0)] ∧
    fabOn striped = true ∧ portState striped 46 = 2 ∧ ((getPort striped 46).stripe.map (·.mode)) = some 0 ∧
    portUp (portIn 2 Port.reset) 46 = true ∧ portUp (portIn 4 Port.reset) 46 = false ∧
    (∀ x ∈ [1, 4, 0xB, 0xC], flitType (flitOf x 0 0) = x) ∧
    flitB (flitOf 0 0 0) 0 = true ∧ flitB (flitOf 8 0 0) 8 = true ∧ flitB (flitOf 9 0 0) 9 = true ∧
    flitB (flitOf 0xA 0 0) 0xA = true ∧ flitB (flitOf 0xF 0 0) 0x10 = true := by decide +kernel
theorem witness_LinksAndTimers :
    let q := { Port.reset with nak := some (0, w0.clock) }
    let a := portIn 2 q
    let b (n : Nat) : State := portIn 2 { Port.reset with stripe := some { map := 0, mode := 0, e := 0, reps := n, stamp := 3 } }
    let c := rsetF w0 (laneReg 46 7) 16 2 3
    let d := rsetF (portIn 1 Port.reset) fabcfg 0 1 1
    let e := { w0 with fab := { w0.fab with tree := { w0.fab.tree with quiet := false, epAt := [] } } }
    let e1 := { e with clock := 1251, fab := { e.fab with tree := { e.fab.tree with epAt := [(0, 1), (1, 1)] } } }
    let m (f : QMsg → QMsg) : State :=
      rsetF { w0 with clock := 62500, fab := { w0.fab with queue :=
        [f { id := 3, m := msgBlank 1 0 1, port := some 0, vc := 0, sent := 0, seqs := [], head := 1, glob := false, inp := none }] } }
        (fabcfg + 16) 50 1 1
    (getPort a 46).nak = some ((getPort a 46).rxE, a.clock) ∧ (∀ n ∈ [7, 8], ((getPort (b n) 46).stripe.map (·.reps)) = some n) ∧
      laneState c 46 7 = 3 ∧ portUp a 46 = true ∧ rbit d (rport 46) 0 = true ∧ rbit d fabcfg 0 = true ∧ portUp d 46 = false ∧
      4 ≤ ((lanesOf 0xF0).filter fun i => laneState d 46 i != 3).length ∧ portState a 46 = 2 ∧
      e.fab.tree.quiet = false ∧ parityHeld e (e.fab.tree.epoch % 2 == 1) = false ∧ tget 0 e.fab.tree.epAt (e.fab.tree.epoch % 2) = 0 ∧
      parityHeld e1 (e1.fab.tree.epoch % 2 == 1) = false ∧ tget 0 e1.fab.tree.epAt (e1.fab.tree.epoch % 2) + 1250 ≤ e1.clock ∧
      (m id).fab.queue.length = 1 ∧ (((m id).fab.queue.filter fun q => q.id == 3).map fun q => q.port.isSome) = [true] ∧
      (((m fun q => { q with port := none, m := { q.m with esc := true } }).fab.queue.filter fun q => q.id == 3).map
        fun q => q.port == none && q.m.esc) = [true] ∧
      1 + rfld (m id) (fabcfg + 8) 16 16 * 5 / 4 ≤ (m id).clock + 1 ∧ escInstalled (m id) = true ∧
      1 + 62500 ≤ (m id).clock + 1 := by decide +kernel
/-- A part that goes to module p, and an entry of the outstanding table. -/
def toPeer (p : Nat) : Txn := { loadPart with peer := some p }
def outst (u : Use) (n : Nat) : Outst := { m := msgBlank 1 0 1, use := u, agent := .ctx 0, orig := 0, stamp := 4, tries := n }
def withOutst (o : Outst) : State := { w0 with fab := { w0.fab with outst := [(65535, o)] } }
theorem witness_RequestsToPeers :
    let a (p : Nat) : State := atHome (toPeer p) w0
    let cut : State := { a 31 with fab := { (a 31).fab with links := [(0, 4), (1, 4), (2, 4), (3, 4)] } }
    let e (n : Nat) : Msg := { msgBlank 0 1 0x1F with tag := 65535, opa := BitVec.ofNat 64 n, opb := if n = 10 then 10 else 0 }
    let f := { w0 with fab := { w0.fab with probes := [(1, 4)] } }
    let g := rsetF (rsetF (portIn 2 Port.reset) (rport 46) 20 14 5) (fencedMap + 0) 5 1 1
    (∀ p ∈ [31, 32], (toPeer p).peer.isSome = true ∧ (toPeer p).out = false ∧ ((txnMsgs (a p) (toPeer p))[0]?).isSome = true) ∧
      (∀ m0 ∈ txnMsgs (a 31) (toPeer 31), dstStatus (a 31) (redirected (a 31) m0).dst = 0 ∧
        granuleBusy (a 31) ((toPeer 31).agent (a 31)) (redirected (a 31) m0) = false) ∧ (a 31).fab.outst.length < 65536 ∧
      pathOk (a 31) (toPeer 31).die 4 = true ∧ heldBack (a 31) 5 (toPeer 31) = false ∧ pathOk cut (toPeer 31).die 4 = false ∧
      (let b := { a 31 with fab := { (a 31).fab with outst := [(3, { outst (.txn 5) 0 with
          agent := ((toPeer 31).agent (a 31)), m := ((txnMsgs (a 31) (toPeer 31)).map (redirected (a 31))).headD (msgBlank 0 0 0) })] } }
       ∀ m0 ∈ txnMsgs b (toPeer 31), granuleBusy b ((toPeer 31).agent b) (redirected b m0) = true) ∧
      (∀ m0 ∈ txnMsgs (a 32) (toPeer 32), dstStatus (a 32) (redirected (a 32) m0).dst ≠ 0) ∧
      tfind (withOutst (outst (.txn 5) 0)).fab.outst 65535 = some (outst (.txn 5) 0) ∧
      tfind (withOutst (outst (.txn 5) 4)).fab.outst 65535 = some (outst (.txn 5) 4) ∧
      errStatus (e 9) = 9 ∧ errStatus (e 10) = 10 ∧ errStatus (e 3) = 3 ∧
      tfind (withOutst (outst (.probe 1) 0)).fab.outst 65535 = some (outst (.probe 1) 0) ∧
      f.fab.probes.contains (1, 4) = true ∧ fenced f 1 = false ∧ portUp g 46 = true ∧ portPeer g 46 = 5 ∧ fenced g 5 = true ∧
      g.fab.outst = [] ∧
      (let w : Txn := { storePart with peer := some 31, cnt := 0x200, add := 1 }
       let s : State := atHome w { w0 with fab := { w0.fab with redir := [{ m := 31, frame := 0, dest := 30, dframe := 7, vf := 0 }] } }
       (txnMsgs s w).length = 1 ∧ heldBack s 5 w = false ∧ pathOk s w.die 4 = true ∧ w.splitPost ≠ w ∧ w.splitPost.splitPost = w.splitPost ∧
         ∀ m0 ∈ txnMsgs s w, (redirected s m0).dst ≠ m0.dst ∧ dstStatus s (redirected s m0).dst = 0 ∧
           granuleBusy s (w.agent s) (redirected s m0) = false) := by decide +kernel
theorem witness_RequestsFromPeers :
    let p : Instr := .pcmdAddI32 p0 ap
    let w : Nat := match encode p with
      | some x => x.2
      | none => 0
    let m := { msgBlank 0 1 6 with opa := BitVec.ofNat 64 w, addr := 0xFF, cnt := 1 }
    peerReach 0x038000000000 8 = false ∧ peerReach 0x100 8 = true ∧ peerReach (tierBase 1) 256 = true ∧
      peerReach (tierBase 2) 16 = true ∧ peerReach 0x100 (max 1 0) = true ∧
      Sys2Proof.decodeTableWord 32 (m.opa.toNat % 2 ^ 32) = some p ∧ (match aop p with
        | .pcmd _ => true
        | _ => false) = true ∧ tierOf m.addr = some 0 ∧ m.addr % 256 + m.cnt % 512 ≤ 256 ∧ m.cnt % 512 ≠ 0 ∧
      w0.fab.omHeld = [] ∧ ((0 : Nat) + 2 ^ 32 - tget 0 w0.fab.omNext (omKey 0 0)) % 2 ^ 32 = 0 := by decide +kernel

/-! Collectives, migration, the host, starts. -/

/-- Entry 1 of VF 0 sums over the group 2 of modules 0 and 1. -/
def reducing : State :=
  mwriteL (rset (rset (rset w0 (arcfg 0 1) (1 + 2 * 32)) (mcg 0 2) (1 + 2 * 2 ^ 16)) (mcg 0 2 + 8) 0x400) 0x402 [1]
def seqOpen : State := { reducing with ar := [{ v := 0, i := 1, n := 0, c := none, parts := [], sentUp := false, since := 0, toWrite := none, redo := false, ends := false }] }
theorem witness_AllReduce :
    arFind reducing 0 1 = none ∧ rbit reducing (arcfg 0 1) 0 = true ∧ rfld reducing (arcfg 0 1) 1 4 ≤ 8 ∧
      arList reducing 0 1 = some [0, 1] ∧ arIndex reducing [0, 1] = some 0 ∧ (arKids 2 0).contains 1 = true ∧
      [0, 1].findIdx? (fun x => x == 1) = some 1 ∧ arNext reducing 0 1 = 0 ∧ reducing.arHeld = [] ∧
      (arFind seqOpen 0 1).isSome = true ∧ rbit w0 (arcfg 0 1) 0 = false ∧ arList seqOpen 0 1 = some [0, 1] ∧
      (let a : ArSeq := { v := 0, i := 1, n := 0, c := some 3, parts := [], sentUp := false, since := 0, toWrite := none, redo := false, ends := false }
       let s (x : ArSeq) : State := { reducing with clock := 1250000, ar := [x] }
       arFind (s a) 0 1 = some a ∧ a.since + 1250000 ≤ (s a).clock ∧
         arFind (s { a with toWrite := some (0, 3) }) 0 1 = some { a with toWrite := some (0, 3) } ∧
         (a.n + 1) % 2 ^ 32 = { msgBlank 0 1 0x22 with sub := 1, sq := 1 }.sq % 2 ^ 32) ∧
      vfOf reducing 0 = 0 ∧ arFind reducing 127 15 = none ∧
      (let r := respond reducing { msgBlank 0 1 0x22 with sub := 1 } 0x10 0 0 0 0
       let e := respond { reducing with arEnd := [(1, 1)] } { msgBlank 0 1 0x22 with sub := 1 } 0x10 0 0 0 0
       tget 0 r.arEnd 1 ≠ 0 + 1 ∧ (arNext r 0 1 + 2 ^ 32 - 0) % 2 ^ 32 < 2 ^ 31 ∧ tget 0 e.arEnd 1 = 0 + 1) ∧
      (let t := rset reducing (fabcfg) (2 ^ 1 * 1 + 1)
       arIndex t [0, 1] ≠ some 0) ∧
      hwReady reducing (rfld reducing (arcfg 0 1 + 8) 4 46 * 16) 16 = true ∧
      hwReady reducing (rfld reducing (arcfg 0 1 + 16) 3 47 * 8) 8 = true := by decide +kernel
/-- VF 0's tables map unit 2 to frame 3; its migration range is units 2 and 3. -/
def mapped : State :=
  let w (a x : Nat) (s : State) : State := mwriteL s a (bytesOf (BitVec.ofNat 128 x) 16)
  let s := w 0x40000 0x80001 (w 0x80000 0xA0001 (w 0xA0000 0xC0001 (w 0xC0020 0x303C7 w0)))
  rset (rset (rset (rset s (vmcfg 0) 0x40001) (migs 0) 1) (migs 0 + 8) 0x20000) (migs 0 + 16) 0x40000
theorem witness_Migration :
    let ok (s : State) (u : Nat) : Bool :=
      rbit s (migs 0) 0 && decide (rfld s (migs 0 + 8) 16 41 ≤ u) && decide (u < rfld s (migs 0 + 16) 16 41)
    let x : Sealed := { frame := 3, v := 0, unit := 2, dest := 1, dframe := 7, sent := false }
    let e := ((walkEntry mapped 0 0x20000).getD (0, 9))
    let h := handleOf 0x20000 e.1 0
    let a := { mapped with mig := { mapped.mig with seals := [x] } }
    let u : MigUnit := { v := 0, unit := 2, frame := 3, pulled := true, got := 255, bits := 0, stamp := 4 }
    let c := { w0 with mig := { w0.mig with units := [u], peers := [(0, 1, 0)] } }
    let d := rset { w0 with mig := { w0.mig with units := [{ u with pulled := false }] } } (migd 0) 3
    ok mapped 2 = true ∧ ok mapped 3 = true ∧ ok mapped 1 = false ∧ ok mapped 4 = false ∧
      mapped.mig.seals = [] ∧ e.2 = 0 ∧ e.1 ≠ 0 ∧ hTier h < 2 ∧ hTwin h = false ∧ hMig h ≠ 3 ∧
      (a.mig.seals.find? fun x => x.v == 0 && x.unit == 2) = some x ∧
      ((respond c (msgBlank 0 1 0x24) 0x10 0 0 0 0).mig.units.find? fun u => u.frame == 0x30000 / 2 ^ 16) = some u ∧
      u.bits.getLsbD (0x30000 / 256 % 256) = false ∧
      (respond w0 (msgBlank 0 1 0x24) 0x10 0 0 0 0).mig.units = [] ∧
      (respond c (msgBlank 0 1 0x25) 0x10 0 0 0 0).mig.peers.contains (0, 1, 0) = true ∧
      (let r := respond c { msgBlank 0 1 0x25 with vf := 4 } 0x10 0 0 0 0
       r.mig.peers.contains (0, 1, 4) = false ∧ (r.mig.peers.find? fun p => p.1 == 0 && p.2.1 == 1) = some (0, 1, 0)) ∧
      goes (exec (.pull { msgBlank 0 1 0x23 with opa := 0x20000, addr := 0x70000 }) mapped)
        (fun t => !migFrame t (bmapAt mapped 0 2) && mread t (bmapAt mapped 0 2) == 1) = true ∧
      rbit (rset w0 (migs 0) 4) (migs 0) 2 = true ∧ rfld (rset w0 (migs 0) 4) (migs 0 + 32) 0 32 = 0 ∧ rbit w0 (migs 0) 2 = false ∧
      (a.mig.seals.find? fun y => frameTimer y.frame == frameTimer x.frame) = some x ∧ x.sent = false ∧
      hwReady mapped (bmapAt mapped 0 2) 1 = true ∧ badByte mapped (bmapAt mapped 0 2) = false ∧
      tierOf (bmapAt mapped 0 2) = some 0 ∧ srcFenced c 0 = false ∧ hwReady c 0x30000 256 = true ∧
      srcFenced (rset c fencedMap 1) 0 = true ∧ srcFenced d 0 = false ∧
      tfind (withOutst (outst (.page 3 0) 0)).fab.outst 65535 = some (outst (.page 3 0) 0) ∧
      (c.mig.units.find? fun x => x.v == 0 && x.unit == 2 && x.stamp == 4 && x.pulled) = some u ∧
      fenced c (rfld c (migd 0) 2 14) = false ∧ rbit d (migd 0) 0 = true ∧ rbit d (migd 0) 1 = true ∧
      (d.mig.units.find? fun u => u.v == 0 && !u.pulled).isSome = true := by decide +kernel
/-- A host's access of 8 bytes of function f. -/
def hostReq (f : Option Nat) : HostReq :=
  { bar0 := false, fn := f, addr := 0xFFF8, len := 16, data := 0, op := 2, cmp := 0, tag := 9, ro := false, port := 0 }
theorem witness_HostSide :
    let ok (o : HostReq) (nd : HostNeed) : Bool :=
      hostTakes w0 o nd && (cutAt 65536 o.addr o.len).all fun p => (hostPlace w0 o nd p.1 p.2).isSome
    let needs : List HostNeed := [{ read := true, write := false, op := .none }, { read := false, write := true, op := .none }]
    let c := { hostReq none with addr := 0xFFF0 }
    let e (st : HarbState) : State := { w0 with harb := [{ v := 127, unit := 0, st := st, stamp := 1 }] }
    let full := { w0 with harb := (List.range 256).map fun u => { v := 0, unit := u, st := .movingD, stamp := 0 } }
    (∀ nd ∈ needs, ok (hostReq none) nd = true ∧ ok (hostReq (some 127)) nd = false) ∧
      (∀ i ∈ hostOp c, ok c { read := false, write := true, op := aop i } = true ∧
        ok { c with fn := some 0 } { read := false, write := true, op := aop i } = false) ∧
      (hostOp c).isSome = true ∧ c.addr % c.len = 0 ∧ c.len ≠ 0 ∧ c.bar0 = false ∧ hostOp { c with op := 1 } = none ∧
      (hostReq none).addr % (hostReq none).len ≠ 0 ∧
      (∀ nd ∈ needs, ok { hostReq none with port := 1 } nd = false ∧ ok { c with len := 1024 } nd = nd.read) ∧
      harbFind w0 127 0 = none ∧ w0.harb.length < 256 ∧ harbFind full 127 0 = none ∧ 256 ≤ full.harb.length ∧
      (∀ st ∈ [HarbState.movingD, .movingH, .dwellD, .dwellH], (harbFind (e st) 127 0).map (·.st) = some st) := by decide +kernel
theorem witness_StartsPowerRegisters :
    let s := rset (rset w0 startst 0xE) (mxctl 0) 0
    rfld w0 startst 0 3 = 0 ∧ rfld s startst 0 3 = 6 ∧ rbit s startst 3 = true ∧ rbit w0 startst 3 = false ∧
      regAllowed s (.ctx 0 true) (mxctl 1023) true 8 = true ∧ regAllowed s (.host (some 0)) (mxctl 0) true 8 = false := by
  decide +kernel

/-! Decoding. Each word is laid out field by field from the tables of R76 to R93 and R291: operands 33, 18, 9 (or 17, 10,
5) in the order of their format, guard p6. -/

/-- The last syllable of its course, under p6. -/
def q : Syl := { stop := true, guard := 6, leaf := 0 }
/-- The X unit (R83, R88). -/
theorem decode_x_unit : ([
    (.none, 0x8010A44E, .add q ⟨33, 18, 9, false, false, false⟩),
    (.none, 0x8030A44E, .sub q ⟨33, 18, 9, false, false, false⟩),
    (.none, 0x8050A44E, .mul q ⟨33, 18, 9, false, false, false⟩),
    (.none, 0x8070A44E, .mulh q ⟨33, 18, 9, false, false, false⟩),
    (.none, 0x8090A44E, .mulhU q ⟨33, 18, 9, false, false, false⟩),
    (.none, 0x80B0A44E, .div q ⟨33, 18, 9, false, false, false⟩),
    (.none, 0x80D0A44E, .divU q ⟨33, 18, 9, false, false, false⟩),
    (.none, 0x80F0A44E, .rem q ⟨33, 18, 9, false, false, false⟩),
    (.none, 0x8110A44E, .remU q ⟨33, 18, 9, false, false, false⟩), (.leaf 3, 0x81200006, .abs q ⟨0, 0, true, true⟩),
    (.leaf 4, 0x8150A406, .and q ⟨33, 18, 0, false, false, true⟩),
    (.leaf 4, 0x8170A406, .or q ⟨33, 18, 0, false, false, true⟩),
    (.leaf 4, 0x8190A406, .xor q ⟨33, 18, 0, false, false, true⟩),
    (.leaf 4, 0x81B0A406, .andn q ⟨33, 18, 0, false, false, true⟩),
    (.leaf 4, 0x81D0A406, .shl q ⟨33, 18, 0, false, false, true⟩),
    (.leaf 4, 0x81F0A406, .shr q ⟨33, 18, 0, false, false, true⟩),
    (.leaf 4, 0x8210A406, .sra q ⟨33, 18, 0, false, false, true⟩),
    (.leaf 4, 0x8230A406, .rotl q ⟨33, 18, 0, false, false, true⟩), (.none, 0x8250A406, .clz q ⟨33, 18, false, false⟩),
    (.none, 0x8270A406, .popc q ⟨33, 18, false, false⟩), (.leaf 1, 0x8290804E, .extb q ⟨33, 0, 9, true, false, false⟩),
    (.leaf 1, 0x82B0804E, .extbS q ⟨33, 0, 9, true, false, false⟩),
    (.leaf 1, 0x82D0804E, .depb q ⟨33, 0, 9, true, false, false⟩),
    (.leaf 1, 0x82F0804E, .min q ⟨33, 0, 9, true, false, false⟩),
    (.leaf 1, 0x8310804E, .max q ⟨33, 0, 9, true, false, false⟩),
    (.leaf 1, 0x8330804E, .minU q ⟨33, 0, 9, true, false, false⟩),
    (.leaf 1, 0x8350804E, .maxU q ⟨33, 0, 9, true, false, false⟩), (.none, 0x83639A56, .mov q ⟨7, 13, 1, 2, false, false⟩),
    (.none, 0x83F0A44E, .lea q 3 ⟨33, 18, 9, false, false, false⟩), (.none, 0x8410A506, .addi q ⟨33, 18, -32⟩),
    (.wide 0x7F, 0x8410A5FE, .addi q ⟨33, 18, 8191⟩), (.none, 0x8430A5FE, .shlImm q ⟨33, 18, 63⟩),
    (.none, 0x8450A5FE, .shrImm q ⟨33, 18, 63⟩), (.none, 0x8470A5FE, .sraImm q ⟨33, 18, 63⟩),
    (.none, 0x8490A5FE, .rotlImm q ⟨33, 18, 63⟩), (.wide 0x80, 0x84B0800E, .movi q ⟨33, -524287⟩),
    (.none, 0x84CB0036, .mfsr q ⟨22, 6⟩), (.none, 0x84E180E6, .mtsr q ⟨3, 0x1C⟩),
    (.none, 0x85F30A56, .cmp q ⟨7, 9, 33, 18, 2⟩), (.wide 0x80, 0x86D3080E, .cmpi q ⟨6, 9, 33, -32767⟩),
    (.none, 0x8712C786, .plog q ⟨9, 6, 3, 12⟩), (.none, 0x8752C786, .klog q ⟨9, 6, 3, 12⟩),
    (.none, 0x87330006, .pset q ⟨9, true⟩), (.none, 0x8770C806, .kpopc q ⟨33, 9⟩), (.none, 0x8790C806, .kfirst q ⟨33, 9⟩),
    (.none, 0x8970A44E, .sel q 11 ⟨33, 18, 9, false, false, false⟩)] :
    List (Lend × Nat × Instr)).all (fun x => reads x.1 x.2.1 x.2.2) = true := by decide +kernel
/-- The V unit (R84, R90). -/
theorem decode_v_unit : ([
    (.leaf 9, 0x9071514E, .vadd q .i32 ⟨17, 10, 5, false, false, true, 9⟩),
    (.leaf 9, 0x91C05166, .vsub q .ui16 ⟨0, 10, 5, true, false, false, 9⟩),
    (.leaf 9, 0x92510156, .vmul q .bf16 ⟨17, 0, 5, false, true, false, 9⟩),
    (.leaf 9, 0x93315146, .vmin q .f16 ⟨17, 10, 5, false, false, false, 9⟩),
    (.leaf 9, 0x94B15146, .vmax q .i16 ⟨17, 10, 5, false, false, false, 9⟩),
    (.leaf 9, 0x9511516E, .vfma q .f32 ⟨17, 10, 5, true, false, true, 9⟩),
    (.leaf 9, 0x96515146, .vfmaNa q .bf16 ⟨17, 10, 5, false, false, false, 9⟩),
    (.leaf 9, 0x9799514E, .vcmp q .ui32 ⟨5, 9, 10, 5, false, 9⟩),
    (.leaf 9, 0x98115146, .vand q ⟨17, 10, 5, false, false, false, 9⟩),
    (.leaf 9, 0x98315146, .vor q ⟨17, 10, 5, false, false, false, 9⟩),
    (.leaf 9, 0x98515146, .vxor q ⟨17, 10, 5, false, false, false, 9⟩),
    (.leaf 9, 0x98715146, .vsel q ⟨17, 10, 5, false, false, false, 9⟩),
    (.leaf 9, 0x9891514E, .vshl q ⟨17, 10, 5, false, false, true, 9⟩),
    (.leaf 9, 0x98B1514E, .vshr q ⟨17, 10, 5, false, false, true, 9⟩),
    (.leaf 9, 0x98D1514E, .vsra q ⟨17, 10, 5, false, false, true, 9⟩),
    (.leaf 9, 0x98F15006, .vmov q ⟨17, 10, 0, false, false, false, 9⟩),
    (.leaf 9, 0x9971500E, .vabs q .i32 ⟨17, 10, 0, false, false, true, 9⟩),
    (.leaf 9, 0x99F15146, .vscale q .bf16 ⟨17, 10, 5, false, false, false, 9⟩),
    (.leaf 9, 0x9A71574E, .vcvt q ⟨13, 29, 17, 10, false, 9⟩),
    (.leaf 9, 0x9B115006, .vrcp q ⟨17, 10, 0, false, false, false, 9⟩),
    (.leaf 9, 0x9B315006, .vrsq q ⟨17, 10, 0, false, false, false, 9⟩),
    (.leaf 9, 0x9B515006, .vexp2 q ⟨17, 10, 0, false, false, false, 9⟩),
    (.leaf 9, 0x9B715006, .vlog2 q ⟨17, 10, 0, false, false, false, 9⟩),
    (.leaf 9, 0x9C115146, .vperm q ⟨17, 10, 5, false, false, false, 9⟩),
    (.leaf 9, 0x9C31014E, .vbcast q ⟨17, 0, 5, false, false, true, 9⟩),
    (.leaf 9, 0x9C51514E, .vrot q ⟨17, 10, 5, false, false, true, 9⟩),
    (.leaf 9, 0x9C71516E, .vext q ⟨17, 10, 5, true, false, true, 9⟩),
    (.leaf 9, 0x9C91515E, .vins q ⟨17, 10, 5, false, true, true, 9⟩),
    (.leaf 9, 0x9CB10006, .viota q ⟨17, 0, 0, false, false, false, 9⟩),
    (.leaf 9, 0x9CD1514E, .vpack q ⟨17, 10, 5, false, false, true, 9⟩),
    (.leaf 9, 0x9CF1500E, .vunpk q ⟨17, 10, 0, false, false, true, 9⟩),
    (.leaf 9, 0x9D11516E, .vred q .f32 ⟨17, 10, 5, true, false, true, 9⟩),
    (.leaf 9, 0x9ED1514E, .vscan q .ui16 ⟨17, 10, 5, false, false, true, 9⟩),
    (.leaf 9, 0x9FD1514E, .vdot q 6 ⟨17, 10, 5, false, false, true, 9⟩)] :
    List (Lend × Nat × Instr)).all (fun x => reads x.1 x.2.1 x.2.2) = true := by decide +kernel
/-- The A unit (R85, R91). -/
theorem decode_a_unit : ([
    (.leaf 5, 0xA0D9499E, .lda q 6 ⟨true, 9, 18, 1, -13, 5⟩), (.wide 0x40, 0xA146491E, .sta q 2 ⟨false, 6, 18, 1, 2051, 0⟩),
    (.none, 0xA199852E, .bind q ⟨true, 9, 33, 18, true⟩), (.none, 0xA1B50006, .fence q ⟨2, 5⟩),
    (.none, 0xA1C60006, .pfence q ⟨0, 6⟩), (.leaf 5, 0xA279499E, .ldv q 3 ⟨true, 9, 18, 1, -13, 5⟩),
    (.leaf 5, 0xA2B9499E, .ldvs q 1 ⟨true, 9, 18, 1, -13, 5⟩), (.leaf 5, 0xA359919E, .ldg q 2 ⟨true, 9, 18, 1, -13, 5⟩),
    (.wide 0x40, 0xA3A6491E, .stv q 1 ⟨false, 6, 18, 1, 2051, 0⟩),
    (.wide 0x40, 0xA446491E, .stvs q 2 ⟨false, 6, 18, 1, 2051, 0⟩), (.none, 0xA4E6911E, .stg q 3 ⟨false, 6, 18, 1, 3, 0⟩),
    (.none, 0xA516180E, .aadd q ⟨5, 33, -255⟩), (.none, 0xA536180E, .bset q ⟨5, 33, -255⟩),
    (.none, 0xA5530806, .trans q ⟨9, 33, 0⟩), (.none, 0xA5720006, .hrel q ⟨9, 0, 0⟩), (.none, 0xA5930B06, .hchk q ⟨9, 33, 6⟩),
    (.none, 0xA5B30806, .preq q ⟨9, 33, 0⟩), (.wide 0x40, 0xA5C6491E, .feset q ⟨false, 6, 18, 1, 2051, 0⟩),
    (.wide 0x40, 0xA5E6491E, .fewait q ⟨false, 6, 18, 1, 2051, 0⟩), (.none, 0xA75949EE, .amo32 q 10 ⟨true, 9, 18, true, -3⟩),
    (.none, 0xA91949EE, .amo64 q 8 ⟨true, 9, 18, true, -3⟩), (.none, 0xAAB949EE, .amos32 q 5 ⟨true, 9, 18, true, -3⟩),
    (.none, 0xAC3949EE, .amos64 q 1 ⟨true, 9, 18, true, -3⟩), (.none, 0xAE5949EE, .cas q 2 ⟨true, 9, 18, true, -3⟩),
    (.none, 0xAE664ACE, .acqX q ⟨false, 6, 18, 5, -7⟩), (.none, 0xAE864ACE, .acqSh q ⟨false, 6, 18, 5, -7⟩),
    (.none, 0xAEA64ACE, .acqEv q ⟨false, 6, 18, 5, -7⟩), (.none, 0xAEC64ACE, .relUn q ⟨false, 6, 18, 5, -7⟩),
    (.none, 0xAEE64ACE, .relPost q ⟨false, 6, 18, 5, -7⟩), (.none, 0xAF198526, .pcmdAddI32 q ⟨9, 33, 18⟩),
    (.none, 0xAF398526, .pcmdAddF32 q ⟨9, 33, 18⟩), (.none, 0xAF598526, .pcmdAxpyF32 q ⟨9, 33, 18⟩),
    (.none, 0xAF798526, .pcmdMaxF32 q ⟨9, 33, 18⟩), (.none, 0xAF998526, .pcmdCvtBf16 q ⟨9, 33, 18⟩),
    (.none, 0xAFB98526, .pcmdFill q ⟨9, 33, 18⟩), (.none, 0xAFD98526, .pcmdCopy q ⟨9, 33, 18⟩),
    (.none, 0xAFF98526, .pcmdAcc q ⟨9, 33, 18⟩)] :
    List (Lend × Nat × Instr)).all (fun x => reads x.1 x.2.1 x.2.2) = true := by decide +kernel
/-- The M unit (R86, R92). -/
theorem decode_m_unit : ([
    (.none, 0xB0118006, .cpy q 17 2), (.none, 0xB0318406, .cpyq q 17 33), (.none, 0xB05C0006, .drain q 7),
    (.none, 0xB070A506, .cwait q ⟨33, 18, 4⟩), (.none, 0xB090A406, .cadd q ⟨33, 18, 0⟩),
    (.none, 0xB0B0A406, .cset q ⟨33, 18, 0⟩), (.none, 0xB1918526, .put q 4 ⟨17, 33, 18⟩),
    (.none, 0xB2318526, .putm q 1 ⟨17, 33, 18⟩), (.none, 0xB3B18526, .putmO q 5 ⟨17, 33, 18⟩),
    (.none, 0xB410A406, .shdw q ⟨33, 18, 0⟩), (.none, 0xB430A4C6, .publ q ⟨33, 18, 3⟩), (.none, 0xB4520006, .sdef q 9),
    (.none, 0xB4734206, .ssub q ⟨9, 2, 33⟩), (.none, 0xB4932C06, .sfeed q ⟨9, 18, 3⟩), (.none, 0xB4B20006, .srel q 9),
    (.none, 0xB510A406, .mload q ⟨33, 18, 0⟩), (.none, 0xB5357806, .mcall q 0xABC), (.none, 0xB5400006, .mwait q),
    (.none, 0xB5719846, .mrdaVector q ⟨17, 9, 33, false⟩), (.none, 0xB5930A46, .mrdaScratchpad q ⟨9, 33, 18⟩),
    (.none, 0xB5A12006, .mzro q 9), (.none, 0xB5D08106, .engw q 33 0x20), (.none, 0xB6012006, .bar q 9),
    (.none, 0xB6212006, .bara q 9), (.none, 0xB6412006, .barw q 9), (.none, 0xB670A486, .waitev q ⟨33, 18, 2⟩),
    (.none, 0xB6918406, .lnch q 17 33), (.none, 0xB710A406, .csave q ⟨33, 18, 0⟩), (.none, 0xB730A406, .cload q ⟨33, 18, 0⟩),
    (.none, 0xB750A406, .freeze q ⟨33, 18, 0⟩), (.none, 0xB7708006, .vdrain q 33), (.none, 0xB7908006, .hinvv q 33),
    (.none, 0xB7B0A406, .scrub q ⟨33, 18, 0⟩), (.none, 0xB7D4A006, .trig q 0xA5)] :
    List (Lend × Nat × Instr)).all (fun x => reads x.1 x.2.1 x.2.2) = true := by decide +kernel
/-- The B unit (R80, R87, R93). -/
theorem decode_b_unit : ([
    (.none, 0xC0000006, .nop q), (.tree 3 2 (-3) 5 (-32), 0xC032C786, .brt q ⟨9, 6, 3, 12, 3, 2, -3, 5, -32⟩),
    (.none, 0xC0538006, .brc q ⟨9, true, -4096⟩), (.wide 1, 0xC052000E, .brc q ⟨9, false, 8193⟩),
    (.none, 0xC0700006, .jmp q (-131072)), (.none, 0xC0908006, .jmpi q 33), (.none, 0xC0B0C00E, .call q 33 (-2047)),
    (.none, 0xC0D08006, .ret q 33), (.none, 0xC0FFFFFE, .loop q (-1)), (.none, 0xC110802E, .lset q 33 5),
    (.none, 0xC1200006, .exit q), (.none, 0xC1400006, .yield q), (.none, 0xC174A006, .trap q 0xA5),
    (.none, 0xC1800006, .eret q), (.none, 0xC1A00006, .halt q)] :
    List (Lend × Nat × Instr)).all (fun x => reads x.1 x.2.1 x.2.2) = true := by decide +kernel
/-- Micro-op words (R94, R291). -/
theorem decode_micro_ops : ([
    (0x00000000, .uend), (0x15AC0000, .step false ⟨22, 22, false⟩), (0x12D70000, .step false ⟨11, 11, true⟩),
    (0x28000000, .scl true), (0x3C000000, .band true true), (0x48000000, .accsel true 0), (0x40480000, .accsel false 9),
    (0x4E800000, .accselG true 5), (0x50010002, .uloop 32 2), (0x56800003, .uloopG 5 3), (0x6D900000, .skip true 2 200),
    (0x73000000, .sig false 3), (0x7E000000, .sig true 6), (0x80000000, .waits false 0 0), (0x8BFE0000, .waits true 1 255)] :
    List (Nat × Instr)).all (fun x => decodeMicro x.1 == some x.2) = true := by decide +kernel
/-- The worked encodings of chapter 3, with the guard and the leaf tag that a LEAF header's byte gives. -/
theorem decode_worked :
    reads .none 0x120000B0 (.vmul { p0 with stop := false } .f32 ⟨0, 0, 2, true, true, false, 0⟩) = true ∧
    reads .none 0xA3810000 (.stv p0 0 ⟨false, 1, 0, 0, 0, 0⟩) = true ∧
    reads .none 0xA2010000 (.ldv p0 0 ⟨false, 1, 0, 0, 0, 0⟩) = true ∧
    reads (lendAt 0x50800000 1) 0x95110511 (.vfma ⟨true, 9, 0⟩ .f32 ⟨17, 0, 20, false, true, false, 0⟩) = true ∧
    reads (lendAt 0x540BD141 1) 0xC0224680 (.brt p0 ⟨1, 2, 3, 4, 0, 2, -3, 5, 1⟩) = true ∧
    reads (.leaf 0x50) 0xC0000000 (.nop ⟨true, 0, 5⟩) = true := by decide +kernel
/-- Words that are no instruction (R77 to R80, R82 to R95): an unused E bit, a leaf tag of 6, a must-be-0 field, two source queues, a
class too small, a major opcode without a row, unit 6, a BRT without its header, an SRN without a register. -/
theorem decode_refuses :
    [(Lend.leaf 8, 0x80041048), (.leaf 0x60, 0xC0000000), (.none, 0xC0000008), (.leaf 5, 0x80040000), (.none, 0x83640040),
      (.none, 0x8FE00000), (.none, 0xE0000000), (.none, 0xC0200000), (.none, 0x84C00040), (.none, 0xA00F0000)].all
      (fun x => match decodeSyl x.1 x.2 with
        | .ok _ => false
        | .error _ => true) = true := by decide +kernel

/-! Terms that `wellFormed` refuses, one for each check. -/

theorem ill_formed_queue_fields :
    [Instr.add p0 ⟨1, 2, 3, true, false, false⟩, .add p0 ⟨1, 2, 3, false, true, false⟩, .add p0 ⟨1, 2, 3, false, false, true⟩,
      .add p0 ⟨1, 0, 0, true, false, true⟩, .depb p0 ⟨0, 2, 3, false, true, false⟩, .abs p0 ⟨1, 2, true, false⟩,
      .mov p0 ⟨8, 0, 1, 0, false, false⟩, .mov p0 ⟨0, 16, 0, 3, false, false⟩, .mov p0 ⟨1, 0, 1, 0, true, false⟩,
      .vadd p0 .i32 ⟨1, 2, 3, true, false, false, 0⟩, .vfma p0 .f32 ⟨1, 2, 3, false, true, false, 0⟩,
      .vcmp p0 .f32 ⟨0, 0, 1, 0, true, 0⟩, .vcvt p0 ⟨0, 1, 0, 1, true, 0⟩, .vins p0 ⟨1, 0, 0, true, false, false, 0⟩,
      .mrdaVector p0 ⟨1, 0, 0, true⟩].all (fun i => !wellFormed i) = true := by decide +kernel
theorem ill_formed_choices :
    [Instr.vadd p0 .f32 ⟨1, 2, 3, false, false, true, 0⟩, .vmin p0 .f32 ⟨1, 2, 3, false, false, true, 0⟩,
      .vfma p0 .i32 ⟨1, 2, 3, false, false, false, 0⟩, .vcmp p0 .i32 ⟨6, 0, 1, 0, false, 0⟩, .vmov p0 ⟨1, 2, 3, false, false, false, 0⟩,
      .vabs p0 .ui32 ⟨1, 2, 0, false, false, false, 0⟩, .vscale p0 .i32 ⟨1, 2, 3, false, false, false, 0⟩,
      .vcvt p0 ⟨16, 0, 1, 2, false, 0⟩, .vbcast p0 ⟨1, 2, 3, false, false, false, 0⟩, .viota p0 ⟨1, 0, 3, false, false, false, 0⟩,
      .vred p0 .f32 ⟨1, 2, 3, false, false, true, 0⟩, .vdot p0 4 ⟨1, 2, 3, false, false, true, 0⟩,
      .mfsr p0 ⟨1, 0x1D⟩, .mtsr p0 ⟨1, 8⟩].all (fun i => !wellFormed i) = true := by decide +kernel
theorem ill_formed_immediates :
    [Instr.addi p0 ⟨1, 2, 8192⟩, .addi { p0 with guard := 8 } ⟨1, 2, 32⟩, .movi p0 ⟨1, -524289⟩, .cmpi p0 ⟨0, 1, 2, 32768⟩,
      .lda p0 0 ⟨false, 8, 0, 0, 0, 0⟩, .lda p0 0 ⟨true, 8, 0, 3, 0, 0⟩, .lda p0 0 ⟨true, 8, 0, 0, 16, 1⟩, .lda p0 0 ⟨false, 0, 0, 0, 0, 1⟩,
      .sta p0 0 ⟨false, 0, 0, 2, 0, 0⟩, .ldg p0 0 ⟨false, 0, 32, 0, 0, 0⟩, .amo32 p0 0 ⟨false, 0, 0, false, 4096⟩,
      .amo64 p0 9 ⟨false, 0, 0, false, 0⟩, .acqX p0 ⟨false, 0, 0, 6, 0⟩, .aadd p0 ⟨0, 0, 65536⟩, .jmp p0 131072, .brc p0 ⟨0, true, -1048577⟩,
      .call p0 0 524288, .brt { p0 with leaf := 1 } ⟨0, 0, 0, 0, 0, 0, 0, 0, 0⟩, .brt p0 ⟨0, 0, 0, 1, 2, 0, 0, 0, 0⟩,
      .brt p0 ⟨0, 0, 0, 0, 0, 32, 0, 0, 0⟩].all (fun i => !wellFormed i) = true := by decide +kernel
theorem ill_formed_fields :
    [Instr.fence p0 ⟨0, 2⟩, .fence p0 ⟨1, 6⟩, .pfence p0 ⟨1, 2⟩, .pfence p0 ⟨0, 1⟩, .bind p0 ⟨false, 8, 0, 0, false⟩, .trans p0 ⟨0, 0, 1⟩,
      .hrel p0 ⟨0, 1, 0⟩, .preq p0 ⟨0, 0, 1⟩, .drain p0 4, .cwait p0 ⟨0, 0, 0⟩, .publ p0 ⟨0, 0, 6⟩, .waitev p0 ⟨0, 0, 1⟩,
      .cadd p0 ⟨0, 0, 1⟩, .csave p0 ⟨0, 0, 1⟩, .freeze p0 ⟨0, 0, 1⟩, .engw p0 0 0xB, .uloop 1 0, .uloopG 0 0, .skip false 3 1,
      .skip false 0 0, .waits false 3 0].all (fun i => !wellFormed i) = true := by decide +kernel

/-! Single steps, with values of the spec's own or worked out by hand from its rules. -/

/-- The value that a syllable leaves on its way, with s2 and s3 given. -/
def left (i : Instr) (a b : Word64) : Option Word64 :=
  match exec i (withS [(2, a), (3, b)] w0) with
  | .next t => ((getCtx t 0).flight.getLast?).map fun f => f.val.truncate 64
  | _ => none
/-- R110: the quotient truncates toward zero, the remainder has the dividend's sign. -/
theorem test_div : left (.div p0 xr) (-7) 2 = some (-3) ∧ left (.rem p0 xr) (-7) 2 = some (-1) := by decide +kernel
/-- R109: the sum wraps; the high half of a signed product. -/
theorem test_add_wraps : left (.add p0 xr) 0xFFFFFFFFFFFFFFFF 2 = some 1 ∧ left (.mulh p0 xr) (-1) 2 = some (-1) := by
  decide +kernel
/-- R112: start 4, length 8. -/
theorem test_extb : left (.extb p0 xr) 0xABCD 0x0804 = some 0xBC ∧ left (.extbS p0 xr) 0xABCD 0x0804 = some 0xFFFFFFFFFFFFFFBC := by
  decide +kernel
/-- R111: a right arithmetic shift by 64 and more leaves the sign. -/
theorem test_sra_past_width : left (.sra p0 xr) (-8) 64 = some (-1) ∧ left (.shl p0 xr) 1 64 = some 0 := by decide +kernel
/-- R344, R347: `trap 5` at 0x10000 in user mode, with TVEC 0x20003: cause 9 with its code, the pc and the next course's, the mode. -/
theorem test_trap_entry :
    goes (step (modCtx (State.reset.withFetchWord 32 0xC160A000) 0 fun c => { c with tvec := 0x20003, mode := false })) (fun t =>
      let c := getCtx t 0
      c.tcause == 9 && c.tinfo == 5 && c.tpc == 0x10000 && c.tnext == 0x10004 && c.mode && !c.pmode && c.inh && c.pc == 0x20000) =
      true := by decide +kernel
/-- A step runs the word at the pc: the context's NOP, one course on. -/
theorem test_step : goes (step w0) (fun t => (getCtx t 0).pc == 0x10004) = true := by decide +kernel

end Sys2Proof.Tests
end

section
/-!
PROOFS. The sequential machine: LOOP and LSET (R35, R36, R141, R142), and the hard-wired registers (R15).
-/
namespace Sys2Proof.Machine

/-! LOOP and LSET. Each outcome of LOOP has an equation, under the guard and the case of R36 that it belongs to. -/

theorem exec_loop (p : Syl) (off : Int) (s : State) : exec (.loop p off) s = execLoop p off s := rfl

theorem exec_lset (p : Syl) (sa : Fin 64) (sm : Fin 8) (s : State) : exec (.lset p sa sm) s = execLset p sa sm s := rfl

/-- ROT as a LOOP that counts leaves it. -/
def loopRot (s : State) : Nat := ((issuer s).rot + 1) % 16

/-- EIX and ROT on their way, as both counting cases of R36 send them. -/
def loopCount (s : State) : State := putSr (putSr s 7 ((issuer s).eix + 1)) 3 (loopRot s)

section
variable {p : Syl} {s : State} (off : Int)

/-- A body remains to be executed: LOOP starts the next one. -/
theorem execLoop_of_lt (hp : guardOn p s = true)
    (hlt : ((issuer s).eix : Int) + 1 < ((issuer s).itr : Int) + (issuer s).stg - 1) :
    execLoop p off s = .next (branchTo
      (putPhysP (loopCount s) (physP (loopRot s) 8) (decide ((issuer s).eix + 1 < (issuer s).itr)))
      (bundleAt s off) (decide (-16 ≤ off ∧ off ≤ 0))) := by
  unfold execLoop
  rw [issue_on hp, Bool.decide_and]
  exact if_pos hlt

/-- The last execution is done. -/
theorem execLoop_of_eq (hp : guardOn p s = true)
    (heq : ((issuer s).eix : Int) + 1 = ((issuer s).itr : Int) + (issuer s).stg - 1) :
    execLoop p off s =
      .next ((List.range 8).foldl (fun t j => putPhysP t (physP (loopRot s) (8 + j)) false) (loopCount s)) := by
  unfold execLoop
  rw [issue_on hp]
  exact (if_neg (by omega)).trans (if_pos heq)

/-- No loop is in progress. -/
theorem execLoop_of_gt (hp : guardOn p s = true)
    (hgt : ((issuer s).itr : Int) + (issuer s).stg - 1 < ((issuer s).eix : Int) + 1) : execLoop p off s = .next s := by
  unfold execLoop
  rw [issue_on hp]
  exact (if_neg (by omega)).trans (if_neg (by omega))

end

/-- Settles O13: the three cases of LOOP, one equation each, and LSET as its guard lets it through. -/
theorem loops : Obligations.Loops := by
  intro p s hp
  refine ⟨fun off => ?_, fun sa sm => ?_⟩
  · rw [exec_loop]
    exact ⟨execLoop_of_lt off hp, execLoop_of_eq off hp, execLoop_of_gt off hp⟩
  · rw [exec_lset]
    exact issue_on hp

/-! The hard-wired registers: what a result that lands leaves, and what a read answers. -/

section
variable {c : Ctx} {steward : Bool} {f : Flight} {n : Nat}

theorem Ctx.land_s_zero (h : f.dest = .s 0) : c.land steward f = c := by simp [Ctx.land, h]
theorem Ctx.land_k_zero (h : f.dest = .k 0) : c.land steward f = c := by simp [Ctx.land, h]
theorem Ctx.land_p_zero (h : f.dest = .p 0) : c.land steward f = c := by simp [Ctx.land, h]
theorem Ctx.land_b (h : f.dest = .b n) :
    c.land steward f = { c with b := tput 0 c.b n (f.val.truncate 64 &&& 0x1FFFFF) } := by simp [Ctx.land, h]

end

@[simp] theorem Ctx.rdS_zero (c : Ctx) : c.rdS 0 = 0 := if_pos rfl
@[simp] theorem Ctx.rdK_zero (c : Ctx) : c.rdK 0 = -1 := if_pos rfl
@[simp] theorem Ctx.rdP_zero (c : Ctx) : c.rdP 0 = true := if_pos rfl

/-- Bits [63:21] of what a b register reads as. -/
theorem Ctx.rdB_and_high (c : Ctx) (n : Nat) : c.rdB n &&& ~~~ (0x1FFFFF : Word64) = 0 := by
  rw [Ctx.rdB, BitVec.and_assoc]
  exact BitVec.and_zero

/-- Settles O26: each discarded destination, each fixed read, and the 21 bits of a b register, written and read. -/
theorem hardWiredRegisters : Obligations.HardWiredRegisters := by
  intro c steward f
  refine ⟨?_, c.rdS_zero, c.rdK_zero, c.rdP_zero, fun n hb => ?_, c.rdB_and_high⟩
  · rintro (hs | hk | hp)
    · exact Ctx.land_s_zero hs
    · exact Ctx.land_k_zero hk
    · exact Ctx.land_p_zero hp
  · rw [Ctx.land_b hb]
    exact tget_tput_self ..

end Sys2Proof.Machine
end

section
/-!
PROOFS. The integer X unit: the four division forms (R110), comparisons, predicate and mask logic (R116 to R120).
-/
namespace Sys2Proof.Machine
open Sys2Proof.Claims

/-! Format XR where its operands are there and its result has room (R40, R41, R106). -/

section
variable {p : Syl} {s : State}

/-- A pop that is ready hands on the head of LDQ. -/
theorem withPop_of_popReady {q : Bool} {f : Option VWord → State → Res} (h : popReady q s = true) :
    withPop q s f = f (if q then some (queueHead s) else none) (afterPop q s) := by
  cases q with
  | false => exact withPop_false
  | true =>
    cases hl : (issuer s).ldq with
    | nil => simp [popReady, hl] at h
    | cons e r =>
      obtain ⟨he, hf⟩ : e.filled = true ∧ e.failed = false := by simpa [popReady, hl] using h
      have hdrop : afterPop true s = modIssuer s fun c => { c with ldq := r } := by
        change setCtx s _ { issuer s with ldq := (issuer s).ldq.drop 1 } = setCtx s _ { issuer s with ldq := r }
        rw [hl, List.drop_one, List.tail_cons]
      rw [withPop_filled hl he hf, hdrop, queueHead, hl, if_pos rfl]

theorem withRoom_of_roomFor {q : Bool} {f : State → Res} (h : roomFor q s = true) : withRoom q s f = f s :=
  withRoom_room <| by
    cases q with
    | false => rfl
    | true => simpa [roomFor, sdqFull] using h

theorem ready_iff {pop push : Bool} :
    ready p pop push s = true ↔ guardOn p s = true ∧ popReady pop s = true ∧ roomFor push s = true := by
  simp [ready, and_assoc]

/-- A ready syllable of format XR delivers its function of the operands. -/
theorem runXR_of_xrReady {o : XR} {lat : Nat} {f : Word64 → Word64 → Word64 → Word64} (h : xrReady p o s = true) :
    runXR p o lat s f = .next (xrNext o lat (f (srcA o s) (srcB o s) ((issuer s).rdS o.sd.val)) s) := by
  obtain ⟨hg, hpop, hroom⟩ := ready_iff.mp h
  rw [runXR, issue_on hg, withRoom_of_roomFor hroom, withPop_of_popReady hpop]
  cases hqs : o.qs <;> cases hqb : o.qb <;> simp [xrNext, srcA, srcB, hqs, hqb]

/-- A scalar result from the registers, where the guard reads 1. -/
theorem runS_on {n : Nat} {f : Ctx → Word64} (h : guardOn p s = true) :
    runS p n s f = .next (putS s n (f (issuer s)) 1) := issue_on h

end

/-! Division by zero (R110). -/

theorem divS_zero (a : Word64) : divS a 0 = -1 := rfl
theorem divU_zero (a : Word64) : divU a 0 = -1 := rfl
theorem remS_zero (a : Word64) : remS a 0 = a := rfl
theorem remU_zero (a : Word64) : remU a 0 = a := rfl

/-! Signed division. -/

theorem divS_eq_sdiv {a b : Word64} (hb : b ≠ 0) : divS a b = a.sdiv b := by
  rw [divS, if_neg hb, ← BitVec.toInt_inj, BitVec.toInt_ofInt, BitVec.toInt_sdiv]

theorem remS_eq_srem {a b : Word64} (hb : b ≠ 0) : remS a b = a.srem b := by
  rw [remS, if_neg hb, ← BitVec.toInt_srem, BitVec.ofInt_toInt]

/-- The one quotient that does not fit. -/
theorem divS_remS_overflow {a b : Word64} (h : b = -1 ∧ a = BitVec.ofNat 64 (2 ^ 63)) : divS a b = a ∧ remS a b = 0 := by
  obtain ⟨rfl, rfl⟩ := h
  decide

theorem toInt_divS {a b : Word64} (hb : b ≠ 0) (h : ¬ (b = -1 ∧ a = BitVec.ofNat 64 (2 ^ 63))) :
    (divS a b).toInt = a.toInt.tdiv b.toInt := by
  rw [divS_eq_sdiv hb]
  exact BitVec.toInt_sdiv_of_ne_or_ne a b (Decidable.not_and_iff_or_not.mp h).symm

theorem toInt_remS {a b : Word64} (hb : b ≠ 0) : (remS a b).toInt = a.toInt.tmod b.toInt := by
  rw [remS_eq_srem hb, BitVec.toInt_srem]

theorem natAbs_toInt_remS_lt {a b : Word64} (hb : b ≠ 0) : (remS a b).toInt.natAbs < b.toInt.natAbs := by
  rw [toInt_remS hb, Int.natAbs_tmod]
  exact Nat.mod_lt _ (Int.natAbs_pos.mpr fun h => hb (BitVec.toInt_inj.mp h))

/-- The remainder has the dividend's sign, or is 0. -/
theorem remS_eq_zero_or_neg_iff {a b : Word64} (hb : b ≠ 0) :
    remS a b = 0 ∨ ((remS a b).toInt < 0 ↔ a.toInt < 0) := by
  have hsign := Int.sign_tmod a.toInt b.toInt
  rw [← toInt_remS hb] at hsign
  split at hsign
  · exact .inl (BitVec.toInt_inj.mp (Int.sign_eq_zero_iff_zero.mp hsign))
  · exact .inr (by rw [← Int.sign_eq_neg_one_iff_neg, hsign, Int.sign_eq_neg_one_iff_neg])

/-- Quotient and remainder make up the dividend, but where the quotient does not fit. -/
theorem divS_mul_add_remS {a b : Word64} (hb : b ≠ 0) (h : ¬ (b = -1 ∧ a = BitVec.ofNat 64 (2 ^ 63))) :
    (divS a b).toInt * b.toInt + (remS a b).toInt = a.toInt := by
  rw [toInt_divS hb h, toInt_remS hb, Int.tdiv_mul_add_tmod]

/-! Unsigned division. -/

theorem toNat_divU {a b : Word64} (hb : b ≠ 0) : (divU a b).toNat = a.toNat / b.toNat := by
  rw [divU, if_neg hb, BitVec.toNat_udiv]

theorem toNat_remU {a b : Word64} (hb : b ≠ 0) : (remU a b).toNat = a.toNat % b.toNat := by
  rw [remU, if_neg hb, BitVec.toNat_umod]

theorem divU_mul_add_remU {a b : Word64} (hb : b ≠ 0) : (divU a b).toNat * b.toNat + (remU a b).toNat = a.toNat := by
  rw [toNat_divU hb, toNat_remU hb, Nat.div_add_mod']

theorem toNat_remU_lt {a b : Word64} (hb : b ≠ 0) : (remU a b).toNat < b.toNat := by
  rw [toNat_remU hb]
  exact Nat.mod_lt _ (Nat.pos_of_ne_zero fun h => hb (BitVec.eq_of_toNat_eq h))

/-! The four forms as runs of format XR. -/

theorem exec_div (p : Syl) (o : XR) (s : State) : exec (.div p o) s = runXR p o 34 s fun a b _ => divS a b := rfl
theorem exec_divU (p : Syl) (o : XR) (s : State) : exec (.divU p o) s = runXR p o 34 s fun a b _ => divU a b := rfl
theorem exec_rem (p : Syl) (o : XR) (s : State) : exec (.rem p o) s = runXR p o 34 s fun a b _ => remS a b := rfl
theorem exec_remU (p : Syl) (o : XR) (s : State) : exec (.remU p o) s = runXR p o 34 s fun a b _ => remU a b := rfl

/-- Settles O2: each form delivers its quotient or remainder, whose arithmetic the lemmas above give by the divisor. -/
theorem divisions : Obligations.Divisions := by
  intro p o s h
  simp only [exec_div, exec_divU, exec_rem, exec_remU, runXR_of_xrReady h]
  refine ⟨fun h0 => ?_, fun hb => ⟨⟨_, _, rfl, rfl, divS_remS_overflow, fun hfit => ?_⟩, ?_⟩⟩
  · rw [h0, divS_zero, divU_zero, remS_zero, remU_zero]
    exact ⟨rfl, rfl, rfl, rfl⟩
  · exact ⟨divS_mul_add_remS hb hfit, natAbs_toInt_remS_lt hb, remS_eq_zero_or_neg_iff hb⟩
  · exact ⟨_, _, rfl, rfl, divU_mul_add_remU hb, toNat_remU_lt hb⟩

/-! Truth tables (R118). -/

theorem truth_eq_testBit (fn : Nat) (a b : Bool) : truth fn a b = fn.testBit (2 * a.toNat + b.toNat) := by
  rw [Nat.testBit_eq_decide_div_mod_eq]
  cases a <;> cases b <;> rfl

/-- The number that a fold makes of the bits f 0 to f (n - 1), lowest first. -/
theorem testBit_foldr_range (f : Nat → Bool) (n i : Nat) :
    ((List.range n).foldr (fun j acc => acc * 2 + if f j then 1 else 0) 0).testBit i = (decide (i < n) && f i) := by
  induction n generalizing f i with
  | zero => simp
  | succ n ih =>
    rw [List.range_succ_eq_map, List.foldr_cons, List.foldr_map]
    cases i with
    | zero => cases f 0 <;> simp [Nat.testBit_zero]
    | succ i =>
      have hhalf (x : Nat) : (x * 2 + if f 0 then 1 else 0) / 2 = x := by split <;> omega
      rw [Nat.testBit_succ, hhalf, ih fun j => f j.succ]
      simp

theorem getLsbD_truth64 (fn : Nat) (a b : Word64) (i : Fin 64) :
    (truth64 fn a b).getLsbD i.val = fn.testBit (2 * (a.getLsbD i.val).toNat + (b.getLsbD i.val).toNat) := by
  rw [truth64, BitVec.getLsbD_ofNat, testBit_foldr_range fun j => truth fn (a.getLsbD j) (b.getLsbD j), truth_eq_testBit]
  simp

/-! Counts of a mask (R120). -/

theorem onesCount_eq_countP (x : Word64) (n : Nat) : onesCount x n = (List.range n).countP fun i => x.getLsbD i := by
  induction n with
  | zero => rfl
  | succ n ih =>
    rw [onesCount, ih, List.range_succ, List.countP_append, List.countP_singleton, Nat.add_comm]

/-- The search over the n bits at and above i ends at the lowest one bit among them, or behind them. -/
theorem firstOne_spec (x : Word64) (n i : Nat) :
    firstOne x n i ≤ i + n ∧ (∀ j, i ≤ j → j < firstOne x n i → x.getLsbD j = false) ∧
      (firstOne x n i < i + n → x.getLsbD (firstOne x n i) = true) := by
  induction n generalizing i with
  | zero => exact ⟨Nat.le_refl _, fun j h1 h2 => absurd h2 (Nat.not_lt.mpr h1), fun h => absurd h (Nat.lt_irrefl _)⟩
  | succ n ih =>
    rw [firstOne]
    split
    · next hi => exact ⟨Nat.le_add_right .., fun j h1 h2 => absurd h2 (Nat.not_lt.mpr h1), fun _ => hi⟩
    · next hi =>
      obtain ⟨hle, hzero, hone⟩ := ih (i + 1)
      refine ⟨by omega, fun j h1 h2 => ?_, fun h => hone (by omega)⟩
      rcases Nat.eq_or_lt_of_le h1 with rfl | hlt
      · exact Bool.eq_false_iff.mpr hi
      · exact hzero j hlt h2

/-! What each instruction answers where its guard reads 1 (R116 to R120). -/

theorem exec_cmp (p : Syl) (o : XC) (s : State) : exec (.cmp p o) s = execCmp p o s := rfl
theorem exec_cmpi (p : Syl) (o : XK) (s : State) : exec (.cmpi p o) s = execCmpi p o s := rfl
theorem exec_plog (p : Syl) (o : XL) (s : State) : exec (.plog p o) s = execPlog p o s := rfl
theorem exec_pset (p : Syl) (o : XP) (s : State) : exec (.pset p o) s = execPset p o s := rfl
theorem exec_klog (p : Syl) (o : XL) (s : State) : exec (.klog p o) s = execKlog p o s := rfl
theorem exec_kpopc (p : Syl) (o : XQ) (s : State) : exec (.kpopc p o) s = execKpopc p o s := rfl
theorem exec_kfirst (p : Syl) (o : XQ) (s : State) : exec (.kfirst p o) s = execKfirst p o s := rfl

section
variable {p : Syl} {s : State}

theorem execPlog_on (o : XL) (h : guardOn p s = true) :
    execPlog p o s = .next (putP s o.d.val (truth o.fn.val ((issuer s).rdP o.a.val) ((issuer s).rdP o.b.val)) 1) :=
  issue_on h

theorem execKlog_on (o : XL) (h : guardOn p s = true) :
    execKlog p o s = .next (putK s o.d.val (truth64 o.fn.val ((issuer s).rdK o.a.val) ((issuer s).rdK o.b.val)) 1) :=
  issue_on h

theorem execKpopc_on (o : XQ) (h : guardOn p s = true) :
    execKpopc p o s = .next (putS s o.sd.val (BitVec.ofNat 64 (onesCount ((issuer s).rdK o.ka.val) 64)) 1) := runS_on h

theorem execKfirst_on (o : XQ) (h : guardOn p s = true) :
    execKfirst p o s = .next (putS s o.sd.val (BitVec.ofNat 64 (firstOne ((issuer s).rdK o.ka.val) 64 0)) 1) := runS_on h

end

/-- Settles O5: one equation for each instruction, with the facts about truth tables and counts above. -/
theorem predicatesAndMasks : Obligations.PredicatesAndMasks := by
  intro p s h
  refine ⟨fun o => ?_, fun o => ?_, fun o => ?_, fun o => ?_, fun o => ?_, fun o => ?_, fun o => ?_⟩
  · rw [exec_cmp]
    exact issue_on h
  · rw [exec_cmpi]
    exact issue_on h
  · rw [exec_plog, execPlog_on o h, truth_eq_testBit]
  · rw [exec_pset]
    exact issue_on h
  · rw [exec_klog, execKlog_on o h]
    exact ⟨_, rfl, fun _ => getLsbD_truth64 ..⟩
  · rw [exec_kpopc, execKpopc_on o h, onesCount_eq_countP]
  · obtain ⟨hle, hzero, hone⟩ := firstOne_spec ((issuer s).rdK o.ka.val) 64 0
    rw [exec_kfirst, execKfirst_on o h]
    rw [Nat.zero_add] at hle hone
    exact ⟨_, rfl, hle, fun i => hzero i (Nat.zero_le i), hone⟩

end Sys2Proof.Machine
end

section
/-!
PROOFS. The encodings (R76 to R95, R291): decoder and encoder agree. Fields, immediates and the syllable's word first, then
each format both ways, then the unit maps.
-/
namespace Sys2Proof.Codec
open Sys2Proof.Laws Sys2Proof.Claims

/-! Fields and immediates. -/

theorem b2n_bitOf (w k : Nat) : b2n (bitOf w k) = w / 2 ^ k % 2 := by
  unfold bitOf b2n
  split <;> simp_all

theorem bitOf_eq {w k : Nat} {b : Bool} (h : w / 2 ^ k % 2 = b2n b) : bitOf w k = b := by
  unfold bitOf
  rw [h]
  cases b <;> rfl

theorem two_pow_eq (n : Nat) : ((2 : Int) ^ n) = ((2 ^ n : Nat) : Int) := by simp

/-- An immediate that fits is read back from its field. -/
theorem sx_encI {n : Nat} {x : Int} (hn : 0 < n) (h : fits n x = true) : sx n (encI n x) = x := by
  obtain ⟨k, rfl⟩ : ∃ k, n = k + 1 := ⟨n - 1, by omega⟩
  have hp := Nat.pow_succ (n := 2) (m := k)
  simp only [fits, Bool.and_eq_true, decide_eq_true_eq, Nat.add_sub_cancel, two_pow_eq] at h
  simp only [sx, encI, Nat.add_sub_cancel, two_pow_eq]
  generalize 2 ^ (k + 1) = b at *
  generalize 2 ^ k = a at *
  subst hp
  by_cases hx : 0 ≤ x
  · rw [Int.emod_eq_of_lt hx (by omega)]
    split <;> omega
  · rw [← Int.add_emod_right, Int.emod_eq_of_lt (by omega) (by omega)]
    split <;> omega

/-- A field is what the encoder writes of the immediate read from it. -/
theorem encI_sx {n v : Nat} (h : v < 2 ^ n) : encI n (sx n v) = v := by
  have hv : ((v : Int) % ((2 ^ n : Nat) : Int)).toNat = v := by
    rw [Int.emod_eq_of_lt (by omega) (by omega), Int.toNat_natCast]
  simp only [sx, encI, two_pow_eq]
  split
  · exact hv
  · rw [Int.sub_emod_right]
    exact hv

/-- The low n bits of a wide field. -/
theorem encI_add_mod (n m : Nat) (x : Int) : encI (n + m) x % 2 ^ n = encI n x := by
  have hnn (k : Nat) : 0 ≤ x % ((2 : Int) ^ k) := Int.emod_nonneg _ (Int.pow_ne_zero (by decide))
  have hd : (2 : Int) ^ n ∣ 2 ^ (n + m) := ⟨2 ^ m, Int.pow_add ..⟩
  have hz : (((encI (n + m) x % 2 ^ n : Nat)) : Int) = (encI n x : Nat) := by
    rw [Int.natCast_emod, Int.natCast_pow, Int.cast_ofNat_Int, encI, encI, Int.toNat_of_nonneg (hnn _),
      Int.toNat_of_nonneg (hnn _), Int.emod_emod_of_dvd _ hd]
  exact Int.ofNat.inj hz

theorem sx_fits {n v : Nat} (hn : 0 < n) (h : v < 2 ^ n) : fits n (sx n v) = true := by
  obtain ⟨k, rfl⟩ : ∃ k, n = k + 1 := ⟨n - 1, by omega⟩
  have hp := Nat.pow_succ (n := 2) (m := k)
  simp only [fits, sx, Bool.and_eq_true, decide_eq_true_eq, Nat.add_sub_cancel, two_pow_eq]
  split <;> omega

/-! The parts of a word that every syllable has (R76, R79). -/

/-- What a syllable's word w and its loan l say beside its operands, whose bits stand at x. -/
structure Reads (l : Lend) (w : Nat) (p : Syl) (unit op x : Nat) : Prop where
  lt : l.lt < 6
  syl : sylOf l w = p
  unit_eq : fld w 28 3 = unit
  op_eq : fld w 21 7 = op
  opnds : w % 2 ^ 21 / 8 * 8 = x
  word : w < 2 ^ 32

theorem reads_sylWord {l : Lend} {p : Syl} {unit op x : Nat} (hl : l.lt = p.leaf.val) (hg : l.g3 = p.guard.val / 8)
    (hu : unit < 8) (ho : op < 128) (hx : x ≤ 2 ^ 21 - 8) (h8 : x % 8 = 0) :
    Reads l (sylWord p unit op x) p unit op x := by
  have hs := b2n_le p.stop
  refine ⟨by omega, ?_, ?_, ?_, ?_, sylWord_lt p hu ho hx⟩
  · have hb : bitOf (sylWord p unit op x) 31 = p.stop := bitOf_eq (by unfold sylWord; omega)
    have hgd : Fin.ofNat 16 (8 * l.g3 + sylWord p unit op x % 8) = p.guard :=
      Fin.ext (by simp only [Fin.ofNat, sylWord]; omega)
    have hlf : Fin.ofNat 6 l.lt = p.leaf := Fin.ext (by simp only [Fin.ofNat]; omega)
    simp only [sylOf, hb, hgd, hlf]
  all_goals simp only [fld, sylWord]; omega

theorem plain_iff {p : Syl} : p.plain = true ↔ p.guard.val < 8 ∧ p.leaf = 0 := by simp [Syl.plain]

/-- What a header lends a syllable of extension value e, no WIDE byte. -/
theorem lendOf_narrow (p : Syl) {e : Nat} (he : e < 16) :
    (lendOf p false e).lt = p.leaf.val ∧ (lendOf p false e).g3 = p.guard.val / 8 ∧ (lendOf p false e).e = e ∧
      (lendOf p false e).isWide = false := by
  simp only [lendOf, Bool.false_eq_true, if_false]
  split
  · next h =>
    simp only [Bool.and_eq_true, plain_iff, beq_iff_eq] at h
    obtain ⟨⟨hg, hl⟩, rfl⟩ := h
    exact ⟨by simp [Lend.lt, hl], by simp only [Lend.g3]; omega, rfl, rfl⟩
  · exact ⟨by simp only [Lend.lt]; omega, by simp only [Lend.g3]; omega, by simp only [Lend.e]; omega, rfl⟩

/-- Under a WIDE header stand syllables that need no LEAF header. -/
theorem lendOf_wide {p : Syl} (hp : p.plain = true) {e : Nat} (he : e < 256) :
    (lendOf p true e).lt = p.leaf.val ∧ (lendOf p true e).g3 = p.guard.val / 8 ∧ (lendOf p true e).e = e ∧
      (lendOf p true e).isWide = true := by
  obtain ⟨hg, hl⟩ := plain_iff.mp hp
  exact ⟨by simp [lendOf, Lend.lt, hl], by simp only [lendOf, if_true, Lend.g3]; omega,
    by simp only [lendOf, if_true, Lend.e]; omega, rfl⟩

/-- The word w of a syllable of extension value e. -/
structure ReadsE (l : Lend) (w : Nat) (p : Syl) (unit op x e : Nat) : Prop extends Reads l w p unit op x where
  ext : l.e = e
  narrow : l.isWide = false

theorem reads_encE (p : Syl) {unit op x e : Nat} (hu : unit < 8) (ho : op < 128) (hx : x ≤ 2 ^ 21 - 8) (h8 : x % 8 = 0)
    (he : e < 16) : ReadsE (encE p unit op x e).1 (encE p unit op x e).2 p unit op x e := by
  obtain ⟨hl, hg, hle, hn⟩ := lendOf_narrow p he
  exact ⟨reads_sylWord hl hg hu ho hx h8, hle, hn⟩

/-- The immediate of a syllable whose word holds it at bit 3, n bits wide, is read whole. -/
theorem reads_encImm (p : Syl) {unit op x n : Nat} {imm : Int} (hu : unit < 8) (ho : op < 128) (hn : 0 < n)
    (hx : x + 2 ^ n * 8 ≤ 2 ^ 21) (h8 : x % 8 = 0) (hi : immOk p n imm = true) :
    Reads (encImm p unit op x n imm).1 (encImm p unit op x n imm).2 p unit op (x + encI n imm * 8) ∧
      ∀ w, fld w 3 n = encI n imm → immField (encImm p unit op x n imm).1 w 3 n = some imm := by
  have hlt := encI_lt n imm
  have hword : (encImm p unit op x n imm).2 = sylWord p unit op (x + encI n imm * 8) := by
    simp only [encImm, encI_add_mod]
  rw [hword]
  cases hf : fits n imm with
  | true =>
    obtain ⟨hl, hg, hle, hnw⟩ := lendOf_narrow p (e := 0) (by omega)
    have hlend : (encImm p unit op x n imm).1 = lendOf p false 0 := by simp [encImm, hf]
    rw [hlend]
    refine ⟨reads_sylWord hl hg hu ho (by omega) (by omega), fun w hw => ?_⟩
    simp [immField, hnw, hle, hw, sx_encI hn hf]
  | false =>
    obtain ⟨hp, hf8⟩ : p.plain = true ∧ fits (n + 8) imm = true := by simpa [immOk, hf] using hi
    have he : encI (n + 8) imm / 2 ^ n < 256 := by
      have := encI_lt (n + 8) imm
      rw [Nat.pow_add] at this
      exact Nat.div_lt_of_lt_mul this
    obtain ⟨hl, hg, hle, hnw⟩ := lendOf_wide hp he
    have hlend : (encImm p unit op x n imm).1 = lendOf p true (encI (n + 8) imm / 2 ^ n) := by simp [encImm, hf]
    rw [hlend]
    refine ⟨reads_sylWord hl hg hu ho (by omega) (by omega), fun w hw => ?_⟩
    rw [immField, hnw, if_pos rfl, hle, hw, ← encI_add_mod n 8, Nat.div_add_mod', sx_encI (by omega) hf8]

/-- A field at bit 3 is the low bits of the immediate read from it, wide or not. -/
theorem encI_of_immField {l : Lend} {w n : Nat} {imm : Int} (h : immField l w 3 n = some imm) :
    encI (n + 8) imm % 2 ^ n = fld w 3 n := by
  have hf : fld w 3 n < 2 ^ n := Nat.mod_lt _ (Nat.two_pow_pos n)
  rw [encI_add_mod]
  unfold immField at h
  split at h
  · cases h
    have he : l.e < 256 := by cases l <;> simp only [Lend.e] <;> omega
    have hlt : l.e * 2 ^ n + fld w 3 n < 2 ^ (n + 8) := by
      rw [Nat.pow_add, Nat.mul_comm _ (2 ^ 8)]
      calc
        l.e * 2 ^ n + fld w 3 n < (l.e + 1) * 2 ^ n := by rw [Nat.succ_mul]; omega
        _ ≤ 2 ^ 8 * 2 ^ n := Nat.mul_le_mul_right _ he
    rw [← encI_add_mod n 8, encI_sx hlt, Nat.mul_add_mod_self_right, Nat.mod_eq_of_lt hf]
  · split at h
    · cases h
      exact encI_sx hf
    · cases h

/-- A word is its fields (R76). -/
theorem sylWord_sylOf {l : Lend} {w unit op : Nat} (hw : w < 2 ^ 32) (hu : fld w 28 3 = unit) (ho : fld w 21 7 = op) :
    sylWord (sylOf l w) unit op (w % 2 ^ 21 / 8 * 8) = w := by
  simp only [sylWord, sylOf, b2n_bitOf, Fin.ofNat]
  simp only [fld] at hu ho
  omega

/-! The formats. Each decodes what it encodes (`reads`), and gives back the operand bits of the word that it was decoded from
(`bits`). -/

/-- The instruction i is read from its loan and word. -/
def Reread (i : Instr) (x : Lend × Nat) : Prop := decodeSyl x.1 x.2 = .ok i ∧ x.2 < 2 ^ 32

/-- The encoder writes the operand bits of w for i. -/
def Writes (p : Syl) (unit op w : Nat) (i : Instr) : Prop :=
  isMicro i = false ∧ (encode i).map (·.2) = some (sylWord p unit op (w % 2 ^ 21 / 8 * 8))


theorem fin_eq {n : Nat} [NeZero n] {x : Nat} {f : Fin n} (h : x % n = f.val) : Fin.ofNat n x = f := Fin.ext h
theorem r3_eq {w lo : Nat} {f : Fin 8} (h : w / 2 ^ lo % 8 = f.val) : r3 w lo = f := fin_eq h
theorem r4_eq {w lo : Nat} {f : Fin 16} (h : w / 2 ^ lo % 16 = f.val) : r4 w lo = f := fin_eq h
theorem r5_eq {w lo : Nat} {f : Fin 32} (h : w / 2 ^ lo % 32 = f.val) : r5 w lo = f := fin_eq h
theorem r6_eq {w lo : Nat} {f : Fin 64} (h : w / 2 ^ lo % 64 = f.val) : r6 w lo = f := fin_eq h

/-! The four units: what the decoder answers for a word whose parts are known, and what it has read of a word it accepts. -/

section
variable {l : Lend} {w op x : Nat} {p : Syl} {i : Instr}

theorem accept_some (hw : wellFormed i = true) : accept (some i) = .ok i := by simp [accept, hw]
theorem accept_ok {o : Option Instr} (h : accept o = .ok i) : o = some i ∧ wellFormed i = true := by
  unfold accept at h
  split at h
  · split at h
    · next hw =>
      cases h
      exact ⟨rfl, hw⟩
    · cases h
  · cases h

theorem reread_X (h : Reads l w p 0 op x) (hd : decodeX l p op w = some i) (hw : wellFormed i = true) : Reread i (l, w) :=
  ⟨by simp only [decodeSyl, Nat.not_le.mpr h.lt, if_false, h.syl, h.unit_eq, h.op_eq, hd, accept_some hw], h.word⟩
theorem reread_V (h : Reads l w p 1 op x) (hd : decodeV l p (op / 8) (op % 8) w = some i) (hw : wellFormed i = true) :
    Reread i (l, w) :=
  ⟨by simp only [decodeSyl, Nat.not_le.mpr h.lt, if_false, h.syl, h.unit_eq, h.op_eq, hd, accept_some hw], h.word⟩
theorem reread_A (h : Reads l w p 2 op x) (hd : decodeA l p op w = some i) (hw : wellFormed i = true) : Reread i (l, w) :=
  ⟨by simp only [decodeSyl, Nat.not_le.mpr h.lt, if_false, h.syl, h.unit_eq, h.op_eq, hd, accept_some hw], h.word⟩
theorem reread_M (h : Reads l w p 3 op x) (hd : decodeM l p op w = some i) (hw : wellFormed i = true) : Reread i (l, w) :=
  ⟨by simp only [decodeSyl, Nat.not_le.mpr h.lt, if_false, h.syl, h.unit_eq, h.op_eq, hd, accept_some hw], h.word⟩
theorem reread_B (h : Reads l w p 4 op x) (h1 : (op == 1) = false) (hd : decodeB l p op w = some i)
    (hw : wellFormed i = true) : Reread i (l, w) :=
  ⟨by simp only [decodeSyl, Nat.not_le.mpr h.lt, if_false, h.syl, h.unit_eq, h.op_eq, h1, Bool.false_eq_true, hd,
    accept_some hw], h.word⟩

end

/-! The formats of the X unit (R83). -/

section
variable {l : Lend} {w op : Nat} {p : Syl}

theorem decXR_reads {o : XR} (h : ReadsE l w p 0 op (o.sd.val * 2 ^ 15 + o.sa.val * 2 ^ 9 + o.sb.val * 8)
    (b2n o.qs + 2 * b2n o.qd + 4 * b2n o.qb)) : decXR l w = some o := by
  obtain ⟨sd, sa, sb, qs, qd, qb⟩ := o
  have hx := h.opnds
  have he := h.ext
  have := b2n_le qs
  have := b2n_le qd
  have := b2n_le qb
  simp only at hx he
  rw [decXR, if_pos (by omega)]
  simp only [Option.some.injEq, XR.mk.injEq]
  exact ⟨r6_eq (by omega), r6_eq (by omega), r6_eq (by omega), bitOf_eq (by omega), bitOf_eq (by omega), bitOf_eq (by omega)⟩

theorem decXR_bits {o : XR} (h : decXR l w = some o) :
    o.sd.val * 2 ^ 15 + o.sa.val * 2 ^ 9 + o.sb.val * 8 = w % 2 ^ 21 / 8 * 8 := by
  unfold decXR at h
  split at h <;> cases h
  simp only [r6, Fin.ofNat]
  omega

theorem decXU_reads {o : XU} (h : ReadsE l w p 0 op (o.sd.val * 2 ^ 15 + o.sa.val * 2 ^ 9)
    (b2n o.qs + 2 * b2n o.qd)) : decXU l w = some o := by
  obtain ⟨sd, sa, qs, qd⟩ := o
  have hx := h.opnds
  have he := h.ext
  have := b2n_le qs
  have := b2n_le qd
  simp only at hx he
  rw [decXU, if_pos (by simp only [fld, Bool.and_eq_true, decide_eq_true_eq, beq_iff_eq]; omega)]
  simp only [Option.some.injEq, XU.mk.injEq]
  exact ⟨r6_eq (by omega), r6_eq (by omega), bitOf_eq (by omega), bitOf_eq (by omega)⟩

theorem decXU_bits {o : XU} (h : decXU l w = some o) :
    o.sd.val * 2 ^ 15 + o.sa.val * 2 ^ 9 = w % 2 ^ 21 / 8 * 8 := by
  unfold decXU at h
  split at h
  · next hc =>
    cases h
    simp only [fld, Bool.and_eq_true, decide_eq_true_eq, beq_iff_eq] at hc
    simp only [r6, Fin.ofNat]
    omega
  · cases h

theorem decXV_reads {o : XV} (h : ReadsE l w p 0 op (o.d.val * 2 ^ 15 + o.s.val * 2 ^ 9 + o.dc.val * 2 ^ 6 + o.sc.val * 8)
    (b2n o.qs + 2 * b2n o.qd)) : decXV l w = some o := by
  obtain ⟨d, s, dc, sc, qs, qd⟩ := o
  have hx := h.opnds
  have he := h.ext
  have := b2n_le qs
  have := b2n_le qd
  simp only at hx he
  rw [decXV, if_pos (by simp only [fld, Bool.and_eq_true, decide_eq_true_eq, beq_iff_eq]; omega)]
  simp only [Option.some.injEq, XV.mk.injEq]
  exact ⟨r6_eq (by omega), r6_eq (by omega), fin_eq (by omega), fin_eq (by omega), bitOf_eq (by omega), bitOf_eq (by omega)⟩

theorem decXV_bits {o : XV} (h : decXV l w = some o) :
    o.d.val * 2 ^ 15 + o.s.val * 2 ^ 9 + o.dc.val * 2 ^ 6 + o.sc.val * 8 = w % 2 ^ 21 / 8 * 8 := by
  unfold decXV at h
  split at h
  · next hc =>
    cases h
    simp only [fld, Bool.and_eq_true, decide_eq_true_eq, beq_iff_eq] at hc
    simp only [r6, Fin.ofNat]
    omega
  · cases h

theorem decXH_reads {o : XH} (h : ReadsE l w p 0 op (o.sd.val * 2 ^ 15 + o.sa.val * 2 ^ 9 + o.n.val * 8)
    (0)) : decXH l w = some o := by
  obtain ⟨sd, sa, n⟩ := o
  have hx := h.opnds
  have he := h.ext
  simp only at hx he
  rw [decXH, if_pos (by simp only [beq_iff_eq]; omega)]
  simp only [Option.some.injEq, XH.mk.injEq]
  exact ⟨r6_eq (by omega), r6_eq (by omega), r6_eq (by omega)⟩

theorem decXH_bits {o : XH} (h : decXH l w = some o) :
    o.sd.val * 2 ^ 15 + o.sa.val * 2 ^ 9 + o.n.val * 8 = w % 2 ^ 21 / 8 * 8 := by
  unfold decXH at h
  split at h
  · next hc =>
    cases h
    simp only [beq_iff_eq] at hc
    simp only [r6, Fin.ofNat]
    omega
  · cases h

theorem decXS_reads {o : XS} (hs : o.srn < 2 ^ 12) (h : ReadsE l w p 0 op (o.s.val * 2 ^ 15 + o.srn * 8) 0) :
    decXS l w = some o := by
  obtain ⟨s, srn⟩ := o
  have hx := h.opnds
  have he := h.ext
  simp only at hx he hs
  rw [decXS, if_pos (by simp only [beq_iff_eq]; omega)]
  simp only [Option.some.injEq, XS.mk.injEq]
  exact ⟨r6_eq (by omega), by simp only [fld]; omega⟩

theorem decXS_bits {o : XS} (h : decXS l w = some o) :
    o.s.val * 2 ^ 15 + o.srn * 8 = w % 2 ^ 21 / 8 * 8 := by
  unfold decXS at h
  split at h
  · next hc =>
    cases h
    simp only [beq_iff_eq] at hc
    simp only [fld, r6, Fin.ofNat]
    omega
  · cases h

theorem decXC_reads {o : XC} {op : Nat} (ho : op % 8 = o.cond.val) (h : ReadsE l w p 0 op
    (o.pd.val * 2 ^ 17 + o.sa.val * 2 ^ 11 + o.sb.val * 2 ^ 5 + o.pm.val * 8) 0) : decXC l op w = some o := by
  obtain ⟨cond, pd, sa, sb, pm⟩ := o
  have hx := h.opnds
  have he := h.ext
  simp only at hx he ho
  rw [decXC, if_pos (by simp only [fld, Bool.and_eq_true, beq_iff_eq, bne_iff_ne]; omega)]
  simp only [Option.some.injEq, XC.mk.injEq]
  exact ⟨fin_eq ho, r4_eq (by omega), r6_eq (by omega), r6_eq (by omega), fin_eq (by simp only [fld]; omega)⟩

theorem decXC_bits {o : XC} (h : decXC l op w = some o) :
    op % 8 = o.cond.val ∧ o.pd.val * 2 ^ 17 + o.sa.val * 2 ^ 11 + o.sb.val * 2 ^ 5 + o.pm.val * 8 = w % 2 ^ 21 / 8 * 8 := by
  unfold decXC at h
  split at h
  · next hc =>
    cases h
    simp only [fld, Bool.and_eq_true, beq_iff_eq, bne_iff_ne] at hc
    have h3 : w / 2 ^ 3 % 2 ^ 2 % 3 = w / 2 ^ 3 % 2 ^ 2 := Nat.mod_eq_of_lt (by omega)
    simp only [fld, r4, r6, Fin.ofNat, h3, true_and]
    omega
  · cases h

theorem decXL_reads {o : XL} (h : ReadsE l w p 0 op (o.d.val * 2 ^ 17 + o.a.val * 2 ^ 13 + o.b.val * 2 ^ 9 + o.fn.val * 2 ^ 5)
    (0)) : decXL l w = some o := by
  obtain ⟨d, a, b, fn⟩ := o
  have hx := h.opnds
  have he := h.ext
  simp only at hx he
  rw [decXL, if_pos (by simp only [fld, Bool.and_eq_true, beq_iff_eq]; omega)]
  simp only [Option.some.injEq, XL.mk.injEq]
  exact ⟨r4_eq (by omega), r4_eq (by omega), r4_eq (by omega), r4_eq (by omega)⟩

theorem decXL_bits {o : XL} (h : decXL l w = some o) :
    o.d.val * 2 ^ 17 + o.a.val * 2 ^ 13 + o.b.val * 2 ^ 9 + o.fn.val * 2 ^ 5 = w % 2 ^ 21 / 8 * 8 := by
  unfold decXL at h
  split at h
  · next hc =>
    cases h
    simp only [fld, Bool.and_eq_true, beq_iff_eq] at hc
    simp only [r4, Fin.ofNat]
    omega
  · cases h

theorem decXP_reads {o : XP} (h : ReadsE l w p 0 op (o.d.val * 2 ^ 17 + b2n o.v * 2 ^ 16)
    (0)) : decXP l w = some o := by
  obtain ⟨d, v⟩ := o
  have hx := h.opnds
  have he := h.ext
  have := b2n_le v
  simp only at hx he
  rw [decXP, if_pos (by simp only [fld, Bool.and_eq_true, beq_iff_eq]; omega)]
  simp only [Option.some.injEq, XP.mk.injEq]
  exact ⟨r4_eq (by omega), bitOf_eq (by omega)⟩

theorem decXP_bits {o : XP} (h : decXP l w = some o) :
    o.d.val * 2 ^ 17 + b2n o.v * 2 ^ 16 = w % 2 ^ 21 / 8 * 8 := by
  unfold decXP at h
  split at h
  · next hc =>
    cases h
    simp only [fld, Bool.and_eq_true, beq_iff_eq] at hc
    simp only [r4, Fin.ofNat, b2n_bitOf]
    omega
  · cases h

theorem decXQ_reads {o : XQ} (h : ReadsE l w p 0 op (o.sd.val * 2 ^ 15 + o.ka.val * 2 ^ 11)
    (0)) : decXQ l w = some o := by
  obtain ⟨sd, ka⟩ := o
  have hx := h.opnds
  have he := h.ext
  simp only at hx he
  rw [decXQ, if_pos (by simp only [fld, Bool.and_eq_true, beq_iff_eq]; omega)]
  simp only [Option.some.injEq, XQ.mk.injEq]
  exact ⟨r6_eq (by omega), r4_eq (by omega)⟩

theorem decXQ_bits {o : XQ} (h : decXQ l w = some o) :
    o.sd.val * 2 ^ 15 + o.ka.val * 2 ^ 11 = w % 2 ^ 21 / 8 * 8 := by
  unfold decXQ at h
  split at h
  · next hc =>
    cases h
    simp only [fld, Bool.and_eq_true, beq_iff_eq] at hc
    simp only [r4, r6, Fin.ofNat]
    omega
  · cases h

end

/-! The formats of the V unit (R84). -/

section
variable {l : Lend} {w op : Nat} {p : Syl}

theorem decVR_reads {o : VR} (h : ReadsE l w p 1 op (o.vd.val * 2 ^ 16 + o.va.val * 2 ^ 11 + o.vb.val * 2 ^ 6 + b2n o.qd * 32 +
    b2n o.qs * 16 + b2n o.md * 8)
    (o.km.val)) : decVR l w = some o := by
  obtain ⟨vd, va, vb, qd, qs, md, km⟩ := o
  have hx := h.opnds
  have he := h.ext
  have := b2n_le qd
  have := b2n_le qs
  have := b2n_le md
  simp only at hx he
  rw [decVR, if_pos (by omega)]
  simp only [Option.some.injEq, VR.mk.injEq]
  exact ⟨r5_eq (by omega), r5_eq (by omega), r5_eq (by omega), bitOf_eq (by omega), bitOf_eq (by omega), bitOf_eq (by omega), fin_eq (by omega)⟩

theorem decVR_bits {o : VR} (h : decVR l w = some o) :
    o.vd.val * 2 ^ 16 + o.va.val * 2 ^ 11 + o.vb.val * 2 ^ 6 + b2n o.qd * 32 +
    b2n o.qs * 16 + b2n o.md * 8 = w % 2 ^ 21 / 8 * 8 := by
  unfold decVR at h
  split at h <;> cases h
  simp only [r5, Fin.ofNat, b2n_bitOf]
  omega

/-- A number of three fields, the lower two of one bit, in its fields. -/
theorem div_of_bits {a b c : Nat} (hb : b < 2) (hc : c < 2) :
    (4 * a + 2 * b + c) / 4 = a ∧ (4 * a + 2 * b + c) / 2 % 2 = b ∧ (4 * a + 2 * b + c) % 2 = c := by omega

theorem decVK_reads {o : VK} (h : ReadsE l w p 1 op (o.cond.val / 4 * 2 ^ 20 + o.kd.val * 2 ^ 16 + o.va.val * 2 ^ 11 +
    o.vb.val * 2 ^ 6 + o.cond.val / 2 % 2 * 32 + b2n o.qs * 16 + o.cond.val % 2 * 8) (o.km.val)) : decVK l w = some o := by
  obtain ⟨cond, kd, va, vb, qs, km⟩ := o
  have hx := h.opnds
  have he := h.ext
  have hq := b2n_le qs
  have hcond : 4 * (cond.val / 4) + 2 * (cond.val / 2 % 2) + cond.val % 2 = cond.val := by omega
  have ha : cond.val / 4 < 2 := by omega
  have hb : cond.val / 2 % 2 < 2 := by omega
  have hc : cond.val % 2 < 2 := by omega
  simp only at hx he
  generalize cond.val / 4 = a, cond.val / 2 % 2 = b, cond.val % 2 = c at hx hcond ha hb hc
  have hfld : fld w 20 1 = a ∧ fld w 5 1 = b ∧ fld w 3 1 = c := by
    clear hcond
    simp only [fld]
    omega
  rw [decVK, if_pos (by omega)]
  simp only [Option.some.injEq, VK.mk.injEq, hfld]
  refine ⟨fin_eq (by omega), ?_⟩
  clear hcond hfld
  exact ⟨r4_eq (by omega), r5_eq (by omega), r5_eq (by omega), bitOf_eq (by omega), fin_eq (by omega)⟩

theorem decVK_bits {o : VK} (h : decVK l w = some o) :
    o.cond.val / 4 * 2 ^ 20 + o.kd.val * 2 ^ 16 + o.va.val * 2 ^ 11 + o.vb.val * 2 ^ 6 +
    o.cond.val / 2 % 2 * 32 + b2n o.qs * 16 + o.cond.val % 2 * 8 = w % 2 ^ 21 / 8 * 8 := by
  unfold decVK at h
  split at h <;> cases h
  obtain ⟨h4, h2, h1⟩ := div_of_bits (a := w / 2 ^ 20 % 2) (b := w / 2 ^ 5 % 2) (c := w / 2 ^ 3 % 2) (by omega) (by omega)
  have h8 := Nat.mod_eq_of_lt (show 4 * (w / 2 ^ 20 % 2) + 2 * (w / 2 ^ 5 % 2) + w / 2 ^ 3 % 2 < 8 by omega)
  simp only [fld, r4, r5, Fin.ofNat, b2n_bitOf, Nat.pow_one, h8, h4, h2, h1]
  clear h8 h4 h2 h1
  omega

theorem decVX_reads {o : VX} {vt : Nat} (ht : vt = o.tf.val / 4) (h : ReadsE l w p 1 op (o.vd.val * 2 ^ 16 +
    o.va.val * 2 ^ 11 + o.ff.val * 2 ^ 6 + o.tf.val / 2 % 2 * 32 + b2n o.qs * 16 + o.tf.val % 2 * 8) o.km.val) :
    decVX l vt w = some o := by
  obtain ⟨tf, ff, vd, va, qs, km⟩ := o
  have hx := h.opnds
  have he := h.ext
  have hq := b2n_le qs
  have htf : 4 * vt + 2 * (tf.val / 2 % 2) + tf.val % 2 = tf.val := by simp only at ht; omega
  have hb : tf.val / 2 % 2 < 2 := by omega
  have hc : tf.val % 2 < 2 := by omega
  clear ht
  simp only at hx he
  generalize tf.val / 2 % 2 = b, tf.val % 2 = c at hx htf hb hc
  have hfld : fld w 5 1 = b ∧ fld w 3 1 = c := by
    clear htf
    simp only [fld]
    omega
  rw [decVX, if_pos (by omega)]
  simp only [Option.some.injEq, VX.mk.injEq, hfld]
  refine ⟨fin_eq (by omega), ?_⟩
  clear htf hfld
  exact ⟨r5_eq (by omega), r5_eq (by omega), r5_eq (by omega), bitOf_eq (by omega), fin_eq (by omega)⟩

theorem decVX_bits {o : VX} {vt : Nat} (ht : vt < 8) (h : decVX l vt w = some o) :
    o.tf.val / 4 = vt ∧ o.vd.val * 2 ^ 16 + o.va.val * 2 ^ 11 + o.ff.val * 2 ^ 6 + o.tf.val / 2 % 2 * 32 +
    b2n o.qs * 16 + o.tf.val % 2 * 8 = w % 2 ^ 21 / 8 * 8 := by
  unfold decVX at h
  split at h <;> cases h
  obtain ⟨h4, h2, h1⟩ := div_of_bits (a := vt) (b := w / 2 ^ 5 % 2) (c := w / 2 ^ 3 % 2) (by omega) (by omega)
  have h32 := Nat.mod_eq_of_lt (show 4 * vt + 2 * (w / 2 ^ 5 % 2) + w / 2 ^ 3 % 2 < 32 by omega)
  simp only [fld, r5, Fin.ofNat, b2n_bitOf, Nat.pow_one, h32, h4, h2, h1, true_and]
  clear h32 h4 h2 h1
  omega

end

/-! The formats of the A unit (R85) without an immediate. -/

section
variable {l : Lend} {w op : Nat} {p : Syl}

theorem decAB_reads {o : AB} (h : ReadsE l w p 2 op (b2n o.m * 2 ^ 20 + o.base.val * 2 ^ 16 + o.sl.val * 2 ^ 10 + o.so.val * 2 ^ 4 + b2n o.u * 8)
    (0)) : decAB l w = some o := by
  obtain ⟨m, base, sl, so, u⟩ := o
  have hx := h.opnds
  have he := h.ext
  have := b2n_le m
  have := b2n_le u
  simp only at hx he
  rw [decAB, if_pos (by simp only [beq_iff_eq]; omega)]
  simp only [Option.some.injEq, AB.mk.injEq]
  exact ⟨bitOf_eq (by omega), r4_eq (by omega), r6_eq (by omega), r6_eq (by omega), bitOf_eq (by omega)⟩

theorem decAB_bits {o : AB} (h : decAB l w = some o) :
    b2n o.m * 2 ^ 20 + o.base.val * 2 ^ 16 + o.sl.val * 2 ^ 10 + o.so.val * 2 ^ 4 + b2n o.u * 8 = w % 2 ^ 21 / 8 * 8 := by
  unfold decAB at h
  split at h
  · next hc =>
    cases h
    simp only [beq_iff_eq] at hc
    simp only [r4, r6, Fin.ofNat, b2n_bitOf]
    omega
  · cases h

theorem decAP_reads {o : AP} (h : ReadsE l w p 2 op (2 ^ 20 + o.h.val * 2 ^ 16 + o.sx.val * 2 ^ 10 + o.sl.val * 2 ^ 4)
    (0)) : decAP l w = some o := by
  obtain ⟨h, sx, sl⟩ := o
  have hx := h.opnds
  have he := h.ext
  simp only at hx he
  rw [decAP, if_pos (by simp only [fld, bitOf, Bool.and_eq_true, beq_iff_eq]; omega)]
  simp only [Option.some.injEq, AP.mk.injEq]
  exact ⟨r4_eq (by omega), r6_eq (by omega), r6_eq (by omega)⟩

theorem decAP_bits {o : AP} (h : decAP l w = some o) :
    2 ^ 20 + o.h.val * 2 ^ 16 + o.sx.val * 2 ^ 10 + o.sl.val * 2 ^ 4 = w % 2 ^ 21 / 8 * 8 := by
  unfold decAP at h
  split at h
  · next hc =>
    cases h
    simp only [fld, bitOf, Bool.and_eq_true, beq_iff_eq] at hc
    simp only [r4, r6, Fin.ofNat]
    omega
  · cases h

theorem decAF_reads {o : AF} (h : ReadsE l w p 2 op (o.k.val * 2 ^ 19 + o.sc.val * 2 ^ 16)
    (0)) : decAF l w = some o := by
  obtain ⟨k, sc⟩ := o
  have hx := h.opnds
  have he := h.ext
  simp only at hx he
  rw [decAF, if_pos (by simp only [fld, Bool.and_eq_true, beq_iff_eq]; omega)]
  simp only [Option.some.injEq, AF.mk.injEq]
  exact ⟨fin_eq (by omega), r3_eq (by omega)⟩

theorem decAF_bits {o : AF} (h : decAF l w = some o) :
    o.k.val * 2 ^ 19 + o.sc.val * 2 ^ 16 = w % 2 ^ 21 / 8 * 8 := by
  unfold decAF at h
  split at h
  · next hc =>
    cases h
    simp only [fld, Bool.and_eq_true, beq_iff_eq] at hc
    simp only [r3, Fin.ofNat]
    omega
  · cases h

theorem decAH_reads {o : AH} (h : ReadsE l w p 2 op (o.h.val * 2 ^ 17 + o.sa.val * 2 ^ 11 + o.kr.val * 2 ^ 7)
    (0)) : decAH l w = some o := by
  obtain ⟨h, sa, kr⟩ := o
  have hx := h.opnds
  have he := h.ext
  simp only at hx he
  rw [decAH, if_pos (by simp only [fld, Bool.and_eq_true, beq_iff_eq]; omega)]
  simp only [Option.some.injEq, AH.mk.injEq]
  exact ⟨r4_eq (by omega), r6_eq (by omega), r4_eq (by omega)⟩

theorem decAH_bits {o : AH} (h : decAH l w = some o) :
    o.h.val * 2 ^ 17 + o.sa.val * 2 ^ 11 + o.kr.val * 2 ^ 7 = w % 2 ^ 21 / 8 * 8 := by
  unfold decAH at h
  split at h
  · next hc =>
    cases h
    simp only [fld, Bool.and_eq_true, beq_iff_eq] at hc
    simp only [r4, r6, Fin.ofNat]
    omega
  · cases h

end

/-! The shared formats of the M unit (R86). -/

section
variable {w : Nat}

theorem decMS_reads {o : MS} (hx : w % 2 ^ 21 / 8 * 8 = o.sa.val * 2 ^ 15 + o.sb.val * 2 ^ 9 + o.sc.val * 2 ^ 6) : decMS w = some o := by
  obtain ⟨sa, sb, sc⟩ := o
  simp only at hx
  rw [decMS, if_pos (by simp only [fld, beq_iff_eq]; omega)]
  simp only [Option.some.injEq, MS.mk.injEq]
  exact ⟨r6_eq (by omega), r6_eq (by omega), r3_eq (by omega)⟩

theorem decMS_bits {o : MS} (h : decMS w = some o) :
    o.sa.val * 2 ^ 15 + o.sb.val * 2 ^ 9 + o.sc.val * 2 ^ 6 = w % 2 ^ 21 / 8 * 8 := by
  unfold decMS at h
  split at h
  · next hc =>
    cases h
    simp only [fld, beq_iff_eq] at hc
    simp only [r3, r6, Fin.ofNat]
    omega
  · cases h

theorem decMP_reads {o : MP} (hx : w % 2 ^ 21 / 8 * 8 = o.va.val * 2 ^ 16 + o.sa.val * 2 ^ 10 + o.sb.val * 2 ^ 4) : decMP w = some o := by
  obtain ⟨va, sa, sb⟩ := o
  simp only at hx
  rw [decMP, if_pos (by simp only [fld, beq_iff_eq]; omega)]
  simp only [Option.some.injEq, MP.mk.injEq]
  exact ⟨r5_eq (by omega), r6_eq (by omega), r6_eq (by omega)⟩

theorem decMP_bits {o : MP} (h : decMP w = some o) :
    o.va.val * 2 ^ 16 + o.sa.val * 2 ^ 10 + o.sb.val * 2 ^ 4 = w % 2 ^ 21 / 8 * 8 := by
  unfold decMP at h
  split at h
  · next hc =>
    cases h
    simp only [fld, beq_iff_eq] at hc
    simp only [r5, r6, Fin.ofNat]
    omega
  · cases h

theorem decMN_reads {n : Fin 256} (hx : w % 2 ^ 21 / 8 * 8 = n.val * 2 ^ 13) : decMN w = some n := by
  rw [decMN, if_pos (by simp only [fld, beq_iff_eq]; omega)]
  exact congrArg some (fin_eq (by omega))

theorem decMN_bits {o : Fin 256} (h : decMN w = some o) :
    o.val * 2 ^ 13 = w % 2 ^ 21 / 8 * 8 := by
  unfold decMN at h
  split at h
  · next hc =>
    cases h
    simp only [fld, beq_iff_eq] at hc
    simp only [Fin.ofNat]
    omega
  · cases h

theorem decMN16_reads {n : Fin 16} (hx : w % 2 ^ 21 / 8 * 8 = n.val * 2 ^ 13) : decMN16 w = some n := by
  rw [decMN16, if_pos (by simp only [fld, Bool.and_eq_true, beq_iff_eq]; omega)]
  exact congrArg some (r4_eq (by omega))

theorem decMN16_bits {o : Fin 16} (h : decMN16 w = some o) :
    o.val * 2 ^ 13 = w % 2 ^ 21 / 8 * 8 := by
  unfold decMN16 at h
  split at h
  · next hc =>
    cases h
    simp only [fld, Bool.and_eq_true, beq_iff_eq] at hc
    simp only [r4, Fin.ofNat]
    omega
  · cases h

end

/-! The formats with an immediate, n bits wide in the word (R83, R85). -/

section
variable {l : Lend} {w op : Nat} {p : Syl}

theorem decXI_reads {o : XI} (hx : w % 2 ^ 21 / 8 * 8 = o.sd.val * 2 ^ 15 + o.sa.val * 2 ^ 9 + encI 6 o.imm * 8)
    (hi : ∀ w, fld w 3 6 = encI 6 o.imm → immField l w 3 6 = some o.imm) : decXI l w = some o := by
  obtain ⟨sd, sa, imm⟩ := o
  have hlt := encI_lt 6 imm
  simp only at hx hi
  rw [decXI, hi w (by simp only [fld]; omega)]
  simp only [Option.map_some, Option.some.injEq, XI.mk.injEq]
  exact ⟨r6_eq (by omega), r6_eq (by omega), trivial⟩

theorem decXI_bits {o : XI} (h : decXI l w = some o) :
    o.sd.val * 2 ^ 15 + o.sa.val * 2 ^ 9 + encI (6 + 8) o.imm % 2 ^ 6 * 8 = w % 2 ^ 21 / 8 * 8 := by
  obtain ⟨imm, hi, rfl⟩ := Option.map_eq_some_iff.mp h
  rw [encI_of_immField hi]
  simp only [fld, r6, Fin.ofNat]
  omega

theorem decXM_reads {o : XM} (hx : w % 2 ^ 21 / 8 * 8 = o.sd.val * 2 ^ 15 + encI 12 o.imm * 8)
    (hi : ∀ w, fld w 3 12 = encI 12 o.imm → immField l w 3 12 = some o.imm) : decXM l w = some o := by
  obtain ⟨sd, imm⟩ := o
  have hlt := encI_lt 12 imm
  simp only at hx hi
  rw [decXM, hi w (by simp only [fld]; omega)]
  simp only [Option.map_some, Option.some.injEq, XM.mk.injEq]
  exact ⟨r6_eq (by omega), trivial⟩

theorem decXM_bits {o : XM} (h : decXM l w = some o) :
    o.sd.val * 2 ^ 15 + encI (12 + 8) o.imm % 2 ^ 12 * 8 = w % 2 ^ 21 / 8 * 8 := by
  obtain ⟨imm, hi, rfl⟩ := Option.map_eq_some_iff.mp h
  rw [encI_of_immField hi]
  simp only [fld, r6, Fin.ofNat]
  omega

theorem decXK_reads {o : XK} (ho : op % 8 = o.cond.val) (hx : w % 2 ^ 21 / 8 * 8 = o.pd.val * 2 ^ 17 + o.sa.val * 2 ^ 11 + encI 8 o.imm * 8)
    (hi : ∀ w, fld w 3 8 = encI 8 o.imm → immField l w 3 8 = some o.imm) : decXK l op w = some o := by
  obtain ⟨cond, pd, sa, imm⟩ := o
  have hlt := encI_lt 8 imm
  simp only at hx hi ho
  rw [decXK, hi w (by simp only [fld]; omega)]
  simp only [Option.map_some, Option.some.injEq, XK.mk.injEq]
  exact ⟨fin_eq ho, r4_eq (by omega), r6_eq (by omega), trivial⟩

theorem decXK_bits {o : XK} (h : decXK l op w = some o) :
    op % 8 = o.cond.val ∧ o.pd.val * 2 ^ 17 + o.sa.val * 2 ^ 11 + encI (8 + 8) o.imm % 2 ^ 8 * 8 = w % 2 ^ 21 / 8 * 8 := by
  obtain ⟨imm, hi, rfl⟩ := Option.map_eq_some_iff.mp h
  rw [encI_of_immField hi]
  simp only [fld, r4, r6, Fin.ofNat, true_and]
  omega

theorem decAT_reads {o : AT} (hx : w % 2 ^ 21 / 8 * 8 = b2n o.m * 2 ^ 20 + o.base.val * 2 ^ 16 + o.sx.val * 2 ^ 10 + b2n o.t * 2 ^ 8 + encI 5 o.imm * 8)
    (hi : ∀ w, fld w 3 5 = encI 5 o.imm → immField l w 3 5 = some o.imm) : decAT l w = some o := by
  obtain ⟨m, base, sx, t, imm⟩ := o
  have hlt := encI_lt 5 imm
  have := b2n_le m
  have := b2n_le t
  simp only at hx hi
  rw [decAT, if_pos (by simp only [fld, beq_iff_eq]; omega), hi w (by simp only [fld]; omega)]
  simp only [Option.map_some, Option.some.injEq, AT.mk.injEq]
  exact ⟨bitOf_eq (by omega), r4_eq (by omega), r6_eq (by omega), bitOf_eq (by omega), trivial⟩

theorem decAT_bits {o : AT} (h : decAT l w = some o) :
    b2n o.m * 2 ^ 20 + o.base.val * 2 ^ 16 + o.sx.val * 2 ^ 10 + b2n o.t * 2 ^ 8 + encI (5 + 8) o.imm % 2 ^ 5 * 8 = w % 2 ^ 21 / 8 * 8 := by
  unfold decAT at h
  split at h
  · next hc =>
    obtain ⟨imm, hi, rfl⟩ := Option.map_eq_some_iff.mp h
    simp only [fld, beq_iff_eq] at hc
    rw [encI_of_immField hi]
    simp only [fld, r4, r6, Fin.ofNat, b2n_bitOf]
    omega
  · cases h

theorem decAY_reads {o : AY} (hx : w % 2 ^ 21 / 8 * 8 = b2n o.m * 2 ^ 20 + o.base.val * 2 ^ 16 + o.sx.val * 2 ^ 10 + o.sc.val * 2 ^ 7 + encI 4 o.imm * 8)
    (hi : ∀ w, fld w 3 4 = encI 4 o.imm → immField l w 3 4 = some o.imm) : decAY l w = some o := by
  obtain ⟨m, base, sx, sc, imm⟩ := o
  have hlt := encI_lt 4 imm
  have := b2n_le m
  simp only at hx hi
  rw [decAY, hi w (by simp only [fld]; omega)]
  simp only [Option.map_some, Option.some.injEq, AY.mk.injEq]
  exact ⟨bitOf_eq (by omega), r4_eq (by omega), r6_eq (by omega), r3_eq (by omega), trivial⟩

theorem decAY_bits {o : AY} (h : decAY l w = some o) :
    b2n o.m * 2 ^ 20 + o.base.val * 2 ^ 16 + o.sx.val * 2 ^ 10 + o.sc.val * 2 ^ 7 + encI (4 + 8) o.imm % 2 ^ 4 * 8 = w % 2 ^ 21 / 8 * 8 := by
  obtain ⟨imm, hi, rfl⟩ := Option.map_eq_some_iff.mp h
  rw [encI_of_immField hi]
  simp only [fld, r3, r4, r6, Fin.ofNat, b2n_bitOf]
  omega

theorem decAA_reads {o : AA} (hx : w % 2 ^ 21 / 8 * 8 = o.bd.val * 2 ^ 18 + o.sa.val * 2 ^ 12 + encI 9 o.imm * 8)
    (hi : ∀ w, fld w 3 9 = encI 9 o.imm → immField l w 3 9 = some o.imm) : decAA l w = some o := by
  obtain ⟨bd, sa, imm⟩ := o
  have hlt := encI_lt 9 imm
  simp only at hx hi
  rw [decAA, hi w (by simp only [fld]; omega)]
  simp only [Option.map_some, Option.some.injEq, AA.mk.injEq]
  exact ⟨r3_eq (by omega), r6_eq (by omega), trivial⟩

theorem decAA_bits {o : AA} (h : decAA l w = some o) :
    o.bd.val * 2 ^ 18 + o.sa.val * 2 ^ 12 + encI (9 + 8) o.imm % 2 ^ 9 * 8 = w % 2 ^ 21 / 8 * 8 := by
  obtain ⟨imm, hi, rfl⟩ := Option.map_eq_some_iff.mp h
  rw [encI_of_immField hi]
  simp only [fld, r3, r6, Fin.ofNat]
  omega

/-- R85: formats AM, AS and AG share their bits but for the index, whose field x stands at bit 10. -/
theorem decAM_reads {o : AM} {x : Nat} (hx : x % 2 ^ 10 = 0) (hx6 : x < 2 ^ 16)
    (h : w % 2 ^ 21 / 8 * 8 = o.fields x + encI 5 o.imm * 8)
    (hi : l.e = o.kr.val ∧ l.isWide = false ∧ fits 5 o.imm = true ∨
      o.kr = 0 ∧ ∀ w, fld w 3 5 = encI 5 o.imm → immField l w 3 5 = some o.imm) :
    decAM l w = some { o with sx := Fin.ofNat 64 (x / 2 ^ 10) } := by
  obtain ⟨m, base, sx, fe, imm, kr⟩ := o
  have hlt := encI_lt 5 imm
  have := b2n_le m
  simp only [AM.fields] at h hi
  have hm : bitOf w 20 = m := bitOf_eq (by omega)
  have hbase : r4 w 16 = base := r4_eq (by omega)
  have hsx : r6 w 10 = Fin.ofNat 64 (x / 2 ^ 10) := r6_eq (by simp only [Fin.ofNat]; omega)
  have hfe : Fin.ofNat 4 (w / 2 ^ 8) = fe := fin_eq (by omega)
  have hf : fld w 3 5 = encI 5 imm := by simp only [fld]; omega
  rcases hi with ⟨he, hn, hfit⟩ | ⟨hkr, hi⟩
  · have hkr : Fin.ofNat 16 kr.val = kr := fin_eq (by omega)
    simp only [decAM, hn, Bool.false_eq_true, if_false, he, kr.isLt, if_true, hm, hbase, hsx, hfe, hf, sx_encI (by omega) hfit,
      hkr]
  · have hw := hi w hf
    unfold immField at hw
    unfold decAM
    split at hw
    · next hwide =>
      simp only [hwide, if_true, Option.some.injEq] at hw ⊢
      simp only [hm, hbase, hsx, hfe, hkr]
      exact congrArg (AM.mk m base _ fe · 0) hw
    · next hwide =>
      split at hw
      · next he =>
        have he0 : l.e = 0 := by simpa using he
        simp only [Option.some.injEq] at hw
        simp only [hwide, he0, hm, hbase, hsx, hfe, hw, hkr]
        rfl
      · cases hw

theorem decAM_bits {o : AM} (h : decAM l w = some o) :
    o.fields (o.sx.val * 2 ^ 10) + encI 13 o.imm % 32 * 8 = w % 2 ^ 21 / 8 * 8 := by
  have hf : fld w 3 5 < 2 ^ 5 := Nat.mod_lt _ (by decide)
  have hfields (v : Int) (hv : encI 13 v % 32 = fld w 3 5) (kr : Fin 16) :
      (AM.mk (bitOf w 20) (r4 w 16) (r6 w 10) (Fin.ofNat 4 (w / 2 ^ 8)) v kr).fields ((r6 w 10).val * 2 ^ 10) +
        encI 13 v % 32 * 8 = w % 2 ^ 21 / 8 * 8 := by
    rw [hv]
    simp only [AM.fields, fld, r4, r6, Fin.ofNat, b2n_bitOf]
    omega
  unfold decAM at h
  split at h
  · cases h
    have he : l.e < 256 := by cases l <;> simp only [Lend.e] <;> omega
    exact hfields _ (by rw [encI_sx (by omega)]; omega) 0
  · split at h
    · cases h
      exact hfields _ (by rw [show 32 = 2 ^ 5 from rfl, encI_add_mod 5 8, encI_sx hf]) _
    · cases h

theorem decAG_bits {o : AM} (h : decAG l w = some o) :
    o.fields (o.sx.val * 2 ^ 11) + encI 13 o.imm % 32 * 8 = w % 2 ^ 21 / 8 * 8 := by
  unfold decAG at h
  split at h
  · next hc =>
    obtain ⟨a, ha, rfl⟩ := Option.map_eq_some_iff.mp h
    have hb := decAM_bits ha
    have hsx : a.sx = r6 w 10 := by
      unfold decAM at ha
      split at ha
      · cases ha; rfl
      · split at ha <;> cases ha
        rfl
    simp only [fld, beq_iff_eq] at hc
    have hw : w / 2 ^ 10 % 64 * 2 ^ 10 = w / 2 ^ 11 % 2 ^ 5 % 64 * 2 ^ 11 := by omega
    simp only [AM.fields, hsx, fld, r6, Fin.ofNat] at hb ⊢
    rw [← hw]
    exact hb
  · cases h

end

end Sys2Proof.Codec
end

section
/-!
PROOFS. The encodings, format by format: what is encoded is read again, and the encoder writes what was decoded.
-/
namespace Sys2Proof.Codec
open Sys2Proof.Laws Sys2Proof.Claims

/-! Instructions by their format: what is encoded is read again. -/

section
variable {p : Syl} {op : Nat}

theorem reread_XR (f : Syl → XR → Instr) (o : XR) (ho : op < 128) (hd : ∀ l w, decodeX l p op w = (decXR l w).map (f p))
    (hw : wellFormed (f p o) = true) : Reread (f p o) (o.enc p op) := by
  have := b2n_le o.qs
  have := b2n_le o.qd
  have := b2n_le o.qb
  have h := reads_encE p (unit := 0) (op := op) (e := b2n o.qs + 2 * b2n o.qd + 4 * b2n o.qb)
    (x := o.sd.val * 2 ^ 15 + o.sa.val * 2 ^ 9 + o.sb.val * 8) (by decide) ho (by omega) (by omega) (by omega)
  exact reread_X h.toReads ((hd _ _).trans (congrArg (Option.map (f p)) (decXR_reads h))) hw

theorem reread_XU (f : Syl → XU → Instr) (o : XU) (ho : op < 128) (hd : ∀ l w, decodeX l p op w = (decXU l w).map (f p))
    (hw : wellFormed (f p o) = true) : Reread (f p o) (o.enc p op) := by
  have := b2n_le o.qs
  have := b2n_le o.qd
  have h := reads_encE p (unit := 0) (op := op) (e := b2n o.qs + 2 * b2n o.qd)
    (x := o.sd.val * 2 ^ 15 + o.sa.val * 2 ^ 9) (by decide) ho (by omega) (by omega) (by omega)
  exact reread_X h.toReads ((hd _ _).trans (congrArg (Option.map (f p)) (decXU_reads h))) hw

theorem reread_XH (f : Syl → XH → Instr) (o : XH) (ho : op < 128) (hd : ∀ l w, decodeX l p op w = (decXH l w).map (f p))
    (hw : wellFormed (f p o) = true) : Reread (f p o) (o.enc p op) := by
  have h := reads_encE p (unit := 0) (op := op) (e := 0)
    (x := o.sd.val * 2 ^ 15 + o.sa.val * 2 ^ 9 + o.n.val * 8) (by decide) ho (by omega) (by omega) (by omega)
  exact reread_X h.toReads ((hd _ _).trans (congrArg (Option.map (f p)) (decXH_reads h))) hw

theorem reread_XS (f : Syl → XS → Instr) (o : XS) (ho : op < 128) (hd : ∀ l w, decodeX l p op w = (decXS l w).map (f p))
    (hs : srnAssigned o.srn = true) (hw : wellFormed (f p o) = true) : Reread (f p o) (o.enc p op) := by
  have hn : o.srn < 2 ^ 12 := by
    simp only [srnAssigned, Bool.or_eq_true, Bool.and_eq_true, decide_eq_true_eq] at hs
    omega
  have h := reads_encE p (unit := 0) (op := op) (e := 0) (x := o.s.val * 2 ^ 15 + o.srn * 8) (by decide) ho (by omega)
    (by omega) (by omega)
  exact reread_X h.toReads ((hd _ _).trans (congrArg (Option.map (f p)) (decXS_reads hn h))) hw

theorem reread_XL (f : Syl → XL → Instr) (o : XL) (ho : op < 128) (hd : ∀ l w, decodeX l p op w = (decXL l w).map (f p))
    (hw : wellFormed (f p o) = true) : Reread (f p o) (o.enc p op) := by
  have h := reads_encE p (unit := 0) (op := op) (e := 0)
    (x := o.d.val * 2 ^ 17 + o.a.val * 2 ^ 13 + o.b.val * 2 ^ 9 + o.fn.val * 2 ^ 5) (by decide) ho (by omega) (by omega)
    (by omega)
  exact reread_X h.toReads ((hd _ _).trans (congrArg (Option.map (f p)) (decXL_reads h))) hw

theorem reread_XQ (f : Syl → XQ → Instr) (o : XQ) (ho : op < 128) (hd : ∀ l w, decodeX l p op w = (decXQ l w).map (f p))
    (hw : wellFormed (f p o) = true) : Reread (f p o) (o.enc p op) := by
  have h := reads_encE p (unit := 0) (op := op) (e := 0) (x := o.sd.val * 2 ^ 15 + o.ka.val * 2 ^ 11) (by decide) ho
    (by omega) (by omega) (by omega)
  exact reread_X h.toReads ((hd _ _).trans (congrArg (Option.map (f p)) (decXQ_reads h))) hw

theorem reread_VR (f : Syl → VR → Instr) (o : VR) (ho : op < 128)
    (hd : ∀ l w, decodeV l p (op / 8) (op % 8) w = (decVR l w).map (f p)) (hw : wellFormed (f p o) = true) :
    Reread (f p o) (o.enc p op) := by
  have := b2n_le o.qs
  have := b2n_le o.qd
  have := b2n_le o.md
  have h := reads_encE p (unit := 1) (op := op) (e := o.km.val)
    (x := o.vd.val * 2 ^ 16 + o.va.val * 2 ^ 11 + o.vb.val * 2 ^ 6 + b2n o.qd * 32 + b2n o.qs * 16 + b2n o.md * 8)
    (by decide) ho (by omega) (by omega) (by omega)
  exact reread_V h.toReads ((hd _ _).trans (congrArg (Option.map (f p)) (decVR_reads h))) hw

/-- A V group that has every type: its decoder with a type and operands. -/
theorem vty_map (f : Syl → VTy → VR → Instr) (l : Lend) (w : Nat) (t : VTy) :
    (do let t ← vtyOf t.idx; let o ← decVR l w; pure (f p t o)) = (decVR l w).map (f p t) := by
  cases t <;> exact (Option.map_eq_bind ..).symm

/-- The immediate forms' common part. -/
theorem reread_of_imm {unit n x : Nat} {imm : Int} {i : Instr} (hu : unit < 8) (ho : op < 128) (hn : 0 < n)
    (hx : x + 2 ^ n * 8 ≤ 2 ^ 21) (h8 : x % 8 = 0) (hi : immOk p n imm = true)
    (hd : ∀ l w, Reads l w p unit op (x + encI n imm * 8) →
      (∀ w, fld w 3 n = encI n imm → immField l w 3 n = some imm) → Reread i (l, w)) :
    Reread i (encImm p unit op x n imm) := by
  obtain ⟨hr, hf⟩ := reads_encImm p (op := op) hu ho hn hx h8 hi
  exact hd _ _ hr hf

theorem reread_AT (f : Syl → AT → Instr) (o : AT) (ho : op < 128) (hd : ∀ l w, decodeA l p op w = (decAT l w).map (f p))
    (hok : o.ok p = true) (hw : wellFormed (f p o) = true) : Reread (f p o) (o.enc p op) := by
  have := b2n_le o.m
  have := b2n_le o.t
  have hi : immOk p 5 o.imm = true := (Bool.and_eq_true_iff.mp hok).2
  exact reread_of_imm (by decide) ho (by decide) (by omega) (by omega) hi fun l w hr hf =>
    reread_A hr ((hd _ _).trans (congrArg (Option.map (f p)) (decAT_reads hr.opnds hf))) hw

theorem reread_AY (f : Syl → AY → Instr) (o : AY) (ho : op < 128) (hd : ∀ l w, decodeA l p op w = (decAY l w).map (f p))
    (hok : o.ok p = true) (hw : wellFormed (f p o) = true) : Reread (f p o) (o.enc p op) := by
  have := b2n_le o.m
  have hi : immOk p 4 o.imm = true := (Bool.and_eq_true_iff.mp hok).2
  exact reread_of_imm (by decide) ho (by decide) (by omega) (by omega) hi fun l w hr hf =>
    reread_A hr ((hd _ _).trans (congrArg (Option.map (f p)) (decAY_reads hr.opnds hf))) hw

theorem reread_AA (f : Syl → AA → Instr) (o : AA) (ho : op < 128) (hd : ∀ l w, decodeA l p op w = (decAA l w).map (f p))
    (hi : immOk p 9 o.imm = true) (hw : wellFormed (f p o) = true) : Reread (f p o) (o.enc p op) :=
  reread_of_imm (by decide) ho (by decide) (by omega) (by omega) hi fun l w hr hf =>
    reread_A hr ((hd _ _).trans (congrArg (Option.map (f p)) (decAA_reads hr.opnds hf))) hw

theorem reread_AP (f : Syl → AP → Instr) (o : AP) (ho : op < 128) (hd : ∀ l w, decodeA l p op w = (decAP l w).map (f p))
    (hw : wellFormed (f p o) = true) : Reread (f p o) (o.enc p op) := by
  have h := reads_encE p (unit := 2) (op := op) (e := 0)
    (x := 2 ^ 20 + o.h.val * 2 ^ 16 + o.sx.val * 2 ^ 10 + o.sl.val * 2 ^ 4) (by decide) ho (by omega) (by omega) (by omega)
  exact reread_A h.toReads ((hd _ _).trans (congrArg (Option.map (f p)) (decAP_reads h))) hw

theorem reread_AF (f : Syl → AF → Instr) (o : AF) (ho : op < 128) (hd : ∀ l w, decodeA l p op w = (decAF l w).map (f p))
    (hw : wellFormed (f p o) = true) : Reread (f p o) (o.enc p op) := by
  have h := reads_encE p (unit := 2) (op := op) (e := 0) (x := o.k.val * 2 ^ 19 + o.sc.val * 2 ^ 16) (by decide) ho
    (by omega) (by omega) (by omega)
  exact reread_A h.toReads ((hd _ _).trans (congrArg (Option.map (f p)) (decAF_reads h))) hw

theorem reread_AH (f : Syl → AH → Instr) (o : AH) (ho : op < 128) (hd : ∀ l w, decodeA l p op w = (decAH l w).map (f p))
    (hw : wellFormed (f p o) = true) : Reread (f p o) (o.enc p op) := by
  have h := reads_encE p (unit := 2) (op := op) (e := 0)
    (x := o.h.val * 2 ^ 17 + o.sa.val * 2 ^ 11 + o.kr.val * 2 ^ 7) (by decide) ho (by omega) (by omega) (by omega)
  exact reread_A h.toReads ((hd _ _).trans (congrArg (Option.map (f p)) (decAH_reads h))) hw

/-- What the immediate of an A form and its residency mask must meet (R85). -/
def immOkA (p : Syl) (o : AM) : Prop := if o.kr = 0 then immOk p 5 o.imm = true else fits 5 o.imm = true

theorem immOkA_of_load {o : AM} (h : o.okLoad p = true) : immOkA p o := by
  unfold AM.okLoad at h
  unfold immOkA
  split at h <;> simp_all

theorem immOkA_of_store {o : AM} (h : o.okStore p = true) : immOkA p o := by
  unfold AM.okStore at h
  unfold immOkA
  simp_all

/-- R85: an A form's word, its index field x at bit 10, is read as the form with the index that stands there. -/
theorem decAM_encAt {o : AM} {x : Nat} (ho : op < 128) (hx : x % 2 ^ 10 = 0) (hx6 : x < 2 ^ 16) (hi : immOkA p o) :
    ∃ y, Reads (o.encAt p op x).1 (o.encAt p op x).2 p 2 op y ∧ y / 2 ^ 10 % 2 = x / 2 ^ 10 % 2 ∧
      y / 2 ^ 11 % 32 = x / 2 ^ 11 % 32 ∧
      decAM (o.encAt p op x).1 (o.encAt p op x).2 = some { o with sx := Fin.ofNat 64 (x / 2 ^ 10) } := by
  have hm := b2n_le o.m
  have hlt := encI_lt 5 o.imm
  have hfb : (o.fields x + encI 5 o.imm * 8) / 2 ^ 10 % 2 = x / 2 ^ 10 % 2 ∧
      (o.fields x + encI 5 o.imm * 8) / 2 ^ 11 % 32 = x / 2 ^ 11 % 32 ∧ o.fields x % 8 = 0 ∧
      o.fields x + encI 5 o.imm * 8 ≤ 2 ^ 21 - 8 ∧ o.fields x + 2 ^ 5 * 8 ≤ 2 ^ 21 := by
    simp only [AM.fields]
    omega
  obtain ⟨h10, h11, h8, hb, hb'⟩ := hfb
  refine ⟨o.fields x + encI 5 o.imm * 8, ?_, h10, h11, ?_⟩ <;> unfold immOkA at hi <;> unfold AM.encAt <;> split at hi
  · next hk =>
    rw [if_pos (by simpa using hk)]
    exact (reads_encImm p (by decide) ho (by decide) hb' h8 hi).1
  · next hk =>
    rw [if_neg (by simpa using hk), show (32 : Nat) = 2 ^ 5 from rfl, encI_add_mod 5 8]
    exact (reads_encE p (by decide) ho hb (by omega) o.kr.isLt).toReads
  · next hk =>
    rw [if_pos (by simpa using hk)]
    obtain ⟨hr, hf⟩ := reads_encImm p (unit := 2) (op := op) (by decide) ho (by decide) hb' h8 hi
    exact decAM_reads hx hx6 hr.opnds (.inr ⟨hk, hf⟩)
  · next hk =>
    rw [if_neg (by simpa using hk), show (32 : Nat) = 2 ^ 5 from rfl, encI_add_mod 5 8]
    have hr := reads_encE p (unit := 2) (op := op) (by decide) ho hb (by omega) o.kr.isLt
    exact decAM_reads hx hx6 hr.opnds (.inl ⟨hr.ext, hr.narrow, hi⟩)

theorem reread_AM (f : Syl → AM → Instr) (o : AM) (ho : op < 128) (hd : ∀ l w, decodeA l p op w = (decAM l w).map (f p))
    (hi : immOkA p o) (hw : wellFormed (f p o) = true) : Reread (f p o) (o.enc p op) := by
  obtain ⟨y, hr, -, -, hdec⟩ := decAM_encAt (x := o.sx.val * 2 ^ 10) ho (by omega) (by omega) hi
  have hsx : Fin.ofNat 64 (o.sx.val * 2 ^ 10 / 2 ^ 10) = o.sx := fin_eq (by omega)
  rw [hsx] at hdec
  exact reread_A hr ((hd _ _).trans (congrArg (Option.map (f p)) hdec)) hw

theorem reread_AG (f : Syl → AM → Instr) (o : AM) (ho : op < 128) (hd : ∀ l w, decodeA l p op w = (decAG l w).map (f p))
    (hi : immOkA p o) (hx : o.sx.val < 32) (hw : wellFormed (f p o) = true) : Reread (f p o) (o.encG p op) := by
  obtain ⟨y, hr, h10, h11, hdec⟩ := decAM_encAt (x := o.sx.val * 2 ^ 11) ho (by omega) (by omega) hi
  have hy := hr.opnds
  have hag : decAG (o.encG p op).1 (o.encG p op).2 = some o := by
    unfold decAG AM.encG
    rw [if_pos (by simp only [fld, beq_iff_eq]; omega), hdec]
    have hsx : Fin.ofNat 64 (fld (o.encAt p op (o.sx.val * 2 ^ 11)).2 11 5) = o.sx := fin_eq (by simp only [fld]; omega)
    simp only [Option.map_some, hsx]
  exact reread_A hr ((hd _ _).trans (congrArg (Option.map (f p)) hag)) hw

/-- All formats of the M unit take E = 0 (R92). -/
theorem decodeM_of_e {l : Lend} (he : l.e = 0) (w : Nat) : decodeM l p op w = decodeM .none p op w := by
  unfold decodeM
  rw [he]
  rfl

theorem reread_of_M {x : Nat} {i : Instr} (ho : op < 128) (hx : x ≤ 2 ^ 21 - 8) (h8 : x % 8 = 0)
    (hd : ∀ w, w % 2 ^ 21 / 8 * 8 = x → decodeM .none p op w = some i) (hw : wellFormed i = true) :
    Reread i (encE p 3 op x 0) := by
  have h := reads_encE p (unit := 3) (e := 0) (by decide) ho hx h8 (by decide)
  exact reread_M h.toReads ((decodeM_of_e h.ext _).trans (hd _ h.opnds)) hw

theorem reread_MS (f : Syl → MS → Instr) (o : MS) (ho : op < 128) (hd : ∀ w, decodeM .none p op w = (decMS w).map (f p))
    (hw : wellFormed (f p o) = true) : Reread (f p o) (o.enc p op) :=
  reread_of_M ho (by omega) (by omega) (fun w hx => (hd w).trans (congrArg (Option.map (f p)) (decMS_reads hx))) hw

theorem reread_MP (f : Syl → MP → Instr) (o : MP) (ho : op < 128) (hd : ∀ w, decodeM .none p op w = (decMP w).map (f p))
    (hw : wellFormed (f p o) = true) : Reread (f p o) (o.enc p op) :=
  reread_of_M ho (by omega) (by omega) (fun w hx => (hd w).trans (congrArg (Option.map (f p)) (decMP_reads hx))) hw

theorem reread_MN16 (f : Syl → Fin 16 → Instr) (n : Fin 16) (ho : op < 128)
    (hd : ∀ w, decodeM .none p op w = (decMN16 w).map (f p)) (hw : wellFormed (f p n) = true) :
    Reread (f p n) (encE p 3 op (n.val * 2 ^ 13) 0) :=
  reread_of_M ho (by omega) (by omega) (fun w hx => (hd w).trans (congrArg (Option.map (f p)) (decMN16_reads hx))) hw

/-- A form of the B unit with E = 0. -/
theorem reread_of_B {x : Nat} {i : Instr} (ho : op < 128) (h1 : (op == 1) = false) (hx : x ≤ 2 ^ 21 - 8) (h8 : x % 8 = 0)
    (hd : ∀ l w, l.e = 0 → w % 2 ^ 21 / 8 * 8 = x → decodeB l p op w = some i) (hw : wellFormed i = true) :
    Reread i (encE p 4 op x 0) := by
  have h := reads_encE p (unit := 4) (e := 0) (by decide) ho hx h8 (by decide)
  exact reread_B h.toReads h1 (hd _ _ h.ext h.opnds) hw

end

/-! Instructions by their format: the encoder writes what was decoded. -/

section
variable {l : Lend} {p : Syl} {op w : Nat} {i : Instr}

/-- An instruction whose encoding holds the operand bits of w. -/
theorem writes_of {unit op' x : Nat} {a : Lend} (hm : isMicro i = false) (he : encode i = some (a, sylWord p unit op' x))
    (ho : op' = op) (hx : x = w % 2 ^ 21 / 8 * 8) : Writes p unit op w i := ⟨hm, by rw [he, ho, hx]; rfl⟩

/-- What is decoded by a format writes its bits, where the format's operands do. -/
theorem writes_map {α : Type} {unit op' : Nat} {d : Option α} {f : α → Instr} {fields : α → Nat} (h : d.map f = some i)
    (hm : ∀ o, isMicro (f o) = false) (he : ∀ o, ∃ a, encode (f o) = some (a, sylWord p unit op' (fields o)))
    (ho : op' = op) (hb : ∀ o, d = some o → fields o = w % 2 ^ 21 / 8 * 8) : Writes p unit op w i := by
  obtain ⟨o, hd, rfl⟩ := Option.map_eq_some_iff.mp h
  obtain ⟨a, ha⟩ := he o
  exact writes_of (hm o) ha ho (hb o hd)

/-- An A form's word, whichever loan its immediate and mask need. -/
theorem encAt_word (o : AM) (x : Nat) : ∃ a, o.encAt p op x = (a, sylWord p 2 op (o.fields x + encI 13 o.imm % 32 * 8)) := by
  unfold AM.encAt
  split
  · exact ⟨_, rfl⟩
  · exact ⟨_, rfl⟩

end

end Sys2Proof.Codec
end

section
/-!
PROOFS. The unit maps (R88 to R93): what a unit's map decodes, the encoder writes.
-/
namespace Sys2Proof.Codec
open Sys2Proof.Laws Sys2Proof.Claims

/-! The unit maps, from word to instruction (R88 to R93). -/

section
variable {l : Lend} {p : Syl} {op w : Nat} {i : Instr}

theorem decodeX_writes (h : decodeX l p op w = some i) : Writes p 0 op w i := by
  unfold decodeX at h
  split at h
  all_goals first
    | exact writes_map h (fun _ => rfl) (fun _ => ⟨_, rfl⟩) rfl fun _ => decXR_bits
    | exact writes_map h (fun _ => rfl) (fun _ => ⟨_, rfl⟩) rfl fun _ => decXU_bits
    | exact writes_map h (fun _ => rfl) (fun _ => ⟨_, rfl⟩) rfl fun _ => decXV_bits
    | exact writes_map h (fun _ => rfl) (fun _ => ⟨_, rfl⟩) rfl fun _ => decXH_bits
    | exact writes_map h (fun _ => rfl) (fun _ => ⟨_, rfl⟩) rfl fun _ => decXS_bits
    | exact writes_map h (fun _ => rfl) (fun _ => ⟨_, rfl⟩) rfl fun _ => decXL_bits
    | exact writes_map h (fun _ => rfl) (fun _ => ⟨_, rfl⟩) rfl fun _ => decXP_bits
    | exact writes_map h (fun _ => rfl) (fun _ => ⟨_, rfl⟩) rfl fun _ => decXQ_bits
    | exact writes_map h (fun _ => rfl) (fun _ => ⟨_, rfl⟩) rfl fun _ => decXI_bits
    | exact writes_map h (fun _ => rfl) (fun _ => ⟨_, rfl⟩) rfl fun _ => decXM_bits
    | skip
  split at h
  · next h5 =>
    obtain ⟨o, ho, rfl⟩ := Option.map_eq_some_iff.mp h
    obtain ⟨hc, hb⟩ := decXC_bits ho
    have h5 := beq_iff_eq.mp h5
    exact writes_of rfl rfl (show 0x28 + o.cond.val = op by omega) hb
  · split at h
    · next h6 =>
      obtain ⟨o, ho, rfl⟩ := Option.map_eq_some_iff.mp h
      obtain ⟨hc, hb⟩ := decXK_bits ho
      have h6 := beq_iff_eq.mp h6
      exact writes_of rfl rfl (show 0x30 + o.cond.val = op by omega) hb
    · split at h
      · next h4 =>
        have h4 := beq_iff_eq.mp h4
        exact writes_map h (fun _ => rfl) (fun _ => ⟨_, rfl⟩) (show 0x40 + op % 16 = op by omega) fun _ => decXR_bits
      · cases h

theorem vtyOf_idx {vt : Nat} {t : VTy} (h : vtyOf vt = some t) : t.idx = vt := by
  unfold vtyOf at h
  split at h <;> cases h <;> rfl

/-- A group of the V unit that has every type. -/
theorem writes_vty {f : VTy → VR → Instr} {vt op0 : Nat} (h : (do let t ← vtyOf vt; let o ← decVR l w; pure (f t o)) = some i)
    (hm : ∀ t o, isMicro (f t o) = false) (he : ∀ t o, encode (f t o) = some (o.enc p (op0 + t.idx))) (ho : op0 + vt = op) :
    Writes p 1 op w i := by
  obtain ⟨t, ht, h⟩ := Option.bind_eq_some_iff.mp h
  obtain ⟨o, hd, h⟩ := Option.bind_eq_some_iff.mp h
  cases h
  exact writes_of (hm t o) (he t o) (by rw [vtyOf_idx ht, ho]) (decVR_bits hd)

theorem eq_seven {n : Nat} (h : n < 8) (h0 : n ≠ 0) (h1 : n ≠ 1) (h2 : n ≠ 2) (h3 : n ≠ 3) (h4 : n ≠ 4) (h5 : n ≠ 5)
    (h6 : n ≠ 6) : n = 7 := by omega

theorem decodeV_writes {vg vt : Nat} (hvt : vt < 8) (h : decodeV l p vg vt w = some i) : Writes p 1 (8 * vg + vt) w i := by
  unfold decodeV at h
  split at h
  any_goals exact writes_vty h (fun _ _ => rfl) (fun _ _ => rfl) rfl
  · obtain ⟨t, ht, h⟩ := Option.bind_eq_some_iff.mp h
    obtain ⟨o, hd, h⟩ := Option.bind_eq_some_iff.mp h
    cases h
    exact writes_of rfl rfl (by rw [vtyOf_idx ht]) (decVK_bits hd)
  · split at h
    any_goals exact writes_map h (fun _ => rfl) (fun _ => ⟨_, rfl⟩) rfl fun _ => decVR_bits
    next h0 h1 h2 h3 h4 h5 h6 =>
      exact writes_map h (fun _ => rfl) (fun _ => ⟨_, rfl⟩) (show 0x47 = 8 * 8 + vt by rw [eq_seven hvt h0 h1 h2 h3 h4 h5 h6]) fun _ => decVR_bits
  · split at h
    any_goals exact writes_map h (fun _ => rfl) (fun _ => ⟨_, rfl⟩) rfl fun _ => decVR_bits
    next h0 h1 h2 h3 h4 h5 h6 =>
      exact writes_map h (fun _ => rfl) (fun _ => ⟨_, rfl⟩) (show 0x4F = 8 * 9 + vt by rw [eq_seven hvt h0 h1 h2 h3 h4 h5 h6]) fun _ => decVR_bits
  · obtain ⟨o, hd, rfl⟩ := Option.map_eq_some_iff.mp h
    obtain ⟨ht, hb⟩ := decVX_bits hvt hd
    exact writes_of rfl rfl (show 0x50 + o.tf.val / 4 = 8 * 10 + vt by omega) hb
  · split at h
    any_goals exact writes_map h (fun _ => rfl) (fun _ => ⟨_, rfl⟩) rfl fun _ => decVR_bits
    cases h
  · split at h
    any_goals exact writes_map h (fun _ => rfl) (fun _ => ⟨_, rfl⟩) rfl fun _ => decVR_bits
    next h0 h1 h2 h3 h4 h5 h6 =>
      exact writes_map h (fun _ => rfl) (fun _ => ⟨_, rfl⟩) (show 0x67 = 8 * 12 + vt by rw [eq_seven hvt h0 h1 h2 h3 h4 h5 h6]) fun _ => decVR_bits
  · exact writes_map h (fun _ => rfl) (fun _ => ⟨_, rfl⟩) (show 0x78 + vt % 8 = 8 * 15 + vt by omega) fun _ => decVR_bits
  · cases h

/-- Formats AM and AS, and AG. -/
theorem writes_AM {f : AM → Instr} {op' : Nat} (h : (decAM l w).map f = some i) (hm : ∀ o, isMicro (f o) = false)
    (he : ∀ o, encode (f o) = some (o.enc p op')) (ho : op' = op) : Writes p 2 op w i :=
  writes_map h hm (fun o => (encAt_word o _).imp fun _ ha => (he o).trans (congrArg some ha)) ho fun _ => decAM_bits
theorem writes_AG {f : AM → Instr} {op' : Nat} (h : (decAG l w).map f = some i) (hm : ∀ o, isMicro (f o) = false)
    (he : ∀ o, encode (f o) = some (o.encG p op')) (ho : op' = op) : Writes p 2 op w i :=
  writes_map h hm (fun o => (encAt_word o _).imp fun _ ha => (he o).trans (congrArg some ha)) ho fun _ => decAG_bits

theorem decodeA_writes (h : decodeA l p op w = some i) : Writes p 2 op w i := by
  unfold decodeA at h
  split at h
  all_goals first
    | exact writes_map h (fun _ => rfl) (fun _ => ⟨_, rfl⟩) rfl fun _ => decAB_bits
    | exact writes_map h (fun _ => rfl) (fun _ => ⟨_, rfl⟩) rfl fun _ => decAF_bits
    | exact writes_map h (fun _ => rfl) (fun _ => ⟨_, rfl⟩) rfl fun _ => decAA_bits
    | exact writes_map h (fun _ => rfl) (fun _ => ⟨_, rfl⟩) rfl fun _ => decAH_bits
    | exact writes_map h (fun _ => rfl) (fun _ => ⟨_, rfl⟩) rfl fun _ => decAT_bits
    | exact writes_map h (fun _ => rfl) (fun _ => ⟨_, rfl⟩) rfl fun _ => decAY_bits
    | exact writes_map h (fun _ => rfl) (fun _ => ⟨_, rfl⟩) rfl fun _ => decAP_bits
    | exact writes_AM h (fun _ => rfl) (fun _ => rfl) rfl
    | skip
  · cases h
  · simp only [beq_iff_eq] at h
    split at h
    · exact writes_AM h (fun _ => rfl) (fun _ => rfl) (show op % 7 = op by omega)
    split at h
    · exact writes_AM h (fun _ => rfl) (fun _ => rfl) (show 0x08 + op % 4 = op by omega)
    split at h
    · exact writes_AM h (fun _ => rfl) (fun _ => rfl) (show 0x10 + op % 4 = op by omega)
    split at h
    · exact writes_AM h (fun _ => rfl) (fun _ => rfl) (show 0x14 + op % 4 = op by omega)
    split at h
    · exact writes_AG h (fun _ => rfl) (fun _ => rfl) (show 0x18 + op % 4 = op by omega)
    split at h
    · exact writes_AM h (fun _ => rfl) (fun _ => rfl) (show 0x1C + op % 4 = op by omega)
    split at h
    · exact writes_AM h (fun _ => rfl) (fun _ => rfl) (show 0x20 + op % 4 = op by omega)
    split at h
    · exact writes_AG h (fun _ => rfl) (fun _ => rfl) (show 0x24 + op % 4 = op by omega)
    split at h
    · split at h
      · exact writes_map h (fun _ => rfl) (fun _ => ⟨_, rfl⟩) (show 0x30 + op % 16 % 11 = op by omega) fun _ => decAT_bits
      · exact writes_map h (fun _ => rfl) (fun _ => ⟨_, rfl⟩) (show 0x40 + op % 16 % 11 = op by omega) fun _ => decAT_bits
      · exact writes_map h (fun _ => rfl) (fun _ => ⟨_, rfl⟩) (show 0x50 + op % 16 % 11 = op by omega) fun _ => decAT_bits
      · exact writes_map h (fun _ => rfl) (fun _ => ⟨_, rfl⟩) (show 0x60 + op % 16 % 11 = op by omega) fun _ => decAT_bits
      · cases h
    · cases h

/-- An instruction decoded where a condition on the word holds. -/
theorem writes_ite {c : Prop} [Decidable c] {unit op' x : Nat} {a : Lend} {j : Instr} (h : (if c then some j else none) = some i)
    (hm : isMicro j = false) (he : encode j = some (a, sylWord p unit op' x)) (ho : op' = op)
    (hx : c → x = w % 2 ^ 21 / 8 * 8) : Writes p unit op w i := by
  split at h
  · next hc =>
    cases h
    exact writes_of hm he ho (hx hc)
  · cases h

theorem decodeM_writes (h : decodeM l p op w = some i) : Writes p 3 op w i := by
  unfold decodeM at h
  split at h
  · cases h
  split at h
  all_goals first
    | exact writes_map h (fun _ => rfl) (fun _ => ⟨_, rfl⟩) rfl fun _ => decMS_bits
    | exact writes_map h (fun _ => rfl) (fun _ => ⟨_, rfl⟩) rfl fun _ => decMN16_bits
    | exact writes_map h (fun _ => rfl) (fun _ => ⟨_, rfl⟩) rfl fun _ => decMN_bits
    | skip
  any_goals
    refine writes_ite h rfl rfl rfl fun hc => ?_
    simp only [fld, Bool.and_eq_true, beq_iff_eq, bne_iff_ne] at hc
    simp only [fld, r3, r4, r5, r6, Fin.ofNat, b2n_bitOf]
    omega
  · exact writes_ite h rfl rfl rfl fun hc => by
      simp only [fld, beq_iff_eq] at hc
      omega
  · cases h
    refine writes_of rfl rfl rfl ?_
    simp only [fld, r6, Fin.ofNat]
    omega
  · simp only [Bool.and_eq_true, beq_iff_eq, decide_eq_true_eq] at h
    split at h
    · exact writes_map h (fun _ => rfl) (fun _ => ⟨_, rfl⟩) (show 0x08 + op % 8 % 6 = op by omega) fun _ => decMP_bits
    split at h
    · exact writes_map h (fun _ => rfl) (fun _ => ⟨_, rfl⟩) (show 0x10 + op % 8 % 6 = op by omega) fun _ => decMP_bits
    split at h
    · exact writes_map h (fun _ => rfl) (fun _ => ⟨_, rfl⟩) (show 0x18 + op % 8 % 6 = op by omega) fun _ => decMP_bits
    · cases h

/-- A form with E = 0 and no operands. -/
theorem writes_bare {op' : Nat} {j : Instr} (h : (if l.e == 0 && fld w 3 18 == 0 then some j else none) = some i)
    (hm : isMicro j = false) (he : encode j = some (encE p 4 op' 0 0)) (ho : op' = op) : Writes p 4 op w i :=
  writes_ite h hm he ho fun hc => by
    simp only [fld, Bool.and_eq_true, beq_iff_eq] at hc
    omega

theorem decodeB_writes (h : decodeB l p op w = some i) : Writes p 4 op w i := by
  unfold decodeB at h
  dsimp only at h
  split at h
  any_goals exact writes_bare h rfl rfl rfl
  any_goals
    refine writes_ite h rfl rfl rfl fun hc => ?_
    simp only [fld, Bool.and_eq_true, beq_iff_eq] at hc
    simp only [fld, r3, r6, Fin.ofNat]
    omega
  · exact writes_map h (fun _ => rfl) (fun _ => ⟨_, rfl⟩) rfl fun off ho => by
      rw [encI_of_immField ho]
      simp only [fld, r4, Fin.ofNat, b2n_bitOf]
      omega
  · refine writes_ite h rfl rfl rfl fun _ => ?_
    rw [encI_sx (show fld w 3 18 < 2 ^ 18 from Nat.mod_lt _ (by decide))]
    simp only [fld]
    omega
  · exact writes_map h (fun _ => rfl) (fun _ => ⟨_, rfl⟩) rfl fun off ho => by
      rw [encI_of_immField ho]
      simp only [fld, r6, Fin.ofNat]
      omega
  · refine writes_ite h rfl rfl rfl fun _ => ?_
    rw [encI_sx (show fld w 3 18 < 2 ^ 18 from Nat.mod_lt _ (by decide))]
    simp only [fld]
    omega
  · cases h

theorem decodeBRT_writes (h : decodeBRT l p w = .ok i) : Writes p 4 1 w i := by
  unfold decodeBRT at h
  split at h
  · split at h
    · next h0 =>
      cases h
      refine writes_of rfl rfl rfl ?_
      simp only [fld, beq_iff_eq] at h0
      simp only [r4, Fin.ofNat]
      omega
    · cases h
  all_goals cases h

end

end Sys2Proof.Codec
end

section
/-!
PROOFS. The encodings of the instructions whose format no other shares.
-/
namespace Sys2Proof.Codec
open Sys2Proof.Laws Sys2Proof.Claims

/-- What the decoder answers for an instruction's word: THAW and DISCARD are FREEZE's (R93). -/
def decoded : Instr → Instr
  | .thaw p o => .freeze p o
  | .discard p o => .freeze p o
  | i => i

/-- The encoding of i, where it has one, is read as what the decoder makes of i. -/
def Rereads (i : Instr) : Prop := ∀ x, encode i = some x → Reread (decoded i) x

theorem rereads_of {i : Instr} {x : Lend × Nat} (he : encode i = some x) (h : Reread (decoded i) x) : Rereads i :=
  fun _ hy => Option.some.inj (he.symm.trans hy) ▸ h

/-! The forms that no other instruction shares. -/

section
variable (p : Syl)

theorem reread_mov (o : XV) (hw : wellFormed (.mov p o) = true) : Rereads (.mov p o) := by
  have := b2n_le o.qs
  have := b2n_le o.qd
  have h := reads_encE p (unit := 0) (op := 0x1B) (e := b2n o.qs + 2 * b2n o.qd)
    (x := o.d.val * 2 ^ 15 + o.s.val * 2 ^ 9 + o.dc.val * 2 ^ 6 + o.sc.val * 8) (by decide) (by decide) (by omega)
    (by omega) (by omega)
  exact rereads_of rfl (reread_X h.toReads (congrArg (Option.map (Instr.mov p)) (decXV_reads h)) hw)

theorem reread_addi (o : XI) (hw : wellFormed (.addi p o) = true) : Rereads (.addi p o) :=
  rereads_of rfl (reread_of_imm (by decide) (by decide) (by decide) (by omega) (by omega) hw fun _ _ hr hf =>
    reread_X hr (congrArg (Option.map (Instr.addi p)) (decXI_reads hr.opnds hf)) hw)

theorem reread_movi (o : XM) (hw : wellFormed (.movi p o) = true) : Rereads (.movi p o) :=
  rereads_of rfl (reread_of_imm (by decide) (by decide) (by decide) (by omega) (by omega) hw fun _ _ hr hf =>
    reread_X hr (congrArg (Option.map (Instr.movi p)) (decXM_reads hr.opnds hf)) hw)

theorem decodeX_sel (p : Syl) (l : Lend) (n : Fin 16) (w : Nat) :
    decodeX l p (0x40 + n.val) w = (decXR l w).map (.sel p n) := by
  match n with
  | 0 | 1 | 2 | 3 | 4 | 5 | 6 | 7 | 8 | 9 | 10 | 11 | 12 | 13 | 14 | 15 => rfl
  | ⟨_ + 16, hn⟩ => omega
theorem decodeX_cmp (l : Lend) (c : Fin 8) (w : Nat) :
    decodeX l p (0x28 + c.val) w = (decXC l (0x28 + c.val) w).map (.cmp p) := by
  match c with | 0 | 1 | 2 | 3 | 4 | 5 | 6 | 7 => rfl
theorem decodeX_cmpi (l : Lend) (c : Fin 8) (w : Nat) :
    decodeX l p (0x30 + c.val) w = (decXK l (0x30 + c.val) w).map (.cmpi p) := by
  match c with | 0 | 1 | 2 | 3 | 4 | 5 | 6 | 7 => rfl

theorem reread_cmp (o : XC) (hw : wellFormed (.cmp p o) = true) : Rereads (.cmp p o) := by
  have h := reads_encE p (unit := 0) (op := 0x28 + o.cond.val) (e := 0)
    (x := o.pd.val * 2 ^ 17 + o.sa.val * 2 ^ 11 + o.sb.val * 2 ^ 5 + o.pm.val * 8) (by decide) (by omega) (by omega)
    (by omega) (by omega)
  exact rereads_of rfl (reread_X h.toReads
    ((decodeX_cmp ..).trans (congrArg (Option.map (Instr.cmp p)) (decXC_reads (by omega) h))) hw)

theorem reread_cmpi (o : XK) (hw : wellFormed (.cmpi p o) = true) : Rereads (.cmpi p o) :=
  rereads_of rfl (reread_of_imm (by decide) (by omega) (by decide) (by omega) (by omega) hw fun _ _ hr hf =>
    reread_X hr ((decodeX_cmpi ..).trans (congrArg (Option.map (Instr.cmpi p)) (decXK_reads (by omega) hr.opnds hf))) hw)

theorem reread_pset (o : XP) (hw : wellFormed (.pset p o) = true) : Rereads (.pset p o) := by
  have := b2n_le o.v
  have h := reads_encE p (unit := 0) (op := 0x39) (e := 0) (x := o.d.val * 2 ^ 17 + b2n o.v * 2 ^ 16) (by decide)
    (by decide) (by omega) (by omega) (by omega)
  exact rereads_of rfl (reread_X h.toReads (congrArg (Option.map (Instr.pset p)) (decXP_reads h)) hw)

/-- Groups of the V unit with every type. -/
theorem decodeV_vty (f : Syl → VTy → VR → Instr) (k : Nat)
    (hd : ∀ l vt w, decodeV l p k vt w = do let t ← vtyOf vt; let o ← decVR l w; pure (f p t o)) (t : VTy) (l : Lend) (w : Nat) :
    decodeV l p ((8 * k + t.idx) / 8) ((8 * k + t.idx) % 8) w = (decVR l w).map (f p t) := by
  have ht := vtyIdx_lt t
  rw [show (8 * k + t.idx) / 8 = k by omega, show (8 * k + t.idx) % 8 = t.idx by omega, hd, vty_map]

theorem reread_vty (f : Syl → VTy → VR → Instr) (k : Nat) (hk : k < 16)
    (hd : ∀ l vt w, decodeV l p k vt w = do let t ← vtyOf vt; let o ← decVR l w; pure (f p t o)) (t : VTy) (o : VR)
    (hw : wellFormed (f p t o) = true) : Reread (f p t o) (o.enc p (8 * k + t.idx)) := by
  have ht := vtyIdx_lt t
  exact reread_VR (f · t ·) o (by omega) (decodeV_vty p f k hd t) hw

theorem reread_vcmp (t : VTy) (o : VK) (hw : wellFormed (.vcmp p t o) = true) : Rereads (.vcmp p t o) := by
  have := b2n_le o.qs
  have ht := vtyIdx_lt t
  have h := reads_encE p (unit := 1) (op := 0x38 + t.idx) (e := o.km.val) (x := o.cond.val / 4 * 2 ^ 20 + o.kd.val * 2 ^ 16 +
    o.va.val * 2 ^ 11 + o.vb.val * 2 ^ 6 + o.cond.val / 2 % 2 * 32 + b2n o.qs * 16 + o.cond.val % 2 * 8) (by decide) (by omega)
    (by omega) (by omega) (by omega)
  refine rereads_of rfl (reread_V h.toReads ?_ hw)
  have hd := congrArg (Option.map (Instr.vcmp p t)) (decVK_reads h)
  cases t <;> exact (Option.map_eq_bind ..).symm.trans hd

theorem reread_vabs (t : VTy) (o : VR) (hw : wellFormed (.vabs p t o) = true) : Rereads (.vabs p t o) := by
  refine rereads_of rfl (reread_VR (.vabs · t ·) o (vabsOp_lt t) (fun _ _ => ?_) hw)
  cases t
  case ui32 | ui16 => simp [wellFormed] at hw
  all_goals rfl

theorem reread_vscale (t : VTy) (o : VR) (hw : wellFormed (.vscale p t o) = true) : Rereads (.vscale p t o) := by
  refine rereads_of rfl (reread_VR (.vscale · t ·) o (vscaleOp_lt t) (fun _ _ => ?_) hw)
  cases t
  case f32 | f16 | bf16 => rfl
  all_goals simp [wellFormed, VTy.isFloat] at hw

theorem reread_vcvt (o : VX) (hw : wellFormed (.vcvt p o) = true) : Rereads (.vcvt p o) := by
  have := b2n_le o.qs
  have h := reads_encE p (unit := 1) (op := 0x50 + o.tf.val / 4) (e := o.km.val) (x := o.vd.val * 2 ^ 16 + o.va.val * 2 ^ 11 +
    o.ff.val * 2 ^ 6 + o.tf.val / 2 % 2 * 32 + b2n o.qs * 16 + o.tf.val % 2 * 8) (by decide) (by omega) (by omega) (by omega)
    (by omega)
  have hd := congrArg (Option.map (Instr.vcvt p)) (decVX_reads rfl h)
  refine rereads_of rfl (reread_V h.toReads ?_ hw)
  rw [show (0x50 + o.tf.val / 4) / 8 = 10 by omega, show (0x50 + o.tf.val / 4) % 8 = o.tf.val / 4 by omega]
  exact hd

theorem reread_vdot (src : Fin 8) (o : VR) (hw : wellFormed (.vdot p src o) = true) : Rereads (.vdot p src o) :=
  rereads_of rfl (reread_VR (fun p => .vdot p src) o (by omega)
    (fun _ _ => by match src with | 0 | 1 | 2 | 3 | 4 | 5 | 6 | 7 => rfl) hw)

theorem reread_bind (o : AB) (hw : wellFormed (.bind p o) = true) : Rereads (.bind p o) := by
  have := b2n_le o.m
  have := b2n_le o.u
  have h := reads_encE p (unit := 2) (op := 0x0C) (e := 0) (x := b2n o.m * 2 ^ 20 + o.base.val * 2 ^ 16 + o.sl.val * 2 ^ 10 +
    o.so.val * 2 ^ 4 + b2n o.u * 8) (by decide) (by decide) (by omega) (by omega) (by omega)
  exact rereads_of rfl (reread_A h.toReads (congrArg (Option.map (Instr.bind p)) (decAB_reads h)) hw)

theorem reread_brc (o : BC) (hw : wellFormed (.brc p o) = true) : Rereads (.brc p o) := by
  have := b2n_le o.v
  refine rereads_of rfl (reread_of_imm (by decide) (by decide) (by decide) (by omega) (by omega) hw fun l w hr hf =>
    reread_B hr rfl ?_ hw)
  have hx := hr.opnds
  have hlt := encI_lt 13 o.off
  have hpc : r4 w 17 = o.pc := r4_eq (by omega)
  have hv : bitOf w 16 = o.v := bitOf_eq (by omega)
  exact (congrArg (Option.map _) (hf w (by simp only [fld]; omega))).trans (by rw [hpc, hv]; rfl)

theorem reread_call (sd : Fin 64) (off : Int) (hw : wellFormed (.call p sd off) = true) : Rereads (.call p sd off) := by
  refine rereads_of rfl (reread_of_imm (by decide) (by decide) (by decide) (by omega) (by omega) hw fun l w hr hf =>
    reread_B hr rfl ?_ hw)
  have hx := hr.opnds
  have hlt := encI_lt 12 off
  have hsd : r6 w 15 = sd := r6_eq (by omega)
  exact (congrArg (Option.map _) (hf w (by simp only [fld]; omega))).trans (by rw [hsd]; rfl)

/-- Jumps by an 18-bit number of bundles. -/
theorem reread_off18 {op : Nat} (f : Syl → Int → Instr) (off : Int) (ho : op < 128) (h1 : (op == 1) = false)
    (hd : ∀ l w, decodeB l p op w = if l.e == 0 then some (f p (sx 18 (fld w 3 18))) else none)
    (hf : fits 18 off = true) (hw : wellFormed (f p off) = true) : Reread (f p off) (encE p 4 op (encI 18 off * 8) 0) := by
  have hlt := encI_lt 18 off
  refine reread_of_B ho h1 (by omega) (by omega) (fun l w he hx => ?_) hw
  have hfld : fld w 3 18 = encI 18 off := by simp only [fld]; omega
  rw [hd, he, hfld, sx_encI (by decide) hf]
  rfl

/-- A form with E = 0 and no operands. -/
theorem reread_bare {op : Nat} (f : Syl → Instr) (ho : op < 128) (h1 : (op == 1) = false)
    (hd : ∀ l w, decodeB l p op w = if l.e == 0 && fld w 3 18 == 0 then some (f p) else none) (hw : wellFormed (f p) = true) :
    Reread (f p) (encE p 4 op 0 0) := by
  refine reread_of_B ho h1 (by decide) (by decide) (fun l w he hx => ?_) hw
  rw [hd, if_pos (by simp only [fld, he]; simp; omega)]

/-- A form with E = 0 and a scalar register. -/
theorem reread_reg {op : Nat} (f : Syl → Fin 64 → Instr) (sa : Fin 64) (ho : op < 128) (h1 : (op == 1) = false)
    (hd : ∀ l w, decodeB l p op w = if l.e == 0 && fld w 3 12 == 0 then some (f p (r6 w 15)) else none)
    (hw : wellFormed (f p sa) = true) : Reread (f p sa) (encE p 4 op (sa.val * 2 ^ 15) 0) := by
  refine reread_of_B ho h1 (by omega) (by omega) (fun l w he hx => ?_) hw
  rw [hd, if_pos (by simp only [fld, he]; simp; omega), r6_eq (f := sa) (by omega)]

theorem reread_lset (sa : Fin 64) (sm : Fin 8) (hw : wellFormed (.lset p sa sm) = true) : Rereads (.lset p sa sm) := by
  refine rereads_of rfl (reread_of_B (by decide) rfl (by omega) (by omega) (fun l w he hx => ?_) hw)
  have hsa : r6 w 15 = sa := r6_eq (by omega)
  have hsm : r3 w 3 = sm := r3_eq (by omega)
  simp only [decodeB]
  rw [if_pos (by simp only [fld, he]; simp; omega), hsa, hsm]
  rfl

theorem reread_trap (code : Fin 256) (hw : wellFormed (.trap p code) = true) : Rereads (.trap p code) := by
  refine rereads_of rfl (reread_of_B (by decide) rfl (by omega) (by omega) (fun l w he hx => ?_) hw)
  have hc : Fin.ofNat 256 (w / 2 ^ 13) = code := fin_eq (by omega)
  simp only [decodeB]
  rw [if_pos (by simp only [fld, he]; simp; omega), hc]
  rfl

/-- R80: a BRT under its TREE header, which lends no guard bit and no tag. -/
theorem reread_brt (o : BT) (hw : wellFormed (.brt p o) = true) : Rereads (.brt p o) := by
  obtain ⟨hg, hl⟩ := plain_iff.mp (Bool.and_eq_true_iff.mp hw).1
  have h := reads_sylWord (l := .tree o.shape o.l0 o.l1 o.l2 o.l3) (p := p) (unit := 4) (op := 1)
    (x := o.t0.val * 2 ^ 17 + o.t1.val * 2 ^ 13 + o.t2.val * 2 ^ 9 + o.t3.val * 2 ^ 5) (by rw [hl]; rfl)
    (show 0 = _ by omega) (by decide) (by decide) (by omega) (by omega)
  refine rereads_of rfl ⟨?_, h.word⟩
  have hx := h.opnds
  have hb : decodeBRT (.tree o.shape o.l0 o.l1 o.l2 o.l3) p (sylWord p 4 1
      (o.t0.val * 2 ^ 17 + o.t1.val * 2 ^ 13 + o.t2.val * 2 ^ 9 + o.t3.val * 2 ^ 5)) = .ok (.brt p o) := by
    simp only [decodeBRT]
    rw [if_pos (by simp only [fld, beq_iff_eq]; omega), r4_eq (f := o.t0) (by omega), r4_eq (f := o.t1) (by omega),
      r4_eq (f := o.t2) (by omega), r4_eq (f := o.t3) (by omega)]
  simp only [decodeSyl, Nat.not_le.mpr h.lt, if_false, h.syl, h.unit_eq, h.op_eq, beq_self_eq_true, if_true, hb,
    accept_some hw, decoded]

/-! The M unit's own formats. -/

theorem ite_reads {c : Bool} {i j : Instr} (hc : c = true) (hj : j = i) : (if c then some j else none) = some i := by
  rw [if_pos hc, hj]

theorem reread_cpy (va : Fin 32) (ch : Fin 4) (hw : wellFormed (.cpy p va ch) = true) : Rereads (.cpy p va ch) :=
  rereads_of rfl (reread_of_M (by decide) (by omega) (by omega) (fun w hx => by
    exact ite_reads (c := fld w 3 11 == 0) (j := .cpy p (r5 w 16) (Fin.ofNat 4 (w / 2 ^ 14)))
      (by simp only [fld, beq_iff_eq]; omega)
      (by rw [r5_eq (f := va) (by omega), fin_eq (f := ch) (by omega)]; rfl)) hw)

theorem reread_cpyq (va : Fin 32) (sa : Fin 64) (hw : wellFormed (.cpyq p va sa) = true) : Rereads (.cpyq p va sa) :=
  rereads_of rfl (reread_of_M (by decide) (by omega) (by omega) (fun w hx => by
    exact ite_reads (c := fld w 3 7 == 0) (j := .cpyq p (r5 w 16) (r6 w 10))
      (by simp only [fld, beq_iff_eq]; omega)
      (by rw [r5_eq (f := va) (by omega), r6_eq (f := sa) (by omega)]; rfl)) hw)

theorem reread_lnch (va : Fin 32) (sa : Fin 64) (hw : wellFormed (.lnch p va sa) = true) : Rereads (.lnch p va sa) :=
  rereads_of rfl (reread_of_M (by decide) (by omega) (by omega) (fun w hx => by
    exact ite_reads (c := fld w 3 7 == 0) (j := .lnch p (r5 w 16) (r6 w 10))
      (by simp only [fld, beq_iff_eq]; omega)
      (by rw [r5_eq (f := va) (by omega), r6_eq (f := sa) (by omega)]; rfl)) hw)

theorem reread_drain (chs : Fin 8) (hw : wellFormed (.drain p chs) = true) : Rereads (.drain p chs) :=
  rereads_of rfl (reread_of_M (by decide) (by omega) (by omega) (fun w hx => by
    exact ite_reads (c := fld w 3 15 == 0) (j := .drain p (r3 w 18))
      (by simp only [fld, beq_iff_eq]; omega)
      (by rw [r3_eq (f := chs) (by omega)]; rfl)) hw)

theorem reread_sdef (sid : Fin 16) (hw : wellFormed (.sdef p sid) = true) : Rereads (.sdef p sid) :=
  rereads_of rfl (reread_of_M (by decide) (by omega) (by omega) (fun w hx => by
    exact ite_reads (c := fld w 3 14 == 0) (j := .sdef p (r4 w 17))
      (by simp only [fld, beq_iff_eq]; omega)
      (by rw [r4_eq (f := sid) (by omega)]; rfl)) hw)

theorem reread_srel (sid : Fin 16) (hw : wellFormed (.srel p sid) = true) : Rereads (.srel p sid) :=
  rereads_of rfl (reread_of_M (by decide) (by omega) (by omega) (fun w hx => by
    exact ite_reads (c := fld w 3 14 == 0) (j := .srel p (r4 w 17))
      (by simp only [fld, beq_iff_eq]; omega)
      (by rw [r4_eq (f := sid) (by omega)]; rfl)) hw)

theorem reread_ssub (o : MU) (hw : wellFormed (.ssub p o) = true) : Rereads (.ssub p o) :=
  rereads_of rfl (reread_of_M (by decide) (by omega) (by omega) (fun w hx => by
    exact ite_reads (c := fld w 3 6 == 0 && fld w 15 2 != 3) (j := .ssub p { sid := r4 w 17, pt := Fin.ofNat 3 (fld w 15 2), sa := r6 w 9 })
      (by simp only [fld, Bool.and_eq_true, beq_iff_eq, bne_iff_ne]; omega)
      (by rw [r4_eq (f := o.sid) (by omega), fin_eq (f := o.pt) (by simp only [fld]; omega), r6_eq (f := o.sa) (by omega)]; rfl)) hw)

theorem reread_sfeed (o : MF) (hw : wellFormed (.sfeed p o) = true) : Rereads (.sfeed p o) :=
  rereads_of rfl (reread_of_M (by decide) (by omega) (by omega) (fun w hx => by
    exact ite_reads (c := fld w 3 7 == 0) (j := .sfeed p { sid := r4 w 17, va := r5 w 12, ch := Fin.ofNat 4 (w / 2 ^ 10) })
      (by simp only [fld, beq_iff_eq]; omega)
      (by rw [r4_eq (f := o.sid) (by omega), r5_eq (f := o.va) (by omega), fin_eq (f := o.ch) (by omega)]; rfl)) hw)

theorem reread_mcall (en : Fin 4096) (hw : wellFormed (.mcall p en) = true) : Rereads (.mcall p en) :=
  rereads_of rfl (reread_of_M (by decide) (by omega) (by omega) (fun w hx => by
    exact ite_reads (c := fld w 3 6 == 0) (j := .mcall p (Fin.ofNat 4096 (w / 2 ^ 9)))
      (by simp only [fld, beq_iff_eq]; omega)
      (by rw [fin_eq (f := en) (by omega)]; rfl)) hw)

theorem reread_mwait (hw : wellFormed (.mwait p) = true) : Rereads (.mwait p) :=
  rereads_of rfl (reread_of_M (by decide) (by omega) (by omega) (fun w hx => by
    exact ite_reads (c := fld w 3 18 == 0) (j := .mwait p) (by simp only [fld, beq_iff_eq]; omega) rfl) hw)

theorem reread_mrdaVector (o : MV) (hw : wellFormed (.mrdaVector p o) = true) : Rereads (.mrdaVector p o) :=
  rereads_of rfl (reread_of_M (by decide) (by have := b2n_le o.qd; omega) (by omega) (fun w hx => by
    have := b2n_le o.qd
    exact ite_reads (c := fld w 3 2 == 0) (j := .mrdaVector p { vd := r5 w 16, tl := r4 w 12, row := r6 w 6, qd := bitOf w 5 })
      (by simp only [fld, beq_iff_eq]; omega)
      (by rw [r5_eq (f := o.vd) (by omega), r4_eq (f := o.tl) (by omega), r6_eq (f := o.row) (by omega), bitOf_eq (b := o.qd) (by omega)]; rfl)) hw)

theorem reread_mrdaScratchpad (o : MX) (hw : wellFormed (.mrdaScratchpad p o) = true) : Rereads (.mrdaScratchpad p o) :=
  rereads_of rfl (reread_of_M (by decide) (by omega) (by omega) (fun w hx => by
    exact ite_reads (c := fld w 3 2 == 0) (j := .mrdaScratchpad p { tl := r4 w 17, sa := r6 w 11, sb := r6 w 5 })
      (by simp only [fld, beq_iff_eq]; omega)
      (by rw [r4_eq (f := o.tl) (by omega), r6_eq (f := o.sa) (by omega), r6_eq (f := o.sb) (by omega)]; rfl)) hw)

theorem reread_engw (sa : Fin 64) (ix : Nat) (hw : wellFormed (.engw p sa ix) = true) : Rereads (.engw p sa ix) := by
  have hix : ix ≤ 0x20 := by
    simp only [wellFormed, shadowIndex, Bool.or_eq_true, Bool.and_eq_true, decide_eq_true_eq] at hw
    omega
  refine rereads_of rfl (reread_of_M (by decide) (by omega) (by omega) (fun w hx => ?_) hw)
  have hsa : r6 w 15 = sa := r6_eq (by omega)
  have hf : fld w 3 12 = ix := by simp only [fld]; omega
  exact congr (congrArg (fun a b => some (Instr.engw p a b)) hsa) hf

theorem reread_vdrain (sa : Fin 64) (hw : wellFormed (.vdrain p sa) = true) : Rereads (.vdrain p sa) :=
  rereads_of rfl (reread_of_M (by decide) (by omega) (by omega) (fun w hx => by
    exact ite_reads (c := fld w 3 12 == 0) (j := .vdrain p (r6 w 15))
      (by simp only [fld, beq_iff_eq]; omega)
      (by rw [r6_eq (f := sa) (by omega)]; rfl)) hw)

theorem reread_hinvv (sa : Fin 64) (hw : wellFormed (.hinvv p sa) = true) : Rereads (.hinvv p sa) :=
  rereads_of rfl (reread_of_M (by decide) (by omega) (by omega) (fun w hx => by
    exact ite_reads (c := fld w 3 12 == 0) (j := .hinvv p (r6 w 15))
      (by simp only [fld, beq_iff_eq]; omega)
      (by rw [r6_eq (f := sa) (by omega)]; rfl)) hw)

theorem reread_trig (n : Fin 256) (hw : wellFormed (.trig p n) = true) : Rereads (.trig p n) :=
  rereads_of rfl (reread_of_M (by decide) (by omega) (by omega)
    (fun _ hx => congrArg (Option.map (Instr.trig p)) (decMN_reads hx)) hw)

end

end Sys2Proof.Codec
end

section
/-!
PROOFS. Decoder and encoder agree (R76 to R95, R291), syllables and micro-op words.
-/
namespace Sys2Proof.Codec
open Sys2Proof.Laws Sys2Proof.Claims

/-- Every well-formed syllable is read as the decoder has it, whatever its format. -/
theorem rereads {i : Instr} (hw : wellFormed i = true) (hm : isMicro i = false) : Rereads i := by
  cases i with
  | add p o | sub p o | mul p o | mulh p o | mulhU p o | div p o | divU p o | rem p o | remU p o | and p o | or p o
  | xor p o | andn p o | shl p o | shr p o | sra p o | rotl p o | extb p o | extbS p o | depb p o | min p o | max p o
  | minU p o | maxU p o => exact rereads_of rfl (reread_XR _ o (by decide) (fun _ _ => rfl) hw)
  | lea p n o =>
    exact rereads_of rfl (reread_XR (.lea · n ·) o (by omega)
      (fun _ _ => by match n with | 0 | 1 | 2 | 3 => rfl) hw)
  | sel p n o => exact rereads_of rfl (reread_XR (.sel · n ·) o (by omega) (decodeX_sel p · n ·) hw)
  | abs p o | clz p o | popc p o => exact rereads_of rfl (reread_XU _ o (by decide) (fun _ _ => rfl) hw)
  | shlImm p o | shrImm p o | sraImm p o | rotlImm p o => exact rereads_of rfl (reread_XH _ o (by decide) (fun _ _ => rfl) hw)
  | mfsr p o | mtsr p o => exact rereads_of rfl (reread_XS _ o (by decide) (fun _ _ => rfl) hw hw)
  | plog p o | klog p o => exact rereads_of rfl (reread_XL _ o (by decide) (fun _ _ => rfl) hw)
  | kpopc p o | kfirst p o => exact rereads_of rfl (reread_XQ _ o (by decide) (fun _ _ => rfl) hw)
  | mov p o => exact reread_mov p o hw
  | addi p o => exact reread_addi p o hw
  | movi p o => exact reread_movi p o hw
  | cmp p o => exact reread_cmp p o hw
  | cmpi p o => exact reread_cmpi p o hw
  | pset p o => exact reread_pset p o hw
  | vadd p t o => exact rereads_of rfl (reread_vty p .vadd 0 (by decide) (fun _ _ _ => rfl) t o hw)
  | vsub p t o => exact rereads_of rfl (reread_vty p .vsub 1 (by decide) (fun _ _ _ => rfl) t o hw)
  | vmul p t o => exact rereads_of rfl (reread_vty p .vmul 2 (by decide) (fun _ _ _ => rfl) t o hw)
  | vmin p t o => exact rereads_of rfl (reread_vty p .vmin 3 (by decide) (fun _ _ _ => rfl) t o hw)
  | vmax p t o => exact rereads_of rfl (reread_vty p .vmax 4 (by decide) (fun _ _ _ => rfl) t o hw)
  | vfma p t o => exact rereads_of rfl (reread_vty p .vfma 5 (by decide) (fun _ _ _ => rfl) t o hw)
  | vfmaNa p t o => exact rereads_of rfl (reread_vty p .vfmaNa 6 (by decide) (fun _ _ _ => rfl) t o hw)
  | vred p t o => exact rereads_of rfl (reread_vty p .vred 13 (by decide) (fun _ _ _ => rfl) t o hw)
  | vscan p t o => exact rereads_of rfl (reread_vty p .vscan 14 (by decide) (fun _ _ _ => rfl) t o hw)
  | vcmp p t o => exact reread_vcmp p t o hw
  | vand p o | vor p o | vxor p o | vsel p o | vshl p o | vshr p o | vsra p o | vmov p o | vrcp p o | vrsq p o | vexp2 p o
  | vlog2 p o | vperm p o | vbcast p o | vrot p o | vext p o | vins p o | viota p o | vpack p o | vunpk p o =>
    exact rereads_of rfl (reread_VR _ o (by decide) (fun _ _ => rfl) hw)
  | vabs p t o => exact reread_vabs p t o hw
  | vscale p t o => exact reread_vscale p t o hw
  | vcvt p o => exact reread_vcvt p o hw
  | vdot p src o => exact reread_vdot p src o hw
  | lda p n o =>
    exact rereads_of rfl (reread_AM (.lda · n ·) o (by omega) (fun _ _ => by match n with | 0 | 1 | 2 | 3 | 4 | 5 | 6 => rfl)
      (immOkA_of_load hw) hw)
  | sta p n o =>
    exact rereads_of rfl (reread_AM (.sta · n ·) o (by omega) (fun _ _ => by match n with | 0 | 1 | 2 | 3 => rfl)
      (immOkA_of_store hw) hw)
  | ldv p n o =>
    exact rereads_of rfl (reread_AM (.ldv · n ·) o (by omega) (fun _ _ => by match n with | 0 | 1 | 2 | 3 => rfl)
      (immOkA_of_load hw) hw)
  | ldvs p n o =>
    exact rereads_of rfl (reread_AM (.ldvs · n ·) o (by omega) (fun _ _ => by match n with | 0 | 1 | 2 | 3 => rfl)
      (immOkA_of_load hw) hw)
  | stv p n o =>
    exact rereads_of rfl (reread_AM (.stv · n ·) o (by omega) (fun _ _ => by match n with | 0 | 1 | 2 | 3 => rfl)
      (immOkA_of_store hw) hw)
  | stvs p n o =>
    exact rereads_of rfl (reread_AM (.stvs · n ·) o (by omega) (fun _ _ => by match n with | 0 | 1 | 2 | 3 => rfl)
      (immOkA_of_store hw) hw)
  | ldg p n o =>
    obtain ⟨ho, hx⟩ := Bool.and_eq_true_iff.mp hw
    exact rereads_of rfl (reread_AG (.ldg · n ·) o (by omega)
      (fun _ _ => by match n with | 0 | 1 | 2 | 3 => rfl) (immOkA_of_load ho)
      (of_decide_eq_true hx) hw)
  | stg p n o =>
    obtain ⟨ho, hx⟩ := Bool.and_eq_true_iff.mp hw
    exact rereads_of rfl (reread_AG (.stg · n ·) o (by omega)
      (fun _ _ => by match n with | 0 | 1 | 2 | 3 => rfl) (immOkA_of_store ho)
      (of_decide_eq_true hx) hw)
  | feset p o | fewait p o =>
    exact rereads_of rfl (reread_AM _ o (by decide) (fun _ _ => rfl) (immOkA_of_store hw) hw)
  | bind p o => exact reread_bind p o hw
  | fence p o | pfence p o => exact rereads_of rfl (reread_AF _ o (by decide) (fun _ _ => rfl) hw)
  | aadd p o | bset p o => exact rereads_of rfl (reread_AA _ o (by decide) (fun _ _ => rfl) hw hw)
  | trans p o | hrel p o | hchk p o | preq p o => exact rereads_of rfl (reread_AH _ o (by decide) (fun _ _ => rfl) hw)
  | amo32 p n o =>
    exact rereads_of rfl (reread_AT (.amo32 · n ·) o (by omega)
      (fun _ _ => by match n with | 0 | 1 | 2 | 3 | 4 | 5 | 6 | 7 | 8 | 9 | 10 => rfl) hw hw)
  | amos32 p n o =>
    exact rereads_of rfl (reread_AT (.amos32 · n ·) o (by omega)
      (fun _ _ => by match n with | 0 | 1 | 2 | 3 | 4 | 5 | 6 | 7 | 8 | 9 | 10 => rfl) hw hw)
  | amo64 p n o =>
    exact rereads_of rfl (reread_AT (.amo64 · n ·) o (by omega)
      (fun _ _ => by match n with | 0 | 1 | 2 | 3 | 4 | 5 | 6 | 7 | 8 | 9 | 10 => rfl)
      (Bool.and_eq_true_iff.mp hw).1 hw)
  | amos64 p n o =>
    exact rereads_of rfl (reread_AT (.amos64 · n ·) o (by omega)
      (fun _ _ => by match n with | 0 | 1 | 2 | 3 | 4 | 5 | 6 | 7 | 8 | 9 | 10 => rfl)
      (Bool.and_eq_true_iff.mp hw).1 hw)
  | cas p n o =>
    exact rereads_of rfl (reread_AT (.cas · n ·) o (by omega)
      (fun _ _ => by match n with | 0 | 1 | 2 => rfl) hw hw)
  | acqX p o | acqSh p o | acqEv p o | relUn p o | relPost p o =>
    exact rereads_of rfl (reread_AY _ o (by decide) (fun _ _ => rfl) hw hw)
  | pcmdAddI32 p o | pcmdAddF32 p o | pcmdAxpyF32 p o | pcmdMaxF32 p o | pcmdCvtBf16 p o | pcmdFill p o | pcmdCopy p o
  | pcmdAcc p o => exact rereads_of rfl (reread_AP _ o (by decide) (fun _ _ => rfl) hw)
  | cwait p o | cadd p o | cset p o | shdw p o | publ p o | mload p o | waitev p o | csave p o | cload p o | freeze p o
  | thaw p o | discard p o | scrub p o => exact rereads_of rfl (reread_MS _ o (by decide) (fun _ => rfl) hw)
  | put p n o =>
    exact rereads_of rfl (reread_MP (.put · n ·) o (by omega)
      (fun _ => by match n with | 0 | 1 | 2 | 3 | 4 | 5 => rfl) hw)
  | putm p n o =>
    exact rereads_of rfl (reread_MP (.putm · n ·) o (by omega)
      (fun _ => by match n with | 0 | 1 | 2 | 3 | 4 | 5 => rfl) hw)
  | putmO p n o =>
    exact rereads_of rfl (reread_MP (.putmO · n ·) o (by omega)
      (fun _ => by match n with | 0 | 1 | 2 | 3 | 4 | 5 => rfl) hw)
  | mzro p n | bar p n | bara p n | barw p n => exact rereads_of rfl (reread_MN16 _ n (by decide) (fun _ => rfl) hw)
  | brt p o => exact reread_brt p o hw
  | brc p o => exact reread_brc p o hw
  | call p sd off => exact reread_call p sd off hw
  | jmp p off | loop p off => exact rereads_of rfl (reread_off18 p _ off (by decide) rfl (fun _ _ => rfl) hw hw)
  | nop p | exit p | yield p | eret p | halt p =>
    exact rereads_of rfl (reread_bare p _ (by decide) rfl (fun _ _ => rfl) hw)
  | jmpi p sa | ret p sa => exact rereads_of rfl (reread_reg p _ sa (by decide) rfl (fun _ _ => rfl) hw)
  | lset p sa sm => exact reread_lset p sa sm hw
  | trap p code => exact reread_trap p code hw
  | uend | step | scl | band | accsel | accselG | uloop | uloopG | skip | sig | waits => exact nomatch hm
  | cpy p va ch => exact reread_cpy p va ch hw
  | cpyq p va sa => exact reread_cpyq p va sa hw
  | lnch p va sa => exact reread_lnch p va sa hw
  | drain p chs => exact reread_drain p chs hw
  | sdef p sid => exact reread_sdef p sid hw
  | srel p sid => exact reread_srel p sid hw
  | ssub p o => exact reread_ssub p o hw
  | sfeed p o => exact reread_sfeed p o hw
  | mcall p en => exact reread_mcall p en hw
  | mwait p => exact reread_mwait p hw
  | mrdaVector p o => exact reread_mrdaVector p o hw
  | mrdaScratchpad p o => exact reread_mrdaScratchpad p o hw
  | engw p sa ix => exact reread_engw p sa ix hw
  | vdrain p sa => exact reread_vdrain p sa hw
  | hinvv p sa => exact reread_hinvv p sa hw
  | trig p n => exact reread_trig p n hw
  | _ => exact fun _ h => nomatch h

/-! The micro-op words (R94, R291). -/

/-- What stands in a micro-op word. -/
theorem micro_parts {op x w : Nat} {j : Bool} (ho : op < 16) (hx : x < 2 ^ 27) (hw : w = op * 2 ^ 28 + b2n j * 2 ^ 27 + x) :
    fld w 28 4 = op ∧ bitOf w 27 = j ∧ w % 2 ^ 27 = x ∧ w < 2 ^ 32 := by
  have := b2n_le j
  exact ⟨by simp only [fld]; omega, bitOf_eq (by omega), by omega, by omega⟩

/-- A micro-op's encoding is read back. -/
def RereadsMicro (i : Instr) : Prop := ∀ x, encode i = some x → decodeMicro x.2 = some i ∧ x.2 < 2 ^ 32

theorem rereadsMicro_of {i : Instr} {op x : Nat} {j : Bool} (he : encode i = some (micro op j x)) (ho : op < 16)
    (hx : x < 2 ^ 27) (hd : ∀ w, fld w 28 4 = op → bitOf w 27 = j → w % 2 ^ 27 = x → decodeMicro w = some i) :
    RereadsMicro i := by
  intro y hy
  obtain rfl := Option.some.inj (he.symm.trans hy)
  obtain ⟨h4, hj, hx27, hlt⟩ := micro_parts (j := j) ho hx rfl
  exact ⟨hd _ h4 hj hx27, hlt⟩

theorem rereadsMicro {i : Instr} (hw : wellFormed i = true) (hm : isMicro i = true) : RereadsMicro i := by
  cases i with
  | uend =>
    refine rereadsMicro_of rfl (by decide) (by decide) fun w h4 hj hx => ?_
    have h0 : fld w 0 28 = 0 := by
      have := b2n_bitOf w 27
      rw [hj] at this
      simp only [b2n, fld] at this ⊢
      simp at this
      omega
    simp only [decodeMicro, beq_self_eq_true, ↓reduceIte, h4, h0, hw]
  | step j o =>
    have := b2n_le o.sat
    refine rereadsMicro_of rfl (by decide) (by omega) fun w h4 hj hx => ?_
    have h0 : fld w 0 16 = 0 := by simp only [fld]; omega
    have hfa : r5 w 22 = o.fa := r5_eq (by omega)
    have hfb : r5 w 17 = o.fb := r5_eq (by omega)
    have hsat : bitOf w 16 = o.sat := bitOf_eq (by omega)
    simp only [decodeMicro, beq_self_eq_true, ↓reduceIte, h4, h0, hj, hfa, hfb, hsat, hw]
  | scl j =>
    refine rereadsMicro_of rfl (by decide) (by decide) fun w h4 hj hx => ?_
    have h0 : fld w 0 27 = 0 := by simp only [fld]; omega
    simp only [decodeMicro, beq_self_eq_true, ↓reduceIte, h4, h0, hj, hw]
  | band j side =>
    have := b2n_le side
    refine rereadsMicro_of rfl (by decide) (by omega) fun w h4 hj hx => ?_
    have h0 : fld w 0 26 = 0 := by simp only [fld]; omega
    have hs : bitOf w 26 = side := bitOf_eq (by omega)
    simp only [decodeMicro, beq_self_eq_true, ↓reduceIte, h4, h0, hj, hs, hw]
  | accsel j tile =>
    refine rereadsMicro_of rfl (by decide) (by omega) fun w h4 hj hx => ?_
    have hb : bitOf w 26 = false := bitOf_eq (show w / 2 ^ 26 % 2 = 0 by omega)
    have h0 : fld w 0 19 = 0 := by simp only [fld]; omega
    have h23 : fld w 23 3 = 0 := by simp only [fld]; omega
    have ht : r4 w 19 = tile := r4_eq (by omega)
    simp only [decodeMicro, beq_self_eq_true, Bool.and_self, Bool.false_eq_true, ↓reduceIte, h4, h0, hj, hb, h23, ht, hw]
  | accselG j i =>
    refine rereadsMicro_of rfl (by decide) (by omega) fun w h4 hj hx => ?_
    have hb : bitOf w 26 = true := bitOf_eq (show w / 2 ^ 26 % 2 = 1 by omega)
    have h0 : fld w 0 23 = 0 := by simp only [fld]; omega
    have ht : r3 w 23 = i := r3_eq (by omega)
    simp only [decodeMicro, beq_self_eq_true, ↓reduceIte, h4, h0, hj, hb, ht, hw]
  | uloop count len =>
    refine rereadsMicro_of rfl (by decide) (by omega) fun w h4 hj hx => ?_
    have hb : bitOf w 26 = false := bitOf_eq (show w / 2 ^ 26 % 2 = 0 by omega)
    have h23 : fld w 23 3 = 0 := by simp only [fld]; omega
    have hc : Fin.ofNat 4096 (w / 2 ^ 11) = count := fin_eq (by omega)
    have hl : Fin.ofNat 2048 w = len := fin_eq (by omega)
    simp only [decodeMicro, beq_self_eq_true, Bool.false_eq_true, ↓reduceIte, h4, hj, hb, h23, hc, hl, hw]
  | uloopG i len =>
    refine rereadsMicro_of rfl (by decide) (by omega) fun w h4 hj hx => ?_
    have hb : bitOf w 26 = true := bitOf_eq (show w / 2 ^ 26 % 2 = 1 by omega)
    have h11 : fld w 11 12 = 0 := by simp only [fld]; omega
    have hi : r3 w 23 = i := r3_eq (by omega)
    have hl : Fin.ofNat 2048 w = len := fin_eq (by omega)
    simp only [decodeMicro, beq_self_eq_true, Bool.false_eq_true, ↓reduceIte, h4, hj, hb, h11, hi, hl, hw]
  | skip j pt n =>
    refine rereadsMicro_of rfl (by decide) (by omega) fun w h4 hj hx => ?_
    have h0 : fld w 0 17 = 0 := by simp only [fld]; omega
    have hp : Fin.ofNat 4 (w / 2 ^ 25) = pt := fin_eq (by omega)
    have hn : Fin.ofNat 256 (w / 2 ^ 17) = n := fin_eq (by omega)
    simp only [decodeMicro, beq_self_eq_true, ↓reduceIte, h4, h0, hj, hp, hn, hw]
  | sig j i =>
    refine rereadsMicro_of rfl (by decide) (by omega) fun w h4 hj hx => ?_
    have h0 : fld w 0 24 = 0 := by simp only [fld]; omega
    have hi : r3 w 24 = i := r3_eq (by omega)
    simp only [decodeMicro, beq_self_eq_true, ↓reduceIte, h4, h0, hj, hi, hw]
  | waits j pt n =>
    refine rereadsMicro_of rfl (by decide) (by omega) fun w h4 hj hx => ?_
    have h0 : fld w 0 17 = 0 := by simp only [fld]; omega
    have hp : Fin.ofNat 4 (w / 2 ^ 25) = pt := fin_eq (by omega)
    have hn : Fin.ofNat 256 (w / 2 ^ 17) = n := fin_eq (by omega)
    simp only [decodeMicro, beq_self_eq_true, ↓reduceIte, h4, h0, hj, hp, hn, hw]
  | _ => exact nomatch hm

/-- The word of a micro-op that the decoder reads is the encoder's. -/
theorem encode_of_decodeMicro {w : Nat} {i : Instr} (hlt : w < 2 ^ 32) (h : decodeMicro w = some i) :
    wellFormed i = true ∧ isMicro i = true ∧ encode i = some (.none, w) := by
  unfold decodeMicro at h
  dsimp only at h
  split at h
  · next k hk =>
    split at h
    · next hw =>
      cases h
      refine ⟨hw, ?_⟩
      clear hw
      have h27 := b2n_bitOf w 27
      have hword {op x : Nat} {j : Bool} (h4 : fld w 28 4 = op) (hj : j = bitOf w 27) (hx : x = w % 2 ^ 27) :
          some (micro op j x) = some (Lend.none, w) := by
        subst hj hx
        simp only [micro, fld, h27] at h4 ⊢
        congr 2
        omega
      split at hk
      · split at hk <;> cases hk
        next h4 h0 =>
          simp only [fld, beq_iff_eq] at h0
          exact ⟨rfl, hword h4 (bitOf_eq (show w / 2 ^ 27 % 2 = 0 by omega)).symm (by omega)⟩
      · split at hk <;> cases hk
        next h4 h0 =>
          simp only [fld, beq_iff_eq] at h0
          exact ⟨rfl, hword h4 rfl (by simp only [r5, Fin.ofNat, b2n_bitOf]; omega)⟩
      · split at hk <;> cases hk
        next h4 h0 =>
          simp only [fld, beq_iff_eq] at h0
          exact ⟨rfl, hword h4 rfl (by omega)⟩
      · split at hk <;> cases hk
        next h4 h0 =>
          simp only [fld, beq_iff_eq] at h0
          exact ⟨rfl, hword h4 rfl (by simp only [b2n_bitOf]; omega)⟩
      · split at hk
        · next h4 hb =>
          simp only [bitOf, beq_iff_eq] at hb
          split at hk <;> cases hk
          next h0 =>
            simp only [fld, beq_iff_eq] at h0
            exact ⟨rfl, hword h4 rfl (by simp only [r3, Fin.ofNat]; omega)⟩
        · next h4 hb =>
          simp only [bitOf, beq_iff_eq] at hb
          split at hk <;> cases hk
          next h0 =>
            simp only [fld, Bool.and_eq_true, beq_iff_eq] at h0
            exact ⟨rfl, hword h4 rfl (by simp only [r4, Fin.ofNat]; omega)⟩
      · split at hk
        · cases hk
        next h4 hj =>
        have hj := (Bool.eq_false_iff.mpr hj).symm
        have h27' : w / 2 ^ 27 % 2 = 0 := by rw [← h27, ← hj]; rfl
        split at hk
        · next hb =>
          simp only [bitOf, beq_iff_eq] at hb
          split at hk <;> cases hk
          next h0 =>
            simp only [fld, beq_iff_eq] at h0
            exact ⟨rfl, hword h4 hj (by simp only [r3, Fin.ofNat]; omega)⟩
        · next hb =>
          simp only [bitOf, beq_iff_eq] at hb
          split at hk <;> cases hk
          next h0 =>
            simp only [fld, beq_iff_eq] at h0
            exact ⟨rfl, hword h4 hj (by simp only [Fin.ofNat]; omega)⟩
      · split at hk <;> cases hk
        next h4 h0 =>
          simp only [fld, beq_iff_eq] at h0
          exact ⟨rfl, hword h4 rfl (by simp only [Fin.ofNat]; omega)⟩
      · split at hk <;> cases hk
        next h4 h0 =>
          simp only [fld, beq_iff_eq] at h0
          exact ⟨rfl, hword h4 rfl (by simp only [r3, Fin.ofNat]; omega)⟩
      · split at hk <;> cases hk
        next h4 h0 =>
          simp only [fld, beq_iff_eq] at h0
          exact ⟨rfl, hword h4 rfl (by simp only [Fin.ofNat]; omega)⟩
      · cases hk
    · cases h
  · cases h

/-- The encoder gives back the word of a syllable that the decoder reads, under whatever loan it stood. -/
theorem encode_of_decodeSyl {l : Lend} {w : Nat} {i : Instr} (hlt : w < 2 ^ 32) (h : decodeSyl l w = .ok i) :
    wellFormed i = true ∧ isMicro i = false ∧ (encode i).map (·.2) = some w := by
  have hop : fld w 21 7 / 8 * 8 + fld w 21 7 % 8 = fld w 21 7 := by omega
  have done {unit op : Nat} (hu : fld w 28 3 = unit) (ho : fld w 21 7 = op) (hw : wellFormed i = true)
      (hi : Writes (sylOf l w) unit op w i) : wellFormed i = true ∧ isMicro i = false ∧ (encode i).map (·.2) = some w :=
    ⟨hw, hi.1, by rw [hi.2, sylWord_sylOf hlt hu ho]⟩
  unfold decodeSyl at h
  split at h
  · cases h
  dsimp only at h
  split at h
  · next hu =>
    obtain ⟨hd, hw⟩ := accept_ok h
    exact done hu rfl hw (decodeX_writes hd)
  · next hu =>
    obtain ⟨hd, hw⟩ := accept_ok h
    exact done hu (by omega) hw (decodeV_writes (Nat.mod_lt _ (by decide)) hd)
  · next hu =>
    obtain ⟨hd, hw⟩ := accept_ok h
    exact done hu rfl hw (decodeA_writes hd)
  · next hu =>
    obtain ⟨hd, hw⟩ := accept_ok h
    exact done hu rfl hw (decodeM_writes hd)
  · next hu =>
    split at h
    · next ho =>
      split at h
      · next j hj =>
        obtain ⟨hd, hw⟩ := accept_ok h
        cases hd
        exact done hu (beq_iff_eq.mp ho) hw (decodeBRT_writes hj)
      · cases h
    · obtain ⟨hd, hw⟩ := accept_ok h
      exact done hu rfl hw (decodeB_writes hd)
  · cases h
  · cases h

/-- Settles O49: each instruction's word is read back by its format's lemma, and each word that is read is the one its format
writes. -/
theorem encodingsAgree : Obligations.EncodingsAgree := by
  refine ⟨fun i l w hw he => ⟨fun hm => (rereadsMicro hw hm _ he).1, fun hm => ?_, ?_⟩, fun l w i => encode_of_decodeSyl,
    fun w i => encode_of_decodeMicro⟩
  · exact (rereads hw hm _ he).1
  · cases hm : isMicro i with
    | true => exact (rereadsMicro hw hm _ he).2
    | false => exact (rereads hw hm _ he).2

end Sys2Proof.Codec
end

section
/-!
PROOFS. The dispatch: the meaning that `exec` gives each instruction, one equation each.
-/
namespace Sys2Proof.Machine

theorem exec_add (p : Syl) (o : XR) (s : State) : exec (.add p o) s = execAdd p o s := rfl
theorem exec_sub (p : Syl) (o : XR) (s : State) : exec (.sub p o) s = execSub p o s := rfl
theorem exec_mul (p : Syl) (o : XR) (s : State) : exec (.mul p o) s = execMul p o s := rfl
theorem exec_mulh (p : Syl) (o : XR) (s : State) : exec (.mulh p o) s = execMulh p o s := rfl
theorem exec_mulhU (p : Syl) (o : XR) (s : State) : exec (.mulhU p o) s = execMulhU p o s := rfl
theorem exec_abs (p : Syl) (o : XU) (s : State) : exec (.abs p o) s = execAbs p o s := rfl
theorem exec_and (p : Syl) (o : XR) (s : State) : exec (.and p o) s = execAnd p o s := rfl
theorem exec_or (p : Syl) (o : XR) (s : State) : exec (.or p o) s = execOr p o s := rfl
theorem exec_xor (p : Syl) (o : XR) (s : State) : exec (.xor p o) s = execXor p o s := rfl
theorem exec_andn (p : Syl) (o : XR) (s : State) : exec (.andn p o) s = execAndn p o s := rfl
theorem exec_shl (p : Syl) (o : XR) (s : State) : exec (.shl p o) s = execShl p o s := rfl
theorem exec_shr (p : Syl) (o : XR) (s : State) : exec (.shr p o) s = execShr p o s := rfl
theorem exec_sra (p : Syl) (o : XR) (s : State) : exec (.sra p o) s = execSra p o s := rfl
theorem exec_rotl (p : Syl) (o : XR) (s : State) : exec (.rotl p o) s = execRotl p o s := rfl
theorem exec_clz (p : Syl) (o : XU) (s : State) : exec (.clz p o) s = execClz p o s := rfl
theorem exec_popc (p : Syl) (o : XU) (s : State) : exec (.popc p o) s = execPopc p o s := rfl
theorem exec_extb (p : Syl) (o : XR) (s : State) : exec (.extb p o) s = execExtb p o s := rfl
theorem exec_extbS (p : Syl) (o : XR) (s : State) : exec (.extbS p o) s = execExtbS p o s := rfl
theorem exec_depb (p : Syl) (o : XR) (s : State) : exec (.depb p o) s = execDepb p o s := rfl
theorem exec_min (p : Syl) (o : XR) (s : State) : exec (.min p o) s = execMin p o s := rfl
theorem exec_max (p : Syl) (o : XR) (s : State) : exec (.max p o) s = execMax p o s := rfl
theorem exec_minU (p : Syl) (o : XR) (s : State) : exec (.minU p o) s = execMinU p o s := rfl
theorem exec_maxU (p : Syl) (o : XR) (s : State) : exec (.maxU p o) s = execMaxU p o s := rfl
theorem exec_mov (p : Syl) (o : XV) (s : State) : exec (.mov p o) s = execMov p o s := rfl
theorem exec_lea (p : Syl) (n : Fin 4) (o : XR) (s : State) : exec (.lea p n o) s = execLea p n o s := rfl
theorem exec_addi (p : Syl) (o : XI) (s : State) : exec (.addi p o) s = execAddi p o s := rfl
theorem exec_shlImm (p : Syl) (o : XH) (s : State) : exec (.shlImm p o) s = execShlImm p o s := rfl
theorem exec_shrImm (p : Syl) (o : XH) (s : State) : exec (.shrImm p o) s = execShrImm p o s := rfl
theorem exec_sraImm (p : Syl) (o : XH) (s : State) : exec (.sraImm p o) s = execSraImm p o s := rfl
theorem exec_rotlImm (p : Syl) (o : XH) (s : State) : exec (.rotlImm p o) s = execRotlImm p o s := rfl
theorem exec_movi (p : Syl) (o : XM) (s : State) : exec (.movi p o) s = execMovi p o s := rfl
theorem exec_mfsr (p : Syl) (o : XS) (s : State) : exec (.mfsr p o) s = execMfsr p o s := rfl
theorem exec_mtsr (p : Syl) (o : XS) (s : State) : exec (.mtsr p o) s = execMtsr p o s := rfl
theorem exec_sel (p : Syl) (n : Fin 16) (o : XR) (s : State) : exec (.sel p n o) s = execSel p n o s := rfl
theorem exec_vadd (p : Syl) (t : VTy) (o : VR) (s : State) : exec (.vadd p t o) s = execVadd p t o s := rfl
theorem exec_vsub (p : Syl) (t : VTy) (o : VR) (s : State) : exec (.vsub p t o) s = execVsub p t o s := rfl
theorem exec_vmul (p : Syl) (t : VTy) (o : VR) (s : State) : exec (.vmul p t o) s = execVmul p t o s := rfl
theorem exec_vmin (p : Syl) (t : VTy) (o : VR) (s : State) : exec (.vmin p t o) s = execVmin p t o s := rfl
theorem exec_vmax (p : Syl) (t : VTy) (o : VR) (s : State) : exec (.vmax p t o) s = execVmax p t o s := rfl
theorem exec_vfma (p : Syl) (t : VTy) (o : VR) (s : State) : exec (.vfma p t o) s = execVfma p t o s := rfl
theorem exec_vfmaNa (p : Syl) (t : VTy) (o : VR) (s : State) : exec (.vfmaNa p t o) s = execVfmaNa p t o s := rfl
theorem exec_vcmp (p : Syl) (t : VTy) (o : VK) (s : State) : exec (.vcmp p t o) s = execVcmp p t o s := rfl
theorem exec_vand (p : Syl) (o : VR) (s : State) : exec (.vand p o) s = execVand p o s := rfl
theorem exec_vor (p : Syl) (o : VR) (s : State) : exec (.vor p o) s = execVor p o s := rfl
theorem exec_vxor (p : Syl) (o : VR) (s : State) : exec (.vxor p o) s = execVxor p o s := rfl
theorem exec_vsel (p : Syl) (o : VR) (s : State) : exec (.vsel p o) s = execVsel p o s := rfl
theorem exec_vshl (p : Syl) (o : VR) (s : State) : exec (.vshl p o) s = execVshl p o s := rfl
theorem exec_vshr (p : Syl) (o : VR) (s : State) : exec (.vshr p o) s = execVshr p o s := rfl
theorem exec_vsra (p : Syl) (o : VR) (s : State) : exec (.vsra p o) s = execVsra p o s := rfl
theorem exec_vmov (p : Syl) (o : VR) (s : State) : exec (.vmov p o) s = execVmov p o s := rfl
theorem exec_vabs (p : Syl) (t : VTy) (o : VR) (s : State) : exec (.vabs p t o) s = execVabs p t o s := rfl
theorem exec_vscale (p : Syl) (t : VTy) (o : VR) (s : State) : exec (.vscale p t o) s = execVscale p t o s := rfl
theorem exec_vcvt (p : Syl) (o : VX) (s : State) : exec (.vcvt p o) s = execVcvt p o s := rfl
theorem exec_vrcp (p : Syl) (o : VR) (s : State) : exec (.vrcp p o) s = execVrcp p o s := rfl
theorem exec_vrsq (p : Syl) (o : VR) (s : State) : exec (.vrsq p o) s = execVrsq p o s := rfl
theorem exec_vexp2 (p : Syl) (o : VR) (s : State) : exec (.vexp2 p o) s = execVexp2 p o s := rfl
theorem exec_vlog2 (p : Syl) (o : VR) (s : State) : exec (.vlog2 p o) s = execVlog2 p o s := rfl
theorem exec_vperm (p : Syl) (o : VR) (s : State) : exec (.vperm p o) s = execVperm p o s := rfl
theorem exec_vbcast (p : Syl) (o : VR) (s : State) : exec (.vbcast p o) s = execVbcast p o s := rfl
theorem exec_vrot (p : Syl) (o : VR) (s : State) : exec (.vrot p o) s = execVrot p o s := rfl
theorem exec_vext (p : Syl) (o : VR) (s : State) : exec (.vext p o) s = execVext p o s := rfl
theorem exec_vins (p : Syl) (o : VR) (s : State) : exec (.vins p o) s = execVins p o s := rfl
theorem exec_viota (p : Syl) (o : VR) (s : State) : exec (.viota p o) s = execViota p o s := rfl
theorem exec_vpack (p : Syl) (o : VR) (s : State) : exec (.vpack p o) s = execVpack p o s := rfl
theorem exec_vunpk (p : Syl) (o : VR) (s : State) : exec (.vunpk p o) s = execVunpk p o s := rfl
theorem exec_vred (p : Syl) (t : VTy) (o : VR) (s : State) : exec (.vred p t o) s = execVred p t o s := rfl
theorem exec_vscan (p : Syl) (t : VTy) (o : VR) (s : State) : exec (.vscan p t o) s = execVscan p t o s := rfl
theorem exec_vdot (p : Syl) (src : Fin 8) (o : VR) (s : State) : exec (.vdot p src o) s = execVdot p src o s := rfl
theorem exec_lda (p : Syl) (n : Fin 7) (o : AM) (s : State) : exec (.lda p n o) s = execLda p n o s := rfl
theorem exec_sta (p : Syl) (n : Fin 4) (o : AM) (s : State) : exec (.sta p n o) s = execSta p n o s := rfl
theorem exec_bind (p : Syl) (o : AB) (s : State) : exec (.bind p o) s = execBind p o s := rfl
theorem exec_fence (p : Syl) (o : AF) (s : State) : exec (.fence p o) s = execFence p o s := rfl
theorem exec_pfence (p : Syl) (o : AF) (s : State) : exec (.pfence p o) s = execPfence p o s := rfl
theorem exec_ldv (p : Syl) (w : Fin 4) (o : AM) (s : State) : exec (.ldv p w o) s = execLdv p w o s := rfl
theorem exec_ldvs (p : Syl) (w : Fin 4) (o : AM) (s : State) : exec (.ldvs p w o) s = execLdvs p w o s := rfl
theorem exec_ldg (p : Syl) (w : Fin 4) (o : AM) (s : State) : exec (.ldg p w o) s = execLdg p w o s := rfl
theorem exec_stv (p : Syl) (w : Fin 4) (o : AM) (s : State) : exec (.stv p w o) s = execStv p w o s := rfl
theorem exec_stvs (p : Syl) (w : Fin 4) (o : AM) (s : State) : exec (.stvs p w o) s = execStvs p w o s := rfl
theorem exec_stg (p : Syl) (w : Fin 4) (o : AM) (s : State) : exec (.stg p w o) s = execStg p w o s := rfl
theorem exec_aadd (p : Syl) (o : AA) (s : State) : exec (.aadd p o) s = execAadd p o s := rfl
theorem exec_bset (p : Syl) (o : AA) (s : State) : exec (.bset p o) s = execBset p o s := rfl
theorem exec_trans (p : Syl) (o : AH) (s : State) : exec (.trans p o) s = execTrans p o s := rfl
theorem exec_hrel (p : Syl) (o : AH) (s : State) : exec (.hrel p o) s = execHrel p o s := rfl
theorem exec_hchk (p : Syl) (o : AH) (s : State) : exec (.hchk p o) s = execHchk p o s := rfl
theorem exec_preq (p : Syl) (o : AH) (s : State) : exec (.preq p o) s = execPreq p o s := rfl
theorem exec_feset (p : Syl) (o : AM) (s : State) : exec (.feset p o) s = execFeset p o s := rfl
theorem exec_fewait (p : Syl) (o : AM) (s : State) : exec (.fewait p o) s = execFewait p o s := rfl
theorem exec_amo32 (p : Syl) (op : Fin 11) (o : AT) (s : State) : exec (.amo32 p op o) s = execAmo32 p op o s := rfl
theorem exec_amo64 (p : Syl) (op : Fin 11) (o : AT) (s : State) : exec (.amo64 p op o) s = execAmo64 p op o s := rfl
theorem exec_amos32 (p : Syl) (op : Fin 11) (o : AT) (s : State) : exec (.amos32 p op o) s = execAmos32 p op o s := rfl
theorem exec_amos64 (p : Syl) (op : Fin 11) (o : AT) (s : State) : exec (.amos64 p op o) s = execAmos64 p op o s := rfl
theorem exec_cas (p : Syl) (n : Fin 3) (o : AT) (s : State) : exec (.cas p n o) s = execCas p n o s := rfl
theorem exec_acqX (p : Syl) (o : AY) (s : State) : exec (.acqX p o) s = execAcqX p o s := rfl
theorem exec_acqSh (p : Syl) (o : AY) (s : State) : exec (.acqSh p o) s = execAcqSh p o s := rfl
theorem exec_acqEv (p : Syl) (o : AY) (s : State) : exec (.acqEv p o) s = execAcqEv p o s := rfl
theorem exec_relUn (p : Syl) (o : AY) (s : State) : exec (.relUn p o) s = execRelUn p o s := rfl
theorem exec_relPost (p : Syl) (o : AY) (s : State) : exec (.relPost p o) s = execRelPost p o s := rfl
theorem exec_pcmdAddI32 (p : Syl) (o : AP) (s : State) : exec (.pcmdAddI32 p o) s = execPcmdAddI32 p o s := rfl
theorem exec_pcmdAddF32 (p : Syl) (o : AP) (s : State) : exec (.pcmdAddF32 p o) s = execPcmdAddF32 p o s := rfl
theorem exec_pcmdAxpyF32 (p : Syl) (o : AP) (s : State) : exec (.pcmdAxpyF32 p o) s = execPcmdAxpyF32 p o s := rfl
theorem exec_pcmdMaxF32 (p : Syl) (o : AP) (s : State) : exec (.pcmdMaxF32 p o) s = execPcmdMaxF32 p o s := rfl
theorem exec_pcmdCvtBf16 (p : Syl) (o : AP) (s : State) : exec (.pcmdCvtBf16 p o) s = execPcmdCvtBf16 p o s := rfl
theorem exec_pcmdFill (p : Syl) (o : AP) (s : State) : exec (.pcmdFill p o) s = execPcmdFill p o s := rfl
theorem exec_pcmdCopy (p : Syl) (o : AP) (s : State) : exec (.pcmdCopy p o) s = execPcmdCopy p o s := rfl
theorem exec_pcmdAcc (p : Syl) (o : AP) (s : State) : exec (.pcmdAcc p o) s = execPcmdAcc p o s := rfl
theorem exec_cpy (p : Syl) (va : Fin 32) (ch : Fin 4) (s : State) : exec (.cpy p va ch) s = execCpy p va ch s := rfl
theorem exec_cpyq (p : Syl) (va : Fin 32) (sa : Fin 64) (s : State) : exec (.cpyq p va sa) s = execCpyq p va sa s := rfl
theorem exec_drain (p : Syl) (chs : Fin 8) (s : State) : exec (.drain p chs) s = execDrain p chs s := rfl
theorem exec_cwait (p : Syl) (o : MS) (s : State) : exec (.cwait p o) s = execCwait p o s := rfl
theorem exec_cadd (p : Syl) (o : MS) (s : State) : exec (.cadd p o) s = execCadd p o s := rfl
theorem exec_cset (p : Syl) (o : MS) (s : State) : exec (.cset p o) s = execCset p o s := rfl
theorem exec_put (p : Syl) (n : Fin 6) (o : MP) (s : State) : exec (.put p n o) s = execPut p n o s := rfl
theorem exec_putm (p : Syl) (n : Fin 6) (o : MP) (s : State) : exec (.putm p n o) s = execPutm p n o s := rfl
theorem exec_putmO (p : Syl) (n : Fin 6) (o : MP) (s : State) : exec (.putmO p n o) s = execPutmO p n o s := rfl
theorem exec_shdw (p : Syl) (o : MS) (s : State) : exec (.shdw p o) s = execShdw p o s := rfl
theorem exec_publ (p : Syl) (o : MS) (s : State) : exec (.publ p o) s = execPubl p o s := rfl
theorem exec_sdef (p : Syl) (sid : Fin 16) (s : State) : exec (.sdef p sid) s = execSdef p sid s := rfl
theorem exec_ssub (p : Syl) (o : MU) (s : State) : exec (.ssub p o) s = execSsub p o s := rfl
theorem exec_sfeed (p : Syl) (o : MF) (s : State) : exec (.sfeed p o) s = execSfeed p o s := rfl
theorem exec_srel (p : Syl) (sid : Fin 16) (s : State) : exec (.srel p sid) s = execSrel p sid s := rfl
theorem exec_mload (p : Syl) (o : MS) (s : State) : exec (.mload p o) s = execMload p o s := rfl
theorem exec_mcall (p : Syl) (en : Fin 4096) (s : State) : exec (.mcall p en) s = execMcall p en s := rfl
theorem exec_mwait (p : Syl) (s : State) : exec (.mwait p) s = execMwait p s := rfl
theorem exec_mrdaVector (p : Syl) (o : MV) (s : State) : exec (.mrdaVector p o) s = execMrdaVector p o s := rfl
theorem exec_mrdaScratchpad (p : Syl) (o : MX) (s : State) : exec (.mrdaScratchpad p o) s = execMrdaScratchpad p o s := rfl
theorem exec_mzro (p : Syl) (t : Fin 16) (s : State) : exec (.mzro p t) s = execMzro p t s := rfl
theorem exec_engw (p : Syl) (sa : Fin 64) (ix : Nat) (s : State) : exec (.engw p sa ix) s = execEngw p sa ix s := rfl
theorem exec_bar (p : Syl) (n : Fin 16) (s : State) : exec (.bar p n) s = execBar p n s := rfl
theorem exec_bara (p : Syl) (n : Fin 16) (s : State) : exec (.bara p n) s = execBara p n s := rfl
theorem exec_barw (p : Syl) (n : Fin 16) (s : State) : exec (.barw p n) s = execBarw p n s := rfl
theorem exec_waitev (p : Syl) (o : MS) (s : State) : exec (.waitev p o) s = execWaitev p o s := rfl
theorem exec_lnch (p : Syl) (va : Fin 32) (sa : Fin 64) (s : State) : exec (.lnch p va sa) s = execLnch p va sa s := rfl
theorem exec_csave (p : Syl) (o : MS) (s : State) : exec (.csave p o) s = execCsave p o s := rfl
theorem exec_cload (p : Syl) (o : MS) (s : State) : exec (.cload p o) s = execCload p o s := rfl
theorem exec_freeze (p : Syl) (o : MS) (s : State) : exec (.freeze p o) s = execFreeze p o s := rfl
theorem exec_thaw (p : Syl) (o : MS) (s : State) : exec (.thaw p o) s = execThaw p o s := rfl
theorem exec_discard (p : Syl) (o : MS) (s : State) : exec (.discard p o) s = execDiscard p o s := rfl
theorem exec_vdrain (p : Syl) (sa : Fin 64) (s : State) : exec (.vdrain p sa) s = execVdrain p sa s := rfl
theorem exec_hinvv (p : Syl) (sa : Fin 64) (s : State) : exec (.hinvv p sa) s = execHinvv p sa s := rfl
theorem exec_scrub (p : Syl) (o : MS) (s : State) : exec (.scrub p o) s = execScrub p o s := rfl
theorem exec_trig (p : Syl) (n : Fin 256) (s : State) : exec (.trig p n) s = execTrig p n s := rfl
theorem exec_nop (p : Syl) (s : State) : exec (.nop p) s = execNop p s := rfl
theorem exec_brt (p : Syl) (o : BT) (s : State) : exec (.brt p o) s = execBrt p o s := rfl
theorem exec_brc (p : Syl) (o : BC) (s : State) : exec (.brc p o) s = execBrc p o s := rfl
theorem exec_jmp (p : Syl) (off : Int) (s : State) : exec (.jmp p off) s = execJmp p off s := rfl
theorem exec_jmpi (p : Syl) (sa : Fin 64) (s : State) : exec (.jmpi p sa) s = execJmpi p sa s := rfl
theorem exec_call (p : Syl) (sd : Fin 64) (off : Int) (s : State) : exec (.call p sd off) s = execCall p sd off s := rfl
theorem exec_ret (p : Syl) (sa : Fin 64) (s : State) : exec (.ret p sa) s = execRet p sa s := rfl
theorem exec_exit (p : Syl) (s : State) : exec (.exit p) s = execExit p s := rfl
theorem exec_yield (p : Syl) (s : State) : exec (.yield p) s = execYield p s := rfl
theorem exec_trap (p : Syl) (code : Fin 256) (s : State) : exec (.trap p code) s = execTrap p code s := rfl
theorem exec_eret (p : Syl) (s : State) : exec (.eret p) s = execEret p s := rfl
theorem exec_halt (p : Syl) (s : State) : exec (.halt p) s = execHalt p s := rfl
theorem exec_scl (j : Bool) (s : State) : exec (.scl j) s = execScl j s := rfl
theorem exec_band (j side : Bool) (s : State) : exec (.band j side) s = execBand j side s := rfl
theorem exec_uloop (count : Fin 4096) (len : Fin 2048) (s : State) : exec (.uloop count len) s = execUloop count len s := rfl
theorem exec_uloopG (ix : Fin 8) (len : Fin 2048) (s : State) : exec (.uloopG ix len) s = execUloopG ix len s := rfl
theorem exec_skip (j : Bool) (pt : Fin 4) (n : Fin 256) (s : State) : exec (.skip j pt n) s = execSkip j pt n s := rfl
theorem exec_contextSelect (core : Nat) (s : State) : exec (.contextSelect core) s = execContextSelect core s := rfl
theorem exec_asyncTrapEntry (g : Nat) (s : State) : exec (.asyncTrapEntry g) s = execAsyncTrapEntry g s := rfl
theorem exec_resultLanding (core : Nat) (s : State) : exec (.resultLanding core) s = execResultLanding core s := rfl
theorem exec_laqRequestLeave (g : Nat) (s : State) : exec (.laqRequestLeave g) s = execLaqRequestLeave g s := rfl
theorem exec_ldqFill (g : Nat) (s : State) : exec (.ldqFill g) s = execLdqFill g s := rfl
theorem exec_fullEmptyWaitEnd (g : Nat) (s : State) : exec (.fullEmptyWaitEnd g) s = execFullEmptyWaitEnd g s := rfl
theorem exec_loadPerform (id : Nat) (s : State) : exec (.loadPerform id) s = execLoadPerform id s := rfl
theorem exec_storePerform (id : Nat) (s : State) : exec (.storePerform id) s = execStorePerform id s := rfl
theorem exec_atomicPerform (id : Nat) (s : State) : exec (.atomicPerform id) s = execAtomicPerform id s := rfl
theorem exec_syncAcquireStep (id : Nat) (s : State) : exec (.syncAcquireStep id) s = execSyncAcquireStep id s := rfl
theorem exec_syncReleaseStep (id : Nat) (s : State) : exec (.syncReleaseStep id) s = execSyncReleaseStep id s := rfl
theorem exec_releasePerform (core id : Nat) (s : State) : exec (.releasePerform core id) s = execReleasePerform core id s := rfl
theorem exec_fenceComplete (g : Nat) (s : State) : exec (.fenceComplete g) s = execFenceComplete g s := rfl
theorem exec_pfenceComplete (g : Nat) (s : State) : exec (.pfenceComplete g) s = execPfenceComplete g s := rfl
theorem exec_bindPerform (g : Nat) (s : State) : exec (.bindPerform g) s = execBindPerform g s := rfl
theorem exec_tableWalkComplete (id : Nat) (s : State) : exec (.tableWalkComplete id) s = execTableWalkComplete id s := rfl
theorem exec_hinvalComplete (s : State) : exec .hinvalComplete s = execHinvalComplete s := rfl
theorem exec_barrierArrivalCount (g slot : Nat) (s : State) : exec (.barrierArrivalCount g slot) s = execBarrierArrivalCount g slot s := rfl
theorem exec_groupRetire (gid : Nat) (s : State) : exec (.groupRetire gid) s = execGroupRetire gid s := rfl
theorem exec_launchComplete (lid : Nat) (s : State) : exec (.launchComplete lid) s = execLaunchComplete lid s := rfl
theorem exec_dispatchStep (s : State) : exec .dispatchStep s = execDispatchStep s := rfl
theorem exec_launchPacketTake (q : Nat) (s : State) : exec (.launchPacketTake q) s = execLaunchPacketTake q s := rfl
theorem exec_stewardPacketTake (n : Nat) (s : State) : exec (.stewardPacketTake n) s = execStewardPacketTake n s := rfl
theorem exec_launchEngineAppend (core id : Nat) (s : State) : exec (.launchEngineAppend core id) s = execLaunchEngineAppend core id s := rfl
theorem exec_counterAddPerform (core id : Nat) (s : State) : exec (.counterAddPerform core id) s = execCounterAddPerform core id s := rfl
theorem exec_counterSetPerform (core id : Nat) (s : State) : exec (.counterSetPerform core id) s = execCounterSetPerform core id s := rfl
theorem exec_shdwPerform (core id : Nat) (s : State) : exec (.shdwPerform core id) s = execShdwPerform core id s := rfl
theorem exec_enginePartIssue (chan : Nat) (s : State) : exec (.enginePartIssue chan) s = execEnginePartIssue chan s := rfl
theorem exec_copyPartLand (id : Nat) (s : State) : exec (.copyPartLand id) s = execCopyPartLand id s := rfl
theorem exec_copyComplete (chan id : Nat) (s : State) : exec (.copyComplete chan id) s = execCopyComplete chan id s := rfl
theorem exec_putComplete (chan id : Nat) (s : State) : exec (.putComplete chan id) s = execPutComplete chan id s := rfl
theorem exec_sharedCopyPacketTake (q : Nat) (s : State) : exec (.sharedCopyPacketTake q) s = execSharedCopyPacketTake q s := rfl
theorem exec_feederEntryFill (slot : Nat) (s : State) : exec (.feederEntryFill slot) s = execFeederEntryFill slot s := rfl
theorem exec_pumpPartEnqueue (id : Nat) (s : State) : exec (.pumpPartEnqueue id) s = execPumpPartEnqueue id s := rfl
theorem exec_pumpPartExecute (bank : Nat) (s : State) : exec (.pumpPartExecute bank) s = execPumpPartExecute bank s := rfl
theorem exec_matrixCommandBegin (core : Nat) (s : State) : exec (.matrixCommandBegin core) s = execMatrixCommandBegin core s := rfl
theorem exec_routineComplete (core : Nat) (s : State) : exec (.routineComplete core) s = execRoutineComplete core s := rfl
theorem exec_governorCheck (core : Nat) (s : State) : exec (.governorCheck core) s = execGovernorCheck core s := rfl
theorem exec_governorFreezeEnd (core : Nat) (s : State) : exec (.governorFreezeEnd core) s = execGovernorFreezeEnd core s := rfl
theorem exec_faultBatchFlush (vf : Nat) (s : State) : exec (.faultBatchFlush vf) s = execFaultBatchFlush vf s := rfl
theorem exec_faultResume (vf ix : Nat) (s : State) : exec (.faultResume vf ix) s = execFaultResume vf ix s := rfl
theorem exec_traceSample (core : Nat) (s : State) : exec (.traceSample core) s = execTraceSample core s := rfl
theorem exec_parityAlert (slice : Nat) (again : Bool) (s : State) : exec (.parityAlert slice again) s = execParityAlert slice again s := rfl
theorem exec_internalLinkFailure (die link : Nat) (s : State) : exec (.internalLinkFailure die link) s = execInternalLinkFailure die link s := rfl
theorem exec_null (port : Nat) (f : Flit) (s : State) : exec (.null port f) s = execNull port f s := rfl
theorem exec_head (port : Nat) (f : Flit) (s : State) : exec (.head port f) s = execHead port f s := rfl
theorem exec_body (port : Nat) (f : Flit) (s : State) : exec (.body port f) s = execBody port f s := rfl
theorem exec_tail (port : Nat) (f : Flit) (s : State) : exec (.tail port f) s = execTail port f s := rfl
theorem exec_solo (port : Nat) (f : Flit) (s : State) : exec (.solo port f) s = execSolo port f s := rfl
theorem exec_flitCrcFail (port : Nat) (f : Flit) (s : State) : exec (.flitCrcFail port f) s = execFlitCrcFail port f s := rfl
theorem exec_nak (port : Nat) (f : Flit) (s : State) : exec (.nak port f) s = execNak port f s := rfl
theorem exec_nakRepeat (port : Nat) (s : State) : exec (.nakRepeat port) s = execNakRepeat port s := rfl
theorem exec_rsreq (port : Nat) (f : Flit) (s : State) : exec (.rsreq port f) s = execRsreq port f s := rfl
theorem exec_rsack (port : Nat) (f : Flit) (s : State) : exec (.rsack port f) s = execRsack port f s := rfl
theorem exec_rsreqTimeout (port seq : Nat) (s : State) : exec (.rsreqTimeout port seq) s = execRsreqTimeout port seq s := rfl
theorem exec_linkid (port : Nat) (f : Flit) (s : State) : exec (.linkid port f) s = execLinkid port f s := rfl
theorem exec_laneScoreUpdate (port : Nat) (margins : List Nat) (s : State) : exec (.laneScoreUpdate port margins) s = execLaneScoreUpdate port margins s := rfl
theorem exec_laneLockLost (port lane : Nat) (s : State) : exec (.laneLockLost port lane) s = execLaneLockLost port lane s := rfl
theorem exec_portTrainingAttempt (port passed : Nat) (s : State) : exec (.portTrainingAttempt port passed) s = execPortTrainingAttempt port passed s := rfl
theorem exec_portEnableWrite (port : Nat) (en : Bool) (s : State) : exec (.portEnableWrite port en) s = execPortEnableWrite port en s := rfl
theorem exec_laneHoldRelease (port lane : Nat) (s : State) : exec (.laneHoldRelease port lane) s = execLaneHoldRelease port lane s := rfl
theorem exec_treeAdv (port : Nat) (f : Flit) (s : State) : exec (.treeAdv port f) s = execTreeAdv port f s := rfl
theorem exec_treeDone (port : Nat) (f : Flit) (s : State) : exec (.treeDone port f) s = execTreeDone port f s := rfl
theorem exec_treeInstall (port : Nat) (f : Flit) (s : State) : exec (.treeInstall port f) s = execTreeInstall port f s := rfl
theorem exec_treeStableTimer (stamp : Nat) (s : State) : exec (.treeStableTimer stamp) s = execTreeStableTimer stamp s := rfl
theorem exec_fabricRequestInject (id : Nat) (s : State) : exec (.fabricRequestInject id) s = execFabricRequestInject id s := rfl
theorem exec_escapeWaitExpire (id : Nat) (s : State) : exec (.escapeWaitExpire id) s = execEscapeWaitExpire id s := rfl
theorem exec_escapeTableWaitExpire (id : Nat) (s : State) : exec (.escapeTableWaitExpire id) s = execEscapeTableWaitExpire id s := rfl
theorem exec_requestTimeout (tag stamp : Nat) (s : State) : exec (.requestTimeout tag stamp) s = execRequestTimeout tag stamp s := rfl
theorem exec_probeTimeout (m stamp : Nat) (s : State) : exec (.probeTimeout m stamp) s = execProbeTimeout m stamp s := rfl
theorem exec_probePeriodic (port : Nat) (s : State) : exec (.probePeriodic port) s = execProbePeriodic port s := rfl
theorem exec_fenceNotice (m : Nat) (s : State) : exec (.fenceNotice m) s = execFenceNotice m s := rfl
theorem exec_read (m : Msg) (s : State) : exec (.read m) s = execRead m s := rfl
theorem exec_putWithoutPost (m : Msg) (s : State) : exec (.putWithoutPost m) s = execPutWithoutPost m s := rfl
theorem exec_putWithPost (m : Msg) (s : State) : exec (.putWithPost m) s = execPutWithPost m s := rfl
theorem exec_atomic (m : Msg) (s : State) : exec (.atomic m) s = execAtomic m s := rfl
theorem exec_sync (m : Msg) (s : State) : exec (.sync m) s = execSync m s := rfl
theorem exec_pcmdPart (m : Msg) (s : State) : exec (.pcmdPart m) s = execPcmdPart m s := rfl
theorem exec_orderedMulticastToRoot (m : Msg) (s : State) : exec (.orderedMulticastToRoot m) s = execOrderedMulticastToRoot m s := rfl
theorem exec_orderedMulticastCopy (m : Msg) (s : State) : exec (.orderedMulticastCopy m) s = execOrderedMulticastCopy m s := rfl
theorem exec_ack (m : Msg) (s : State) : exec (.ack m) s = execAck m s := rfl
theorem exec_data (m : Msg) (s : State) : exec (.data m) s = execData m s := rfl
theorem exec_atomicData (m : Msg) (s : State) : exec (.atomicData m) s = execAtomicData m s := rfl
theorem exec_probeack (m : Msg) (s : State) : exec (.probeack m) s = execProbeack m s := rfl
theorem exec_error (m : Msg) (s : State) : exec (.error m) s = execError m s := rfl
theorem exec_allReducePartial (m : Msg) (s : State) : exec (.allReducePartial m) s = execAllReducePartial m s := rfl
theorem exec_allReduceResult (m : Msg) (s : State) : exec (.allReduceResult m) s = execAllReduceResult m s := rfl
theorem exec_allReduceAbort (m : Msg) (s : State) : exec (.allReduceAbort m) s = execAllReduceAbort m s := rfl
theorem exec_pull (m : Msg) (s : State) : exec (.pull m) s = execPull m s := rfl
theorem exec_pagedata (m : Msg) (s : State) : exec (.pagedata m) s = execPagedata m s := rfl
theorem exec_redirack (m : Msg) (s : State) : exec (.redirack m) s = execRedirack m s := rfl
theorem exec_arcontWrite (src : ReqSrc) (v : Nat) (ix : Nat) (c : Word64) (s : State) : exec (.arcontWrite src v ix c) s = execArcontWrite src v ix c s := rfl
theorem exec_arcfgWrite (v : Nat) (ix : Nat) (dw : Nat) (c : Word64) (s : State) : exec (.arcfgWrite v ix dw c) s = execArcfgWrite v ix dw c s := rfl
theorem exec_allreduceTimeout (v : Nat) (ix : Nat) (n : Nat) (s : State) : exec (.allreduceTimeout v ix n) s = execAllreduceTimeout v ix n s := rfl
theorem exec_migsClose (v : Nat) (s : State) : exec (.migsClose v) s = execMigsClose v s := rfl
theorem exec_redirackWrite (v : Nat) (c : Word64) (s : State) : exec (.redirackWrite v c) s = execRedirackWrite v c s := rfl
theorem exec_pagedataTimeout (tag stamp : Nat) (s : State) : exec (.pagedataTimeout tag stamp) s = execPagedataTimeout tag stamp s := rfl
theorem exec_pullTimeout (v u stamp : Nat) (s : State) : exec (.pullTimeout v u stamp) s = execPullTimeout v u stamp s := rfl
theorem exec_migrationPrefetch (v : Nat) (s : State) : exec (.migrationPrefetch v) s = execMigrationPrefetch v s := rfl
theorem exec_harbGo (v : Nat) (s : State) : exec (.harbGo v) s = execHarbGo v s := rfl
theorem exec_harbDone (v u : Nat) (s : State) : exec (.harbDone v u) s = execHarbDone v u s := rfl
theorem exec_harbDwellExpire (v u stamp : Nat) (s : State) : exec (.harbDwellExpire v u stamp) s = execHarbDwellExpire v u stamp s := rfl
theorem exec_hostMemoryRead (o : HostReq) (s : State) : exec (.hostMemoryRead o) s = execHostMemoryRead o s := rfl
theorem exec_hostMemoryWrite (o : HostReq) (s : State) : exec (.hostMemoryWrite o) s = execHostMemoryWrite o s := rfl
theorem exec_hostAtomicop (o : HostReq) (s : State) : exec (.hostAtomicop o) s = execHostAtomicop o s := rfl
theorem exec_atsInvalidation (lo hi : Nat) (s : State) : exec (.atsInvalidation lo hi) s = execAtsInvalidation lo hi s := rfl
theorem exec_coldStart (o : StartIn) (s : State) : exec (.coldStart o) s = execColdStart o s := rfl
theorem exec_warmReset (o : StartIn) (s : State) : exec (.warmReset o) s = execWarmReset o s := rfl
theorem exec_startStepTimeout (n stamp : Nat) (s : State) : exec (.startStepTimeout n stamp) s = execStartStepTimeout n stamp s := rfl
theorem exec_startstGo (o : StartIn) (s : State) : exec (.startstGo o) s = execStartstGo o s := rfl
theorem exec_powerAdjust (die watts total : Nat) (s : State) : exec (.powerAdjust die watts total) s = execPowerAdjust die watts total s := rfl
theorem exec_thermalCycleCount (u temp : Nat) (s : State) : exec (.thermalCycleCount u temp) s = execThermalCycleCount u temp s := rfl
theorem exec_wearFlashUpdate (s : State) : exec .wearFlashUpdate s = execWearFlashUpdate s := rfl
theorem exec_powerOff (s : State) : exec .powerOff s = execPowerOff s := rfl
theorem exec_attestationQuote (tag : Nat) (s : State) : exec (.attestationQuote tag) s = execAttestationQuote tag s := rfl
theorem exec_registerWrite (src : ReqSrc) (pa : Nat) (c : Word64) (n : Fin 9) (s : State) : exec (.registerWrite src pa c n) s = execRegisterWrite src pa c n s := rfl
theorem exec_uncorrectableError (o : ErrAt) (s : State) : exec (.uncorrectableError o) s = execUncorrectableError o s := rfl
theorem exec_faultRingRoom (vf : Nat) (s : State) : exec (.faultRingRoom vf) s = execFaultRingRoom vf s := rfl
theorem exec_eventRingRoom (s : State) : exec .eventRingRoom s = execEventRingRoom s := rfl
theorem exec_escapeParityQuiet (stamp : Nat) (s : State) : exec (.escapeParityQuiet stamp) s = execEscapeParityQuiet stamp s := rfl
theorem exec_fabricJoin (s : State) : exec .fabricJoin s = execFabricJoin s := rfl

end Sys2Proof.Machine
end

section
/-!
PROOFS. The X unit's arithmetic (R109, R111, R112): sums, products, shifts, bit fields, choices, one-operand and immediate forms.
-/
namespace Sys2Proof.Machine
open Sys2Proof.Claims

/-! Shifts and rotations as arithmetic (R111). -/

theorem shiftLeft_eq_ofNat (a : Word64) (n : Nat) : a <<< n = BitVec.ofNat 64 (a.toNat * 2 ^ n) := by
  apply BitVec.eq_of_toNat_eq
  rw [BitVec.toNat_shiftLeft, Nat.shiftLeft_eq, BitVec.toNat_ofNat]

theorem ushiftRight_eq_ofNat (a : Word64) (n : Nat) : a >>> n = BitVec.ofNat 64 (a.toNat / 2 ^ n) := by
  apply BitVec.eq_of_toNat_eq
  have hlt : a.toNat / 2 ^ n < 2 ^ 64 := Nat.lt_of_le_of_lt (Nat.div_le_self ..) a.isLt
  rw [BitVec.toNat_ushiftRight, Nat.shiftRight_eq_div_pow, BitVec.toNat_ofNat, Nat.mod_eq_of_lt hlt]

theorem sshiftRight_eq_ofInt (a : Word64) (n : Nat) : a.sshiftRight n = BitVec.ofInt 64 (a.toInt / 2 ^ n) := by
  rw [← BitVec.ofInt_toInt (x := a.sshiftRight n), BitVec.toInt_sshiftRight, Int.shiftRight_eq_div_pow]
  norm_cast

theorem rotateLeft_eq {a : Word64} {n : Nat} (hn : n < 64) : a.rotateLeft n = (a <<< n) ||| (a >>> (64 - n)) := by
  rw [BitVec.rotateLeft, Nat.mod_eq_of_lt hn, BitVec.rotateLeftAux]

/-- Settles O1: each form is a run of format XR, and its function the arithmetic named. -/
theorem sumsProductsLogic : Obligations.SumsProductsLogic := by
  intro p o s h
  have run (lat : Nat) (f : Word64 → Word64 → Word64 → Word64) := runXR_of_xrReady (lat := lat) (f := f) h
  have hhalf (x : Int) : highHalf x = BitVec.ofInt 64 (x / 2 ^ 64) := by rw [highHalf]; norm_cast
  refine ⟨(exec_add ..).trans (run ..), (exec_sub ..).trans (run ..), (exec_mul ..).trans (run ..),
    (exec_mulh ..).trans ((run ..).trans ?_), (exec_mulhU ..).trans (run ..), (exec_and ..).trans (run ..),
    (exec_or ..).trans (run ..), (exec_xor ..).trans (run ..), (exec_andn ..).trans (run ..),
    (exec_shl ..).trans ((run ..).trans ?_), (exec_shr ..).trans ((run ..).trans ?_),
    (exec_sra ..).trans ((run ..).trans ?_), (exec_rotl ..).trans ((run ..).trans ?_)⟩
  · rw [hhalf]
  · rw [shiftLeft_eq_ofNat, count8]
  · rw [ushiftRight_eq_ofNat, count8]
  · rw [sshiftRight_eq_ofInt, count8]
  · rw [rotateLeft_eq (Nat.mod_lt _ (by decide)), count8]

/-! Bit fields (R112). -/

theorem testBit_fieldOf (a b : Word64) (i : Nat) :
    (fieldOf a b).testBit i = (decide (i < fieldLen b) && a.getLsbD (fieldPos b + i)) := by
  rw [fieldOf, Nat.testBit_mod_two_pow, Nat.testBit_div_two_pow, BitVec.getLsbD, Nat.add_comm]

/-- A field whose top bit is set, read as a negative number. -/
theorem getLsbD_ofInt_sub_two_pow {f n i : Nat} (hf : f < 2 ^ n) (hn : n ≤ 64) (hi : i < 64) :
    (BitVec.ofInt 64 ((f : Int) - (2 ^ n : Nat))).getLsbD i = if i < n then f.testBit i else true := by
  have hle : 2 ^ n ≤ 2 ^ 64 := Nat.pow_le_pow_right (by decide) hn
  have hsplit : 2 ^ 64 = 2 ^ n * 2 ^ (64 - n) := by rw [← Nat.pow_add, Nat.add_sub_cancel' hn]
  have hone := Nat.one_le_two_pow (n := 64 - n)
  have hval : (2 ^ n * (2 ^ (64 - n) - 1) + f : Nat) = (f : Int) - (2 ^ n : Nat) + (2 ^ 64 : Nat) := by
    rw [Nat.mul_sub, ← hsplit]
    omega
  have hof : BitVec.ofInt 64 ((f : Int) - (2 ^ n : Nat)) = BitVec.ofNat 64 (2 ^ n * (2 ^ (64 - n) - 1) + f) := by
    rw [← BitVec.ofInt_natCast, hval]
    apply BitVec.eq_of_toInt_eq
    rw [BitVec.toInt_ofInt, BitVec.toInt_ofInt, Int.add_bmod_right]
  rw [hof, BitVec.getLsbD_ofNat, Nat.testBit_two_pow_mul_add _ hf, Nat.testBit_two_pow_sub_one]
  split <;> simp <;> omega

/-- R112: EXTB.s repeats the field's top bit. -/
theorem getLsbD_extbS (a b : Word64) {i : Nat} (hi : i < 64) :
    (extbS a b).getLsbD i = (fieldLen b != 0 && a.getLsbD (fieldPos b + min i (fieldLen b - 1))) := by
  have hle : fieldLen b ≤ 64 := Nat.min_le_right ..
  have hlt : fieldOf a b < 2 ^ fieldLen b := Nat.mod_lt _ (Nat.two_pow_pos _)
  have htop : (fieldOf a b).testBit (fieldLen b - 1) = decide (2 ^ (fieldLen b - 1) ≤ fieldOf a b ∧ fieldLen b ≠ 0) := by
    by_cases h0 : fieldLen b = 0
    · rw [testBit_fieldOf]
      simp [h0]
    · have hpow : 2 ^ fieldLen b = 2 * 2 ^ (fieldLen b - 1) := by rw [← Nat.pow_succ', Nat.succ_eq_add_one, Nat.sub_add_cancel (by omega)]
      rw [Nat.testBit_eq_decide_div_mod_eq]
      by_cases hf : 2 ^ (fieldLen b - 1) ≤ fieldOf a b
      · have hdiv : fieldOf a b / 2 ^ (fieldLen b - 1) = 1 :=
          Nat.div_eq_of_lt_le (by omega) (by omega)
        simp [hdiv, hf, h0]
      · simp [Nat.div_eq_of_lt (Nat.not_le.mp hf), hf]
  unfold extbS
  dsimp only
  split
  · next h0 => simp [h0]
  · next h0 =>
    have hmin {j : Nat} (hj : j < fieldLen b) : a.getLsbD (fieldPos b + j) = (fieldOf a b).testBit j := by
      rw [testBit_fieldOf]
      simp [hj]
    rw [hmin (by omega)]
    split
    · next hf =>
      rw [getLsbD_ofInt_sub_two_pow hlt hle hi]
      split
      · next hi' => rw [Nat.min_eq_left (by omega)]; simp [h0]
      · next hi' => rw [Nat.min_eq_right (by omega), htop]; simp [h0, hf]
    · next hf =>
      rw [BitVec.getLsbD_ofNat]
      by_cases hi' : i < fieldLen b
      · rw [Nat.min_eq_left (by omega)]; simp [h0, hi]
      · rw [Nat.min_eq_right (by omega), htop, testBit_fieldOf]; simp [hf, hi']

/-- R112: DEPB writes the field and nothing else. -/
theorem getLsbD_depb (a b d : Word64) {i : Nat} (hi : i < 64) :
    (depb a b d).getLsbD i =
      if fieldPos b ≤ i ∧ i < fieldPos b + fieldLen b then a.getLsbD (i - fieldPos b) else d.getLsbD i := by
  have hm : (BitVec.ofNat 64 (ones (fieldLen b) * 2 ^ fieldPos b)).getLsbD i =
      decide (fieldPos b ≤ i ∧ i < fieldPos b + fieldLen b) := by
    rw [BitVec.getLsbD_ofNat, ones, Nat.testBit_mul_two_pow, Nat.testBit_two_pow_sub_one]
    simp only [hi, decide_true, Bool.true_and, ← Bool.decide_and, decide_eq_decide]
    omega
  simp only [depb, BitVec.getLsbD_or, BitVec.getLsbD_and, BitVec.getLsbD_not, BitVec.getLsbD_shiftLeft, hm, hi]
  split
  · next h => simp [h]
  · next h => simp [h]

/-- Settles O3: EXTB is the field itself, EXTB.s and DEPB bit by bit. -/
theorem fieldsMove : Obligations.FieldsMove := by
  intro p o s h
  have run (f : Word64 → Word64 → Word64 → Word64) := runXR_of_xrReady (lat := 1) (f := f) h
  exact ⟨(exec_extb ..).trans (run ..), ⟨_, (exec_extbS ..).trans (run ..), fun i => getLsbD_extbS _ _ i.isLt⟩,
    ⟨_, (exec_depb ..).trans (run ..), fun i => getLsbD_depb _ _ _ i.isLt⟩⟩

/-! Choices and counts (R109). -/

/-- A choice between two words whose value is known as a number. -/
theorem ite_eq_ofInt {c : Prop} [Decidable c] {a b : Word64} {x : Int} (h1 : c → x = a.toInt) (h2 : ¬ c → x = b.toInt) :
    (if c then a else b) = BitVec.ofInt 64 x := by
  split
  · next h => rw [h1 h, BitVec.ofInt_toInt]
  · next h => rw [h2 h, BitVec.ofInt_toInt]
theorem ite_eq_ofNat {c : Prop} [Decidable c] {a b : Word64} {x : Nat} (h1 : c → x = a.toNat) (h2 : ¬ c → x = b.toNat) :
    (if c then a else b) = BitVec.ofNat 64 x := by
  split
  · next h => rw [h1 h, BitVec.ofNat_toNat, BitVec.setWidth_eq]
  · next h => rw [h2 h, BitVec.ofNat_toNat, BitVec.setWidth_eq]

theorem abs_eq_natAbs (a : Word64) : (if a.msb then -a else a) = BitVec.ofNat 64 a.toInt.natAbs := by
  have hlt := a.isLt
  apply BitVec.eq_of_toNat_eq
  rw [BitVec.toNat_ofNat, BitVec.toInt_eq_msb_cond]
  split
  · next h =>
    rw [BitVec.toNat_neg]
    congr 1
    omega
  · rw [Int.natAbs_natCast, Nat.mod_eq_of_lt hlt]

theorem shiftLeft_eq_mul (b : Word64) (n : Nat) : b <<< n = b * BitVec.ofNat 64 (2 ^ n) := by
  rw [shiftLeft_eq_ofNat]
  apply BitVec.eq_of_toNat_eq
  rw [BitVec.toNat_ofNat, BitVec.toNat_mul, BitVec.toNat_ofNat, Nat.mul_mod_mod]

/-- The zero bits above the highest one bit among the low n. -/
theorem leadZeros_spec (a : Word64) (n : Nat) :
    leadZeros a n ≤ n ∧ a.toNat % 2 ^ n < 2 ^ (n - leadZeros a n) ∧
      (leadZeros a n < n → a.getLsbD (n - 1 - leadZeros a n) = true) := by
  induction n with
  | zero => exact ⟨Nat.le_refl _, by simp [leadZeros, Nat.mod_one], fun h => absurd h (Nat.lt_irrefl _)⟩
  | succ n ih =>
    obtain ⟨hle, hlt, htop⟩ := ih
    rw [leadZeros]
    split
    · next hn =>
      exact ⟨Nat.zero_le _, Nat.mod_lt _ (Nat.two_pow_pos _), fun _ => by simpa using hn⟩
    · next hn =>
      have hmod : a.toNat % 2 ^ (n + 1) = a.toNat % 2 ^ n := by
        have hbit : a.toNat / 2 ^ n % 2 = 0 := by
          rw [BitVec.getLsbD, Nat.testBit_eq_decide_div_mod_eq, decide_eq_true_eq] at hn
          omega
        rw [Nat.mod_pow_succ, hbit]
        omega
      refine ⟨by omega, ?_, fun h => ?_⟩
      · rw [hmod, show n + 1 - (1 + leadZeros a n) = n - leadZeros a n by omega]
        exact hlt
      · rw [show n + 1 - 1 - (1 + leadZeros a n) = n - 1 - leadZeros a n by omega]
        exact htop (by omega)

/-! Operands of one source, and MOV. -/

section
variable {p : Syl} {s : State}

theorem runXU_of_xuReady {o : XU} {f : Word64 → Word64} (h : xuReady p o s = true) :
    runXU p o s f = .next (xuNext o (f (srcU o s)) s) := by
  have hr : xrReady p { sd := o.sd, sa := o.sa, sb := 0, qs := o.qs, qd := o.qd, qb := false } s = true := by
    simpa only [xrReady, xuReady, Bool.or_false] using h
  rw [runXU, runXR_of_xrReady hr]
  simp only [xrNext, Bool.or_false]
  rfl

theorem execMov_of_ready {o : XV} (h : ready p o.qs o.qd s = true) :
    execMov p o s = .next (deliver (afterPop o.qs s) o.qd (classDest (issuer s) o.dc.val o.d.val)
      (wide64 (if o.qs then (queueHead s).truncate 64 else readClass (issuer s) o.sc.val o.s.val)) 1 1 0) := by
  obtain ⟨hg, hpop, hroom⟩ := ready_iff.mp h
  rw [execMov, issue_on hg, withRoom_of_roomFor hroom, withPop_of_popReady hpop]
  cases o.qs <;> rfl

end

/-- Settles O4: runs of format XR, of its one-source form, scalar results from registers, and MOV. -/
theorem choicesImmediatesMoves : Obligations.ChoicesImmediatesMoves := by
  refine ⟨fun p o s h => ?_, fun p o s h => ?_, fun p o s h => (exec_addi ..).trans (runS_on h),
    fun p o s h => (exec_movi ..).trans (runS_on h), fun p o s h => ?_, fun p o s h => (exec_mov ..).trans (execMov_of_ready h)⟩
  · have run (f : Word64 → Word64 → Word64 → Word64) := runXR_of_xrReady (lat := 1) (f := f) h
    refine ⟨(exec_min ..).trans ((run ..).trans ?_), (exec_max ..).trans ((run ..).trans ?_),
      (exec_minU ..).trans ((run ..).trans ?_), (exec_maxU ..).trans ((run ..).trans ?_),
      fun n => (exec_lea ..).trans ((run ..).trans ?_), fun n => (exec_sel ..).trans (run ..)⟩
    · rw [ite_eq_ofInt (fun h => Int.min_eq_left (Int.le_of_lt h)) fun h => Int.min_eq_right (Int.not_lt.mp h)]
    · rw [ite_eq_ofInt (fun h => Int.max_eq_left (Int.le_of_lt h)) fun h => Int.max_eq_right (Int.not_lt.mp h)]
    · rw [ite_eq_ofNat (fun h => Nat.min_eq_left (Nat.le_of_lt h)) fun h => Nat.min_eq_right (Nat.not_lt.mp h)]
    · rw [ite_eq_ofNat (fun h => Nat.max_eq_left (Nat.le_of_lt h)) fun h => Nat.max_eq_right (Nat.not_lt.mp h)]
    · rw [shiftLeft_eq_mul]
  · have run (f : Word64 → Word64) := runXU_of_xuReady (f := f) h
    obtain ⟨hle, hlt, htop⟩ := leadZeros_spec (srcU o s) 64
    rw [Nat.mod_eq_of_lt (srcU o s).isLt] at hlt
    refine ⟨(exec_abs ..).trans ((run ..).trans ?_), ⟨_, (exec_clz ..).trans (run ..), hle, hlt, htop⟩,
      (exec_popc ..).trans ((run ..).trans ?_)⟩
    · rw [abs_eq_natAbs]
    · rw [onesCount_eq_countP]
  · refine ⟨(exec_shlImm ..).trans ((runS_on h).trans ?_), (exec_shrImm ..).trans ((runS_on h).trans ?_),
      (exec_sraImm ..).trans ((runS_on h).trans ?_), (exec_rotlImm ..).trans ((runS_on h).trans ?_)⟩
    · rw [shiftLeft_eq_ofNat]
    · rw [ushiftRight_eq_ofNat]
    · rw [sshiftRight_eq_ofInt]
    · rw [rotateLeft_eq o.n.isLt]

end Sys2Proof.Machine
end

section
/-!
PROOFS. The V unit's forms (R84, R121, R124 to R131, R134): what a syllable answers where its operands are there and nothing
traps, then element arithmetic, bits, comparison, conversion and lane movement.
-/
namespace Sys2Proof.Machine
open Sys2Proof.Claims

section
variable {p : Syl} {s : State}

/-- A V syllable whose operands are there and whose flags trap not delivers its function of what it reads. -/
theorem runV_of_ready {qs : Bool} {va km lat : Nat} {dst : VDst} {wm : Word64 → Word64} {f : VIn → VWord × BitVec 5}
    (h : ready p qs dst.isSdq s = true) (ht : traps0 s (f (vIn qs va km s)).2 = true) :
    runV p qs va km lat dst wm s f = .next (vNext qs lat dst (wm ((issuer s).rdK km)) (f (vIn qs va km s)) s) := by
  obtain ⟨hg, hpop, hroom⟩ := ready_iff.mp h
  have htr : ¬ (trapping (issuer s).fmode (f (vIn qs va km s)).2 != 0) = true := by
    simpa [trapping, traps0] using ht
  rw [runV, issue_on hg, withRoom_of_roomFor hroom, withPop_of_popReady hpop]
  cases qs <;> exact if_neg htr

theorem vrDst_isSdq (o : VR) : (vrDst o).isSdq = o.qd := by
  unfold vrDst
  cases o.qd <;> rfl

/-- Format VR. -/
theorem runVR_of_ready {o : VR} {lat : Nat} {f : VIn → VWord → VWord → VWord × BitVec 5} (h : ready p o.qs o.qd s = true)
    (ht : traps0 s (f (vrIn o s) ((issuer s).rdV o.vb.val) ((issuer s).rdV o.vd.val)).2 = true) :
    runVR p o lat s f =
      .next (vrNext o lat (f (vrIn o s) ((issuer s).rdV o.vb.val) ((issuer s).rdV o.vd.val)) s) := by
  rw [← vrDst_isSdq o] at h
  exact runV_of_ready h ht

/-- A form of format VR that raises no flag. -/
theorem runVR_quiet {o : VR} {lat : Nat} {f : VIn → VWord → VWord → VWord × BitVec 5} (h : ready p o.qs o.qd s = true)
    (h0 : (f (vrIn o s) ((issuer s).rdV o.vb.val) ((issuer s).rdV o.vd.val)).2 = 0) :
    runVR p o lat s f =
      .next (vrNext o lat (f (vrIn o s) ((issuer s).rdV o.vb.val) ((issuer s).rdV o.vd.val)) s) :=
  runVR_of_ready h (by rw [h0]; simp [traps0])

/-- Format VR on elements. -/
theorem runVE_of_vrReady {o : VR} {t : VTy} {lat : Nat} {f : Word32 → Word32 → Nat → Nat → Nat → Nat × BitVec 5}
    (h : vrReady p o (vrEach t o s f) s = true) : runVE p t o lat s f = .next (vrNext o lat (vrEach t o s f) s) := by
  obtain ⟨hr, ht⟩ := Bool.and_eq_true_iff.mp h
  exact runVR_of_ready hr ht

end

/-- Settles O6: each form is a run of format VR on elements. -/
theorem vectorArithmetic : Obligations.VectorArithmetic := by
  intro p t o s
  exact ⟨fun h => (exec_vadd ..).trans (runVE_of_vrReady h), fun h => (exec_vsub ..).trans (runVE_of_vrReady h),
    fun h => (exec_vmul ..).trans (runVE_of_vrReady h), fun h => (exec_vmin ..).trans (runVE_of_vrReady h),
    fun h => (exec_vmax ..).trans (runVE_of_vrReady h), fun h => (exec_vfma ..).trans (runVE_of_vrReady h),
    fun h => (exec_vfmaNa ..).trans (runVE_of_vrReady h), fun h => (exec_vscale ..).trans (runVE_of_vrReady h),
    fun h => (exec_vabs ..).trans (runVE_of_vrReady h)⟩

/-! Flags of many elements together. -/

theorem zero_or_flags (x : BitVec 5) : 0 ||| x = x := BitVec.zero_or

theorem foldl_or (l : List (BitVec 5)) (a : BitVec 5) : l.foldl (· ||| ·) a = a ||| l.foldl (· ||| ·) 0 := by
  induction l generalizing a with
  | nil => simp
  | cons x l ih => rw [List.foldl_cons, List.foldl_cons, ih, ih (0 ||| x), zero_or_flags, BitVec.or_assoc]

theorem orAll_eq (l : List (Nat × BitVec 5)) : orAll l = (l.map (·.2)).foldl (· ||| ·) 0 := by
  rw [orAll, List.foldl_map]

@[simp] theorem orAll_nil : orAll [] = 0 := rfl
theorem orAll_cons (x : Nat × BitVec 5) (l : List (Nat × BitVec 5)) : orAll (x :: l) = x.2 ||| orAll l := by
  rw [orAll_eq, orAll_eq, List.map_cons, List.foldl_cons, foldl_or, zero_or_flags]
theorem orAll_append (l m : List (Nat × BitVec 5)) : orAll (l ++ m) = orAll l ||| orAll m := by
  induction l with
  | nil => simp
  | cons x l ih => rw [List.cons_append, orAll_cons, orAll_cons, ih, BitVec.or_assoc]
theorem orAll_eq_zero {l : List (Nat × BitVec 5)} (h : ∀ x ∈ l, x.2 = 0) : orAll l = 0 := by
  induction l with
  | nil => rfl
  | cons x l ih =>
    rw [orAll_cons, h x (List.mem_cons_self ..), ih fun y hy => h y (List.mem_cons_of_mem _ hy), zero_or_flags]

/-- Elements without flags raise none together. -/
theorem mapE_quiet {w : Nat} {k : Word64} {f : Nat → Nat × BitVec 5} (h : ∀ e, (f e).2 = 0) : (mapE w k f).2 = 0 := by
  refine orAll_eq_zero fun x hx => ?_
  obtain ⟨e, -, rfl⟩ := List.mem_map.mp hx
  split
  · exact h e
  · rfl

/-- The elements that a vector shift of kind k forms (R129). -/
def shifted (o : VR) (k : Nat) (s : State) : VWord × BitVec 5 :=
  let x := vrIn o s
  let w := if o.md then 16 else 32
  mapE w x.km fun e => (shiftE k w (elemOf x.a w e) (elemOf (x.c.rdV o.vb.val) w e), 0)

theorem shifted_quiet (o : VR) (k : Nat) (s : State) : (shifted o k s).2 = 0 := mapE_quiet fun _ => rfl

theorem runShift_of_ready {p : Syl} {o : VR} {s : State} (k : Nat) (h : ready p o.qs o.qd s = true) :
    runShift p o k s = .next (vrNext o 2 (shifted o k s) s) := by
  rw [runShift, runVR_quiet h]
  · rfl
  · exact mapE_quiet fun _ => rfl

/-- Settles O7: no form raises a flag, so each delivers its function of the operands. -/
theorem vectorBits : Obligations.VectorBits := by
  intro p o s h x b w sh
  refine ⟨(exec_vand ..).trans (runVR_quiet h rfl), (exec_vor ..).trans (runVR_quiet h rfl),
    (exec_vxor ..).trans (runVR_quiet h rfl), (exec_vmov ..).trans (runVR_quiet h rfl), ?_,
    ⟨shifted_quiet o 0 s, (exec_vshl ..).trans (runShift_of_ready 0 h)⟩,
    ⟨shifted_quiet o 1 s, (exec_vshr ..).trans (runShift_of_ready 1 h)⟩,
    ⟨shifted_quiet o 2 s, (exec_vsra ..).trans (runShift_of_ready 2 h)⟩⟩
  rw [← vrDst_isSdq o] at h
  exact (exec_vsel ..).trans (runV_of_ready h (by simp [traps0]))

/-! Comparison (R127). -/

/-- Fields of one bit: the bit at i is the list's. -/
theorem getLsbD_vecOf_one (l : List Nat) {i : Nat} (hi : i < 2048) :
    (vecOf l 1).getLsbD i = (match l[i]? with | some x => x % 2 == 1 | none => false) := by
  have fold (l : List Nat) (i : Nat) : (l.foldr (fun x acc => acc * 2 ^ 1 + x % 2 ^ 1) 0).testBit i =
      (match l[i]? with | some x => x % 2 == 1 | none => false) := by
    induction l generalizing i with
    | nil => simp
    | cons x l ih =>
      rw [List.foldr_cons]
      cases i with
      | zero =>
        rw [Nat.testBit_zero]
        simp only [List.getElem?_cons_zero, Nat.pow_one, Nat.mul_add_mod_self_right, Nat.mod_mod]
        rfl
      | succ i =>
        rw [Nat.testBit_succ, show (l.foldr (fun x acc => acc * 2 ^ 1 + x % 2 ^ 1) 0 * 2 ^ 1 + x % 2 ^ 1) / 2 =
          l.foldr (fun x acc => acc * 2 ^ 1 + x % 2 ^ 1) 0 by omega, ih]
        simp
  rw [vecOf, BitVec.getLsbD_ofNat, fold]
  simp [hi]

/-- The flags of a list of comparisons together. -/
def condFlags (l : List (Bool × BitVec 5)) : BitVec 5 := l.foldl (fun f y => f ||| y.2) 0

theorem condFlags_eq (l : List (Bool × BitVec 5)) : condFlags l = (l.map (·.2)).foldl (· ||| ·) 0 := by
  rw [condFlags, List.foldl_map]
theorem condFlags_append (l m : List (Bool × BitVec 5)) : condFlags (l ++ m) = condFlags l ||| condFlags m := by
  rw [condFlags_eq, condFlags_eq, condFlags_eq, List.map_append, List.foldl_append, foldl_or]

/-- The lanes that a mask keeps: their flags together are those of the active lanes' elements. -/
theorem orAll_lanes (k : Word64) (el : Nat → List (Bool × BitVec 5)) (v : Nat → Nat) (l : List Nat) :
    orAll (l.map fun i => if k.getLsbD i then (v i, condFlags (el i)) else (0, 0)) =
      condFlags ((l.filter fun i => k.getLsbD i).flatMap el) := by
  induction l with
  | nil => rfl
  | cons i l ih =>
    rw [List.map_cons, orAll_cons, ih, List.filter_cons]
    split
    · rw [List.flatMap_cons, condFlags_append]
    · exact zero_or_flags _

theorem traps0_or {s : State} {a b : BitVec 5} (ha : traps0 s a = true) (hb : traps0 s b = true) :
    traps0 s (a ||| b) = true := by
  simp only [traps0, beq_iff_eq] at ha hb ⊢
  rw [BitVec.and_comm, BitVec.and_or_distrib_left, BitVec.and_comm, ha, BitVec.and_comm, hb]
  rfl

theorem traps0_condFlags {s : State} {l : List (Bool × BitVec 5)} (h : ∀ y ∈ l, traps0 s y.2 = true) :
    traps0 s (condFlags l) = true := by
  induction l with
  | nil => simp [condFlags, traps0]
  | cons y l ih =>
    have hy : condFlags (y :: l) = y.2 ||| condFlags l := by
      rw [condFlags_eq, condFlags_eq, List.map_cons, List.foldl_cons, foldl_or, zero_or_flags]
    rw [hy]
    exact traps0_or (h y (List.mem_cons_self ..)) (ih fun z hz => h z (List.mem_cons_of_mem _ hz))

/-- The comparisons of lane i's elements. -/
def laneConds (t : VTy) (cond : Nat) (x : VIn) (b : VWord) (i : Nat) : List (Bool × BitVec 5) :=
  (List.range (32 / vtWidth t)).map fun j =>
    cmpE t x.m cond (elemOf x.a (vtWidth t) (32 / vtWidth t * i + j)) (elemOf b (vtWidth t) (32 / vtWidth t * i + j))

/-- What VCMP forms of each lane. -/
def laneCmp (t : VTy) (cond : Nat) (x : VIn) (b : VWord) (i : Nat) : Nat × BitVec 5 :=
  if x.km.getLsbD i then
    (if (laneConds t cond x b i).all (·.1) then 1 else 0, condFlags (laneConds t cond x b i))
  else (0, 0)

theorem getLsbD_laneCmp (t : VTy) (cond : Nat) (x : VIn) (b : VWord) (i : Fin 64) :
    (vecOf (((List.range 64).map (laneCmp t cond x b)).map (·.1)) 1).getLsbD i.val =
      (x.km.getLsbD i.val && (laneConds t cond x b i.val).all (·.1)) := by
  rw [getLsbD_vecOf_one _ (by omega), List.map_map, List.getElem?_map, List.getElem?_range i.isLt]
  simp only [Option.map_some, Function.comp_apply, laneCmp]
  split
  · next h =>
    rw [h, Bool.true_and]
    cases (laneConds t cond x b i.val).all (·.1) <;> rfl
  · next h =>
    rw [Bool.eq_false_iff.mpr h]
    rfl

/-- What VCMP forms of all lanes. -/
def lanesCmp (t : VTy) (cond : Nat) (x : VIn) (b : VWord) : VWord × BitVec 5 :=
  (vecOf (((List.range 64).map (laneCmp t cond x b)).map (·.1)) 1, orAll ((List.range 64).map (laneCmp t cond x b)))

theorem execVcmp_eq (p : Syl) (t : VTy) (o : VK) (s : State) :
    execVcmp p t o s = runV p o.qs o.va.val o.km.val 2 (.mask o.kd.val) (fun _ => 1) s fun x =>
      lanesCmp t o.cond.val x (x.c.rdV o.vb.val) := rfl

theorem orAll_laneCmp (t : VTy) (cond : Nat) (x : VIn) (b : VWord) (l : List Nat) :
    orAll (l.map (laneCmp t cond x b)) = condFlags ((l.filter fun i => x.km.getLsbD i).flatMap (laneConds t cond x b)) :=
  orAll_lanes x.km (laneConds t cond x b) _ l

theorem lanesCmp_flags (t : VTy) (cond : Nat) (x : VIn) (b : VWord) :
    (lanesCmp t cond x b).2 = condFlags (((List.range 64).filter fun i => x.km.getLsbD i).flatMap (laneConds t cond x b)) := by
  unfold lanesCmp
  exact orAll_laneCmp ..

theorem traps0_lanesCmp {s : State} {t : VTy} {cond : Nat} {x : VIn} {b : VWord}
    (h : ∀ i : Fin 64, x.km.getLsbD i.val = true → ∀ y ∈ laneConds t cond x b i.val, traps0 s y.2 = true) :
    traps0 s (lanesCmp t cond x b).2 = true := by
  rw [lanesCmp_flags]
  refine traps0_condFlags fun y hy => ?_
  obtain ⟨i, hi, hy⟩ := List.mem_flatMap.mp hy
  obtain ⟨hlt, hk⟩ := List.mem_filter.mp hi
  exact h ⟨i, List.mem_range.mp hlt⟩ hk y hy

theorem lanesCmp_eq (t : VTy) (cond : Nat) (x : VIn) (b : VWord) :
    lanesCmp t cond x b = (vecOf (((List.range 64).map (laneCmp t cond x b)).map (·.1)) 1,
      condFlags (((List.range 64).filter fun i => x.km.getLsbD i).flatMap (laneConds t cond x b))) :=
  Prod.ext rfl (lanesCmp_flags ..)

theorem runFunc_of_vrReady {p : Syl} {o : VR} {s : State} (k : Nat)
    (h : vrReady p o (vrEach .f32 o s fun m r a _ _ => fFunc k m r a) s = true) :
    runFunc p o k s = .next (vrNext o 8 (vrEach .f32 o s fun m r a _ _ => fFunc k m r a) s) := runVE_of_vrReady h

theorem execVcvt_of_ready {p : Syl} {o : VX} {s : State} (h : ready p o.qs false s = true)
    (ht : traps0 s (mapE (32 / perLane o.tf.val) ((issuer s).rdK o.km.val) fun e =>
      if e < 64 * min (perLane o.ff.val) (perLane o.tf.val) then
        (cvtPlace o.tf.val (convert o.ff.val o.tf.val (issuer s).fmode (rndE (genAfter s) (32 / perLane o.tf.val) e)
          (cvtRead o.ff.val (vIn o.qs o.va.val o.km.val s).a e)).1,
          (convert o.ff.val o.tf.val (issuer s).fmode (rndE (genAfter s) (32 / perLane o.tf.val) e)
          (cvtRead o.ff.val (vIn o.qs o.va.val o.km.val s).a e)).2)
      else (0, 0)).2 = true) :
    execVcvt p o s = .next (vNext o.qs 3 (.vec o.vd.val) ((issuer s).rdK o.km.val)
      (mapE (32 / perLane o.tf.val) ((issuer s).rdK o.km.val) fun e =>
      if e < 64 * min (perLane o.ff.val) (perLane o.tf.val) then
        (cvtPlace o.tf.val (convert o.ff.val o.tf.val (issuer s).fmode (rndE (genAfter s) (32 / perLane o.tf.val) e)
          (cvtRead o.ff.val (vIn o.qs o.va.val o.km.val s).a e)).1,
          (convert o.ff.val o.tf.val (issuer s).fmode (rndE (genAfter s) (32 / perLane o.tf.val) e)
          (cvtRead o.ff.val (vIn o.qs o.va.val o.km.val s).a e)).2)
      else (0, 0)) s) := by
  rw [execVcvt, runV_of_ready h]
  · rfl
  · exact ht

/-- VCMP, once its operands are there and no flag of an active lane traps. -/
theorem exec_vcmp_of_ready (p : Syl) (t : VTy) (o : VK) (s : State) :
    let x := vIn o.qs o.va.val o.km.val s
    let b := x.c.rdV o.vb.val
    ready p o.qs false s = true →
    (∀ i : Fin 64, x.km.getLsbD i.val = true → ∀ y ∈ laneConds t o.cond.val x b i.val, traps0 s y.2 = true) →
    exec (.vcmp p t o) s = .next (vNext o.qs 2 (.mask o.kd.val) 1 (lanesCmp t o.cond.val x b) s) := by
  intro x b h ht
  rw [exec_vcmp, execVcmp_eq, runV_of_ready h]
  exact traps0_lanesCmp ht

/-- Settles O8: comparison lane by lane; conversion and the functions as their forms. -/
theorem vectorCompareConvert : Obligations.VectorCompareConvert := by
  refine ⟨?_, ?_, fun p o s =>
    ⟨fun h => (exec_vrcp ..).trans (runFunc_of_vrReady 0 h), fun h => (exec_vrsq ..).trans (runFunc_of_vrReady 1 h),
      fun h => (exec_vexp2 ..).trans (runFunc_of_vrReady 2 h), fun h => (exec_vlog2 ..).trans (runFunc_of_vrReady 3 h)⟩⟩
  · intro p t o s x b n el h ht active fl
    have hcmp := exec_vcmp_of_ready p t o s h ht
    rw [lanesCmp_eq] at hcmp
    exact ⟨_, hcmp, getLsbD_laneCmp t o.cond.val x b⟩
  · intro p o s x w y h ht
    exact (exec_vcvt ..).trans (execVcvt_of_ready h ht)

/-! Lane movement (R134). -/

theorem rank_eq_countP (k : Word64) (i : Nat) : rank k i = (List.range i).countP fun j => k.getLsbD j := by
  induction i with
  | zero => rfl
  | succ i ih => rw [rank, ih, List.range_succ, List.countP_append, List.countP_singleton, Nat.add_comm]

/-- Settles O9: no lane movement raises a flag; VIOTA's ranks are counts. -/
theorem vectorMoves : Obligations.VectorMoves := by
  refine fun p o s => ⟨fun h => ⟨(exec_vperm ..).trans (runVR_quiet h rfl), (exec_vbcast ..).trans (runVR_quiet h rfl),
    (exec_vrot ..).trans (runVR_quiet h rfl), ?_, (exec_vpack ..).trans (runVR_quiet h rfl),
    (exec_vunpk ..).trans (runVR_quiet h rfl)⟩, fun h => ?_, fun h => ?_⟩
  · rw [exec_viota, execViota, runVR_quiet h rfl]
    simp only [rank_eq_countP]
    rfl
  · rw [exec_vext, execVext, runV_of_ready h (by simp [traps0])]
    rfl
  · rw [exec_vins, execVins, runV_of_ready h (by simp [traps0])]
    rfl

end Sys2Proof.Machine
end

section
/-!
PROOFS. Reductions, scans and the packed dot product (R72, R73, R132, R133, R135).
-/
namespace Sys2Proof.Machine
open Sys2Proof.Claims

theorem redIdentity_eq (t : VTy) (op : Nat) : redIdentity t op = identity t op := by
  by_cases h2 : op < 2
  · cases t <;> simp [redIdentity, identity, h2, vtFloat, vtWidth]
  · by_cases h3 : op = 2
    · subst h3
      cases t <;> decide
    · have hb : (op == 2) = false := by simpa using h3
      cases t <;> simp only [redIdentity, identity, h2, h3, hb, vtFloat, vtWidth, vtSgn, vtCode, if_true, if_false] <;> decide

theorem redIn_eq (t : VTy) (op : Nat) (x : VIn) :
    redIn t op x = (List.range (2048 / vtWidth t)).map (entering t op x) := by
  unfold redIn entering
  simp only [redIdentity_eq]
  rfl

/-! The tree of R72. -/

/-- The nodes of level j + 1 of the tree, k of them. -/
def treeLevel (f : Nat → Nat → Nat → Nat × BitVec 5) (el : Nat → Nat) (j k : Nat) : List (Nat × BitVec 5) :=
  (List.range k).map fun i => f i (treeNode f el j (2 * i)) (treeNode f el j (2 * i + 1))

theorem treeLevel_values (f : Nat → Nat → Nat → Nat × BitVec 5) (el : Nat → Nat) (j k : Nat) :
    (treeLevel f el j k).map (·.1) = (List.range k).map (treeNode f el (j + 1)) := by
  simp [treeLevel, treeNode, Function.comp_def]

theorem treeFlags_eq (f : Nat → Nat → Nat → Nat × BitVec 5) (el : Nat → Nat) (n : Nat) :
    treeFlags f el n = orAll ((List.range n).flatMap fun j => treeLevel f el j (2 ^ (n - 1 - j))) := rfl

theorem redLevel_range' (t : VTy) (op : Nat) (x : VIn) (g : Nat → Nat) (k i : Nat) :
    redLevel t op x.m x.r i ((List.range' (2 * i) (2 * k)).map g) =
      (List.range' i k).map fun q => combining t op x q (g (2 * q)) (g (2 * q + 1)) := by
  induction k generalizing i with
  | zero => rfl
  | succ k ih =>
    have hnext := ih (i + 1)
    rw [show 2 * (i + 1) = 2 * i + 1 + 1 by omega] at hnext
    rw [show 2 * (k + 1) = 2 * k + 1 + 1 by omega, List.range'_succ, List.range'_succ, List.range'_succ, List.map_cons,
      List.map_cons, List.map_cons, redLevel, hnext]
    rfl

theorem redLevel_range (t : VTy) (op : Nat) (x : VIn) (el : Nat → Nat) (j k : Nat) :
    redLevel t op x.m x.r 0 ((List.range (2 * k)).map (treeNode (combining t op x) el j)) =
      treeLevel (combining t op x) el j k := by
  have h := redLevel_range' t op x (treeNode (combining t op x) el j) k 0
  rw [Nat.mul_zero, ← List.range_eq_range', ← List.range_eq_range'] at h
  exact h

theorem redTree_range (t : VTy) (op : Nat) (x : VIn) (el : Nat → Nat) (n j : Nat) (fl : BitVec 5) :
    redTree t op x.m x.r n ((List.range (2 ^ n)).map (treeNode (combining t op x) el j)) fl =
      (treeNode (combining t op x) el (j + n) 0,
        fl ||| orAll ((List.range n).flatMap fun q => treeLevel (combining t op x) el (j + q) (2 ^ (n - 1 - q)))) := by
  induction n generalizing j fl with
  | zero => simp [redTree]
  | succ n ih =>
    have hlevels : ((List.range n).map Nat.succ).flatMap (fun q =>
          treeLevel (combining t op x) el (j + q) (2 ^ (n + 1 - 1 - q))) =
        (List.range n).flatMap fun q => treeLevel (combining t op x) el (j + 1 + q) (2 ^ (n - 1 - q)) := by
      rw [List.flatMap_map]
      refine congrArg List.flatten (List.map_congr_left fun q _ => ?_)
      rw [show j + q.succ = j + 1 + q by omega, show n + 1 - 1 - q.succ = n - 1 - q by omega]
    rw [redTree, Nat.pow_succ', redLevel_range, treeLevel_values]
    simp only [ih (j + 1)]
    rw [List.range_succ_eq_map, List.flatMap_cons, orAll_append, hlevels, BitVec.or_assoc]
    rw [show j + 1 + n = j + (n + 1) by omega]
    rfl

/-- The levels of the tree over all elements of type t. -/
theorem elements_eq_two_pow_levels (t : VTy) : 2048 / vtWidth t = 2 ^ (if vtWidth t = 32 then 6 else 7) := by
  cases t <;> rfl

theorem redTree_redIn (t : VTy) (op : Nat) (x : VIn) :
    redTree t op x.m x.r (if vtWidth t = 32 then 6 else 7) (redIn t op x) 0 =
      (treeNode (combining t op x) (entering t op x) (if vtWidth t = 32 then 6 else 7) 0,
        treeFlags (combining t op x) (entering t op x) (if vtWidth t = 32 then 6 else 7)) := by
  rw [redIn_eq, elements_eq_two_pow_levels, treeFlags_eq]
  have h := redTree_range t op x (entering t op x) (if vtWidth t = 32 then 6 else 7) 0 0
  simp only [Nat.zero_add, zero_or_flags] at h
  exact h

/-! The scan of R73. -/

theorem scanFrom_range (t : VTy) (op : Nat) (x : VIn) (el : Nat → Nat) (h k i : Nat) :
    scanFrom t op x.m x.r (i + 1) (prefixAt (combining t op x) el h i) ((List.range k).map fun q => el (i + q + 1)) =
      (List.range k).map fun q =>
        combining t op x (i + q + 1) (prefixAt (combining t op x) el h (i + q)) (el (i + q + 1)) := by
  induction k generalizing i with
  | zero => rfl
  | succ k ih =>
    have hnext := ih (i + 1)
    simp only [show ∀ q, i + 1 + q = i + q.succ from fun q => by omega] at hnext
    rw [List.range_succ_eq_map, List.map_cons, List.map_cons, List.map_map, List.map_map, scanFrom]
    exact congrArg _ hnext

theorem log2_lt_23 {m : Nat} (h : m < 2 ^ 23) (h0 : m ≠ 0) : m.log2 < 23 := (Nat.log2_lt h0).mpr h

/-- A finite value is subnormal where its significand is below 2^23 at f32's least exponent. -/
theorem subnormal32_least {s : Bool} {m : Nat} (h : m < 2 ^ 23) : subnormal32 (.fin s m (-149)) = decide (m ≠ 0) := by
  by_cases hz : m = 0
  · simp [hz, subnormal32]
  · have hl := log2_lt_23 h hz
    rw [subnormal32, topExp, bne_iff_ne.mpr hz, Bool.true_and, decide_eq_true hz]
    exact decide_eq_true (by omega)

theorem subnormal32_normal {s : Bool} {m : Nat} {e : Int} (h : m < 2 ^ 23) (he : -149 ≤ e) :
    subnormal32 (.fin s (2 ^ 23 + m) e) = false := by
  have hl : (2 ^ 23 + m).log2 = 23 := by
    rw [Nat.log2_eq_iff (by omega)]
    omega
  rw [subnormal32, topExp, hl, Bool.and_eq_false_iff]
  exact .inr (decide_eq_false (by omega))

/-- An f32 code is subnormal where its exponent field is 0 and its mantissa is not. -/
theorem subnormal32_decode (e : Nat) :
    subnormal32 (decode 0 e) = (decide (e / 2 ^ 23 % 256 = 0) && decide (e % 2 ^ 23 ≠ 0)) := by
  have hm : e % 2 ^ 23 < 2 ^ 23 := Nat.mod_lt _ (by decide)
  change subnormal32 (decodeF ⟨8, 23, 127, true, 1⟩ e) = _
  simp only [decodeF]
  change subnormal32 (if (_ && e / 2 ^ 23 % 256 == 255) = true then _ else _) = _
  generalize e % 2 ^ 23 = m at hm
  generalize e / 2 ^ 23 % 2 ^ 8 = x
  by_cases h255 : x = 255
  · subst h255
    by_cases hz : m = 0 <;> simp [hz, subnormal32]
  · by_cases h0 : x = 0
    · simpa [h0] using subnormal32_least hm
    · simpa [h255, h0] using subnormal32_normal hm (by omega)

theorem scanHead_eq (t : VTy) (m : Word32) (e : Nat) : scanHead t m e =
    if t = .f32 ∧ fmFTZ m = true ∧ e / 2 ^ 23 % 256 = 0 then e / 2 ^ 31 * 2 ^ 31 else e := by
  unfold scanHead
  rw [subnormal32_decode]
  by_cases ht : t = .f32 <;> by_cases hm : fmFTZ m = true <;> by_cases h0 : e / 2 ^ 23 % 256 = 0 <;>
    by_cases hz : e % 2 ^ 23 = 0 <;> simp_all
  omega

/-- What VSCAN forms. -/
def scanned (t : VTy) (op : Nat) (x : VIn) : VWord × BitVec 5 :=
  let f := combining t op x
  let el := entering t op x
  let h := if t = .f32 ∧ fmFTZ x.m = true ∧ el 0 / 2 ^ 23 % 256 = 0 then el 0 / 2 ^ 31 * 2 ^ 31 else el 0
  let n := 2048 / vtWidth t
  (vecOf ((List.range n).map (prefixAt f el h)) (vtWidth t),
    orAll ((List.range (n - 1)).map fun i => f (i + 1) (prefixAt f el h i) (el (i + 1))))

theorem execVscan_eq (p : Syl) (t : VTy) (o : VR) (s : State) : execVscan p t o s =
    runV p o.qs o.va.val o.km.val 6 (.vec o.vd.val) (fun _ => -1) s fun x => scanned t (redOp o) x := by
  unfold execVscan
  congr 1
  funext x
  obtain ⟨k, hk⟩ : ∃ k, 2048 / vtWidth t = k + 1 := ⟨2048 / vtWidth t - 1, by cases t <;> rfl⟩
  have hscan := scanFrom_range t (redOp o) x (entering t (redOp o) x) (scanHead t x.m (entering t (redOp o) x 0)) k 0
  simp only [Nat.zero_add, prefixAt] at hscan
  unfold scanned
  simp only [← scanHead_eq, redIn_eq, hk, List.range_succ_eq_map, List.map_cons, List.map_map, Nat.add_sub_cancel]
  rw [Function.comp_def]
  simp only [hscan, orAll_cons, zero_or_flags, List.map_map, prefixAt]
  rfl

theorem execVred_eq (p : Syl) (t : VTy) (o : VR) (s : State) : execVred p t o s =
    runV p o.qs o.va.val o.km.val 6 (.vec o.vd.val) (fun _ => -1) s fun x =>
      (BitVec.ofNat 2048 (treeNode (combining t (redOp o) x) (entering t (redOp o) x) (if vtWidth t = 32 then 6 else 7) 0),
        treeFlags (combining t (redOp o) x) (entering t (redOp o) x) (if vtWidth t = 32 then 6 else 7)) := by
  unfold execVred
  congr 1
  funext x
  rw [redTree_redIn]

/-! The packed dot product of integers (R135). -/

/-- An integer code of w bits as the number that it stands for. -/
def codeInt (sg : Bool) (w c : Nat) : Int := if sg then (BitVec.ofNat w c).toInt else ((BitVec.ofNat w c).toNat : Int)

theorem iVal_eq_codeInt (sg : Bool) (w c : Nat) (hw : w ≠ 0) : iVal sg w c = codeInt sg w c := by
  cases sg
  · simp [iVal, codeInt]
  · obtain ⟨v, rfl⟩ := Nat.exists_eq_succ_of_ne_zero hw
    simp only [iVal, codeInt, BitVec.toInt_eq_toNat_cond, BitVec.toNat_ofNat, Bool.true_and, Nat.succ_eq_add_one,
      Nat.add_sub_cancel, Nat.pow_succ, if_true]
    split <;> split <;> simp_all <;> omega

theorem codeInt_mod (sg : Bool) (w c : Nat) : codeInt sg w (c % 2 ^ w) = codeInt sg w c := by
  have h : BitVec.ofNat w (c % 2 ^ w) = BitVec.ofNat w c := BitVec.eq_of_toNat_eq (by simp)
  rw [codeInt, codeInt, h]

theorem foldl_zip_add (u : Nat → Int) (f g : Nat → Nat) (l : List Nat) (z : Int) :
    ((l.map f).zip (l.map g)).foldl (fun acc q => acc + u q.1 * u q.2) z = (l.map fun j => u (f j) * u (g j)).sum + z := by
  induction l generalizing z with
  | nil => simp
  | cons a l ih => simp [ih]; omega

theorem iStore_eq (sg sat : Bool) (x : Int) : iStore sg 32 sat x =
    (BitVec.ofInt 32 (if sat then max (if sg then -2 ^ 31 else 0) (min (if sg then 2 ^ 31 - 1 else 2 ^ 32 - 1) x) else x)).toNat := by
  have hsat : satInt sg 32 x = max (if sg then -2 ^ 31 else 0) (min (if sg then 2 ^ 31 - 1 else 2 ^ 32 - 1) x) := by
    unfold satInt
    cases sg <;> simp <;> omega
  rw [iStore, hsat, BitVec.toNat_ofInt]

theorem dotLane_int {src : Nat} (hf : dotFloat src = false) (hw : codeBits (dotCode src) ≠ 0) (sat : Bool) (m r : Word32)
    (a b d : Nat) : dotLane src sat m r a b d = (iStore (src == 2 || src == 6) 32 sat
      (((List.range (32 / codeBits (dotCode src))).map fun j =>
        codeInt (src == 2 || src == 6) (codeBits (dotCode src)) (a / 2 ^ (codeBits (dotCode src) * j)) *
        codeInt (src == 2 || src == 6) (codeBits (dotCode src)) (b / 2 ^ (codeBits (dotCode src) * j))).sum +
        codeInt (src == 2 || src == 6) 32 d), 0) := by
  simp only [dotLane, hf, Bool.false_eq_true, if_false, foldl_zip_add]
  simp only [iVal_eq_codeInt _ _ _ hw, iVal_eq_codeInt _ 32 _ (by decide), codeInt_mod]

/-- Settles O10: the tree level by level, the scan element by element, the integer dot product as a sum. -/
theorem vectorReductions : Obligations.VectorReductions := by
  intro p t o s x n el f levels
  refine ⟨fun h ht => ?_, ?_, fun src h => (exec_vdot ..).trans (runVE_of_vrReady h), ?_⟩
  · rw [exec_vred, execVred_eq, runV_of_ready h]
    · rfl
    · exact ht
  · intro h fl hr ht
    rw [exec_vscan, execVscan_eq, runV_of_ready hr]
    · rfl
    · exact ht
  · rintro src sat m r a b d hsrc w sg
    have hsg : sg = (src.val == 2 || src.val == 6) := by simp only [sg, Bool.decide_or]; rfl
    have hf : dotFloat src.val = false := by
      rcases hsrc with h | h | h | h <;> simp [h, dotFloat]
    have hw : codeBits (dotCode src.val) = w := by
      rcases hsrc with h | h | h | h <;> simp [w, h, dotCode, codeBits]
    have hw0 : w ≠ 0 := by simp only [w]; split <;> decide
    clear_value w sg
    subst hsg hw
    rw [dotLane_int hf hw0, iStore_eq]
    rfl

end Sys2Proof.Machine
end

section
/-!
PROOFS. What the shared operations leave unchanged: writes of hardware, events, trace records, freezing.
-/
namespace Sys2Proof.Machine
open Sys2Proof.Claims

/-- Writing cells changes bytes and the list of spoiled words. -/
theorem foldl_writeCell_frame (wr : List WCell) (s : State) : ∃ m, wr.foldl writeCell s = { s with mem := m } := by
  induction wr generalizing s with
  | nil => exact ⟨_, rfl⟩
  | cons c r ih =>
    obtain ⟨m, hm⟩ := ih (writeCell s c)
    exact ⟨m, hm⟩

theorem writeCells_frame {s t : State} {wr : List WCell} (h : writeCells s wr = some t) :
    ∃ m l, t = { s with mem := m, spoiled := l } := by
  unfold writeCells at h
  simp only [Option.ite_none_right_eq_some, Option.some.injEq] at h
  obtain ⟨-, rfl⟩ := h
  obtain ⟨m, hm⟩ := foldl_writeCell_frame wr { s with spoiled := s.spoiled.filter fun w =>
    !((spoiledTouched s wr).any fun x => x.1 == w) }
  exact ⟨m, _, hm⟩

theorem hwWriteHere_frame (s : State) (wr : List WCell) : ∃ m l, hwWriteHere s wr = { s with mem := m, spoiled := l } := by
  unfold hwWriteHere
  split
  · exact ⟨_, _, rfl⟩
  · cases h : writeCells s wr with
    | none => exact ⟨_, _, rfl⟩
    | some t => exact writeCells_frame h

theorem hwWrite_frame (s : State) (wr : List WCell) : ∃ m l i x a,
    hwWrite s wr = { s with mem := m, spoiled := l, ids := i, txns := x, agenda := a } := by
  unfold hwWrite
  split
  · exact ⟨_, _, _, _, _, rfl⟩
  · obtain ⟨m, l, h⟩ := hwWriteHere_frame s wr
    exact ⟨m, l, _, _, _, h⟩

theorem hwPutWords_frame (s : State) (a : Nat) (l : List Word64) : ∃ m p i x g,
    hwPutWords s a l = { s with mem := m, spoiled := p, ids := i, txns := x, agenda := g } := hwWrite_frame ..

/-- A write of hardware that nothing waits for touches the banks' queues, the numbers and the agenda alone. -/
theorem hwBehind_frame (s : State) (a : Nat) (l : List Byte) : ∃ i c b g,
    hwBehind s a l = { s with ids := i, ctr := c, banks := b, agenda := g } := by
  unfold hwBehind enqueueAt
  dsimp only [fresh, drawIn]
  split <;> exact ⟨_, _, _, _, rfl⟩

/-- What an event touches. -/
theorem postEvent_frame (s : State) (e : Event) : ∃ m p i x g r q,
    postEvent s e = { s with mem := m, spoiled := p, ids := i, txns := x, agenda := g, regs := r, evq := q } := by
  unfold postEvent
  split
  · split
    · unfold evWrite
      dsimp only
      obtain ⟨m, p, i, x, g, h⟩ := hwPutWords_frame s (evSlot s) _
      rw [h]
      exact ⟨_, _, _, _, _, _, _, rfl⟩
    · split <;> exact ⟨_, _, _, _, _, _, _, rfl⟩
  · exact ⟨_, _, _, _, _, _, _, rfl⟩

/-- A record is written at once, or behind what is pending there. -/
theorem hwRecord_frame (s : State) (a : Nat) (l : List Word64) : ∃ m p i x g c b,
    (if hwReady s a 32 then hwPutWords s a l else hwBehind s a (l.flatMap (bytesOf · 8))) =
      { s with mem := m, spoiled := p, ids := i, txns := x, agenda := g, ctr := c, banks := b } := by
  split
  · obtain ⟨m, p, i, x, g, h⟩ := hwPutWords_frame s a l
    exact ⟨m, p, i, x, g, _, _, h⟩
  · obtain ⟨i, c, b, g, h⟩ := hwBehind_frame s a (l.flatMap (bytesOf · 8))
    exact ⟨_, _, i, _, g, c, b, h⟩

/-- What a trace record touches. -/
theorem traceRec_frame (s : State) (g kind code pc : Nat) : ∃ m p i x a r c b,
    traceRec s g kind code pc =
      { s with mem := m, spoiled := p, ids := i, txns := x, agenda := a, regs := r, ctr := c, banks := b } := by
  unfold traceRec
  dsimp only
  split
  · obtain ⟨m, p, i, x, a, c, b, h⟩ := hwRecord_frame s _ _
    rw [h]
    split <;> exact ⟨_, _, _, _, _, _, _, _, rfl⟩
  · exact ⟨_, _, _, _, _, _, _, _, rfl⟩

@[simp] theorem postEvent_ctxs (s : State) (e : Event) : (postEvent s e).ctxs = s.ctxs := by
  obtain ⟨_, _, _, _, _, _, _, h⟩ := postEvent_frame s e
  rw [h]
@[simp] theorem postCtx_ctxs (s : State) (g kind : Nat) (i0 i1 : Word64) : (postCtx s g kind i0 i1).ctxs = s.ctxs :=
  postEvent_ctxs ..
@[simp] theorem postPlain_ctxs (s : State) (kind vf : Nat) (i0 i1 : Word64) : (postPlain s kind vf i0 i1).ctxs = s.ctxs :=
  postEvent_ctxs ..
@[simp] theorem traceRec_ctxs (s : State) (g kind code pc : Nat) : (traceRec s g kind code pc).ctxs = s.ctxs := by
  obtain ⟨_, _, _, _, _, _, _, _, h⟩ := traceRec_frame s g kind code pc
  rw [h]

@[simp] theorem getCtx_postCtx (s : State) (g kind : Nat) (i0 i1 : Word64) (x : Nat) :
    getCtx (postCtx s g kind i0 i1) x = getCtx s x := getCtx_congr (postCtx_ctxs ..) x
@[simp] theorem getCtx_traceRec (s : State) (g kind code pc x : Nat) :
    getCtx (traceRec s g kind code pc) x = getCtx s x := getCtx_congr (traceRec_ctxs ..) x

end Sys2Proof.Machine
end

section
/-!
PROOFS. The B unit, the special registers, traps and their returns, barriers at issue (R31, R33, R136 to R143, R153, R157, R339, R344 to
R348, R371).
-/
namespace Sys2Proof.Machine
open Sys2Proof.Claims

/-! Jumps and the ends of a context. -/

section
variable {p : Syl} {s : State}

theorem execBrc_on (o : BC) (h : guardOn p s = true) : execBrc p o s =
    .next (if (issuer s).rdP o.pc.val = o.v then branchTo s (bundleAt s o.off) false else s) := by
  rw [execBrc, issue_on h]
  simp only [beq_iff_eq]
  split <;> rfl

/-- A jump to the address in a register. -/
theorem jumpTo_on (sa : Nat) (h : guardOn p s = true) :
    jumpTo p sa s = .next (branchTo s ((issuer s).rdS sa).toNat false) := issue_on h

end

/-- Settles O11: each form is its step where its guard reads 1. -/
theorem jumpsAndEnds : Obligations.JumpsAndEnds := fun _ _ h =>
  ⟨(exec_nop ..).trans (issue_on h), fun _ => (exec_jmp ..).trans (issue_on h),
    fun _ => (exec_jmpi ..).trans (jumpTo_on _ h), fun _ => (exec_ret ..).trans (jumpTo_on _ h),
    fun _ _ => (exec_call ..).trans (issue_on h), fun o => (exec_brc ..).trans (execBrc_on o h),
    (exec_exit ..).trans (issue_on h), (exec_yield ..).trans (issue_on h)⟩

theorem treeOutcome_first (t0 t1 t2 t3 : Bool) :
    treeOutcome 0 t0 t1 t2 t3 = ([t0, t1, t2, t3].findIdx fun x => x) := by
  cases t0 <;> cases t1 <;> cases t2 <;> cases t3 <;> rfl

theorem brtOutcome_on {c : Ctx} {p : Syl} (o : BT) (h : c.rdP p.guard.val = true) : brtOutcome c p o =
    treeOutcome o.shape.val (c.rdP o.t0.val) (c.rdP o.t1.val) (c.rdP o.t2.val) (c.rdP o.t3.val) := by
  simp [brtOutcome, h]

theorem rdP_guard_of_guardOn {p : Syl} {s : State} (h : guardOn p s = true) : (issuer s).rdP p.guard.val = true :=
  (Bool.and_eq_true_iff.mp h).1

theorem execBrt_on {p : Syl} {s : State} (o : BT) (hg : guardOn p s = true) {n : Nat} (hn : brtOutcome (issuer s) p o = n) :
    execBrt p o s = .next (if h : n < 4 then
      branchTo s (bundleAt s ([o.l0, o.l1, o.l2, o.l3][n]'(by simpa using h))) false else s) := by
  rw [execBrt, issue_on hg]
  subst hn
  match h : brtOutcome (issuer s) p o with
  | 0 => simp
  | 1 => simp
  | 2 => simp
  | 3 => simp
  | k + 4 =>
    rw [dif_neg (by omega)]
    rfl

/-- Settles O12: a branch rewrites its own context's pc, time and mark; the tree's shapes are its definition. -/
theorem branches : Obligations.Branches := by
  refine ⟨fun s target near => ?_, fun p o s h => ?_, fun t0 t1 t2 t3 => ⟨treeOutcome_first t0 t1 t2 t3, rfl, rfl, rfl⟩⟩
  · dsimp only
    rw [getCtx_branchTo_self]
    exact ⟨rfl, rfl, rfl, fun g hg => getCtx_branchTo_ne _ _ hg, rfl⟩
  · exact (exec_brt ..).trans (execBrt_on o h (brtOutcome_on o (rdP_guard_of_guardOn h)))

/-! Special registers. -/

/-- Settles O14: the access rule decides between the register and a permission trap. -/
theorem specialRegisterAccess : Obligations.SpecialRegisterAccess := by
  intro p o s hg
  have hr : exec (.mfsr p o) s = if system s || srUser o.srn false then .next (putS s o.s.val (srRead s o.srn) 1)
      else trapNow s 0x05 0 := (exec_mfsr ..).trans (issue_on hg)
  have hw : exec (.mtsr p o) s = if system s || srUser o.srn true then
      if o.srn = 0 then .next (branchTo s ((issuer s).rdS o.s.val).toNat false)
      else .next (emit s (.sr o.srn) (wide64 ((issuer s).rdS o.s.val)) 1 1 0)
      else trapNow s 0x05 0 := (exec_mtsr ..).trans (issue_on hg)
  refine ⟨fun h => by rw [hr, h]; rfl, fun h => by rw [hr, h]; rfl, fun h => ⟨fun h0 => ?_, fun h0 => ?_⟩,
    fun h => by rw [hw, h]; rfl⟩
  · rw [hw, h, if_pos rfl, if_pos h0]
  · rw [hw, h, if_pos rfl, if_neg h0]

/-! Traps. -/

theorem landDue_of_later {c : Ctx} {st : Bool} {now : Nat} (h : ∀ f ∈ c.flight, now < f.due) : c.landDue st now = c := by
  have hdue : c.flight.filter (fun f => decide (f.due ≤ now)) = [] := by
    simpa [List.filter_eq_nil_iff] using h
  have hrest : c.flight.filter (fun f => !decide (f.due ≤ now)) = c.flight := by
    simpa [List.filter_eq_self] using h
  rw [Ctx.landDue, hdue, hrest]
  rfl

theorem hold_of_later {c : Ctx} {st : Bool} {now : Nat} {trap : Bool} (h : ∀ f ∈ c.flight, now < f.due) :
    c.hold st now trap = { c with
      held := c.held ++ c.flight.map fun f => { f with due := f.due - now, trap := trap }
      flight := []
      laq := if trap then c.laq.map fun r => { r with trap := true } else c.laq } := by
  rw [Ctx.hold, landDue_of_later h]

theorem takeTrap_enters {s : State} {g cause pc next : Nat} {info : Word64} (hv : (getCtx s g).tvec ≠ 0)
    (hi : (getCtx s g).inh = false) (hf : ∀ f ∈ (getCtx s g).flight, localTime s (coreOf g) < f.due) (x : Nat) :
    getCtx (takeTrap s g cause info false pc next) x = if x = g then { getCtx s g with
        tpc := pc, tnext := next, tcause := BitVec.ofNat 64 cause, tinfo := info, pmode := (getCtx s g).mode, mode := true
        inh := true, hld := true, pc := (getCtx s g).tvec / 4 * 4, next := localTime s (coreOf g) + 3, bubble := false
        trapAt := (getCtx s g).scyc, flight := []
        held := (getCtx s g).held ++ (getCtx s g).flight.map fun f => { f with due := f.due - localTime s (coreOf g), trap := true }
        laq := (getCtx s g).laq.map fun r => { r with trap := true } } else getCtx s x := by
  obtain ⟨u, hu, ht⟩ := getCtx_takeTrap (pc := pc) (next := next) (cause := cause) (info := info) (async := false) (s := s) hv hi
  rw [ht, getCtx_traceRec, hu, getCtx_setCtx, hold_of_later hf]
  rfl

theorem takeTrap_freezes {s : State} {g cause pc next : Nat} {info : Word64} {async : Bool}
    (h : (getCtx s g).tvec = 0 ∨ (async = false ∧ (getCtx s g).inh = true)) :
    takeTrap s g cause info async pc next =
      postCtx (freezeNow (setCtx s g { getCtx s g with pc := pc, next := localTime s (coreOf g), bubble := false }) g) g
        (if (getCtx s g).inh then 0x02 else 0x01) (BitVec.ofNat 64 (cause + if async then 256 else 0)) info := by
  have hc : ((getCtx s g).tvec == 0 || (!async && (getCtx s g).inh)) = true := by
    rcases h with h | ⟨h1, h2⟩ <;> simp [*]
  rw [takeTrap]
  exact if_pos hc

theorem getCtx_freezeNow {s : State} {g : Nat} (hf : (getCtx s g).frozen = false) (hp : (getCtx s g).phase = .resident) :
    getCtx (freezeNow s g) g = { (getCtx s g).hold (isSteward g) (localTime s (coreOf g)) false with
      frozen := true, next := (getCtx s g).next - localTime s (coreOf g) } := by
  have h : freezeCtx s g = traceRec (setCtx s g { (getCtx s g).hold (isSteward g) (localTime s (coreOf g)) false with
      frozen := true, next := (getCtx s g).next - localTime s (coreOf g) }) g 1 0 (getCtx s g).pc := by
    simp [freezeCtx, hf, hp]
  change getCtx (freezeCtx s g) g = _
  rw [h, getCtx_traceRec, getCtx_setCtx_self]

theorem localTime_setCtx (s : State) (g : Nat) (c : Ctx) (core : Nat) : localTime (setCtx s g c) core = localTime s core := rfl

theorem getCtx_takeTrap_freezes {s : State} {g cause pc next : Nat} {info : Word64} {async : Bool}
    (h : (getCtx s g).tvec = 0 ∨ (async = false ∧ (getCtx s g).inh = true)) (hf : (getCtx s g).frozen = false)
    (hp : (getCtx s g).phase = .resident) (hd : ∀ f ∈ (getCtx s g).flight, localTime s (coreOf g) < f.due) :
    getCtx (takeTrap s g cause info async pc next) g = { getCtx s g with
      pc := pc, next := 0, bubble := false, frozen := true, flight := []
      held := (getCtx s g).held ++ (getCtx s g).flight.map fun f =>
        { f with due := f.due - localTime s (coreOf g), trap := false } } := by
  rw [takeTrap_freezes h, getCtx_postCtx, getCtx_freezeNow (by simpa using hf) (by simpa using hp), getCtx_setCtx_self,
    localTime_setCtx, hold_of_later (by exact hd)]
  simp

section
variable {g : Nat} {s : State} (hi : (getCtx s g).inh = false) (hc : coreFrozen s (coreOf g) = false)
  (hm : mayIssue s g = true)
include hi hc hm

/-- Nothing keeps an asynchronous trap that stands from being taken. -/
theorem asyncTrap_not_kept (hq : ((getCtx s g).apq.isEmpty && (getCtx s g).undel == 0) = false) :
    ¬ ((getCtx s g).inh || (getCtx s g).frozen || (getCtx s g).phase != .resident ||
      ((getCtx s g).apq.isEmpty && (getCtx s g).undel == 0) || coreFrozen s (coreOf g)) = true := by
  simp only [mayIssue, Bool.and_eq_true, beq_iff_eq, Bool.not_eq_true'] at hm
  obtain ⟨⟨hph, hfr⟩, -⟩ := hm
  simp [hi, hfr, hph, hq, hc]

variable (ht : ∀ t, tryCourse s g ≠ .trap t)
include ht

/-- The entry of an asynchronous trap, where the next course traps not itself. -/
theorem execAsyncTrapEntry_oldest {cause : Nat} {info : Word64} {r : List (Nat × Word64)}
    (hq : (getCtx s g).apq = (cause, info) :: r) :
    execAsyncTrapEntry g s = .next (takeTrap (setCtx s g { getCtx s g with apq := r }) g cause info true
      (firstOf s g (getCtx s g).pc) (firstOf s g (getCtx s g).pc)) := by
  rw [execAsyncTrapEntry]
  dsimp only
  rw [if_neg (asyncTrap_not_kept hi hc hm (by rw [hq]; rfl)), if_pos hm]
  cases h : tryCourse s g with
  | trap t => exact absurd h (ht t)
  | stall | go => simp only [hq]

theorem execAsyncTrapEntry_fault (hq : (getCtx s g).apq = []) (hu : (getCtx s g).undel ≠ 0) :
    execAsyncTrapEntry g s = .next (takeTrap (setCtx s g { getCtx s g with undel := 0, apinfo := 0 }) g 0x10
      (getCtx s g).apinfo true (firstOf s g (getCtx s g).pc) (firstOf s g (getCtx s g).pc)) := by
  rw [execAsyncTrapEntry]
  dsimp only
  rw [if_neg (asyncTrap_not_kept hi hc hm (by simpa using fun _ => hu)), if_pos hm]
  cases h : tryCourse s g with
  | trap t => exact absurd h (ht t)
  | stall | go => simp only [hq]

end

/-- Settles O15. -/
theorem trapEntry : Obligations.TrapEntry := by
  refine ⟨fun s g cause pc next info hv hi hf => ⟨?_, fun x hx => ?_⟩, fun s g cause pc next info async h =>
    ⟨takeTrap_freezes h, fun hf hp hd => getCtx_takeTrap_freezes h hf hp hd⟩, fun g s hi hc hm ht => ⟨?_, ?_⟩⟩
  · rw [takeTrap_enters hv hi hf, if_pos rfl]
  · rw [takeTrap_enters hv hi hf, if_neg hx]
  · exact fun cause info r hq => (exec_asyncTrapEntry ..).trans (execAsyncTrapEntry_oldest hi hc hm ht hq)
  · exact fun hq hu => (exec_asyncTrapEntry ..).trans (execAsyncTrapEntry_fault hi hc hm ht hq hu)

theorem execTrig_on {p : Syl} {n : Fin 256} {s : State} (hg : guardOn p s = true) : execTrig p n s = .next (
    if system s = true ∨ (dieOfCore (coreOf s.iss.g) < 4 ∧ rbit s (trccfg (dieOfCore (coreOf s.iss.g))) 2 = true) then
      (if dieOfCore (coreOf s.iss.g) < 4 ∧ (rbit s (trccfg (dieOfCore (coreOf s.iss.g))) 8 = true ∨
          rfld s (trccfg (dieOfCore (coreOf s.iss.g))) 9 8 = n.val) then
        trigger (traceRec s s.iss.g 3 n.val s.iss.pc) (dieOfCore (coreOf s.iss.g))
      else traceRec s s.iss.g 3 n.val s.iss.pc)
    else s) := by
  rw [execTrig, issue_on hg]
  simp only [Bool.or_eq_true, Bool.and_eq_true, decide_eq_true_eq, beq_iff_eq]
  split
  · split <;> rfl
  · rfl

/-- What a return leaves of the mode, the trap's marks and the pc. -/
theorem eretCtx_marks (c : Ctx) (steward : Bool) (now : Nat) : (eretCtx c steward now).mode = (steward || c.pmode) ∧
    (eretCtx c steward now).inh = false ∧ (eretCtx c steward now).hld = false ∧
    (eretCtx c steward now).pc = c.tpc / 4 * 4 := by
  unfold eretCtx
  cases h : c.hld with
  | true => exact ⟨rfl, rfl, rfl, rfl⟩
  | false => exact ⟨rfl, rfl, rfl, rfl⟩

/-- Settles O16. -/
theorem systemBranches : Obligations.SystemBranches := by
  intro p s hg c
  refine ⟨fun code => (exec_trap ..).trans (issue_on hg), fun hs hf => ⟨?_, eretCtx_marks ..⟩, fun hs => ?_, fun hs => ⟨?_, ?_⟩,
    fun n => (exec_trig ..).trans (execTrig_on hg)⟩
  · rw [exec_eret, execEret, issue_on hg, needSystem_sys hs]
    exact if_pos hf
  · rw [exec_halt, execHalt, issue_on hg, needSystem_sys hs]
  · rw [exec_eret, execEret, issue_on hg, needSystem_user hs]
  · rw [exec_halt, execHalt, issue_on hg, needSystem_user hs]

/-! Barriers at issue (R157). -/

theorem withSlot_on {p : Syl} {n : Nat} {s : State} {f : State → Res} (hg : guardOn p s = true)
    (hn : n < (groupOf s s.iss.g).slots.length) : withSlot p n s f = f s := by
  rw [withSlot, issue_on hg, if_neg (by omega)]

theorem withSlot_trap {p : Syl} {n : Nat} {s : State} {f : State → Res} (hg : guardOn p s = true)
    (hn : (groupOf s s.iss.g).slots.length ≤ n) : withSlot p n s f = trapFree s 0x03 := by
  rw [withSlot, issue_on hg, if_pos hn]

/-- Settles O17. -/
theorem barrierSyllables : Obligations.BarrierSyllables := by
  intro p n s hg
  refine ⟨fun hn => ⟨(exec_bar ..).trans (withSlot_trap hg hn), (exec_bara ..).trans (withSlot_trap hg hn),
    (exec_barw ..).trans (withSlot_trap hg hn)⟩, fun hn => ?_⟩
  have hbar := (exec_bar p n s).trans (withSlot_on hg hn)
  have hbara := (exec_bara p n s).trans (withSlot_on hg hn)
  have hbarw := (exec_barw p n s).trans (withSlot_on hg hn)
  refine ⟨fun ha => ⟨?_, ?_, fun hb => ?_, fun hb => ?_⟩, fun ha => ⟨?_, ?_, ?_⟩⟩
  · rw [hbara]
    exact if_neg (by simp [Ctx.hasArrived, ha])
  · rw [hbarw]
    exact if_neg (by simp [Ctx.hasArrived, ha])
  · rw [hbar]
    simp [hb, Ctx.hasArrived, ha, modIssuer]
  · rw [hbar]
    simp [hb, Ctx.hasArrived, ha, arrive]
  · rw [hbara]
    exact if_pos ha
  · rw [hbarw]
    exact if_pos ha
  · rw [hbar]
    simp [Ctx.hasArrived, ha]

end Sys2Proof.Machine
end

section
/-!
PROOFS. The A unit at issue (R237 to R239, R245 to R249, R257 to R259).
-/
namespace Sys2Proof.Machine
open Sys2Proof.Claims

section
variable {p : Syl} {s : State}

theorem laqFull_eq_false {c : Ctx} (h : c.laq.length < 32) : laqFull c = false := by simpa [laqFull] using h

theorem runA_of_ok {i : Instr} (hg : guardOn p s = true) (hl : (issuer s).laq.length < 32)
    (hc : chkAccess s s.iss.g i (aForm (issuer s) i) (((aForm (issuer s) i).h.map (issuer s).rdH).getD 0) = .ok) :
    runA p i s = .next (pushReq s i (aForm (issuer s) i) ((aForm (issuer s) i).h.map (issuer s).rdH)) := by
  rw [runA, issue_on hg]
  cases hh : (aForm (issuer s) i).h <;> rw [hh] at hc <;>
    simp only [hh, laqFull_eq_false hl, Option.map_none, Option.map_some, Bool.false_eq_true, if_false] at hc ⊢ <;> rw [hc]

/-- A syllable of the A unit whose meaning is `runA` of itself. -/
theorem exec_of_runA {i : Instr} (he : exec i s = runA p i s) (hg : guardOn p s = true) (hl : (issuer s).laq.length < 32)
    (hc : chkAccess s s.iss.g i (aForm (issuer s) i) (((aForm (issuer s) i).h.map (issuer s).rdH).getD 0) = .ok) :
    exec i s = .next (pushReq s i (aForm (issuer s) i) ((aForm (issuer s) i).h.map (issuer s).rdH)) :=
  he.trans (runA_of_ok hg hl hc)

end

/-- Settles O18: every memory syllable is `runA` of itself. -/
theorem requestsPushed : Obligations.RequestsPushed := by
  intro p s c hOf ok
  have hok : ∀ i, exec i s = runA p i s → ok i := fun i he hg hl hc => exec_of_runA he hg hl hc
  exact ⟨fun n o => hok _ (exec_lda ..), fun n o => hok _ (exec_sta ..),
    fun w o => ⟨hok _ (exec_ldv ..), hok _ (exec_ldvs ..), hok _ (exec_ldg ..),
      hok _ (exec_stv ..), hok _ (exec_stvs ..), hok _ (exec_stg ..)⟩,
    fun o => ⟨hok _ (exec_feset ..), hok _ (exec_fewait ..)⟩,
    fun op o => ⟨hok _ (exec_amo32 ..), hok _ (exec_amo64 ..), hok _ (exec_amos32 ..),
      hok _ (exec_amos64 ..)⟩,
    fun n o => hok _ (exec_cas ..),
    fun o => ⟨hok _ (exec_acqX ..), hok _ (exec_acqSh ..), hok _ (exec_acqEv ..),
      hok _ (exec_relUn ..), hok _ (exec_relPost ..)⟩,
    fun o => ⟨hok _ (exec_pcmdAddI32 ..), hok _ (exec_pcmdAddF32 ..), hok _ (exec_pcmdAxpyF32 ..),
      hok _ (exec_pcmdMaxF32 ..), hok _ (exec_pcmdCvtBf16 ..), hok _ (exec_pcmdFill ..),
      hok _ (exec_pcmdCopy ..), hok _ (exec_pcmdAcc ..)⟩⟩

/-! The bases, the handles, BIND and the fences. -/

/-- Whether TRANS walks (R246). -/
theorem translates_cond {s : State} {g vf : Nat} {b : Bool} (h : (isSteward g || !rbit s (vmcfg vf) 0) = b) :
    (!isSteward g && rbit s (vmcfg vf) 0) = !b := by
  rw [← h]
  simp

section
variable {p : Syl} {s : State} (hg : guardOn p s = true)
include hg

theorem runPush_on {i : Instr} (hl : (issuer s).laq.length < 32) : runPush p i s =
    .next (pushReq s i { h := none, base := 0, off := 0, step := 0, vx := none } none) := by
  rw [runPush, issue_on hg, laqFull_eq_false hl]
  rfl

theorem execHchk_on (o : AH) (hl : (issuer s).laq.length < 32) : execHchk p o s =
    .next (pushReq s (.hchk p o) (aForm (issuer s) (.hchk p o)) (some ((issuer s).rdH o.h.val))) := by
  rw [execHchk, issue_on hg]
  dsimp only
  rw [laqFull_eq_false hl]
  rfl

theorem execPreq_on (o : AH) (hl : (issuer s).laq.length < 32)
    (hc : (chkHandle o.h.val ((issuer s).rdH o.h.val)
        ((aForm (issuer s) (.preq p o)).base + (aForm (issuer s) (.preq p o)).off).toNat).and
      (chkPage ((issuer s).rdH o.h.val)
        ((aForm (issuer s) (.preq p o)).base + (aForm (issuer s) (.preq p o)).off).toNat 1) = .ok) :
    execPreq p o s = .next (if hBit ((issuer s).rdH o.h.val) 3 then s
      else pushReq s (.preq p o) (aForm (issuer s) (.preq p o)) (some ((issuer s).rdH o.h.val))) := by
  rw [execPreq, issue_on hg]
  simp only [laqFull_eq_false hl, hc, Bool.false_eq_true, if_false]
  split <;> rfl

theorem execBind_off (o : AB) (hm : o.m = false) : execBind p o s = .next s := by
  rw [execBind, issue_on hg]
  simp only [hm, Bool.not_false, if_true]

theorem execBind_on (o : AB) (hm : o.m = true) (hl : (issuer s).laq.length < 32)
    (hc : chkBind s o ((issuer s).rdH o.base.val)
      ((aForm (issuer s) (.bind p o)).base + (aForm (issuer s) (.bind p o)).off).toNat ((issuer s).rdS o.sl.val)
      ((issuer s).rdS o.so.val) = .ok) :
    execBind p o s =
      .next (pushReq s (.bind p o) (aForm (issuer s) (.bind p o)) (some ((issuer s).rdH o.base.val))) := by
  rw [execBind, issue_on hg]
  simp only [hm, laqFull_eq_false hl, extraX, extraY, hc, Bool.not_true, Bool.false_eq_true, if_false]

theorem execTrans_at_once (o : AH)
    (h : (isSteward s.iss.g || !rbit s (vmcfg (vfOf s s.iss.g)) 0) = true) : execTrans p o s =
    .next (emit s (.h o.h.val) ((translate s (isSteward s.iss.g) (vfOf s s.iss.g)
      (((issuer s).rdS o.sa.val).toNat % 2 ^ 57)).zeroExtend 2048) 1 24 0) := by
  refine (issue_on hg).trans (if_neg ?_)
  rw [translates_cond h]
  decide

theorem exec_trans_walks (o : AH)
    (h : (isSteward s.iss.g || !rbit s (vmcfg (vfOf s s.iss.g)) 0) = false) : ∃ t, exec (.trans p o) s = .next t ∧
    tfind t.walks s.ids = some { g := s.iss.g, hn := o.h.val, va := ((issuer s).rdS o.sa.val).toNat % 2 ^ 57,
                                 vf := vfOf s s.iss.g, dead := false, res := 0 } := by
  have hwalks : (!isSteward s.iss.g && rbit s (vmcfg (vfOf s s.iss.g)) 0) = true := translates_cond h
  rw [exec_trans, execTrans, issue_on hg]
  -- Only the walk's number counts here: how long it takes stays a name, which nothing unfolds.
  obtain ⟨time, htime⟩ : ∃ f, f = walkTime := ⟨_, rfl⟩
  rw [← htime]
  exact ⟨_, if_pos hwalks, by rw [emit_walks, after_walks]; exact tfind_tset_self ..⟩

end

/-- Settles O19. -/
theorem basesHandlesFences : Obligations.BasesHandlesFences := by
  intro p s hg
  refine ⟨fun o => ⟨(exec_aadd ..).trans (issue_on hg), (exec_bset ..).trans (issue_on hg)⟩,
    fun o => ⟨(exec_hrel ..).trans (issue_on hg), fun h => (exec_trans ..).trans (execTrans_at_once hg o h), fun h => exec_trans_walks hg o h,
      fun hl => ⟨(exec_hchk ..).trans (execHchk_on hg o hl), fun hc => (exec_preq ..).trans (execPreq_on hg o hl hc)⟩⟩,
    fun o => ⟨fun hm => (exec_bind ..).trans (execBind_off hg o hm),
      fun hm hl hc => (exec_bind ..).trans (execBind_on hg o hm hl hc)⟩,
    fun o hl => ⟨(exec_fence ..).trans (runPush_on hg hl), (exec_pfence ..).trans (runPush_on hg hl)⟩⟩

end Sys2Proof.Machine
end

section
/-!
PROOFS. The M unit at issue: copies and puts, the launch engine's commands, waits on counters and publication (R174, R268, R270, R276, R305
to R318).
-/
namespace Sys2Proof.Machine
open Sys2Proof.Claims

section
variable {p : Syl} {s : State} (hg : guardOn p s = true)
include hg

theorem execCpy_on {va : Fin 32} {ch : Fin 4} (hf : chanFull s (chanKey (coreOf s.iss.g) ch.val) = false)
    (hs : walkPending (namedHandle (issuer s) (packetOf ((issuer s).rdV va.val)) 17 1) = false)
    (hd : walkPending (namedHandle (issuer s) (packetOf ((issuer s).rdV va.val)) 18 2) = false) :
    execCpy p va ch s = .next (issueCmd s ch.val fun x =>
      let y := { x with kind := 1, g := s.iss.g, pkt := packetOf ((issuer s).rdV va.val),
                        src := namedHandle (issuer s) (packetOf ((issuer s).rdV va.val)) 17 1,
                        dst := namedHandle (issuer s) (packetOf ((issuer s).rdV va.val)) 18 2, buf := [] }
      { y with fault := copyFault y }) :=
  (issue_on hg).trans (if_neg (by simp [hf, hs, hd]))

theorem issuePut_on {kind : Nat} {n : Fin 6} {o : MP}
    (hf : chanFull s (chanKey (coreOf s.iss.g) (((issuer s).rdS o.sb.val).toNat % 4)) = false)
    (ha : ((issuer s).rdS o.sa.val).toNat % (8 * 2 ^ n.val) = 0) :
    issuePut p kind n o s = .next (issueCmd s (((issuer s).rdS o.sb.val).toNat % 4) fun x =>
      { x with kind := kind, g := s.iss.g, pkt := ((issuer s).rdS o.sb.val ++ (issuer s).rdS o.sa.val).zeroExtend 512,
               n := 8 * 2 ^ n.val, data := (issuer s).rdV o.va.val &&& BitVec.ofNat 2048 (2 ^ (8 * (8 * 2 ^ n.val)) - 1) }) :=
  (issue_on hg).trans ((if_neg (by simp [hf])).trans (if_neg (by simpa using ha)))

end

/-- Settles O20. -/
theorem copiesAndPutsIssued : Obligations.CopiesAndPutsIssued := by
  intro p s hg
  exact ⟨fun va ch hf hs hd => (exec_cpy ..).trans (execCpy_on hg hf hs hd), fun n o hf ha =>
    ⟨(exec_put ..).trans (issuePut_on hg hf ha), (exec_putm ..).trans (issuePut_on hg hf ha),
      (exec_putmO ..).trans (issuePut_on hg hf ha)⟩⟩

/-! The launch engine's commands. -/

section
variable {p : Syl} {s : State}

theorem lengFull_eq_false (h : lengRoom s) : lengFull s (coreOf s.iss.g) = false := by
  simpa [lengFull, lengRoom] using h

theorem lengPush_of_room {op : Instr} {a b : Word64} {pkt : Flit} (h : lengRoom s) :
    lengPush op a b pkt s = .next (lengEntered op a b pkt s) :=
  if_neg (by simp [lengFull_eq_false h])

variable (hg : guardOn p s = true)
include hg

theorem counterOp_on {op : Instr} {o : MS} (h : lengRoom s) (ha : ((issuer s).rdS o.sa.val).toNat % 8 = 0) :
    counterOp p op o s = .next (lengEntered op ((issuer s).rdS o.sa.val) ((issuer s).rdS o.sb.val)
      (comp3 ((issuer s).rdS o.sa.val) ((issuer s).rdS o.sb.val) 0) s) :=
  (issue_on hg).trans ((if_neg (by simpa using ha)).trans (lengPush_of_room h))

theorem execShdw_on {o : MS} (h : lengRoom s) (ha : ((issuer s).rdS o.sa.val).toNat / 16 % 2 ^ 12 = 0) :
    execShdw p o s = .next (lengEntered (.shdw p o) ((issuer s).rdS o.sa.val) ((issuer s).rdS o.sb.val)
      (comp3 ((issuer s).rdS o.sa.val) ((issuer s).rdS o.sb.val) 0) s) :=
  (issue_on hg).trans ((if_neg (by simpa using ha)).trans (lengPush_of_room h))

/-- The channels that DRAIN names. -/
def drained (chs : Fin 8) : List Nat := if chs.val = 7 then [0, 1, 2, 3] else [chs.val]

theorem execDrain_on {chs : Fin 8}
    (hd : ((drained chs).all fun ch => chanDone s (chanKey (coreOf s.iss.g) ch) (markOf s) true) = true)
    (hw : recordWaits s (coreOf s.iss.g) (drained chs) = false) : execDrain p chs s = .next s :=
  (issue_on hg).trans (if_pos (Bool.and_eq_true_iff.mpr ⟨hd, congrArg not hw⟩))

theorem execPubl_on {o : MS} {i obj : Nat} (ha : ((issuer s).rdS o.sa.val).toNat = i) (hi : i < 16) (hl : lengRoom s)
    (hv : rbit s (twr (vfOf s s.iss.g) i) 0 = true) (ho : rfld s (twr (vfOf s s.iss.g) i + 24) 0 50 = obj)
    (hd : ([0, 1, 2, 3].all fun ch => chanDone s (chanKey (coreOf s.iss.g) ch) (markOf s) false) = true)
    (hb : ((List.range 16).any fun j => badByte s (obj + j)) = false) (hh : holdOf s obj = 0)
    (hr : hwReady s obj 16 = true) (hm : migFrame s obj = false) :
    execPubl p o s = .next (publish s (vfOf s s.iss.g) i obj) := by
  rw [execPubl, issue_on hg]
  simp only [ha, Nat.mod_eq_of_lt hi, ho, if_neg (Nat.not_le.mpr hi), lengFull_eq_false hl, hv, hd, hb, hh, hr, hm]
  rfl

end

/-! Waits on counters. -/

/-- The acquire that ends a wait (R272). -/
def waitAcquire (s : State) (o : MS) (t : State) : State :=
  if 4 ≤ o.sc.val then rdcAcquireAll t (dieOfCore (coreOf s.iss.g)) (vfOf s s.iss.g) else t

section
variable {p : Syl} {o : MS} {s : State} (hg : guardOn p s = true)
include hg

theorem counterWait_ended (h : (issuer s).waitEnd = some (s.iss.pc, true)) : counterWait p o s = .next s :=
  (issue_on hg).trans (if_pos (by simp [h]))

variable (he : (issuer s).waitEnd ≠ some (s.iss.pc, true)) (ha : ((issuer s).rdS o.sa.val).toNat % 8 = 0)
include he ha

theorem counterWait_here {w : Who} (hw : w = { g := s.iss.g, vf := vfOf s s.iss.g, sys := (issuer s).mode }) {h : HWord}
    (hh : h = engHandle s w true ((issuer s).rdS o.sa.val).toNat) {pa : Nat}
    (hpa : pa = engPa s w h true false ((issuer s).rdS o.sa.val).toNat)
    (hc : chkCounter s w h (engVa s w true ((issuer s).rdS o.sa.val).toNat) ((issuer s).rdS o.sa.val).toNat = .ok)
    {y : Nat} {s1 : State} (hf : pollFar s s.iss.g h pa = none) (hs : slotFree s s.iss.g = true)
    (hr : pollHere (takeSlot s s.iss.g) w.vf h pa = (some y, s1)) (hy : ((issuer s).rdS o.sb.val).toNat ≤ y) :
    counterWait p o s = .next (waitAcquire s o s1) := by
  refine (issue_on hg).trans ((if_neg (by simpa using he)).trans ((if_neg (by simpa using ha)).trans ?_))
  subst hw hh hpa
  rw [hc]
  dsimp only
  rw [hf]
  dsimp only
  rw [hs, hr]
  exact (if_neg (by decide)).trans (if_pos hy)

theorem counterWait_far {w : Who} (hw : w = { g := s.iss.g, vf := vfOf s s.iss.g, sys := (issuer s).mode }) {h : HWord}
    (hh : h = engHandle s w true ((issuer s).rdS o.sa.val).toNat) {pa : Nat}
    (hpa : pa = engPa s w h true false ((issuer s).rdS o.sa.val).toNat)
    (hc : chkCounter s w h (engVa s w true ((issuer s).rdS o.sa.val).toNat) ((issuer s).rdS o.sa.val).toNat = .ok)
    {m : Option Nat} {l : Nat × BitVec 1024} (hf : pollFar s s.iss.g h pa = some m)
    (hl : ((issuer s).codeLn.find? fun l => l.1 == pollKey m pa) = some l)
    (hy : ((issuer s).rdS o.sb.val).toNat ≤ natOfBytes ((List.range 8).map fun i => byteAt l.2 i)) :
    counterWait p o s = .next (waitAcquire s o
      (modIssuer s fun c => { c with codeLn := c.codeLn.filter fun l => l.1 != pollKey m pa })) := by
  refine (issue_on hg).trans ((if_neg (by simpa using he)).trans ((if_neg (by simpa using ha)).trans ?_))
  subst hw hh hpa
  rw [hc]
  dsimp only
  rw [hf]
  dsimp only
  rw [hl]
  exact if_pos hy

end

/-- Settles O21. -/
theorem engineCommandsIssued : Obligations.EngineCommandsIssued := by
  intro p s hg c g
  refine ⟨fun hl => ⟨fun va sa => ⟨?_, ?_⟩, fun o => ⟨fun ha => ⟨?_, ?_⟩, fun ha => ?_⟩⟩, fun chs hd hw => ?_,
    fun o => ⟨fun he => ⟨?_, ?_⟩, fun he ha hc => ⟨fun y s1 hf hs hr hy => ⟨?_, ?_⟩, fun m l hf hl hy => ⟨?_, ?_⟩⟩⟩,
    fun o hi hl hv hd hb hh hr hm => ?_⟩
  · exact (exec_cpyq ..).trans ((issue_on hg).trans (lengPush_of_room hl))
  · exact (exec_lnch ..).trans ((issue_on hg).trans (lengPush_of_room hl))
  · exact (exec_cadd ..).trans (counterOp_on hg hl ha)
  · exact (exec_cset ..).trans (counterOp_on hg hl ha)
  · exact (exec_shdw ..).trans (execShdw_on hg hl ha)
  · exact (exec_drain ..).trans (execDrain_on hg hd hw)
  · exact (exec_cwait ..).trans (counterWait_ended hg he)
  · exact (exec_waitev ..).trans (counterWait_ended hg he)
  · exact (exec_cwait ..).trans (counterWait_here hg he ha rfl rfl rfl hc hf hs hr hy)
  · exact (exec_waitev ..).trans (counterWait_here hg he ha rfl rfl rfl hc hf hs hr hy)
  · exact (exec_cwait ..).trans (counterWait_far hg he ha rfl rfl rfl hc hf hl hy)
  · exact (exec_waitev ..).trans (counterWait_far hg he ha rfl rfl rfl hc hf hl hy)
  · exact (exec_publ ..).trans (execPubl_on hg rfl hi hl hv rfl hd hb hh hr hm)

end Sys2Proof.Machine
end

section
/-!
PROOFS. Streams (R277 to R279, R319 to R321) and matrix commands (R322 to R329) at issue.
-/
namespace Sys2Proof.Machine
open Sys2Proof.Claims

/-! What a stream's entry and a channel's queue read back. -/

section
variable (s : State) (x : Nat × Nat)

@[simp] theorem getStream_modStream_self (f : Stream → Stream) : getStream (modStream s x f) x = f (getStream s x) := by
  simp [getStream, modStream]
@[simp] theorem getStream_modCtx (g : Nat) (f : Ctx → Ctx) : getStream (modCtx s g f) x = getStream s x := rfl
@[simp] theorem getStream_issueCmd (ch : Nat) (f : CCmd → CCmd) : getStream (issueCmd s ch f) x = getStream s x := rfl
@[simp] theorem chanCmds_modStream (f : Stream → Stream) (k : Nat) : chanCmds (modStream s x f) k = chanCmds s k := rfl
@[simp] theorem chanCmds_modCtx (g : Nat) (f : Ctx → Ctx) (k : Nat) : chanCmds (modCtx s g f) k = chanCmds s k := rfl
@[simp] theorem chanCmds_setChan_self (k : Nat) (l : List CCmd) : chanCmds (setChan s k l) k = l := tget_tput_self ..
@[simp] theorem chanCmds_bump (g ix k : Nat) : chanCmds (bump s g ix) k = chanCmds s k := rfl

end

/-- The numbers of a channel's commands once another has been issued on it. -/
theorem chanCmds_issueCmd_ids (s : State) (ch : Nat) (f : CCmd → CCmd) (hf : ∀ x, (f x).id = x.id) :
    (chanCmds (issueCmd s ch f) (chanKey (coreOf s.iss.g) ch)).map (·.id) =
      (chanCmds s (chanKey (coreOf s.iss.g) ch)).map (·.id) ++ [s.ids] := by
  simp only [issueCmd, fresh, chanCmds_bump, chanCmds_setChan_self, List.map_append, List.map_cons, List.map_nil, hf]
  rfl

section
variable {p : Syl} {s : State} (hg : guardOn p s = true)
include hg

theorem execSdef_on {sid : Fin 16} (hn : sid.val < (groupOf s s.iss.g).slots.length)
    (hd : (getStream s (issuerSlot s sid.val)).defined = false) : execSdef p sid s =
    .next (modCtx (modStream s (issuerSlot s sid.val) fun _ =>
      { Stream.free with gid := (issuer s).gid, defined := true, ctx := s.iss.g }) s.iss.g fun c =>
        c.setShadow (0x10 + sid.val) (BitVec.ofNat 64 (2 ^ 40))) :=
  (withSlot_on hg hn).trans (if_neg (by simp [hd]))

theorem execSrel_undefined {sid : Fin 16} (hn : sid.val < (groupOf s s.iss.g).slots.length)
    (hd : (getStream s (issuerSlot s sid.val)).defined = false) : execSrel p sid s = .next s :=
  (withSlot_on hg hn).trans (if_pos (by simp [hd]))

theorem execSrel_done {sid : Fin 16} (hn : sid.val < (groupOf s s.iss.g).slots.length)
    (hd : (getStream s (issuerSlot s sid.val)).defined = true) (hf : (getStream s (issuerSlot s sid.val)).feeds = [])
    (hs : ((getStream s (issuerSlot s sid.val)).subs.all fun u =>
      u.count == (getStream s (issuerSlot s sid.val)).filled) = true) : execSrel p sid s =
    .next (modCtx (freeStream s (issuerSlot s sid.val)) (getStream s (issuerSlot s sid.val)).ctx fun c =>
      c.setShadow (0x10 + sid.val) (setField (c.rdShadow (0x10 + sid.val)) 40 1 0)) := by
  refine (withSlot_on hg hn).trans ((if_neg (by simp [hd])).trans (if_neg ?_))
  simpa [hf] using hs

theorem execSsub_on {o : MU} (hn : o.sid.val < (groupOf s s.iss.g).slots.length) (h0 : 0 < ((issuer s).rdS o.sa.val).toNat)
    (h1 : ((issuer s).rdS o.sa.val).toNat < 256) (hd : (getStream s (issuerSlot s o.sid.val)).defined = true)
    (hs : (getStream s (issuerSlot s o.sid.val)).subs.length < 8) : execSsub p o s =
    .next (modCtx (modStream (endSub s s.iss.g o.pt.val) (issuerSlot s o.sid.val) fun u =>
        { u with subs := u.subs ++ [{ g := s.iss.g, port := o.pt.val, window := ((issuer s).rdS o.sa.val).toNat
                                      count := (getStream (endSub s s.iss.g o.pt.val) (issuerSlot s o.sid.val)).low }] }) s.iss.g
      fun c => c.setShadow (8 + o.pt.val) (subWord o.sid.val ((issuer s).rdS o.sa.val).toNat
        (getStream (endSub s s.iss.g o.pt.val) (issuerSlot s o.sid.val)).low)) :=
  (withSlot_on hg hn).trans ((if_neg (by omega)).trans (if_neg (by simpa [hd] using hs)))

theorem execSfeed_on {o : MF} (hn : o.sid.val < (groupOf s s.iss.g).slots.length)
    (hd : (getStream s (issuerSlot s o.sid.val)).defined = true)
    (hf : chanFull s (chanKey (coreOf s.iss.g) o.ch.val) = false)
    (hs : walkPending (namedHandle (issuer s) (packetOf ((issuer s).rdV o.va.val)) 17 1) = false)
    (ht : walkPending (namedHandle (issuer s) (packetOf ((issuer s).rdV o.va.val)) 18 2) = false) :
    ∃ t, execSfeed p o s = .next (askDone t (chanKey (coreOf s.iss.g) o.ch.val) s.ids) ∧
      (getStream t (issuerSlot s o.sid.val)).feeds =
        (getStream s (issuerSlot s o.sid.val)).feeds ++ [(chanKey (coreOf s.iss.g) o.ch.val, s.ids)] ∧
      (chanCmds t (chanKey (coreOf s.iss.g) o.ch.val)).map (·.id) =
        (chanCmds s (chanKey (coreOf s.iss.g) o.ch.val)).map (·.id) ++ [s.ids] := by
  refine ⟨_, (withSlot_on hg hn).trans (if_neg (by simp [hd, hf, hs, ht])), ?_, ?_⟩
  · rw [getStream_modCtx, getStream_modStream_self, getStream_issueCmd]
  · rw [chanCmds_modCtx, chanCmds_modStream]
    exact chanCmds_issueCmd_ids _ _ _ fun _ => rfl

end

/-- Settles O22. -/
theorem streamsIssued : Obligations.StreamsIssued := by
  intro p s hg
  exact ⟨fun sid hn => ⟨fun hd => ⟨(exec_sdef ..).trans (execSdef_on hg hn hd), (exec_srel ..).trans (execSrel_undefined hg hn hd)⟩,
      fun hd hf hs => (exec_srel ..).trans (execSrel_done hg hn hd hf hs)⟩,
    fun o hn h0 h1 hd hs => (exec_ssub ..).trans (execSsub_on hg hn h0 h1 hd hs),
    fun o hn hd hf hs ht => by
      rw [exec_sfeed]
      exact execSfeed_on hg hn hd hf hs ht⟩

/-! Matrix commands at issue. -/

section
variable {p : Syl} {s : State}

theorem withMatrix_on {f : State → Res} (hs : isSteward s.iss.g = false) (hg : guardOn p s = true) :
    withMatrix p s f = f s := by
  rw [withMatrix, hs, issue_on hg]
  rfl

theorem mxPush_of_room {op : Instr} {a b : Word64} (h : mqRoom s) : mxPush op a b s = .next (mxEntered op a b s) :=
  if_neg (by simpa [mqFull] using h.2)

variable (hg : guardOn p s = true)
include hg

theorem execMload_on {o : MS} (h : mqRoom s) (ha : ((issuer s).rdS o.sa.val).toNat % 4 = 0)
    (hn : mloadN ((issuer s).rdS o.sb.val) ≠ 0)
    (hw : mloadW ((issuer s).rdS o.sb.val) + mloadN ((issuer s).rdS o.sb.val) ≤ 4096) : execMload p o s =
    .next (mxEntered (.mload p o) ((issuer s).rdS o.sa.val) ((issuer s).rdS o.sb.val) s) :=
  (withMatrix_on h.1 hg).trans ((if_neg (by simpa using ha)).trans ((if_neg (by omega)).trans (mxPush_of_room h)))

theorem execMrdaScratchpad_on {o : MX} (h : mqRoom s) (ha : ((issuer s).rdS o.sa.val).toNat % 256 = 0)
    (hn : mrdaN ((issuer s).rdS o.sb.val) ≠ 0)
    (hw : mrdaFirst ((issuer s).rdS o.sb.val) + mrdaN ((issuer s).rdS o.sb.val) ≤ 64)
    (hz : ((issuer s).rdS o.sa.val).toNat + 256 * mrdaN ((issuer s).rdS o.sb.val) ≤ (groupOf s s.iss.g).size) :
    execMrdaScratchpad p o s =
    .next (mxEntered (.mrdaScratchpad p o) ((issuer s).rdS o.sa.val) ((issuer s).rdS o.sb.val) s) := by
  have hc : chkWindow (groupOf s s.iss.g).size ((issuer s).rdS o.sa.val).toNat (256 * mrdaN ((issuer s).rdS o.sb.val)) = .ok := by
    rw [chkWindow, if_neg (by omega), if_neg (by omega)]
  refine (withMatrix_on h.1 hg).trans ((if_neg (by simpa using ha)).trans ((if_neg (by omega)).trans ?_))
  rw [hc]
  exact mxPush_of_room h

theorem execMwait_on (hs : isSteward s.iss.g = false) (h : mxIdleFor (getCore s (coreOf s.iss.g)) s.iss.g = true) :
    execMwait p s = .next s :=
  (withMatrix_on hs hg).trans (if_pos h)

theorem execMrdaVector_on {o : MV} (hs : isSteward s.iss.g = false) (hr : roomFor o.qd s = true)
    (hi : mxIdle (getCore s (coreOf s.iss.g)) = true)
    (hb : badIn (getCore s (coreOf s.iss.g)) o.tl.val (64 * o.row.val) 64 = false) : execMrdaVector p o s =
    .next (deliver s o.qd (dstV (issuer s) o.vd.val) (tileRow (getCore s (coreOf s.iss.g)) o.tl.val o.row.val) (-1) 4 0) := by
  refine (withMatrix_on hs hg).trans ((withRoom_of_roomFor hr).trans ((if_neg ?_).trans (if_neg ?_)))
  · simp [hi]
  · simp [hb]

end

theorem mxIdle_of {k : CoreSt} (hq : k.mq = []) (hr : k.run = none) (hb : k.busyCmd = none) : mxIdle k = true := by
  simp [mxIdle, hq, hr, hb]

/-- Settles O23. -/
theorem matrixCommandsIssued : Obligations.MatrixCommandsIssued := by
  intro p s hg
  refine ⟨fun h => ⟨fun o ha hn hw => (exec_mload ..).trans (execMload_on hg h ha hn hw),
      fun en => (exec_mcall ..).trans ((withMatrix_on h.1 hg).trans (mxPush_of_room h)),
      fun t => (exec_mzro ..).trans ((withMatrix_on h.1 hg).trans (mxPush_of_room h)),
      fun o ha hn hw hz => (exec_mrdaScratchpad ..).trans (execMrdaScratchpad_on hg h ha hn hw hz)⟩,
    fun hs => ⟨fun h => (exec_mwait ..).trans (execMwait_on hg hs h),
      fun o hr hq hrun hbusy hb =>
        (exec_mrdaVector ..).trans (execMrdaVector_on hg hs hr (mxIdle_of hq hrun hbusy) hb)⟩,
    fun sa ix => ⟨fun hs => (exec_engw ..).trans ((issue_on hg).trans (needSystem_sys hs)),
      fun hs => (exec_engw ..).trans ((issue_on hg).trans (needSystem_user hs))⟩⟩

end Sys2Proof.Machine
end

section
/-!
PROOFS. The commands of a steward and the save area (R354, R357 to R361, R366, R367).
-/
namespace Sys2Proof.Machine
open Sys2Proof.Claims

section
variable {p : Syl} {o : MS} {s : State} (hg : guardOn p s = true) (hs : system s = true)
  (ha : ((issuer s).rdS o.sa.val).toNat < 2 ^ 26)
include hg hs ha

theorem freezeWord_freeze_done (hb : ((issuer s).rdS o.sb.val).toNat = 0)
    (hm : (selected s ((issuer s).rdS o.sa.val)).any (midGroup s) = false)
    (hd : marked s = true ∨ ((selected s ((issuer s).rdS o.sa.val)).filter fun g => !(getCtx s g).frozen) = []) :
    freezeWord p o s = .next s := by
  refine (issue_on hg).trans ((needSystem_sys hs).trans ((if_neg ?_).trans ?_))
  · simp [hb]; omega
  · rw [hb]
    refine (if_pos ?_).trans (if_neg (by simp [hm]))
    rcases hd with hd | hd
    · exact Bool.or_eq_true_iff.mpr (.inl hd)
    · exact Bool.or_eq_true_iff.mpr (.inr (by rw [hd]; rfl))

theorem freezeWord_freeze_begins (hb : ((issuer s).rdS o.sb.val).toNat = 0) (hm : marked s = false)
    (hd : ((selected s ((issuer s).rdS o.sa.val)).filter fun g => !(getCtx s g).frozen) ≠ []) : freezeWord p o s =
    waitMark { s with freezes := s.freezes ++ (selected s ((issuer s).rdS o.sa.val)).filter fun g => !(getCtx s g).frozen } := by
  refine (issue_on hg).trans ((needSystem_sys hs).trans ((if_neg ?_).trans ?_))
  · simp [hb]; omega
  · rw [hb]
    refine if_neg (Bool.not_eq_true _ ▸ Bool.or_eq_false_iff.mpr ⟨hm, ?_⟩)
    simpa using hd

theorem freezeWord_thaw_done (hb : ((issuer s).rdS o.sb.val).toNat = 1)
    (hd : marked s = true ∨ ((selected s ((issuer s).rdS o.sa.val)).filter fun g => (getCtx s g).frozen) = []) :
    freezeWord p o s = .next s := by
  refine (issue_on hg).trans ((needSystem_sys hs).trans ((if_neg ?_).trans ?_))
  · simp [hb]; omega
  · rw [hb]
    refine if_pos ?_
    rcases hd with hd | hd
    · exact Bool.or_eq_true_iff.mpr (.inl hd)
    · exact Bool.or_eq_true_iff.mpr (.inr (by rw [hd]; rfl))

theorem freezeWord_thaw_begins (hb : ((issuer s).rdS o.sb.val).toNat = 1) (hm : marked s = false)
    (hd : ((selected s ((issuer s).rdS o.sa.val)).filter fun g => (getCtx s g).frozen) ≠ []) : freezeWord p o s =
    waitMark { s with thaws := s.thaws ++ (selected s ((issuer s).rdS o.sa.val)).filter fun g => (getCtx s g).frozen } := by
  refine (issue_on hg).trans ((needSystem_sys hs).trans ((if_neg ?_).trans ?_))
  · simp [hb]; omega
  · rw [hb]
    refine if_neg (Bool.not_eq_true _ ▸ Bool.or_eq_false_iff.mpr ⟨hm, ?_⟩)
    simpa using hd

theorem freezeWord_discard (hb : ((issuer s).rdS o.sb.val).toNat = 2)
    (hf : ((selected s ((issuer s).rdS o.sa.val)).all fun g => (getCtx s g).frozen) = true)
    (hp : (s.chans.any fun x => x.2.any fun c => (selected s ((issuer s).rdS o.sa.val)).contains c.g && !c.parts.isEmpty) = false) :
    freezeWord p o s = .next ((selected s ((issuer s).rdS o.sa.val)).foldl discardCtx s) := by
  refine (issue_on hg).trans ((needSystem_sys hs).trans ((if_neg ?_).trans ?_))
  · simp [hb]; omega
  · rw [hb]
    exact (if_neg (by rw [hf]; decide)).trans (if_neg (by rw [hp]; decide))

end

theorem filter_not_frozen_eq_nil {s : State} {l : List Nat} (h : (l.all fun g => (getCtx s g).frozen) = true) :
    (l.filter fun g => !(getCtx s g).frozen) = [] := by
  simpa [List.filter_eq_nil_iff] using h

theorem filter_frozen_eq_nil {s : State} {l : List Nat} (h : (l.all fun g => !(getCtx s g).frozen) = true) :
    (l.filter fun g => (getCtx s g).frozen) = [] := by
  simpa [List.filter_eq_nil_iff] using h

/-! A virtual function's commands. -/

section
variable {p : Syl} {s : State} (hg : guardOn p s = true)
include hg

theorem withVf_on {sa : Fin 64} {f : Nat → State → Res} (hs : system s = true) (hv : ((issuer s).rdS sa.val).toNat < 128) :
    withVf p sa s f = f ((issuer s).rdS sa.val).toNat s :=
  (issue_on hg).trans ((needSystem_sys hs).trans (if_neg (by omega)))

theorem withVf_user {sa : Fin 64} {f : Nat → State → Res} (hs : system s = false) : withVf p sa s f = trapNow s 0x05 0 :=
  (issue_on hg).trans (needSystem_user hs)

theorem execVdrain_on {sa : Fin 64} {v : Nat} (hs : system s = true) (hv : ((issuer s).rdS sa.val).toNat = v) (hl : v < 128)
    (hq : vfQuiet s v = true) (he : vfEmpty (rsetF (vfDrop s v) (frcfg v + 16) 32 16 0) v = true) :
    execVdrain p sa s = .next (rsetF (vfDrop s v) (frcfg v + 16) 32 16 0) := by
  subst hv
  exact (withVf_on hg hs hl).trans ((if_neg (by rw [hq]; decide)).trans (if_pos he))

theorem execHinvv_on {sa : Fin 64} {v : Nat} (hs : system s = true) (hv : ((issuer s).rdS sa.val).toNat = v) (hl : v < 128)
    {s1 : State} (h1 : s1 = invalidateHeld (if marked s then s else invalidate s v 0 (2 ^ 41) false) v 0 (2 ^ 41) false)
    (hp : invalPending s1 v 0 (2 ^ 41) = false) : execHinvv p sa s = .next s1 := by
  subst hv h1
  exact (withVf_on hg hs hl).trans (if_neg (by rw [hp]; decide))

theorem execScrub_on {o : MS} {v b : Nat} (hs : system s = true) (hv : ((issuer s).rdS o.sa.val).toNat = v)
    (hb : ((issuer s).rdS o.sb.val).toNat = b) (hvl : v < 128) (hbl : b < 16) (hq : b % 8 = 0 ∨ vfQuiet s v = true) :
    execScrub p o s = .next (scrub s v b) := by
  subst hv hb
  refine (issue_on hg).trans ((needSystem_sys hs).trans ((if_neg ?_).trans (if_neg ?_)))
  · simp; omega
  · rcases hq with h | h <;> simp [h]

theorem freezeWord_user {o : MS} (hs : system s = false) : freezeWord p o s = trapNow s 0x05 0 :=
  (issue_on hg).trans (needSystem_user hs)

theorem withArea_user {o : MS} {load : Bool} {f : Nat → SaveCtl → State → Res} (hs : system s = false) :
    withArea p o load s f = trapNow s 0x05 0 :=
  (issue_on hg).trans (needSystem_user hs)

end

/-- Settles O24. -/
theorem stewardCommands : Obligations.StewardCommands := by
  refine ⟨fun p s hg hs => ⟨fun o ha => ⟨fun hb hm hf => ?_, fun hb hm hk => ?_, fun hb hk hf => ?_, fun hb hf => ?_, fun hb hk => ?_,
      fun hb hk hf => ?_, fun hb hf hp => ?_⟩, fun sa hv => ⟨fun hq he => ?_, fun hp => ?_⟩, fun o hv hb hq => ?_⟩,
    fun p s hg hs => ⟨fun o => ⟨?_, ?_, ?_, ?_, ?_, ?_⟩, fun sa => ⟨?_, ?_⟩⟩⟩
  · exact (exec_freeze ..).trans (freezeWord_freeze_done hg hs ha hb hm (.inr (filter_not_frozen_eq_nil hf)))
  · exact (exec_freeze ..).trans (freezeWord_freeze_done hg hs ha hb hm (.inl hk))
  · exact (exec_freeze ..).trans (freezeWord_freeze_begins hg hs ha hb hk hf)
  · exact (exec_thaw ..).trans (freezeWord_thaw_done hg hs ha hb (.inr (filter_frozen_eq_nil hf)))
  · exact (exec_thaw ..).trans (freezeWord_thaw_done hg hs ha hb (.inl hk))
  · exact (exec_thaw ..).trans (freezeWord_thaw_begins hg hs ha hb hk hf)
  · exact (exec_discard ..).trans (freezeWord_discard hg hs ha hb hf hp)
  · exact (exec_vdrain ..).trans (execVdrain_on hg hs rfl hv hq he)
  · exact (exec_hinvv ..).trans (execHinvv_on hg hs rfl hv rfl hp)
  · exact (exec_scrub ..).trans (execScrub_on hg hs rfl rfl hv hb hq)
  · exact (exec_freeze ..).trans (freezeWord_user hg hs)
  · exact (exec_thaw ..).trans (freezeWord_user hg hs)
  · exact (exec_discard ..).trans (freezeWord_user hg hs)
  · exact (exec_scrub ..).trans ((issue_on hg).trans (needSystem_user hs))
  · exact (exec_csave ..).trans (withArea_user hg hs)
  · exact (exec_cload ..).trans (withArea_user hg hs)
  · exact (exec_vdrain ..).trans (withVf_user hg hs)
  · exact (exec_hinvv ..).trans (withVf_user hg hs)

/-! The save area. -/

section
variable {p : Syl} {o : MS} {s : State} (hg : guardOn p s = true) (hs : system s = true) {x : SaveCtl}
  (hx : x = saveCtl s ((issuer s).rdS o.sb.val)) {a : Nat}
  (ha : a = if ((issuer s).rdS o.sa.val).toNat = 0 then (getCtx s x.g).csa else ((issuer s).rdS o.sa.val).toNat)
include hg hs hx ha

/-- The checks that CSAVE and CLOAD share, passed. -/
theorem withArea_on {load : Bool} {f : Nat → SaveCtl → State → Res} (hl : x.legal ((issuer s).rdS o.sb.val) = true)
    (h4 : a % 4096 = 0) (ht : tierOf a = some 0 ∨ tierOf a = some 1) (hz : x.other = true → (getCtx s x.g).frozen = true)
    (hq : x.acc = true → ∀ i : Fin 4, quietCtx s (ctxBase (coreOf x.g) + i.val) = true)
    (hp : isSteward s.iss.g = true ∨ (partOk s (vfOf s s.iss.g) a = true ∧ partOk s (vfOf s s.iss.g) (a + saScr) = true))
(hh : x.other = true ∨ (issuer s).hld ≠ load) : withArea p o load s f = f a x s := by
  have hfrozen : (x.other && !(getCtx s x.g).frozen) = false := by
    cases ho : x.other <;> simp_all
  have hquiet : (x.acc && !(List.range 4).all fun i => quietCtx s (ctxBase (coreOf x.g) + i)) = false := by
    cases hacc : x.acc
    · rfl
    · simpa using fun i hi => hq hacc ⟨i, hi⟩
  have hself : (!x.other && (issuer s).hld == load) = false := by
    rcases hh with h | h <;> simp [h]
  subst ha hx
  refine (issue_on hg).trans ((needSystem_sys hs).trans ((if_neg ?_).trans ((if_neg ?_).trans ((if_neg ?_).trans (if_neg ?_)))))
  · simp [hl]
  · rcases ht with ht | ht <;> simp [h4, ht]
  · rw [hfrozen, hquiet, hself]
    decide
  · rcases hp with hp | ⟨hp1, hp2⟩ <;> simp [*]

end

/-- CLOAD of an area that lies whole in this module. -/
theorem loadFrom_here {p : Syl} {o : MS} {s : State} {a : Nat} {x : SaveCtl} {routine : Bool} (hb : areaBad s a 256 = false)
    (hok : loadOk s a x = true) (hr : routine = (x.eng && nf (rd8 s a) 25 1 == 1))
    (hreg : ((saveRegions s x routine).any fun r => areaBad s (a + r.1) r.2) = false)
    (ha : areaAway s a (saveRegions s x routine) = []) : loadFrom p o a x [] s = .next (loadAll s a x routine) := by
  subst hr
  refine (if_neg ?_).trans ?_
  · simp [overlay, hb, hok]
  · change (match (areaAway s a (saveRegions s x (x.eng && nf (rd8 s a) 25 1 == 1))).filter _ with
      | [] => _
      | l => _) = _
    rw [ha]
    exact if_neg (by rw [overlay, List.foldl_nil, hreg]; decide)

/-- Settles O25. -/
theorem saveAndLoad : Obligations.SaveAndLoad := by
  intro p o s hg hs b x named a n hl h4 ht hz hq hp hw ha
  refine ⟨fun hh hr hb hst haw => ?_, fun hh hb hok hreg ha1 ha2 => ?_⟩
  · refine (exec_csave ..).trans ((withArea_on hg hs rfl rfl hl h4 ht hz hq hp (by simpa using hh)).trans ?_)
    dsimp only
    rw [hw]
    dsimp only
    refine (if_neg ?_).trans ((if_neg ?_).trans ((if_neg ?_).trans ?_))
    · change ¬ (!saveReady s x || areaPending s a n) = true
      rw [hr, ha]
      decide
    · cases hacc : x.acc
      · exact Bool.false_ne_true
      · rw [hb hacc]
        decide
    · change ¬ areaStopped s a n = true
      rw [hst]
      decide
    · rw [haw]
  · refine (exec_cload ..).trans ((withArea_on hg hs rfl rfl hl h4 ht hz hq hp ?_).trans ?_)
    · exact hh.imp id fun h => by rw [h.1]; decide
    dsimp only
    rw [hw]
    dsimp only
    refine (if_neg ?_).trans ?_
    · change ¬ (!earlierDone s x.g (getCtx s x.g).reqSeq && !x.other || areaPending s a n) = true
      rw [ha]
      rcases hh with h | h
      · simp only [h, Bool.not_true, Bool.and_false, Bool.or_false, Bool.false_eq_true, not_false_eq_true]
      · simp only [h.2, Bool.not_true, Bool.false_and, Bool.or_false, Bool.false_eq_true, not_false_eq_true]
    · rw [ha1]
      exact loadFrom_here hb hok rfl hreg ha2

end Sys2Proof.Machine
end

section
/-!
PROOFS. Results land (R15, R19, R26, R28, R34, R121).
-/
namespace Sys2Proof.Machine
open Sys2Proof.Claims

/-- What lands in one context of a core, if it is not frozen. -/
def landOne (core : Nat) (s : State) (i : Nat) : State :=
  if (getCtx s (ctxBase core + i)).frozen then s
  else modCtx s (ctxBase core + i) fun c => c.landDue (isSteward (ctxBase core + i)) (localTime s core)

theorem execResultLanding_on {core : Nat} {s : State} (h : coreFrozen s core = false) :
    execResultLanding core s = .next ((List.range 4).foldl (landOne core) s) :=
  if_neg (by rw [h]; decide)

theorem localTime_landOne (core : Nat) (s : State) (i : Nat) : localTime (landOne core s i) core = localTime s core := by
  unfold landOne
  split <;> rfl

/-- A landing touches contexts alone. -/
theorem landOne_frame (core : Nat) (s : State) (i : Nat) : ∃ x, landOne core s i = { s with ctxs := x } := by
  unfold landOne
  split <;> exact ⟨_, rfl⟩

theorem foldl_landOne_frame (core : Nat) (l : List Nat) (s : State) : ∃ x, l.foldl (landOne core) s = { s with ctxs := x } := by
  induction l generalizing s with
  | nil => exact ⟨_, rfl⟩
  | cons i l ih =>
    obtain ⟨x, hx⟩ := landOne_frame core s i
    obtain ⟨y, hy⟩ := ih (landOne core s i)
    exact ⟨y, by rw [List.foldl_cons, hy, hx]⟩

theorem getCtx_landOne (core : Nat) (s : State) (i g : Nat) : getCtx (landOne core s i) g =
    if g = ctxBase core + i ∧ (getCtx s g).frozen = false then (getCtx s g).landDue (isSteward g) (localTime s core)
    else getCtx s g := by
  unfold landOne
  by_cases hg : g = ctxBase core + i
  · subst hg
    cases h : (getCtx s (ctxBase core + i)).frozen <;> simp
  · cases h : (getCtx s (ctxBase core + i)).frozen <;> simp [hg, getCtx_modCtx_ne]

theorem getCtx_foldl_landOne (core : Nat) {l : List Nat} (hl : l.Nodup) (s : State) (g : Nat) :
    getCtx (l.foldl (landOne core) s) g =
      if (∃ i ∈ l, g = ctxBase core + i) ∧ (getCtx s g).frozen = false then
        (getCtx s g).landDue (isSteward g) (localTime s core)
      else getCtx s g := by
  induction l generalizing s with
  | nil => simp
  | cons i l ih =>
    obtain ⟨hi, hl⟩ := List.nodup_cons.mp hl
    rw [List.foldl_cons, ih hl, localTime_landOne, getCtx_landOne]
    by_cases hg : g = ctxBase core + i
    · have hout : ¬ ∃ j ∈ l, g = ctxBase core + j := by
        rintro ⟨j, hj, hgj⟩
        exact hi (by rwa [show i = j by omega])
      subst hg
      simp only [true_and, List.mem_cons, exists_eq_or_imp, hout, or_false, false_and, if_false]
    · simp [hg]

/-- One result that is due. -/
theorem landDue_single (c : Ctx) (steward : Bool) {now : Nat} {f : Flight} (h : f.due ≤ now) :
    { c with flight := [f] }.landDue steward now = ({ c with flight := [] }.land steward f).orFlags f.flags := by
  simp [Ctx.landDue, h, sortFlights, insFlight]

theorem wrSr_tinfo (c : Ctx) (steward : Bool) (x : Word64) : c.wrSr steward 0x014 x = { c with tinfo := x } := rfl
theorem wrSr_tvec (c : Ctx) (steward : Bool) (x : Word64) : c.wrSr steward 0x010 x = { c with tvec := x.toNat % 2 ^ 57 } := rfl

/-- Settles O27. -/
theorem resultsLand : Obligations.ResultsLand := by
  refine ⟨fun core s h => ?_, fun c steward now f hf => ?_⟩
  · refine ⟨_, (exec_resultLanding ..).trans (execResultLanding_on h), fun i hi => ?_, fun g hg => ?_, ?_⟩
    · rw [getCtx_foldl_landOne core List.nodup_range, if_pos ⟨⟨i.val, List.mem_range.mpr i.isLt, rfl⟩, hi⟩]
    · rw [getCtx_foldl_landOne core List.nodup_range, if_neg ?_]
      rintro ⟨⟨i, hi, rfl⟩, hfr⟩
      exact absurd (hg ⟨i, List.mem_range.mp hi⟩ rfl) (by simp [hfr])
    · obtain ⟨x, hx⟩ := foldl_landOne_frame core (List.range 4) s
      rw [hx]
  · rw [landDue_single c steward hf]
    dsimp only
    refine ⟨fun n h => ?_, fun n h => ?_, fun n h => ?_, fun n h => ?_, fun n h => ?_, fun n h => ?_, fun n h => ?_, fun h => ?_,
      fun h => ?_⟩
    · rw [Ctx.land, h]
      by_cases hn : n = 0 <;> simp [hn, Ctx.orFlags, tget_tput]
    · rw [Ctx.land, h]
      by_cases hn : n = 0 <;> simp [hn, Ctx.orFlags, tget_tput]
    · rw [Ctx.land, h]
      by_cases hn : n = 0 <;> simp [hn, Ctx.orFlags, tget_tput]
    · rw [Ctx.land, h]
      exact ⟨rfl, fun m => tget_tput ..⟩
    · rw [Ctx.land, h]
      exact ⟨rfl, fun m => tget_tput ..⟩
    · rw [Ctx.land, h]
      exact ⟨rfl, fun m => tget_tput ..⟩
    · rw [Ctx.land, h]
      exact ⟨rfl, fun m => tget_tput ..⟩
    · rw [Ctx.land, h]
      dsimp only
      rw [wrSr_tinfo]
      exact ⟨rfl, rfl⟩
    · rw [Ctx.land, h]
      dsimp only
      rw [wrSr_tvec]
      exact ⟨rfl, rfl⟩

end Sys2Proof.Machine
end

section
/-!
PROOFS. Bytes and granules: tables filled from a list, the granules of an access, whole cells, bytes that can be read.
-/
namespace Sys2Proof.Machine
open Sys2Proof.Claims

/-! Keys of a table. -/

section
variable {α : Type}

theorem mem_keys_iff (t : Tab α) (k : Nat) : k ∈ t.map (·.1) ↔ (tfind t k).isSome = true := by
  induction t with
  | nil => simp
  | cons e r ih =>
    obtain ⟨j, v⟩ := e
    by_cases h : j = k
    · simp [tfind, h]
    · simpa [tfind, h, Ne.symm h] using ih

theorem mem_keys_tset (t : Tab α) (k j : Nat) (v : α) : j ∈ (tset t k v).map (·.1) ↔ j = k ∨ j ∈ t.map (·.1) := by
  rw [mem_keys_iff, mem_keys_iff, tfind_tset]
  by_cases h : j = k <;> simp [h]

theorem tsorted_tset {t : Tab α} {lo k : Nat} (v : α) (hk : lo ≤ k) (h : tsorted lo t = true) :
    tsorted lo (tset t k v) = true := by
  unfold tset
  rw [tdel_eq_filter]
  exact tsorted_tins _ _ _ hk (fun e he => by simpa using (List.mem_filter.mp he).2) (tsorted_filter _ _ h)

theorem le_of_tsorted {t : Tab α} {lo k : Nat} (h : tsorted lo t = true) (hk : k ∈ t.map (·.1)) : lo ≤ k := by
  induction t generalizing lo with
  | nil => simp at hk
  | cons e r ih =>
    simp only [tsorted, Bool.and_eq_true, decide_eq_true_eq] at h
    rcases List.mem_cons.mp hk with rfl | hk
    · exact h.1
    · have := ih h.2 hk
      omega

theorem nodup_keys_of_tsorted {t : Tab α} {lo : Nat} (h : tsorted lo t = true) : (t.map (·.1)).Nodup := by
  induction t generalizing lo with
  | nil => exact List.nodup_nil
  | cons e r ih =>
    simp only [tsorted, Bool.and_eq_true, decide_eq_true_eq] at h
    exact List.nodup_cons.mpr ⟨fun hmem => Nat.not_succ_le_self _ (le_of_tsorted h.2 hmem), ih h.2⟩

/-! A table filled from a list. -/

theorem tget_foldl_tset_out (d : α) (l : List (Nat × α)) (r : Tab α) {k : Nat} (h : ∀ x ∈ l, k ≠ x.1) :
    tget d (l.foldl (fun r x => tset r x.1 x.2) r) k = tget d r k := by
  induction l generalizing r with
  | nil => rfl
  | cons x l ih =>
    rw [List.foldl_cons, ih _ fun y hy => h y (List.mem_cons_of_mem _ hy), tget_tset_ne _ _ _ (h x (List.mem_cons_self ..))]

theorem tget_foldl_tset_in (d : α) (l : List (Nat × α)) (r : Tab α) (hn : (l.map (·.1)).Nodup) {x : Nat × α} (hx : x ∈ l) :
    tget d (l.foldl (fun r x => tset r x.1 x.2) r) x.1 = x.2 := by
  induction l generalizing r with
  | nil => simp at hx
  | cons y l ih =>
    obtain ⟨hy, hl⟩ := List.nodup_cons.mp hn
    rw [List.foldl_cons]
    rcases List.mem_cons.mp hx with rfl | hx
    · rw [tget_foldl_tset_out d l _ fun z hz heq => hy (List.mem_map.mpr ⟨z, hz, heq.symm⟩), tget_tset_self]
    · exact ih _ hl hx

end

/-! Granules. -/

/-- The numbers of the granules of an access. -/
def granuleTab (l : List Nat) : Tab Unit := l.foldl (fun t a => tset t (a / 16) ()) []

theorem granules_eq (l : List Nat) : granules l = (granuleTab l).map fun e => 16 * e.1 := rfl

theorem mem_keys_foldl_granules (l : List Nat) (t : Tab Unit) (k : Nat) :
    k ∈ (l.foldl (fun t a => tset t (a / 16) ()) t).map (·.1) ↔ k ∈ t.map (·.1) ∨ ∃ a ∈ l, a / 16 = k := by
  induction l generalizing t with
  | nil => simp
  | cons a l ih =>
    rw [List.foldl_cons, ih, mem_keys_tset]
    simp only [List.mem_cons, exists_eq_or_imp, eq_comm (a := k), or_left_comm, or_assoc]

theorem tsorted_foldl_granules (l : List Nat) (t : Tab Unit) (h : tsorted 0 t = true) :
    tsorted 0 (l.foldl (fun t a => tset t (a / 16) ()) t) = true := by
  induction l generalizing t with
  | nil => exact h
  | cons a l ih => exact ih _ (tsorted_tset () (Nat.zero_le _) h)

theorem mem_granules {l : List Nat} {x : Nat} : x ∈ granules l ↔ ∃ a ∈ l, x = 16 * (a / 16) := by
  rw [granules_eq, List.mem_map]
  constructor
  · rintro ⟨e, he, rfl⟩
    have hk : e.1 ∈ (granuleTab l).map (·.1) := List.mem_map_of_mem he
    obtain h | ⟨a, ha, hae⟩ := (mem_keys_foldl_granules l [] e.1).mp hk
    · simp at h
    · exact ⟨a, ha, by rw [hae]⟩
  · rintro ⟨a, ha, rfl⟩
    have hk : a / 16 ∈ (granuleTab l).map (·.1) := (mem_keys_foldl_granules l [] _).mpr (.inr ⟨a, ha, rfl⟩)
    obtain ⟨e, he, hee⟩ := List.mem_map.mp hk
    exact ⟨e, he, by rw [← hee]⟩

theorem granules_mod {l : List Nat} {x : Nat} (h : x ∈ granules l) : x % 16 = 0 := by
  obtain ⟨a, -, rfl⟩ := mem_granules.mp h
  omega

/-- The granules of an access differ. -/
theorem nodup_granule_numbers (l : List Nat) : ((granules l).map (· / 16)).Nodup := by
  have h : (granules l).map (· / 16) = (granuleTab l).map (·.1) := by
    rw [granules_eq, List.map_map]
    exact List.map_congr_left fun e _ => by simp
  rw [h]
  exact nodup_keys_of_tsorted (tsorted_foldl_granules l [] rfl)

theorem granules_single (x : Nat) : granules [x] = [16 * (x / 16)] := rfl

/-! Full/empty bits. -/

theorem feGet_feSet (s : State) (a x : Nat) (b : Bool) : feGet (feSet s a b) x = if x / 16 = a / 16 then b else feGet s x :=
  tget_tput ..

theorem feGet_congr {s t : State} (h : t.fe = s.fe) (x : Nat) : feGet t x = feGet s x := by simp [feGet, h]

theorem feGet_foldl_feSet (l : List Nat) (s : State) (x : Nat) :
    feGet (l.foldl (fun s a => feSet s a true) s) x = ((l.any fun a => x / 16 == a / 16) || feGet s x) := by
  induction l generalizing s with
  | nil => simp
  | cons a l ih =>
    rw [List.foldl_cons, ih, feGet_feSet, List.any_cons]
    by_cases h : x / 16 = a / 16
    · simp [h]
    · rw [if_neg h, beq_eq_false_iff_ne.mpr h, Bool.false_or]

theorem foldl_feSet_frame (l : List Nat) (s : State) : ∃ f, l.foldl (fun s a => feSet s a true) s = { s with fe := f } := by
  induction l generalizing s with
  | nil => exact ⟨_, rfl⟩
  | cons a l ih =>
    obtain ⟨f, hf⟩ := ih (feSet s a true)
    exact ⟨f, hf⟩

theorem fillGranules_frame (s : State) (l : List Nat) : ∃ f, fillGranules s l = { s with fe := f } := foldl_feSet_frame ..

theorem feGet_fillGranules (s : State) {l : List Nat} (h : ∀ a ∈ l, tierOf a = some 2) (x : Nat) :
    feGet (fillGranules s l) x = ((l.any fun a => x / 16 == a / 16) || feGet s x) := by
  have hl : (l.filter fun a => tierOf a == some 2) = l := by
    rw [List.filter_eq_self]
    intro a ha
    simpa using h a ha
  rw [fillGranules, hl, feGet_foldl_feSet]
  congr 1
  rw [Bool.eq_iff_iff, List.any_eq_true, List.any_eq_true]
  constructor
  · rintro ⟨y, hy, hxy⟩
    obtain ⟨a, ha, rfl⟩ := mem_granules.mp hy
    exact ⟨a, ha, by simpa using hxy⟩
  · rintro ⟨a, ha, hxa⟩
    exact ⟨16 * (a / 16), mem_granules.mpr ⟨a, ha, rfl⟩, by simpa using hxa⟩

/-! Cells. -/

theorem writeCells_unspoiled {s : State} (h : s.spoiled = []) (wr : List WCell) :
    writeCells s wr = some (wr.foldl writeCell s) := by
  have hs : spoiledTouched s wr = [] := by simp [spoiledTouched, h]
  rw [writeCells, hs]
  have h0 : ({ s with spoiled := s.spoiled.filter fun w => !(([] : List (Nat × Bool)).any fun x => x.1 == w) } : State) = s := by
    rw [h]
    exact congrArg (fun l => { s with spoiled := l }) h.symm
  simp only [List.all_nil, if_true]
  rw [h0]

/-- The cells that hold n bytes from a on. -/
theorem mread_foldl_writeCell_bytes (s : State) (a n : Nat) (f : Nat → Byte) :
    (∀ j, j < n → mread (((List.range n).map fun j => ({ pa := a + j, val := f j, msk := 0xFF } : WCell)).foldl writeCell s) (a + j) = f j) ∧
    (∀ x, (∀ j, j < n → x ≠ a + j) →
      mread (((List.range n).map fun j => ({ pa := a + j, val := f j, msk := 0xFF } : WCell)).foldl writeCell s) x = mread s x) := by
  refine ⟨fun j hj => ?_, fun x hx => mread_foldl_writeCell_out _ _ _ fun c hc => ?_⟩
  · refine mread_foldl_writeCell_in _ s ?_ ?_ (c := { pa := a + j, val := f j, msk := 0xFF })
      (List.mem_map.mpr ⟨j, List.mem_range.mpr hj, rfl⟩)
    · rw [List.map_map]
      exact List.pairwise_map.mpr (List.Pairwise.imp (fun hne h => hne (Nat.add_left_cancel h)) List.nodup_range)
    · intro c hc
      obtain ⟨i, -, rfl⟩ := List.mem_map.mp hc
      rfl
  · obtain ⟨j, hj, rfl⟩ := List.mem_map.mp hc
    exact hx j (List.mem_range.mp hj)

/-! Bytes that can be read. -/

theorem tierOf_ne_zero {a : Nat} (h : 0x008000000000 ≤ a) : tierOf a ≠ some 0 := by
  unfold tierOf
  rw [if_neg (by omega)]
  repeat' split
  all_goals simp

theorem badByte_eq_false {s : State} (hs : s.spoiled = []) {a : Nat} (ht : (tierOf a).isSome = true)
    (h0 : tierOf a ≠ some 0) : badByte s a = false := by
  have hsp : inSpoiled s a = false := by
    unfold inSpoiled
    split
    · rw [hs]
      rfl
    · rfl
  have hst : stopped s a = false := by
    have : (tierOf a == some 0) = false := by simpa using h0
    rw [stopped, this]
    rfl
  rw [badByte, hst, hsp]
  simpa using ht

theorem cluBase_ge (c : Nat) : 0x008000000000 ≤ cluBase c := by
  unfold cluBase stewBase
  change 0x008000000000 ≤ if c < 256 then 0x030000000000 + c * 2 ^ 21 else 2 ^ 64 + (c - 256) * 2 ^ 21
  split <;> omega

theorem readItems_good {s : State} {l : List (Nat × Nat)} (h : ∀ x ∈ l, badByte s x.1 = false) :
    readItems s l = some (l.map fun x => (x.2, mread s x.1)) := by
  rw [readItems, if_neg]
  simpa using h

end Sys2Proof.Machine
end

section
/-!
PROOFS. The head of LAQ at a bank of its scratchpad (R38 to R44, R154, R187, R239, R241).
-/
namespace Sys2Proof.Machine
open Sys2Proof.Claims

/-! The head. -/

theorem headReady_cons {s : State} {g : Nat} {q : Req} (h : headReady s g = some q) : ∃ r, (getCtx s g).laq = q :: r := by
  unfold headReady at h
  dsimp only at h
  split at h
  · contradiction
  · next x r hl =>
    split at h
    · contradiction
    · split at h
      · contradiction
      · split at h
        · contradiction
        · obtain rfl := Option.some.inj h
          exact ⟨r, hl⟩

theorem dropSdq_frame (s : State) (g : Nat) (q : Req) : ∃ x, dropSdq s g q = { s with ctxs := x } := by
  unfold dropSdq
  split <;> exact ⟨_, rfl⟩

theorem leaveHead_frame (s : State) (g : Nat) (q : Req) : ∃ x, leaveHead s g q = { s with ctxs := x } := by
  obtain ⟨x, h⟩ := dropSdq_frame s g q
  exact ⟨_, by rw [leaveHead, h]; rfl⟩

theorem leaveHead_mem (s : State) (g : Nat) (q : Req) : (leaveHead s g q).mem = s.mem := by
  obtain ⟨x, h⟩ := leaveHead_frame s g q
  rw [h]

theorem leaveHead_regs (s : State) (g : Nat) (q : Req) : (leaveHead s g q).regs = s.regs := by
  obtain ⟨x, h⟩ := leaveHead_frame s g q
  rw [h]

theorem leaveHead_fe (s : State) (g : Nat) (q : Req) : (leaveHead s g q).fe = s.fe := by
  obtain ⟨x, h⟩ := leaveHead_frame s g q
  rw [h]

theorem leaveHead_laq (s : State) (g : Nat) (q : Req) : (getCtx (leaveHead s g q) g).laq = (getCtx s g).laq.drop 1 := by
  unfold leaveHead popHead dropSdq
  split <;> simp

theorem getCtx_leaveHead_ne (s : State) {g x : Nat} (q : Req) (h : x ≠ g) : getCtx (leaveHead s g q) x = getCtx s x := by
  unfold leaveHead popHead dropSdq
  split <;> simp [getCtx_modCtx_ne, h]

/-- What a LAQ_REQUEST_LEAVE does with a scalar access by a b register. -/
theorem execLaqRequestLeave_window {s : State} {g : Nat} {q : Req} (h : headReady s g = some q) (hh : q.h = none)
    (ha : (aop q.op).resLoad = true ∨ (aop q.op).isStore = true) : execLaqRequestLeave g s = .next (leaveWindow s g q) := by
  rw [execLaqRequestLeave, h]
  dsimp only
  generalize aop q.op = op at ha
  cases op with
  | lda | sta | ldv | stv => dsimp only; rw [hh]
  | _ => simp [AOp.resLoad, AOp.isStore] at ha

/-- A store by b register of one element that waits for nothing. -/
theorem leaveWindow_sta {s : State} {g : Nat} {q : Req} {n : Nat} (ho : aop q.op = .sta n) (hs : s.spoiled = [])
    (hw : winRelFirst s g q = false)
    (hb : banksFree s (groupOf s g).cluster (bankCounts ((List.range n).map fun j => winPlace s g (q.addr.toNat + j))) = true) :
    leaveWindow s g q =
      (let s1 := ((List.range n).map fun j =>
          ({ pa := winPlace s g (q.addr.toNat + j), val := byteAt (sdqOf s g q).val j, msk := 0xFF } : WCell)).foldl writeCell
        (banksTake s (groupOf s g).cluster (bankCounts ((List.range n).map fun j => winPlace s g (q.addr.toNat + j))))
      leaveHead (if feOf q.op != 0 then fillGranules s1 ((List.range n).map fun j => winPlace s g (q.addr.toNat + j)) else s1) g q) := by
  have hst : (storeItems s g q (sdqOf s g q) (winPlace s g)).map (·.1) = (List.range n).map fun j =>
      ({ pa := winPlace s g (q.addr.toNat + j), val := byteAt (sdqOf s g q).val j, msk := 0xFF } : WCell) := by
    simp [storeItems, ho, Function.comp_def]
  have hpa : (storeItems s g q (sdqOf s g q) (winPlace s g)).map (·.1.pa) =
      (List.range n).map fun j => winPlace s g (q.addr.toNat + j) := by
    simp [storeItems, ho, Function.comp_def]
  rw [leaveWindow]
  simp only [hw, ho, AOp.resLoad, AOp.isStore, Bool.false_and, Bool.false_eq_true, if_false, if_true, hpa, hst, hb]
  rw [writeCells_unspoiled (by exact hs)]

/-- A load by b register that waits for no granule. -/
theorem leaveWindow_lda {s : State} {g : Nat} {q : Req} {n : Nat} {sgn : Bool} (ho : aop q.op = .lda n sgn) (hf : feOf q.op = 0)
    (hw : winRelFirst s g q = false)
    (hb : banksFree s (groupOf s g).cluster (bankCounts ((List.range n).map fun j => winPlace s g (q.addr.toNat + j))) = true) :
    leaveWindow s g q = popHead (loadNow
      (banksTake s (groupOf s g).cluster (bankCounts ((List.range n).map fun j => winPlace s g (q.addr.toNat + j)))) g q
      ((List.range n).map fun j => (winPlace s g (q.addr.toNat + j), j))
      (7 + bankCycles (bankCounts ((List.range n).map fun j => winPlace s g (q.addr.toNat + j))))) g := by
  have hld : loadItems s g q (winPlace s g) = (List.range n).map fun j => (winPlace s g (q.addr.toNat + j), j) := by
    simp [loadItems, ho, elemsOf]
  have hpa : (loadItems s g q (winPlace s g)).map (·.1) = (List.range n).map fun j => winPlace s g (q.addr.toNat + j) := by
    rw [hld, List.map_map]
    rfl
  rw [leaveWindow]
  simp only [hw, ho, hf, AOp.resLoad, Bool.true_and, bne_self_eq_false, Bool.false_eq_true, if_false, if_true, hpa, hb]
  rw [hld]

/-! A load performed now. -/

/-- The entry of LDQ that a load reserves. -/
def entryOf (q : Req) (left due : Nat) : LdqEntry :=
  { req := q, raw := [], left := left, due := due, filled := false, failed := false, val := 0, kval := 0, flags := 0 }

theorem reserveLdq_of_resident {s : State} {g : Nat} {q : Req} {lat left : Nat} (hp : (aop q.op).pushesLdq = true)
    (hr : (getCtx s g).phase = .resident) : reserveLdq s g q lat left =
      modCtx s g fun c => { c with ldq := c.ldq ++ [entryOf q left (localTime s (coreOf g) + lat)] } :=
  if_pos (by simp [hp, hr])

theorem modLdq_ldq (s : State) (g seq : Nat) (f : LdqEntry → LdqEntry) : (getCtx (modLdq s g seq f) g).ldq =
    (getCtx s g).ldq.map fun e => if e.req.seq = seq && !e.filled then f e else e := by
  simp [modLdq]

theorem modLdq_laq (s : State) (g seq : Nat) (f : LdqEntry → LdqEntry) :
    (getCtx (modLdq s g seq f) g).laq = (getCtx s g).laq := by
  simp [modLdq]

theorem map_others {l : List LdqEntry} {seq : Nat} {f : LdqEntry → LdqEntry} (h : ∀ e ∈ l, e.req.seq ≠ seq) :
    (l.map fun e => if e.req.seq = seq && !e.filled then f e else e) = l := by
  conv => rhs; rw [← List.map_id l]
  exact List.map_congr_left fun e he => if_neg (by simp [h e he])

/-- The entry of a load once its bytes have come. -/
def loadedEntry (s : State) (g : Nat) (q : Req) (items : List (Nat × Nat)) (lat : Nat) : LdqEntry :=
  { entryOf q 0 (max (localTime s (coreOf g) + lat) (localTime s (coreOf g) + 1)) with
    raw := (items.map fun x => (x.2, mread s x.1)).foldl (fun r x => tset r x.1 x.2) [] }

section
variable {s : State} {g : Nat} {q : Req} {items : List (Nat × Nat)} {lat : Nat}
  (hp : (aop q.op).pushesLdq = true) (hr : (getCtx s g).phase = .resident) (hb : ∀ x ∈ items, badByte s x.1 = false)
include hp hr hb

theorem loadNow_eq : loadNow s g q items lat = deposit
    (modCtx s g fun c => { c with ldq := c.ldq ++ [entryOf q 1 (localTime s (coreOf g) + lat)] }) g q.seq
      (items.map fun x => (x.2, mread s x.1)) := by
  unfold loadNow
  rw [readItems_good hb, reserveLdq_of_resident hp hr]

theorem loadNow_ldq (hl : ∀ e ∈ (getCtx s g).ldq, e.req.seq ≠ q.seq) :
    (getCtx (loadNow s g q items lat) g).ldq = (getCtx s g).ldq ++ [loadedEntry s g q items lat] := by
  rw [loadNow_eq hp hr hb, deposit, modLdq_ldq, getCtx_modCtx_self, List.map_append, map_others hl, List.map_singleton,
    if_pos (by simp [entryOf])]
  rfl

theorem loadNow_laq : (getCtx (loadNow s g q items lat) g).laq = (getCtx s g).laq := by
  rw [loadNow_eq hp hr hb, deposit, modLdq_laq, getCtx_modCtx_self]

theorem loadNow_mem : (loadNow s g q items lat).mem = s.mem := by
  rw [loadNow_eq hp hr hb]
  rfl

theorem loadNow_regs : (loadNow s g q items lat).regs = s.regs := by
  rw [loadNow_eq hp hr hb]
  rfl

end

theorem foldl_feSet_congr (l : List Nat) {s t : State} (h : s.fe = t.fe) :
    (l.foldl (fun s a => feSet s a true) s).fe = (l.foldl (fun s a => feSet s a true) t).fe := by
  induction l generalizing s t with
  | nil => exact h
  | cons a l ih => exact ih (by simp [feSet, h])

/-- What the granules' marking leaves to a state that shares s's full/empty bits. -/
theorem filled_frame {s t : State} (h : t.fe = s.fe) (b : Bool) (l : List Nat) :
    ∃ f, (if b then fillGranules t l else t) = { t with fe := f } ∧ f = (if b then fillGranules s l else s).fe := by
  cases b with
  | false => exact ⟨t.fe, rfl, h⟩
  | true =>
    obtain ⟨f, hf⟩ := fillGranules_frame t l
    refine ⟨f, hf, ?_⟩
    have hfe : (fillGranules t l).fe = (fillGranules s l).fe := foldl_feSet_congr _ h
    rw [hf] at hfe
    exact hfe

/-- A store through a b register, done: its bytes, its granules, its context's queues. -/
theorem exec_sta_window {s : State} {g : Nat} {q : Req} {n : Nat} (hq : headReady s g = some q) (hh : q.h = none)
    (ho : aop q.op = .sta n) (hs : s.spoiled = []) (hw : winRelFirst s g q = false)
    (hb : banksFree s (groupOf s g).cluster (bankCounts ((List.range n).map fun j => winPlace s g (q.addr.toNat + j))) = true) :
    ∃ t, exec (.laqRequestLeave g) s = .next t ∧
      (∀ j, j < n → mread t (winPlace s g (q.addr.toNat + j)) = byteAt (sdqOf s g q).val j) ∧
      (∀ a, (∀ j, j < n → a ≠ winPlace s g (q.addr.toNat + j)) → mread t a = mread s a) ∧
      (getCtx t g).laq = (getCtx s g).laq.drop 1 ∧ t.regs = s.regs ∧ (∀ x, x ≠ g → getCtx t x = getCtx s x) ∧
      t.fe = (if feOf q.op != 0 then fillGranules s ((List.range n).map fun j => winPlace s g (q.addr.toNat + j)) else s).fe := by
  have hplace : ∀ j, winPlace s g (q.addr.toNat + j) = winPlace s g q.addr.toNat + j := fun j => (Nat.add_assoc ..).symm
  simp only [hplace] at hb ⊢
  have hleave := leaveWindow_sta ho hs hw (by simpa only [hplace] using hb)
  simp only [hplace] at hleave
  generalize (List.range n).map (fun j => winPlace s g q.addr.toNat + j) = pas at *
  obtain ⟨hin, hout⟩ := mread_foldl_writeCell_bytes (banksTake s (groupOf s g).cluster (bankCounts pas))
    (winPlace s g q.addr.toNat) n fun j => byteAt (sdqOf s g q).val j
  generalize (List.range n).map (fun j =>
    ({ pa := winPlace s g q.addr.toNat + j, val := byteAt (sdqOf s g q).val j, msk := 0xFF } : WCell)) = cells at *
  obtain ⟨m, hm⟩ := foldl_writeCell_frame cells (banksTake s (groupOf s g).cluster (bankCounts pas))
  rw [hm] at hin hout hleave
  obtain ⟨f, hf, hfe⟩ := filled_frame (s := s) (t := { banksTake s (groupOf s g).cluster (bankCounts pas) with mem := m }) rfl
    (feOf q.op != 0) pas
  rw [hf] at hleave
  refine ⟨_, (exec_laqRequestLeave ..).trans ((execLaqRequestLeave_window hq hh (.inr (by rw [ho]; rfl))).trans
    (congrArg Host.Outcome.next hleave)), ?_⟩
  refine ⟨fun j hj => ?_, fun a ha => ?_, leaveHead_laq .., ?_, fun x hx => getCtx_leaveHead_ne _ _ hx, ?_⟩
  · rw [mread_congr (leaveHead_mem _ g q)]
    exact hin j hj
  · rw [mread_congr (leaveHead_mem _ g q)]
    exact hout a ha
  · rw [leaveHead_regs]
    rfl
  · rw [leaveHead_fe]
    exact hfe

/-- A load through a b register, done. -/
theorem exec_lda_window {s : State} {g : Nat} {q : Req} {n : Nat} {sgn : Bool} (hq : headReady s g = some q) (hh : q.h = none)
    (ho : aop q.op = .lda n sgn) (hf : feOf q.op = 0) (hw : winRelFirst s g q = false)
    (hr : (getCtx s g).phase = .resident) (hl : ∀ e ∈ (getCtx s g).ldq, e.req.seq ≠ q.seq)
    (hbad : ∀ j, j < n → badByte s (winPlace s g (q.addr.toNat + j)) = false)
    (hb : banksFree s (groupOf s g).cluster (bankCounts ((List.range n).map fun j => winPlace s g (q.addr.toNat + j))) = true) :
    ∃ t e, exec (.laqRequestLeave g) s = .next t ∧ t.mem = s.mem ∧ t.regs = s.regs ∧
      (getCtx t g).ldq = (getCtx s g).ldq ++ [e] ∧ e.left = 0 ∧ e.failed = false ∧ e.filled = false ∧
      (∀ j, j < n → tget 0 e.raw j = mread s (winPlace s g (q.addr.toNat + j))) ∧
      (getCtx t g).laq = (getCtx s g).laq.drop 1 := by
  have hp : (aop q.op).pushesLdq = true := by rw [ho]; rfl
  have hleave := (exec_laqRequestLeave g s).trans ((execLaqRequestLeave_window hq hh (.inl (by rw [ho]; rfl))).trans
    (congrArg Host.Outcome.next (leaveWindow_lda ho hf hw hb)))
  generalize 7 + bankCycles _ = lat at hleave
  generalize bankCounts ((List.range n).map fun j => winPlace s g (q.addr.toNat + j)) = counts at hleave
  have hitems : ∀ x ∈ (List.range n).map fun j => (winPlace s g (q.addr.toNat + j), j),
      badByte (banksTake s (groupOf s g).cluster counts) x.1 = false := by
    intro x hx
    obtain ⟨j, hj, rfl⟩ := List.mem_map.mp hx
    exact hbad j (List.mem_range.mp hj)
  generalize (groupOf s g).cluster = clu at hleave hitems
  refine ⟨_, loadedEntry (banksTake s clu counts) g q
    ((List.range n).map fun j => (winPlace s g (q.addr.toNat + j), j)) lat, hleave, ?_, ?_, ?_, rfl, rfl, rfl, fun j hj => ?_, ?_⟩
  · exact loadNow_mem hp hr hitems
  · exact loadNow_regs hp hr hitems
  · rw [popHead, getCtx_modCtx_self]
    exact loadNow_ldq hp hr hitems hl
  · have hmem : (j, mread s (winPlace s g (q.addr.toNat + j))) ∈
        ((List.range n).map fun j => (winPlace s g (q.addr.toNat + j), j)).map fun x => (x.2, mread s x.1) := by
      rw [List.map_map]
      exact List.mem_map.mpr ⟨j, List.mem_range.mpr hj, rfl⟩
    refine tget_foldl_tset_in 0 _ [] ?_ hmem
    rw [List.map_map, List.map_map]
    exact List.pairwise_map.mpr (List.Pairwise.imp (fun hne h => hne h) List.nodup_range)
  · rw [popHead, getCtx_modCtx_self]
    exact congrArg (List.drop 1) (loadNow_laq hp hr hitems)

/-- Settles O28. -/
theorem scratchpadAccess : Obligations.ScratchpadAccess := by
  intro g s q p o hq hh hfe hs hw at'
  refine ⟨fun n ho hb => ?_, fun n ho hr hl ht hb => ?_⟩
  · have ha : aop q.op = .sta (2 ^ n.val) := by rw [ho]; rfl
    obtain ⟨t, ht, hin, hout, hlaq, hregs, hctx, -⟩ := exec_sta_window hq hh ha hs hw hb
    exact ⟨t, ht, hin, hout, hlaq, hregs, hctx⟩
  · have ha : aop q.op = .lda (ldaSize n.val) (n.val % 2 == 1) := by rw [ho]; rfl
    have hf : feOf q.op = 0 := by rw [ho]; exact congrArg Fin.val hfe
    refine exec_lda_window hq hh ha hf hw hr hl (fun j hj => ?_) hb
    refine badByte_eq_false hs (ht j hj) (tierOf_ne_zero ?_)
    have := cluBase_ge (groupOf s g).cluster
    unfold winPlace
    omega

end Sys2Proof.Machine
end

section
/-!
PROOFS. LDQ fills; waiting full/empty forms end (R40, R43, R44, R241).
-/
namespace Sys2Proof.Machine
open Sys2Proof.Claims

/-! LDQ fills. -/

theorem land_ldq (c : Ctx) (steward : Bool) (f : Flight) : (c.land steward f).ldq = c.ldq := by
  unfold Ctx.land
  split
  case h_9 =>
    unfold Ctx.wrSr
    split <;> rfl
  all_goals first | rfl | (split <;> rfl)

theorem foldl_land_ldq (l : List Flight) (steward : Bool) (c : Ctx) :
    (l.foldl (fun c f => c.land steward f) c).ldq = c.ldq := by
  induction l generalizing c with
  | nil => rfl
  | cons f l ih => rw [List.foldl_cons, ih, land_ldq]

theorem foldl_orFlags_ldq (l : List Flight) (c : Ctx) : (l.foldl (fun c f => c.orFlags f.flags) c).ldq = c.ldq := by
  induction l generalizing c with
  | nil => rfl
  | cons f l ih => exact ih _

theorem landDue_ldq (c : Ctx) (steward : Bool) (now : Nat) : (c.landDue steward now).ldq = c.ldq := by
  unfold Ctx.landDue
  dsimp only
  rw [foldl_orFlags_ldq, foldl_land_ldq]

/-- The oldest entry fills once it has everything. -/
theorem fillFrom_head (s : State) (g : Nat) {e : LdqEntry} (r : List LdqEntry) (hf : e.filled = false) (hl : e.left = 0)
    (hd : e.due ≤ localTime s (coreOf g)) (hg : e.failed = false) :
    (fillFrom s g (e :: r)).1.head? = some { e with
      filled := true, val := (entryValue s g e).1, kval := (entryValue s g e).2.2, flags := (entryValue s g e).2.1, raw := [] } := by
  rw [fillFrom]
  simp only [hf, hl, hd, hg]
  rfl

theorem execLdqFill_eq (g : Nat) (s : State) : ∃ c, execLdqFill g s = .next (setCtx s g c) ∧
    c.ldq = (fillFrom s g (getCtx s g).ldq).1 := by
  unfold execLdqFill
  dsimp only
  refine ⟨_, rfl, ?_⟩
  split
  · exact landDue_ldq ..
  · rfl

/-! Granules taken at the head. -/

/-- The items of a waiting form. -/
def feItems (s : State) (g : Nat) (q : Req) : List (Nat × Nat) :=
  match aop q.op with
  | .fewait _ => [(headPlace s g q (q.addr.toNat / 16 * 16), 0)]
  | _ => loadItems s g q (headPlace s g q)

theorem feStep_eq (s : State) {g : Nat} {q : Req} (hh : q.h = none) : feStep s g q =
    (let gr := granules ((feItems s g q).map (·.1))
     let y := feRun g q (feItems s g q) (gr.drop q.done) s
     if q.done + y.2 < gr.length then modHead y.1 g fun q => { q with done := q.done + y.2 }
     else popHead (modLdq y.1 g q.seq fun e => { e with left := 0, due := localTime s (coreOf g) + 8 }) g) := by
  unfold feStep feItems
  simp only [hh, Option.isNone_none, if_true] <;> rfl

/-- The granule a may be taken now. -/
def feFree (g : Nat) (q : Req) (a : Nat) (s : State) : Bool :=
  feNeeds q == some (feGet s a) && banksFree s (clusterOfPa a) (bankCounts [a]) &&
    !(q.h.isSome && ownBusy s g q.seq ((List.range 16).map (a + ·)))

/-- What granule a's bytes do to the request's entry. -/
def feBytes (_ : Req) (items : List (Nat × Nat)) (a : Nat) (s : State) (e : LdqEntry) : LdqEntry :=
  match readItems s (items.filter fun x => x.1 / 16 == a / 16) with
  | some b => { e with raw := b.foldl (fun t x => tset t x.1 x.2) e.raw }
  | none => { e with failed := true }

/-- The state once granule a has been taken. -/
def feTake (g : Nat) (q : Req) (items : List (Nat × Nat)) (a : Nat) (s : State) : State :=
  let s0 := banksTake s (clusterOfPa a) (bankCounts [a])
  let s1 := modLdq s0 g q.seq (feBytes q items a s0)
  if feOf q.op == 2 then feSet s1 a false else s1

theorem feRun_cons (g : Nat) (q : Req) (items : List (Nat × Nat)) (a : Nat) (r : List Nat) (s : State) :
    feRun g q items (a :: r) s = if feFree g q a s then
      ((feRun g q items r (feTake g q items a s)).1, (feRun g q items r (feTake g q items a s)).2 + 1) else (s, 0) := by
  rw [feRun]
  unfold feFree feTake feBytes
  dsimp only
  congr 2
  all_goals
    cases readItems (banksTake s (clusterOfPa a) (bankCounts [a])) (items.filter fun x => x.1 / 16 == a / 16) <;> rfl

/-- What a granule taken leaves: banks' times, the entry, the granule's bit. -/
theorem feTake_frame (g : Nat) (q : Req) (items : List (Nat × Nat)) (a : Nat) (s : State) :
    ∃ c k f, feTake g q items a s = { s with ctxs := c, clusters := k, fe := f } := by
  unfold feTake
  dsimp only
  split <;> exact ⟨_, _, _, rfl⟩

theorem feTake_laq (g : Nat) (q : Req) (items : List (Nat × Nat)) (a : Nat) (s : State) :
    (getCtx (feTake g q items a s) g).laq = (getCtx s g).laq := by
  unfold feTake
  dsimp only
  split
  · exact modLdq_laq ..
  · exact modLdq_laq ..

theorem feGet_feTake (g : Nat) (q : Req) (items : List (Nat × Nat)) (a x : Nat) (s : State) :
    feGet (feTake g q items a s) x = if x / 16 = a / 16 ∧ feOf q.op = 2 then false else feGet s x := by
  unfold feTake
  dsimp only
  by_cases h : feOf q.op = 2
  · rw [if_pos (by simp [h]), feGet_feSet]
    simp only [h, and_true]
    rfl
  · rw [if_neg (by simp [h])]
    simp only [h, and_false, if_false]
    rfl

theorem feRun_mem (g : Nat) (q : Req) (items : List (Nat × Nat)) (l : List Nat) (s : State) :
    (feRun g q items l s).1.mem = s.mem := by
  induction l generalizing s with
  | nil => rfl
  | cons a r ih =>
    obtain ⟨_, _, _, h⟩ := feTake_frame g q items a s
    rw [feRun_cons]
    split
    · rw [ih, h]
    · rfl

theorem feRun_laq (g : Nat) (q : Req) (items : List (Nat × Nat)) (l : List Nat) (s : State) :
    (getCtx (feRun g q items l s).1 g).laq = (getCtx s g).laq := by
  induction l generalizing s with
  | nil => rfl
  | cons a r ih =>
    rw [feRun_cons]
    split
    · rw [ih, feTake_laq]
    · rfl

theorem feRun_count (g : Nat) (q : Req) (items : List (Nat × Nat)) (l : List Nat) (s : State) :
    (feRun g q items l s).2 ≤ l.length := by
  induction l generalizing s with
  | nil => exact Nat.le_refl _
  | cons a r ih =>
    rw [feRun_cons]
    split
    · exact Nat.succ_le_succ (ih _)
    · exact Nat.zero_le _

/-- A granule that is not among those to take keeps its bit. -/
theorem feGet_feRun_out (g : Nat) (q : Req) (items : List (Nat × Nat)) (l : List Nat) (s : State) {x : Nat}
    (h : ∀ y ∈ l, x / 16 ≠ y / 16) : feGet (feRun g q items l s).1 x = feGet s x := by
  induction l generalizing s with
  | nil => rfl
  | cons a r ih =>
    rw [feRun_cons]
    split
    · rw [ih _ fun y hy => h y (List.mem_cons_of_mem _ hy), feGet_feTake, if_neg fun hx => h a (List.mem_cons_self ..) hx.1]
    · rfl

/-- The raw places of a load's bytes differ. -/
theorem loadItems_nodup (s : State) (g : Nat) (q : Req) (place : Nat → Nat) (h : (aop q.op).resLoad = true) :
    ((loadItems s g q place).map (·.2)).Nodup := by
  have key : ∀ (n w : Nat) (addr : Nat → Nat), ((((List.range n).map fun i => (i, addr i, w)).flatMap fun e =>
      (List.range e.2.2).map fun j => (place (e.2.1 + j), e.1 * e.2.2 + j)).map (·.2)).Nodup := by
    intro n w addr
    rw [List.map_flatMap, List.Nodup, List.pairwise_flatMap]
    refine ⟨fun e _ => ?_, ?_⟩
    · rw [List.map_map]
      exact List.pairwise_map.mpr (List.Pairwise.imp (fun hne h => hne (Nat.add_left_cancel h)) List.nodup_range)
    · rw [List.pairwise_map]
      refine List.Pairwise.imp (fun {i j} hij x hi y hj hxy => hij ?_) List.nodup_range
      simp only [List.map_map, List.mem_map, List.mem_range, Function.comp_apply] at hi hj
      obtain ⟨a, ha, rfl⟩ := hi
      obtain ⟨b, hb, rfl⟩ := hj
      have hi : (i * w + a) / w = i := by
        rw [Nat.mul_comm, Nat.mul_add_div (by omega), Nat.div_eq_of_lt ha, Nat.add_zero]
      have hj : (j * w + b) / w = j := by
        rw [Nat.mul_comm, Nat.mul_add_div (by omega), Nat.div_eq_of_lt hb, Nat.add_zero]
      rw [← hi, ← hj, hxy]
  unfold loadItems
  generalize aop q.op = op at h
  cases op with
  | lda n _ => exact key 1 n fun _ => q.addr.toNat
  | ldv w f => exact key ..
  | _ => simp [AOp.resLoad] at h

theorem feFree_of {s : State} {g : Nat} {q : Req} {a : Nat} (hn : feNeeds q = some (feGet s a)) (hh : q.h = none)
    (hb : banksFree s (clusterOfPa a) (bankCounts [a]) = true) : feFree g q a s = true := by
  simp [feFree, hn, hh, hb]

theorem popHead_laq (s : State) (g : Nat) : (getCtx (popHead s g) g).laq = (getCtx s g).laq.drop 1 := by
  rw [popHead, getCtx_modCtx_self]

theorem modHead_head {s : State} {g : Nat} {q : Req} {r : List Req} (h : (getCtx s g).laq = q :: r) (f : Req → Req) :
    (getCtx (modHead s g f) g).laq = f q :: r := by
  rw [modHead, getCtx_modCtx_self, h]

/-- A form by b register that waits goes on by a FULL_EMPTY_WAIT_END. -/
theorem exec_fullEmptyWaitEnd_window {s : State} {g : Nat} {q : Req} (hq : headReady s g = some q) (hh : q.h = none)
    (hs : q.slot = true) (hn : (feNeeds q).isSome = true) : exec (.fullEmptyWaitEnd g) s = .next (feStep s g q) := by
  refine (exec_fullEmptyWaitEnd ..).trans ?_
  rw [execFullEmptyWaitEnd, hq]
  dsimp only
  rw [hh, hs, hn]
  rfl

/-- The step with the last granule. -/
theorem feStep_last {s : State} {g : Nat} {q : Req} {a : Nat} (hh : q.h = none)
    (hd : (granules ((feItems s g q).map (·.1))).drop q.done = [a]) (hf : feFree g q a s = true) :
    feStep s g q = popHead (modLdq (feTake g q (feItems s g q) a s) g q.seq fun e =>
      { e with left := 0, due := localTime s (coreOf g) + 8 }) g := by
  rw [feStep_eq s hh]
  have hl := congrArg List.length hd
  rw [List.length_drop, List.length_singleton] at hl
  have hrun : feRun g q (feItems s g q) [a] s = (feTake g q (feItems s g q) a s, 1) := by
    rw [feRun_cons, if_pos hf]
    rfl
  simp only [hd, hrun]
  rw [if_neg (by omega)]

/-- A FEWAIT whose granule is in its state. -/
theorem feStep_fewait {s : State} {g : Nat} {q : Req} {p : Syl} {o : AM} (hh : q.h = none) (ho : q.op = .fewait p o)
    (hd : q.done = 0) {a : Nat} (ha : granules [winPlace s g (q.addr.toNat / 16 * 16)] = [a]) (hfe : feGet s a = (o.fe != 0))
    (hb : banksFree s (clusterOfPa a) (bankCounts [a]) = true) :
    (getCtx (feStep s g q) g).laq = (getCtx s g).laq.drop 1 ∧ (feStep s g q).mem = s.mem ∧ ∀ a, feGet (feStep s g q) a = feGet s a := by
  have hitems : feItems s g q = [(winPlace s g (q.addr.toNat / 16 * 16), 0)] := by
    simp [feItems, ho, aop, headPlace, hh]
  have hfree : feFree g q a s = true := feFree_of (by rw [feNeeds, ho, hfe]; rfl) hh hb
  rw [feStep_last hh (a := a) (by rw [hitems, hd]; exact ha) hfree]
  refine ⟨?_, ?_, fun x => ?_⟩
  · rw [popHead_laq, modLdq_laq, feTake_laq]
  · obtain ⟨_, _, _, h⟩ := feTake_frame g q (feItems s g q) a s
    rw [h]
    rfl
  · refine (feGet_feTake g q (feItems s g q) a x s).trans (if_neg ?_)
    rw [ho]
    exact fun h => absurd (show (0 : Nat) = 2 from h.2) (by decide)

/-! Loads that wait. -/

section
variable {s : State} {g : Nat} {q : Req} (hh : q.h = none) (hl : (aop q.op).resLoad = true)
include hl

include hh in
theorem feItems_load : feItems s g q = loadItems s g q (winPlace s g) := by
  have hp : headPlace s g q = winPlace s g := funext fun a => by simp [headPlace, hh]
  unfold feItems
  rw [hp]
  generalize hop : aop q.op = op at hl
  cases op with
  | fewait _ => simp [AOp.resLoad] at hl
  | _ => rfl

/-- The last granule's bytes come into the entry. -/
theorem feTake_raw {a : Nat} {e : LdqEntry} (hgood : ∀ x ∈ feItems s g q, badByte s x.1 = false)
    (hitems : feItems s g q = loadItems s g q (winPlace s g)) (he : e ∈ (getCtx (feTake g q (feItems s g q) a s) g).ldq)
    (hseq : e.req.seq = q.seq) (hf : e.filled = false) :
    ∀ x ∈ feItems s g q, x.1 / 16 = a / 16 → tget 0 e.raw x.2 = mread s x.1 := by
  intro x hx hxa
  have hldq : (getCtx (feTake g q (feItems s g q) a s) g).ldq = (getCtx s g).ldq.map fun e =>
      if e.req.seq = q.seq && !e.filled then
        feBytes q (feItems s g q) a (banksTake s (clusterOfPa a) (bankCounts [a])) e else e := by
    unfold feTake
    dsimp only
    split <;> exact modLdq_ldq ..
  have hbytes : ∀ e, feBytes q (feItems s g q) a (banksTake s (clusterOfPa a) (bankCounts [a])) e = { e with
      raw := (((feItems s g q).filter fun x => x.1 / 16 == a / 16).map fun x => (x.2, mread s x.1)).foldl
        (fun t x => tset t x.1 x.2) e.raw } := by
    intro e
    unfold feBytes
    rw [readItems_good (s := banksTake s _ _) fun y hy => hgood y (List.mem_filter.mp hy).1]
    rfl
  rw [hldq] at he
  obtain ⟨e0, -, rfl⟩ := List.mem_map.mp he
  simp only [hbytes] at hseq hf ⊢
  split at hseq
  case isFalse hc =>
    rw [if_neg hc] at hf
    exact absurd (by simp [hseq, hf]) hc
  case isTrue hc =>
    rw [if_pos hc]
    refine tget_foldl_tset_in 0 _ _ ?_ (x := (x.2, mread s x.1)) (List.mem_map.mpr ⟨x, ?_, rfl⟩)
    · rw [List.map_map]
      refine List.Nodup.sublist (List.Sublist.map _ List.filter_sublist) ?_
      rw [hitems]
      exact loadItems_nodup s g q _ hl
    · exact List.mem_filter.mpr ⟨hx, by simpa using hxa⟩

end

theorem feTake_ldq_map (s : State) (g seq : Nat) (due : Nat) {e : LdqEntry}
    (he : e ∈ (getCtx (modLdq s g seq fun e => { e with left := 0, due := due }) g).ldq) (hs : e.req.seq = seq) (hf : e.filled = false) :
    e.left = 0 ∧ ∃ e0 ∈ (getCtx s g).ldq, e0.req.seq = seq ∧ e0.filled = false ∧ e0.raw = e.raw := by
  rw [modLdq_ldq] at he
  obtain ⟨e0, h0, rfl⟩ := List.mem_map.mp he
  split at hs
  case isFalse hc =>
    rw [if_neg hc] at hf
    exact absurd (by simp [hs, hf]) hc
  case isTrue hc =>
    simp only [Bool.and_eq_true, decide_eq_true_eq, Bool.not_eq_true'] at hc
    rw [if_pos (by simp [hc])]
    exact ⟨rfl, e0, h0, hc.1, hc.2, rfl⟩

/-- What a step that takes at least one granule leaves. -/
theorem feStep_some {s : State} {g : Nat} {q : Req} {a : Nat} {r : List Nat} {rest : List Req} (hlaq : (getCtx s g).laq = q :: rest)
    (hh : q.h = none) (hd : (granules ((feItems s g q).map (·.1))).drop q.done = a :: r) (hf : feFree g q a s = true) :
    (feStep s g q).mem = s.mem ∧ (feStep s g q).fe = (feRun g q (feItems s g q) r (feTake g q (feItems s g q) a s)).1.fe ∧
    ((getCtx (feStep s g q) g).laq = (getCtx s g).laq.drop 1 ∨
      ∃ n, q.done < n ∧ n < (granules ((feItems s g q).map (·.1))).length ∧
        (getCtx (feStep s g q) g).laq.head? = some { q with done := n }) := by
  have hmem : (feRun g q (feItems s g q) (a :: r) s).1.mem = s.mem := feRun_mem ..
  have hctx : (getCtx (feRun g q (feItems s g q) (a :: r) s).1 g).laq = (getCtx s g).laq := feRun_laq ..
  rw [feRun_cons, if_pos hf] at hmem hctx
  rw [feStep_eq s hh]
  simp only [hd, feRun_cons, hf, if_true]
  split
  case isTrue h =>
    refine ⟨hmem, rfl, .inr ⟨_, Nat.lt_add_of_pos_right (Nat.succ_pos _), h, ?_⟩⟩
    rw [modHead_head (hctx.trans hlaq)]
    rfl
  case isFalse h =>
    refine ⟨hmem, rfl, .inl ?_⟩
    rw [popHead_laq, modLdq_laq, hctx]

/-- A waiting load whose next granule is full and free takes it. -/
theorem feStep_load {s : State} {g : Nat} {q : Req} (hq : headReady s g = some q) (hh : q.h = none) (hn : feNeeds q = some true)
    (hl : (aop q.op).resLoad = true) (hfe : feOf q.op = 1 ∨ feOf q.op = 2) {a : Nat} {r : List Nat}
    (hd : (granules ((feItems s g q).map (·.1))).drop q.done = a :: r) (hfull : feGet s a = true)
    (hb : banksFree s (clusterOfPa a) (bankCounts [a]) = true) (hgood : ∀ x ∈ feItems s g q, badByte s x.1 = false) :
    (feStep s g q).mem = s.mem ∧ feGet (feStep s g q) a = (feOf q.op == 1) ∧
    (∀ x, (∀ y ∈ granules ((feItems s g q).map (·.1)), x / 16 ≠ y / 16) → feGet (feStep s g q) x = feGet s x) ∧
    (r ≠ [] → (getCtx (feStep s g q) g).laq = (getCtx s g).laq.drop 1 ∨
      ∃ n, q.done < n ∧ n < (granules ((feItems s g q).map (·.1))).length ∧
        (getCtx (feStep s g q) g).laq.head? = some { q with done := n }) ∧
    (r = [] → (getCtx (feStep s g q) g).laq = (getCtx s g).laq.drop 1 ∧
      (∀ x, feGet (feStep s g q) x = if x / 16 = a / 16 then feOf q.op == 1 else feGet s x) ∧
      ∀ e ∈ (getCtx (feStep s g q) g).ldq, e.req.seq = q.seq → e.filled = false →
        e.left = 0 ∧ ∀ x ∈ feItems s g q, x.1 / 16 = a / 16 → tget 0 e.raw x.2 = mread s x.1) := by
  have hfree : feFree g q a s = true := feFree_of (by rw [hn, hfull]) hh hb
  have hbit : ∀ x, feGet (feTake g q (feItems s g q) a s) x = if x / 16 = a / 16 then feOf q.op == 1 else feGet s x := by
    intro x
    rw [feGet_feTake]
    by_cases hx : x / 16 = a / 16
    · have hsame : feGet s x = feGet s a := by rw [feGet, feGet, hx]
      rcases hfe with h | h
      · simp [h, hx, hsame, hfull]
      · simp [h, hx]
    · simp [hx]
  obtain ⟨rest, hlaq⟩ := headReady_cons hq
  obtain ⟨hmem, hbits, hhead⟩ := feStep_some hlaq hh hd hfree
  have hout : ∀ x, (∀ y ∈ r, x / 16 ≠ y / 16) →
      feGet (feStep s g q) x = if x / 16 = a / 16 then feOf q.op == 1 else feGet s x := fun x hx => by
    rw [feGet_congr hbits, feGet_feRun_out _ _ _ _ _ hx, hbit]
  have hsub : ∀ y ∈ a :: r, y ∈ granules ((feItems s g q).map (·.1)) := fun y hy => List.mem_of_mem_drop (hd ▸ hy)
  have hnodup : ((a :: r).map (· / 16)).Nodup := by
    rw [← hd]
    exact (nodup_granule_numbers _).sublist (List.Sublist.map _ (List.drop_sublist ..))
  refine ⟨hmem, ?_, fun x hx => ?_, fun _ => hhead, fun hr => ?_⟩
  · rw [hout a fun y hy heq => (List.nodup_cons.mp hnodup).1 (List.mem_map.mpr ⟨y, hy, heq.symm⟩), if_pos rfl]
  · rw [hout x fun y hy => hx y (hsub y (List.mem_cons_of_mem _ hy)), if_neg (hx a (hsub a (List.mem_cons_self ..)))]
  · subst hr
    have hlast := feStep_last hh hd hfree
    refine ⟨?_, fun x => hout x fun y hy => absurd hy List.not_mem_nil, fun e he hs hf => ?_⟩
    · rw [hlast, popHead_laq, modLdq_laq, feTake_laq]
    · rw [hlast, popHead, getCtx_modCtx_self] at he
      obtain ⟨hleft, e0, he0, hs0, hf0, hraw⟩ := feTake_ldq_map _ _ _ _ he hs hf
      refine ⟨hleft, ?_⟩
      rw [← hraw]
      exact feTake_raw hl hgood (feItems_load hh hl) he0 hs0 hf0

/-- Settles O29. -/
theorem queueEventsEnd : Obligations.QueueEventsEnd := by
  refine ⟨fun g s e r hl hf he hd hg => ?_, fun g s q p o hq hh ho hs hd hfe hb => ?_, ?_, ?_⟩
  · obtain ⟨c, hc, hldq⟩ := execLdqFill_eq g s
    rw [hl] at hldq
    have hhead := (congrArg List.head? ((congrArg Ctx.ldq (getCtx_setCtx_self s g c)).trans hldq)).trans
      (fillFrom_head s g r hf he hd hg)
    exact ⟨_, _, (exec_ldqFill g s).trans hc, hhead, rfl, rfl, rfl, fun y hy => getCtx_setCtx_ne _ _ _ c hy⟩
  · exact ⟨_, exec_fullEmptyWaitEnd_window hq hh hs (by rw [feNeeds, ho]; rfl), feStep_fewait hh ho hd rfl hfe hb⟩
  · intro g s q hq hh hn hl hfe hs hsp items gr a r hd hfull hb ht
    have hitems : feItems s g q = items := feItems_load hh hl
    have hgood : ∀ x ∈ feItems s g q, badByte s x.1 = false := fun x hx => by
      have h2 := ht x (hitems ▸ hx)
      refine badByte_eq_false hsp (by rw [h2]; rfl) ?_
      rw [h2]
      decide
    refine ⟨_, exec_fullEmptyWaitEnd_window hq hh hs (by rw [hn]; rfl), ?_⟩
    have := feStep_load hq hh hn hl hfe (by rw [hitems]; exact hd) hfull hb hgood
    rwa [hitems] at this
  · intro g s q p o n hq hh ho hfe hs hw at' ht hb
    have ha : aop q.op = .sta (2 ^ n.val) := by rw [ho]; rfl
    obtain ⟨t, hx, hin, hout, -, -, -, hbits⟩ := exec_sta_window hq hh ha hs hw hb
    refine ⟨t, hx, hin, hout, fun x => ?_⟩
    have hf : (feOf q.op != 0) = true := by
      rw [ho]
      exact bne_iff_ne.mpr fun h => hfe (Fin.ext h)
    rw [if_pos hf] at hbits
    rw [feGet_congr hbits, feGet_fillGranules]
    · rw [List.any_map]
      rfl
    · intro y hy
      obtain ⟨j, hj, rfl⟩ := List.mem_map.mp hy
      exact ht j (List.mem_range.mp hj)

end Sys2Proof.Machine
end

section
/-!
PROOFS. A syllable whose guard or leaf tag does not hold (R30, R32).
-/
namespace Sys2Proof.Machine
open Sys2Proof.Claims

/-- A syllable's meaning is that of its course. -/
theorem exec_eq_execSyl {i : Instr} (h : (sylPart i).isSome = true) (s : State) : exec i s = execSyl i s := by
  cases i
  all_goals first | exact absurd h Bool.false_ne_true | rfl

/-! Every form begins with the guard. -/

section
variable {p : Syl} {s : State} (hg : guardOn p s = false)
include hg

theorem runXR_off {o : XR} {lat : Nat} {f : Word64 → Word64 → Word64 → Word64} : runXR p o lat s f = .next s := issue_off hg

theorem runXU_off {o : XU} {f : Word64 → Word64} : runXU p o s f = .next s := runXR_off hg

theorem runS_off {sd : Nat} {f : Ctx → Word64} : runS p sd s f = .next s := issue_off hg

theorem runV_off {qs : Bool} {va km lat : Nat} {dst : VDst} {wm : Word64 → Word64} {f : VIn → VWord × BitVec 5} :
    runV p qs va km lat dst wm s f = .next s := issue_off hg

theorem runVR_off {o : VR} {lat : Nat} {f : VIn → VWord → VWord → VWord × BitVec 5} : runVR p o lat s f = .next s := runV_off hg

theorem runVE_off {t : VTy} {o : VR} {lat : Nat} {f : Word32 → Word32 → Nat → Nat → Nat → Nat × BitVec 5} :
    runVE p t o lat s f = .next s := by
  rw [runVE, runVR_off hg]

theorem runShift_off {o : VR} {kind : Nat} : runShift p o kind s = .next s := by
  rw [runShift, runVR_off hg]

theorem runFunc_off {o : VR} {k : Nat} : runFunc p o k s = .next s := by
  rw [runFunc, runVE_off hg]

theorem runA_off {i : Instr} : runA p i s = .next s := issue_off hg

theorem runPush_off {i : Instr} : runPush p i s = .next s := issue_off hg

theorem counterWait_off {o : MS} : counterWait p o s = .next s := issue_off hg

theorem counterOp_off {i : Instr} {o : MS} : counterOp p i o s = .next s := issue_off hg

theorem issuePut_off {k : Nat} {n : Fin 6} {o : MP} : issuePut p k n o s = .next s := issue_off hg

theorem withSlot_off {n : Nat} {f : State → Res} : withSlot p n s f = .next s := issue_off hg

theorem withMatrix_off (hs : isSteward s.iss.g = false) {f : State → Res} : withMatrix p s f = .next s := by
  rw [withMatrix, hs]
  exact issue_off hg

theorem withArea_off {o : MS} {load : Bool} {f : Nat → SaveCtl → State → Res} : withArea p o load s f = .next s := issue_off hg

theorem freezeWord_off {o : MS} : freezeWord p o s = .next s := issue_off hg

theorem withVf_off {sa : Fin 64} {f : Nat → State → Res} : withVf p sa s f = .next s := issue_off hg

theorem jumpTo_off {sa : Nat} : jumpTo p sa s = .next s := issue_off hg

end

theorem execSyl_off {i : Instr} {p : Syl} {s : State} (hp : sylPart i = some p) (hg : guardOn p s = false)
    (hm : (isSteward s.iss.g && matrixOp i) = false) : execSyl i s = .next s := by
  cases i with
  | add p o | sub p o | mul p o | mulh p o | mulhU p o | div p o | divU p o | rem p o | remU p o | and p o | or p o
  | xor p o | andn p o | shl p o | shr p o | sra p o | rotl p o | extb p o | extbS p o | depb p o | min p o | max p o
  | minU p o | maxU p o | lea p n o | sel p n o =>
    obtain rfl := Option.some.inj hp
    simp only [execSyl]
    exact runXR_off hg
  | abs p o | clz p o | popc p o =>
    obtain rfl := Option.some.inj hp
    simp only [execSyl]
    exact runXU_off hg
  | mov p o | mfsr p o | mtsr p o | cmp p o | cmpi p o | plog p o | pset p o | klog p o | bind p o | aadd p o
  | bset p o | trans p o | hrel p o | hchk p o | preq p o | cpy p va ch | cpyq p va sa | drain p chs | shdw p o
  | publ p o | engw p sa ix | lnch p va sa | scrub p o | trig p n | nop p | brt p o | brc p o | jmp p off
  | call p sd off | loop p off | lset p sa sm | exit p | yield p | trap p code | eret p | halt p =>
    obtain rfl := Option.some.inj hp
    simp only [execSyl]
    exact issue_off hg
  | addi p o | shlImm p o | shrImm p o | sraImm p o | rotlImm p o | movi p o | kpopc p o | kfirst p o =>
    obtain rfl := Option.some.inj hp
    simp only [execSyl]
    exact runS_off hg
  | vadd p t o | vsub p t o | vmul p t o | vmin p t o | vmax p t o | vfma p t o | vfmaNa p t o | vabs p t o
  | vscale p t o | vdot p src o =>
    obtain rfl := Option.some.inj hp
    simp only [execSyl]
    exact runVE_off hg
  | vcmp p t o | vsel p o | vcvt p o | vext p o | vins p o | vred p t o | vscan p t o =>
    obtain rfl := Option.some.inj hp
    simp only [execSyl]
    exact runV_off hg
  | vand p o | vor p o | vxor p o | vmov p o | vperm p o | vbcast p o | vrot p o | viota p o | vpack p o
  | vunpk p o =>
    obtain rfl := Option.some.inj hp
    simp only [execSyl]
    exact runVR_off hg
  | vshl p o | vshr p o | vsra p o =>
    obtain rfl := Option.some.inj hp
    simp only [execSyl]
    exact runShift_off hg
  | vrcp p o | vrsq p o | vexp2 p o | vlog2 p o =>
    obtain rfl := Option.some.inj hp
    simp only [execSyl]
    exact runFunc_off hg
  | lda p n o | sta p n o | ldv p w o | ldvs p w o | ldg p w o | stv p w o | stvs p w o | stg p w o | feset p o
  | fewait p o | amo32 p op o | amo64 p op o | amos32 p op o | amos64 p op o | cas p n o | acqX p o | acqSh p o
  | acqEv p o | relUn p o | relPost p o | pcmdAddI32 p o | pcmdAddF32 p o | pcmdAxpyF32 p o | pcmdMaxF32 p o
  | pcmdCvtBf16 p o | pcmdFill p o | pcmdCopy p o | pcmdAcc p o =>
    obtain rfl := Option.some.inj hp
    simp only [execSyl]
    exact runA_off hg
  | fence p o | pfence p o =>
    obtain rfl := Option.some.inj hp
    simp only [execSyl]
    exact runPush_off hg
  | cwait p o | waitev p o =>
    obtain rfl := Option.some.inj hp
    simp only [execSyl]
    exact counterWait_off hg
  | cadd p o | cset p o =>
    obtain rfl := Option.some.inj hp
    simp only [execSyl]
    exact counterOp_off hg
  | put p n o | putm p n o | putmO p n o =>
    obtain rfl := Option.some.inj hp
    simp only [execSyl]
    exact issuePut_off hg
  | sdef p sid | ssub p o | sfeed p o | srel p sid | bar p n | bara p n | barw p n =>
    obtain rfl := Option.some.inj hp
    simp only [execSyl]
    exact withSlot_off hg
  | mload p o | mcall p en | mwait p | mrdaVector p o | mrdaScratchpad p o | mzro p t =>
    obtain rfl := Option.some.inj hp
    have hs : isSteward s.iss.g = false := (Bool.and_true _).symm.trans hm
    simp only [execSyl]
    exact withMatrix_off hg hs
  | csave p o | cload p o =>
    obtain rfl := Option.some.inj hp
    simp only [execSyl]
    exact withArea_off hg
  | freeze p o | thaw p o | discard p o =>
    obtain rfl := Option.some.inj hp
    simp only [execSyl]
    exact freezeWord_off hg
  | vdrain p sa | hinvv p sa =>
    obtain rfl := Option.some.inj hp
    simp only [execSyl]
    exact withVf_off hg
  | jmpi p sa | ret p sa =>
    obtain rfl := Option.some.inj hp
    simp only [execSyl]
    exact jumpTo_off hg
  | _ => exact absurd hp (by simp [sylPart])

/-- Settles O50. -/
theorem guardedOff : Obligations.GuardedOff := by
  intro i p s hp hg hm
  rw [exec_eq_execSyl (by rw [hp]; rfl)]
  exact execSyl_off hp hg hm

end Sys2Proof.Machine
end

section
/-!
PROOFS. The starting state, what a step takes up, the words that the spec writes out (R304, R393, R395, R411, R449, R451).
-/
namespace Sys2Proof.Machine
open Sys2Proof.Claims

/-! The registers at reset. -/

theorem rget_reset (pa : Nat) : rget State.reset pa = regDefault pa := rfl

theorem regDefault_mxctl {n : Nat} (h : n < 1024) :
    regDefault (mxctl n) = 0x1FFFF ∧ regDefault (mxctl n + 8) = 0 ∧ regDefault (mxctl n + 16) = 0 := by
  unfold regDefault mxctl RA regBase
  simp only [Bool.and_eq_true, decide_eq_true_eq, beq_iff_eq]
  refine ⟨if_pos (by omega), ?_, ?_⟩
  all_goals
    repeat rw [if_neg (by omega)]

theorem regDefault_rport {p : Nat} (h : p < 47) :
    regDefault (rport p) = 1 + 192 * 2 ^ 40 + 4 * 2 ^ 48 ∧ regDefault (rport p + 8) = 0 ∧ regDefault (rport p + 16) = 0 ∧
      regDefault (rport p + 24) = 1000 := by
  unfold regDefault rport RA regBase
  simp only [Bool.and_eq_true, decide_eq_true_eq, beq_iff_eq]
  refine ⟨?_, ?_, ?_, ?_⟩
  all_goals rw [if_neg (by omega), if_pos (by omega)]
  · exact if_pos (by omega)
  · rw [if_neg (by omega), if_neg (by omega)]
  · rw [if_neg (by omega), if_neg (by omega)]
  · rw [if_neg (by omega), if_pos (by omega)]

/-- Settles O45. -/
theorem startingState : Obligations.StartingState := by
  refine ⟨fun n hn => ?_, fun p hp => ?_, by decide, by decide, by decide, rfl, fun _ => rfl⟩
  · obtain ⟨h0, h8, h16⟩ := regDefault_mxctl hn
    simp only [rfld, rget_reset, h0, h8, h16]
    decide
  · obtain ⟨h0, h8, h16, h24⟩ := regDefault_rport hp
    simp only [rbit, portState, rfld, rget_reset, h0, h8, h16, h24]
    decide

/-! What a step takes up. -/

section
variable {s : State}

theorem step_input {i : Instr} {r : List Instr} (hi : s.inputs = i :: r) : step s = stepInput i { s with inputs := r } := by
  rw [step, hi]

theorem stepInput_of {i : Instr} (he : external i = true) (hp : (s.start.powered || powersOn i) = true) :
    stepInput i s = exec i s := by
  rw [stepInput, he]
  exact if_pos hp

theorem step_own (hi : s.inputs = []) (hp : s.start.powered = true) : step s = stepOwn s := by
  rw [step, hi]
  exact if_pos hp

theorem stepOwn_arrived {m : Msg} {r : List Msg} (h : s.fab.arrived = m :: r) :
    stepOwn s = deliverMsg m { s with fab := { s.fab with arrived := r } } := by
  rw [stepOwn, h]

theorem stepOwn_turn {core : Nat} {i : Instr} {r : List (Nat × Instr)} (ha : s.fab.arrived = []) (h : s.turn = (core, i) :: r) :
    stepOwn s = exec i { s with turn := r, cur := core } := by
  rw [stepOwn, ha, h]

theorem stepOwn_agenda {t : Nat} {i : Instr} {r : List (Nat × Instr)} (ha : s.fab.arrived = []) (ht : s.turn = [])
    (h : s.agenda = (t, i) :: r) (hd : t ≤ s.clock) : stepOwn s = exec i { s with agenda := r } := by
  rw [stepOwn, ha, ht, h]
  exact if_pos hd

theorem stepOwn_tick (ha : s.fab.arrived = []) (ht : s.turn = []) (h : ∀ e ∈ s.agenda.head?, s.clock < e.1) :
    stepOwn s = .next (tick s) := by
  rw [stepOwn, ha, ht]
  dsimp only
  split
  · next t i r hl =>
    rw [hl] at h
    exact if_neg (Nat.not_le.mpr (h _ rfl))
  · rfl

end

/-- Settles O46. -/
theorem whatAStepTakesUp : Obligations.WhatAStepTakesUp := by
  refine ⟨fun s => ⟨fun i r hi he hp => ?_, fun o r hi => ?_, fun hi hp => ?_⟩, fun m s => ?_⟩
  · exact (step_input hi).trans (stepInput_of he (Bool.or_eq_true_iff.mpr (.inl hp)))
  · exact (step_input hi).trans (stepInput_of rfl (Bool.or_true _))
  · rw [step_own hi hp]
    exact ⟨fun m r ha => stepOwn_arrived ha, fun ha => ⟨fun core i r ht => stepOwn_turn ha ht, fun ht =>
      ⟨fun t i r h hd => stepOwn_agenda ha ht h hd, stepOwn_tick ha ht⟩⟩⟩
  · unfold deliverMsg
    refine ⟨?_, ?_, ?_, ?_, ?_, ?_, ?_, ?_, ?_, ?_, ?_, ?_, ?_, ?_, ?_, ?_, ?_, ?_, ?_, ?_⟩
    all_goals
      intro h
      rw [h]
      rfl

/-- Settles O48. -/
theorem wordsOfTheSpec : Obligations.WordsOfTheSpec := by
  unfold Obligations.WordsOfTheSpec
  and_intros
  all_goals rfl

end Sys2Proof.Machine
end

section
/-!
PROOFS. A course of one syllable is fetched, decoded and executed (R21 to R25, R137, R150).
-/
namespace Sys2Proof.Machine
open Sys2Proof.Claims

/-! Cores and their contexts. -/

theorem coreOf_ctxBase (core : Nat) {i : Nat} (hi : i < 4) : coreOf (ctxBase core + i) = core := by
  unfold coreOf ctxBase
  split <;> split <;> omega

theorem ctxBase_mod (core : Nat) {i : Nat} (hi : i < 4) : (ctxBase core + i) % 4 = i := by
  unfold ctxBase
  split <;> omega

theorem mem_selectOrder {core run g : Nat} {y : Option Nat} (h : g ∈ selectOrder core run y) : ∃ i, i < 4 ∧ g = ctxBase core + i := by
  unfold selectOrder at h
  obtain ⟨i, hi, rfl⟩ := List.mem_map.mp h
  refine ⟨i, ?_, rfl⟩
  cases y with
  | none =>
    obtain ⟨j, -, rfl⟩ := List.mem_map.mp hi
    exact Nat.mod_lt _ (by decide)
  | some g =>
    obtain ⟨j, -, rfl⟩ := List.mem_map.mp hi
    exact Nat.mod_lt _ (by decide)

/-! A core none of whose contexts may be tried. -/

theorem localTime_yielded (s : State) (core n : Nat) :
    localTime (modCore s core fun k => { k with yielded := none }) n = localTime s n := by
  unfold localTime
  rw [getCore_modCore]
  split
  · next h =>
    rw [h]
    rfl
  · rfl

theorem mayIssue_yielded (s : State) (core g : Nat) :
    mayIssue (modCore s core fun k => { k with yielded := none }) g = mayIssue s g := by
  unfold mayIssue
  rw [localTime_yielded]
  rfl

theorem selectFrom_none {core : Nat} {l : List Nat} {s : State} (h : ∀ g ∈ l, mayIssue s g = false) :
    selectFrom core l s = (s, false) := by
  induction l with
  | nil => rfl
  | cons g r ih =>
    rw [selectFrom, h g (List.mem_cons_self ..)]
    exact ih fun x hx => h x (List.mem_cons_of_mem _ hx)

theorem execContextSelect_idle {core : Nat} {s : State} (hf : coreFrozen s core = false)
    (hm : ∀ i, i < 4 → mayIssue s (ctxBase core + i) = false) (hr : (getCore s core).running < 4) :
    let run := ctxBase core + (getCore s core).running
    let s1 := modCore s core fun k => { k with yielded := none }
    execContextSelect core s = .next (if (getCtx s run).phase = .resident ∧ (getCtx s run).frozen = false ∧
      localTime s core < (getCtx s run).next ∧ (getCtx s run).bubble = true then countIdle s1 run 32 else s1) := by
  intro run s1
  have hsel : selectFrom core (selectOrder core (getCore s core).running (getCore s core).yielded) s1 = (s1, false) :=
    selectFrom_none fun g hg => by
      obtain ⟨i, hi, rfl⟩ := mem_selectOrder hg
      rw [mayIssue_yielded, hm i hi]
  have hb : inBubble s run = true ↔ (getCtx s run).phase = .resident ∧ (getCtx s run).frozen = false ∧
      localTime s core < (getCtx s run).next := by
    simp [inBubble, run, coreOf_ctxBase core hr, and_assoc]
  have hc : (getCtx s1 run).bubble = (getCtx s run).bubble := rfl
  have hcount : countBubble s1 run = if (getCtx s run).bubble = true then countIdle s1 run 32 else s1 := rfl
  have key : (if inBubble s run then Host.Outcome.next (countBubble s1 run)
      else if mayIssue s run then .next (countIdle s1 run 0) else .next s1 : Res) = .next (if (getCtx s run).phase = .resident ∧ (getCtx s run).frozen = false ∧
      localTime s core < (getCtx s run).next ∧ (getCtx s run).bubble = true then countIdle s1 run 32 else s1) := by
    by_cases hin : inBubble s run = true
    · obtain ⟨h1, h2, h3⟩ := hb.mp hin
      rw [if_pos hin, hcount]
      simp [h1, h2, h3]
    · have hno : ¬((getCtx s run).phase = .resident ∧ (getCtx s run).frozen = false ∧ localTime s core < (getCtx s run).next ∧
          (getCtx s run).bubble = true) := fun h => hin (hb.mpr ⟨h.1, h.2.1, h.2.2.1⟩)
      rw [if_neg hin, if_neg hno, hm _ hr]
      rfl
  unfold execContextSelect
  dsimp only
  rw [hf, hsel, ← key]
  by_cases hin : inBubble s run = true
  · simp only [run] at hin ⊢
    simp [hin, s1]
  · simp only [run] at hin ⊢
    simp [hin, s1]

/-! The words of a bundle. -/

theorem natOfBytes_lt (l : List Byte) : natOfBytes l < 256 ^ l.length := by
  induction l with
  | nil => decide
  | cons b l ih =>
    rw [List.length_cons, Nat.pow_succ]
    change natOfBytes l * 256 + b.toNat < _
    have := b.isLt
    omega

theorem wordsIn_lt (l : List Byte) (k : Nat) : (wordsIn l).getD k 0 < 2 ^ 32 := by
  have hw : ∀ x ∈ wordsIn l, x < 2 ^ 32 := by
    intro x hx
    obtain ⟨j, -, rfl⟩ := List.mem_map.mp hx
    refine Nat.lt_of_lt_of_le (natOfBytes_lt _) ?_
    calc 256 ^ ((l.drop (4 * j)).take 4).length ≤ 256 ^ 4 := Nat.pow_le_pow_right (by decide) (List.length_take_le ..)
      _ = 2 ^ 32 := by decide
  rw [List.getD_eq_getElem?_getD]
  cases h : (wordsIn l)[k]? with
  | none => decide
  | some x => exact hw x (List.mem_of_getElem? h)

theorem wordsIn_head (l : List Byte) : (wordsIn l).headD 0 = (wordsIn l).getD 0 0 := rfl

/-- A slot's word that stops its course is the whole course. -/
theorem runOf_stop (base : Nat) {k : Nat} (hk : k < 4) (l : List Byte) (hs : bitOf ((wordsIn l).getD k 0) 31 = true) :
    runOf base k (wordsIn l) = ([(base, lendAt ((wordsIn l).headD 0) k, (wordsIn l).getD k 0)], some k) := by
  have hz : (List.range 4).zip (wordsIn l) = (List.range 4).map fun j => (j, (wordsIn l).getD j 0) := rfl
  unfold runOf
  rw [hz]
  have hfirst : ∃ r, ((List.range 4).map fun j => (j, (wordsIn l).getD j 0)).filter
      (fun x => decide (k ≤ x.1) && !(x.1 == 0 && isHeader x.2 && !bitOf x.2 31)) = (k, (wordsIn l).getD k 0) :: r := by
    rw [List.getD_eq_getElem?_getD] at hs
    obtain rfl | rfl | rfl | rfl : k = 0 ∨ k = 1 ∨ k = 2 ∨ k = 3 := by omega
    all_goals simp [List.range_succ, hs]
  obtain ⟨r, hr⟩ := hfirst
  rw [hr, runOf.go, if_pos hs]

/-! The decoder gives syllables. -/

theorem sylPart_of_encode {i : Instr} (hm : isMicro i = false) (he : (Sys2Proof.encode i).isSome = true) : (sylPart i).isSome = true := by
  cases i
  all_goals first | rfl | exact absurd hm.symm Bool.false_ne_true | exact absurd he Bool.false_ne_true

theorem exec_of_decodeSyl {l : Lend} {w : Nat} {i : Instr} (hw : w < 2 ^ 32) (h : decodeSyl l w = .ok i) (s : State) :
    execSyl i s = exec i s := by
  obtain ⟨-, hm, he⟩ := Codec.encodingsAgree.2.1 l w i hw h
  refine (exec_eq_execSyl (sylPart_of_encode hm ?_) s).symm
  rw [Option.isSome_iff_ne_none]
  intro hn
  rw [hn] at he
  exact absurd he (by simp)

theorem unit_of_decodeSyl {l : Lend} {w : Nat} {i : Instr} (h : decodeSyl l w = .ok i) : fld w 28 3 < 5 := by
  unfold decodeSyl at h
  split at h
  · contradiction
  · dsimp only at h
    split at h
    case h_6 => contradiction
    case h_7 => contradiction
    all_goals omega

/-! The course of one syllable. -/

section
variable {s : State} {g w : Nat} {l : List Byte} {i : Instr} (h : oneSyllable s g w l i)
include h

theorem oneSyllable_first : firstOf s g (getCtx s g).pc = (getCtx s g).pc := by
  obtain ⟨-, hl, hw, hstop, -⟩ := h
  unfold firstOf
  split
  · next h16 =>
    rw [hl]
    have hk : (getCtx s g).pc / 4 % 4 = 0 := by omega
    rw [hk] at hw
    dsimp only
    rw [wordsIn_head, hw, hstop]
    simp
  · rfl

theorem oneSyllable_exec (t : State) : execSyl i t = exec i t := by
  obtain ⟨-, -, hw, -, -, hd, -⟩ := h
  exact exec_of_decodeSyl (hw ▸ wordsIn_lt l _) hd t

theorem oneSyllable_unit : (theSyllable s g w l i).unit < 5 := by
  obtain ⟨-, -, -, -, -, hd, -⟩ := h
  exact unit_of_decodeSyl hd

theorem oneSyllable_errs : courseErrs (isSteward g) false (getCtx s g)
    [((getCtx s g).pc / 16 * 16, lendAt ((wordsIn l).headD 0) ((getCtx s g).pc / 4 % 4), w)] = ([], [theSyllable s g w l i]) := by
  obtain ⟨-, -, -, -, -, hd, hst, htag, -⟩ := h
  have hdec : decodeWord (isSteward g) ((getCtx s g).pc / 16 * 16, lendAt ((wordsIn l).headD 0) ((getCtx s g).pc / 4 % 4), w) =
      .ok (theSyllable s g w l i) := by
    rw [decodeWord, hd]
    dsimp only
    rw [hst]
    rfl
  have htw : twice (([w].map fun x => fld x 28 3).filter (· < 5)) = false := by
    simp only [List.map_cons, List.map_nil, List.filter_cons, List.filter_nil]
    split <;> rfl
  have htg : ((lendAt ((wordsIn l).headD 0) ((getCtx s g).pc / 4 % 4)).lt != 0 &&
      decide ((lendAt ((wordsIn l).headD 0) ((getCtx s g).pc / 4 % 4)).lt < 6) && !isBrt w) = false := by
    rcases htag with h0 | h1
    · rw [h0]
      rfl
    · rw [h1]
      simp
  unfold courseErrs
  simp only [List.map_cons, List.map_nil, hdec, List.filterMap_cons, List.filterMap_nil, Except.toOption, List.any_cons, List.any_nil,
    Bool.or_false, htg, dependent]
  simp only [List.map_cons, List.map_nil] at htw
  rw [htw]
  rfl

theorem oneSyllable_fetch : fetchCourse s g (getCtx s g).pc =
    .ok [theSyllable s g w l i] ((getCtx s g).pc / 16 * 16 + 4 * ((getCtx s g).pc / 4 % 4 + 1)) := by
  have herrs := oneSyllable_errs h
  obtain ⟨hb, hl, hw, hstop, he, -⟩ := h
  have hrun := runOf_stop ((getCtx s g).pc / 16 * 16) (Nat.mod_lt ((getCtx s g).pc / 4) (by decide : 0 < 4)) l (by rw [hw]; exact hstop)
  rw [hw] at hrun
  rw [fetchCourse, hb, hl]
  simp only [Bool.not_true, Bool.false_eq_true, if_false]
  rw [hrun]
  simp only [decodeCourse, herrs, he]
  rfl

/-- The step of the course is the step of its syllable. -/
theorem oneSyllable_try : tryCourse s g = tryIssue s g (getCtx s g).pc
    ((getCtx s g).pc / 16 * 16 + 4 * ((getCtx s g).pc / 4 % 4 + 1)) [theSyllable s g w l i] := by
  have hfirst := oneSyllable_first h
  have hfetch := oneSyllable_fetch h
  obtain ⟨-, -, -, -, -, -, -, -, hbrk, hhld⟩ := h
  rw [tryCourse]
  dsimp only
  rw [hfirst, hfetch, hbrk, hhld]
  rfl

theorem oneSyllable_run (t : State) {u : State} (hu : exec i (atSyllable t (theSyllable s g w l i)) = .next u) :
    runSyl t (theSyllable s g w l i) = u := by
  have he := oneSyllable_exec h (atSyllable t (theSyllable s g w l i))
  rw [hu] at he
  unfold runSyl
  change (match execSyl i (atSyllable t (theSyllable s g w l i)) with
    | .next t => t
    | _ => _) = u
  rw [he]

end

/-! A course of one syllable, tried. -/

section
variable {x : CSyl} (hu : x.unit < 5)
include hu

theorem units_single : plainUnits [x] = [x] ∧ ofUnit 3 [x] = [] ∨ plainUnits [x] = [] ∧ ofUnit 3 [x] = [x] := by
  unfold plainUnits ofUnit
  obtain hx | hx | hx | hx | hx : x.unit = 0 ∨ x.unit = 1 ∨ x.unit = 2 ∨ x.unit = 4 ∨ x.unit = 3 := by omega
  case inr.inr.inr.inr => exact .inr (by simp [hx])
  all_goals exact .inl (by simp [hx])

theorem effectOrder_single : effectOrder [x] = [x] := by
  unfold effectOrder ofUnit
  obtain hx | hx | hx | hx | hx : x.unit = 0 ∨ x.unit = 1 ∨ x.unit = 2 ∨ x.unit = 3 ∨ x.unit = 4 := by omega
  all_goals simp [hx]

theorem tryIssue_single_go (s : State) (g pc next : Nat)
    (hf : (runSyl (openCourse s g pc next (firstOf s g next) [x]) x).iss.fate = .go) :
    tryIssue s g pc next [x] =
      .go (issueCourse (openCourse s g pc next (firstOf s g next) [x]) g pc (breakAt s g pc (· == 0)) [x]) := by
  unfold tryIssue
  rcases units_single hu with ⟨hp, hm⟩ | ⟨hp, hm⟩
  all_goals
    dsimp only
    rw [hp, hm]
    simp [hf]

theorem tryIssue_single_trap (s : State) (g pc next : Nat)
    (hf : (runSyl (openCourse s g pc next (firstOf s g next) [x]) x).iss.fate = .trap) :
    tryIssue s g pc next [x] = .trap (runSyl (openCourse s g pc next (firstOf s g next) [x]) x) := by
  unfold tryIssue
  rcases units_single hu with ⟨hp, hm⟩ | ⟨hp, hm⟩
  all_goals
    dsimp only
    rw [hp, hm]
    simp [hf]

end

section
variable {s : State} {g w : Nat} {l : List Byte} {i : Instr} (h : oneSyllable s g w l i)
include h

theorem oneSyllable_go {t u : State} (ht : exec i (atSyllable (opened s g w l i) (theSyllable s g w l i)) = .next t)
    (hf : t.iss.fate = .go)
    (hu : exec i (atSyllable (modCtx (countCourse (opened s g w l i) g (getCtx s g).pc [theSyllable s g w l i]) g fun c =>
      { c with skb := false }) (theSyllable s g w l i)) = .next u) :
    tryCourse s g = .go (modCore (modCtx u g fun c => { c with mark := none, waitEnd := none }) (coreOf g) fun k =>
      { k with running := g % 4, weight := k.weight + sylWeight (theSyllable s g w l i).unit i }) := by
  have hunit := oneSyllable_unit h
  have hrun := oneSyllable_run h _ ht
  have hrun2 := oneSyllable_run h _ hu
  rw [oneSyllable_try h]
  refine (tryIssue_single_go hunit _ _ _ _ (by rw [← hf, ← hrun]; rfl)).trans ?_
  obtain ⟨-, -, -, -, -, -, -, -, hbrk, -⟩ := h
  rw [hbrk, issueCourse, effectOrder_single hunit]
  refine congrArg Attempt.go ?_
  change (modCore (modCtx (runSyl (modCtx (countCourse (opened s g w l i) g (getCtx s g).pc [theSyllable s g w l i]) g _) _) g _) _ _ : State) = _
  rw [hrun2]
  simp only [List.foldl_cons, List.foldl_nil, Nat.zero_add]
  rfl

theorem oneSyllable_trap {t : State} (ht : exec i (atSyllable (opened s g w l i) (theSyllable s g w l i)) = .next t)
    (hf : t.iss.fate = .trap) : tryCourse s g = .trap t := by
  have hrun := oneSyllable_run h _ ht
  rw [oneSyllable_try h]
  refine (tryIssue_single_trap (oneSyllable_unit h) _ _ _ _ (by rw [← hf, ← hrun]; rfl)).trans ?_
  exact congrArg Attempt.trap hrun

end

/-! The running context comes first. -/

section
variable {core : Nat} {s : State} (hf : coreFrozen s core = false) (hy : (getCore s core).yielded = none)
  (hr : (getCore s core).running < 4) (hm : mayIssue s (ctxBase core + (getCore s core).running) = true)
include hf hy hr hm

theorem execContextSelect_running : execContextSelect core s =
    (match tryCourse (modCore s core fun k => { k with yielded := none }) (ctxBase core + (getCore s core).running) with
    | .go t => .next t
    | .trap t => .next (modCore t core fun k => { k with running := (ctxBase core + (getCore s core).running) % 4 })
    | .stall _ => execContextSelect core s) := by
  have hb : inBubble s (ctxBase core + (getCore s core).running) = false := by
    simp only [mayIssue, Bool.and_eq_true, decide_eq_true_eq] at hm
    simp [inBubble, hm.2]
  have horder : ∃ r, selectOrder core (getCore s core).running none = (ctxBase core + (getCore s core).running) :: r :=
    ⟨_, by simp [selectOrder, Nat.mod_eq_of_lt hr]; rfl⟩
  obtain ⟨r, hr2⟩ := horder
  cases htry : tryCourse (modCore s core fun k => { k with yielded := none }) (ctxBase core + (getCore s core).running) with
  | stall t => rfl
  | go t =>
    unfold execContextSelect
    dsimp only
    rw [hf, hy, hb, hr2, selectFrom, mayIssue_yielded, hm, htry]
    rfl
  | trap t =>
    unfold execContextSelect
    dsimp only
    rw [hf, hy, hb, hr2, selectFrom, mayIssue_yielded, hm, htry]
    rfl

end

theorem exec_nop_next (p : Syl) (s : State) : exec (.nop p) s = .next s :=
  (exec_nop ..).trans (by rw [execNop, issue, ite_self])

theorem xrNext_fate (o : XR) (lat : Nat) (v : Word64) (s : State) : (xrNext o lat v s).iss.fate = s.iss.fate := by
  unfold xrNext deliver afterPop
  cases o.qd <;> cases (o.qs || o.qb) <;> rfl

/-- Settles O47. -/
theorem stepRunsTheDecodedInstruction : Obligations.StepRunsTheDecodedInstruction := by
  refine ⟨fun core s => ⟨fun hf => ?_, fun hf hm hr => (exec_contextSelect ..).trans (execContextSelect_idle hf hm hr)⟩, ?_⟩
  · refine (exec_contextSelect ..).trans ?_
    unfold execContextSelect
    exact if_pos hf
  intro core s w l i s1 g x hf hy hr hm h1
  have hcore : coreOf g = core := coreOf_ctxBase core hr
  have hgo : ∀ t u, exec i (atSyllable (opened s1 g w l i) x) = .next t → t.iss.fate = .go →
      exec i (atSyllable (modCtx (countCourse (opened s1 g w l i) g (getCtx s1 g).pc [x]) g fun c => { c with skb := false }) x) =
        .next u →
      exec (.contextSelect core) s = .next (modCore (modCtx u g fun c => { c with mark := none, waitEnd := none }) core fun k =>
        { k with running := g % 4, weight := k.weight + sylWeight x.unit i }) := fun t u ht hfate hu => by
    refine (exec_contextSelect ..).trans ((execContextSelect_running hf hy hr hm).trans ?_)
    rw [oneSyllable_go h1 ht hfate hu, hcore]
  refine ⟨hgo, fun t ht hfate => ?_, fun s0 r hi hp ha ht hs => ?_, ?_⟩
  · refine (exec_contextSelect ..).trans ((execContextSelect_running hf hy hr hm).trans ?_)
    rw [oneSyllable_trap h1 ht hfate]
  · rw [hs, step_own hi hp, stepOwn_turn ha ht]
  · refine ⟨fun p hp => ?_, fun p o hp h2 h3 => ?_⟩
    · subst hp
      exact hgo _ _ (exec_nop_next ..) rfl (exec_nop_next ..)
    · subst hp
      exact hgo _ _ (sumsProductsLogic p o _ h2).1 (xrNext_fate ..) (sumsProductsLogic p o _ h3).1

end Sys2Proof.Machine
end

section
/-!
PROOFS. The frame of the register forms (R26, R33, R40, R41, R63).
-/
namespace Sys2Proof.Machine
open Sys2Proof.Claims

/-! What a register form may change. -/

/-- d is c but for what is in flight, the queues, the lane generators and the next course. -/
def CtxKept (c d : Ctx) : Prop :=
  c.flight <+: d.flight ∧
  { d with flight := c.flight, ldq := c.ldq, sdq := c.sdq, sdqSeq := c.sdqSeq, gens := c.gens, pc := c.pc, next := c.next,
           bubble := c.bubble } = c

theorem CtxKept.refl (c : Ctx) : CtxKept c c := ⟨List.prefix_rfl, rfl⟩

theorem CtxKept.trans {c d e : Ctx} (h1 : CtxKept c d) (h2 : CtxKept d e) : CtxKept c e := by
  obtain ⟨hp1, he1⟩ := h1
  obtain ⟨hp2, he2⟩ := h2
  refine ⟨hp1.trans hp2, ?_⟩
  rw [← he2] at he1
  exact he1

/-- t is s but for the issuing context, which is kept, and for the mark of the course. -/
structure RegKept (s t : State) : Prop where
  rest : { t with ctxs := s.ctxs, iss := s.iss } = s
  iss : { t.iss with fate := s.iss.fate } = s.iss
  others : ∀ g, g ≠ s.iss.g → getCtx t g = getCtx s g
  own : CtxKept (getCtx s s.iss.g) (getCtx t s.iss.g)

theorem RegKept.refl (s : State) : RegKept s s := ⟨rfl, rfl, fun _ _ => rfl, .refl _⟩

theorem RegKept.issuer_eq {s t : State} (h : RegKept s t) : t.iss.g = s.iss.g := (congrArg Issue.g h.iss :)

theorem RegKept.trans {s t u : State} (h1 : RegKept s t) (h2 : RegKept t u) : RegKept s u := by
  obtain ⟨hr2, hi2, ho2, hc2⟩ := h2
  rw [h1.issuer_eq] at ho2 hc2
  refine ⟨?_, ?_, fun g hg => (ho2 g hg).trans (h1.others g hg), h1.own.trans hc2⟩
  · have := h1.rest
    rw [← hr2] at this
    exact this
  · have := h1.iss
    rw [← hi2] at this
    exact this

theorem RegKept.modIssuer {s t : State} (h : RegKept s t) {f : Ctx → Ctx} (hf : CtxKept (issuer t) (f (issuer t))) :
    RegKept s (modIssuer t f) :=
  h.trans ⟨rfl, rfl, fun _ hg => getCtx_modCtx_ne _ _ _ _ hg, by
    rw [Machine.modIssuer, getCtx_modCtx_self]
    exact hf⟩

theorem RegKept.emit {s t : State} (h : RegKept s t) (d : Dest) (v : VWord) (m : Word64) (lat : Nat) (fl : BitVec 5) :
    RegKept s (emit t d v m lat fl) := h.modIssuer ⟨List.prefix_append .., rfl⟩

theorem RegKept.reserveSdq {s t : State} (h : RegKept s t) : RegKept s (reserveSdq t).1 := by
  refine h.modIssuer (f := fun c => _) ?_
  exact ⟨List.prefix_rfl, rfl⟩

theorem RegKept.deliver {s t : State} (h : RegKept s t) (q : Bool) (d : Dest) (v : VWord) (m : Word64) (lat : Nat) (fl : BitVec 5) :
    RegKept s (deliver t q d v m lat fl) := by
  cases q with
  | false => exact h.emit ..
  | true => exact h.reserveSdq.emit ..

theorem RegKept.branchTo {s t : State} (h : RegKept s t) (target : Nat) (near : Bool) : RegKept s (branchTo t target near) :=
  h.modIssuer ⟨List.prefix_rfl, rfl⟩

theorem RegKept.foldl {α : Type} {f : State → α → State} (hf : ∀ s t x, RegKept s t → RegKept s (f t x)) {s t : State}
    (h : RegKept s t) (l : List α) : RegKept s (l.foldl f t) := by
  induction l generalizing t with
  | nil => exact h
  | cons x l ih => exact ih (hf _ _ _ h)

/-! Outcomes. -/

/-- Where r goes on without a trap, s is kept. -/
def Framed (s : State) (r : Res) : Prop := ∀ t, r = .next t → t.iss.fate ≠ .trap → RegKept s t

section
variable {s s1 : State}

theorem Framed.next (h : RegKept s s1) : Framed s (.next s1) := fun t ht _ => by
  obtain rfl := Host.Outcome.next.inj ht
  exact h

theorem Framed.trapNow (cause : Nat) (info : Word64) : Framed s (trapNow s1 cause info) :=
  fun _ ht hf => absurd (trapNow_fate ht) hf

theorem Framed.stall (h : RegKept s s1) : Framed s (stall s1) :=
  .next (h.trans ⟨rfl, rfl, fun _ _ => rfl, .refl _⟩)

theorem Framed.ite {c : Prop} [Decidable c] {r1 r2 : Res} (h1 : Framed s r1) (h2 : Framed s r2) : Framed s (if c then r1 else r2) := by
  split
  · exact h1
  · exact h2

theorem Framed.issue {p : Syl} {f : State → Res} (h : Framed s (f s)) : Framed s (issue p s f) := .ite h (.next (.refl _))

theorem Framed.withRoom {q : Bool} {f : State → Res} (h : Framed s (f s)) : Framed s (withRoom q s f) := .ite (.stall (.refl _)) h

theorem Framed.withPop {q : Bool} {f : Option VWord → State → Res} (h : ∀ v t, RegKept s t → Framed s (f v t)) :
    Framed s (withPop q s f) := by
  unfold Machine.withPop
  split
  · split
    · exact .stall (.refl _)
    · exact .ite (.stall (.refl _)) (.ite (.trapNow _ _) (h _ _ ((RegKept.refl s).modIssuer ⟨List.prefix_rfl, rfl⟩)))
  · exact h _ _ (.refl _)

end

/-! The forms. -/

section
variable {p : Syl} (s : State)

theorem runXR_framed {o : XR} {lat : Nat} {f : Word64 → Word64 → Word64 → Word64} : Framed s (runXR p o lat s f) :=
  .issue (.withRoom (.withPop fun _ _ h => .next (h.deliver ..)))

theorem runXU_framed {o : XU} {f : Word64 → Word64} : Framed s (runXU p o s f) := runXR_framed s

theorem runS_framed {sd : Nat} {f : Ctx → Word64} : Framed s (runS p sd s f) := .issue (.next ((RegKept.refl s).emit ..))

theorem runV_framed {qs : Bool} {va km lat : Nat} {dst : VDst} {wm : Word64 → Word64} {f : VIn → VWord × BitVec 5} :
    Framed s (runV p qs va km lat dst wm s f) := by
  refine .issue (.withRoom (.withPop fun v t h => ?_))
  dsimp only
  refine .ite (.trapNow _ _) (.next (RegKept.deliver ?_ ..))
  split
  · exact h.modIssuer ⟨List.prefix_rfl, rfl⟩
  · exact h

theorem runVR_framed {o : VR} {lat : Nat} {f : VIn → VWord → VWord → VWord × BitVec 5} : Framed s (runVR p o lat s f) :=
  runV_framed s

theorem runVE_framed {t : VTy} {o : VR} {lat : Nat} {f : Word32 → Word32 → Nat → Nat → Nat → Nat × BitVec 5} :
    Framed s (runVE p t o lat s f) := by
  rw [runVE]
  exact runVR_framed s

theorem runShift_framed {o : VR} {kind : Nat} : Framed s (runShift p o kind s) := by
  rw [runShift]
  exact runVR_framed s

theorem runFunc_framed {o : VR} {k : Nat} : Framed s (runFunc p o k s) := by
  rw [runFunc]
  exact runVE_framed s

theorem jumpTo_framed {sa : Nat} : Framed s (jumpTo p sa s) := .issue (.next ((RegKept.refl s).branchTo ..))

theorem execMov_framed {o : XV} : Framed s (execMov p o s) := .issue (.withRoom (.withPop fun _ _ h => .next (h.deliver ..)))

theorem execMfsr_framed {o : XS} : Framed s (execMfsr p o s) := .issue (.ite (.next ((RegKept.refl s).emit ..)) (.trapNow _ _))

theorem execMtsr_framed {o : XS} : Framed s (execMtsr p o s) :=
  .issue (.ite (.ite (.next ((RegKept.refl s).branchTo ..)) (.next ((RegKept.refl s).emit ..))) (.trapNow _ _))

theorem execCmp_framed {o : XC} : Framed s (execCmp p o s) := .issue (.next ((RegKept.refl s).emit ..))

theorem execCmpi_framed {o : XK} : Framed s (execCmpi p o s) := .issue (.next ((RegKept.refl s).emit ..))

theorem execPlog_framed {o : XL} : Framed s (execPlog p o s) := .issue (.next ((RegKept.refl s).emit ..))

theorem execPset_framed {o : XP} : Framed s (execPset p o s) := .issue (.next ((RegKept.refl s).emit ..))

theorem execKlog_framed {o : XL} : Framed s (execKlog p o s) := .issue (.next ((RegKept.refl s).emit ..))

theorem execAadd_framed {o : AA} : Framed s (execAadd p o s) := .issue (.next ((RegKept.refl s).emit ..))

theorem execBset_framed {o : AA} : Framed s (execBset p o s) := .issue (.next ((RegKept.refl s).emit ..))

theorem execHrel_framed {o : AH} : Framed s (execHrel p o s) := .issue (.next ((RegKept.refl s).emit ..))

theorem execNop_framed : Framed s (execNop p s) := .issue (.next (.refl s))

theorem execBrt_framed {o : BT} : Framed s (execBrt p o s) := by
  refine .issue ?_
  split
  case h_5 => exact .next (.refl s)
  all_goals exact .next ((RegKept.refl s).branchTo ..)

theorem execBrc_framed {o : BC} : Framed s (execBrc p o s) :=
  .issue (.ite (.next ((RegKept.refl s).branchTo ..)) (.next (.refl s)))

theorem execJmp_framed {off : Int} : Framed s (execJmp p off s) := .issue (.next ((RegKept.refl s).branchTo ..))

theorem execCall_framed {sd : Fin 64} {off : Int} : Framed s (execCall p sd off s) :=
  .issue (.next (((RegKept.refl s).emit ..).branchTo ..))

theorem execLoop_framed {off : Int} : Framed s (execLoop p off s) := by
  have h1 (e r : Nat) : RegKept s (putSr (putSr s 7 e) 3 r) := ((RegKept.refl s).emit ..).emit ..
  refine .issue (.ite (.next (((h1 _ _).emit ..).branchTo ..)) (.ite (.next ?_) (.next (.refl s))))
  exact RegKept.foldl (fun _ _ _ h => h.emit ..) (h1 _ _) _

theorem execLset_framed {sa : Fin 64} {sm : Fin 8} : Framed s (execLset p sa sm s) := by
  refine .issue (.next (RegKept.foldl (fun _ _ _ h => h.emit ..) ?_ _))
  exact ((((RegKept.refl s).emit ..).emit ..).emit ..).emit ..

theorem execSyl_framed {i : Instr} (hr : registerForm i = true) : Framed s (execSyl i s) := by
  cases i with
  | add p o | sub p o | mul p o | mulh p o | mulhU p o | div p o | divU p o | rem p o | remU p o | and p o | or p o
  | xor p o | andn p o | shl p o | shr p o | sra p o | rotl p o | extb p o | extbS p o | depb p o | min p o | max p o
  | minU p o | maxU p o | lea p n o | sel p n o =>
    simp only [execSyl]
    exact runXR_framed s
  | abs p o | clz p o | popc p o =>
    simp only [execSyl]
    exact runXU_framed s
  | mov p o =>
    exact execMov_framed s
  | mfsr p o =>
    exact execMfsr_framed s
  | mtsr p o =>
    exact execMtsr_framed s
  | cmp p o =>
    exact execCmp_framed s
  | cmpi p o =>
    exact execCmpi_framed s
  | plog p o =>
    exact execPlog_framed s
  | pset p o =>
    exact execPset_framed s
  | klog p o =>
    exact execKlog_framed s
  | aadd p o =>
    exact execAadd_framed s
  | bset p o =>
    exact execBset_framed s
  | hrel p o =>
    exact execHrel_framed s
  | nop p =>
    exact execNop_framed s
  | brt p o =>
    exact execBrt_framed s
  | brc p o =>
    exact execBrc_framed s
  | jmp p off =>
    exact execJmp_framed s
  | call p sd off =>
    exact execCall_framed s
  | loop p off =>
    exact execLoop_framed s
  | lset p sa sm =>
    exact execLset_framed s
  | addi p o | shlImm p o | shrImm p o | sraImm p o | rotlImm p o | movi p o | kpopc p o | kfirst p o =>
    simp only [execSyl]
    exact runS_framed s
  | vadd p t o | vsub p t o | vmul p t o | vmin p t o | vmax p t o | vfma p t o | vfmaNa p t o | vabs p t o
  | vscale p t o | vdot p src o =>
    simp only [execSyl]
    exact runVE_framed s
  | vcmp p t o | vsel p o | vcvt p o | vext p o | vins p o | vred p t o | vscan p t o =>
    simp only [execSyl]
    exact runV_framed s
  | vand p o | vor p o | vxor p o | vmov p o | vperm p o | vbcast p o | vrot p o | viota p o | vpack p o
  | vunpk p o =>
    simp only [execSyl]
    exact runVR_framed s
  | vshl p o | vshr p o | vsra p o =>
    simp only [execSyl]
    exact runShift_framed s
  | vrcp p o | vrsq p o | vexp2 p o | vlog2 p o =>
    simp only [execSyl]
    exact runFunc_framed s
  | jmpi p sa | ret p sa =>
    simp only [execSyl]
    exact jumpTo_framed s
  | _ => exact absurd hr Bool.false_ne_true

end

theorem sylPart_of_registerForm {i : Instr} (h : registerForm i = true) : (sylPart i).isSome = true := by
  cases i
  all_goals first | rfl | exact absurd h Bool.false_ne_true

/-- Settles O51. -/
theorem registerFormsFrame : Obligations.RegisterFormsFrame := by
  intro i s t hr hx hf
  rw [exec_eq_execSyl (sylPart_of_registerForm hr)] at hx
  obtain ⟨hrest, hiss, hothers, hflight, hown⟩ := execSyl_framed s hr t hx hf
  have hmem : t.mem = s.mem := (congrArg State.mem hrest :)
  have hregs : t.regs = s.regs := (congrArg State.regs hrest :)
  exact ⟨mread_congr hmem, fun a => by rw [rget, rget, hregs], hrest, hiss, hothers, hflight, hown⟩

end Sys2Proof.Machine
end

section
/-!
PROOFS. A load, a store and an atomic at their home (R209, R211, R227, R228, R252).
-/
namespace Sys2Proof.Machine
open Sys2Proof.Claims

/-! A part that nothing holds back. -/

theorem atHome_passes {s s1 : State} {id : Nat} {k : TxnKind} {t : Txn} {f : State → Txn → State} (h : passes s id k t)
    (hb : withBanks s t = some s1) : atHome s id k f = f s1 t := by
  obtain ⟨ht, hk, hp, ho, hm, hg⟩ := h
  unfold atHome
  simp only [ht, hk, hp, ho, hm, hg, hb, bne_self_eq_false, Option.isSome_none, Bool.or_false, Bool.false_eq_true, if_false]

theorem withBanks_frame {s s1 : State} {t : Txn} (h : withBanks s t = some s1) : ∃ k, s1 = { s with clusters := k } := by
  unfold withBanks at h
  dsimp only at h
  split at h
  · exact ⟨_, (Option.some.inj h).symm⟩
  · split at h
    · exact ⟨_, (Option.some.inj h).symm⟩
    · generalize bankCounts _ = n at h
      split at h
      · exact ⟨_, (Option.some.inj h).symm⟩
      · contradiction

theorem home_of_twin {t : Txn} (h : t.twin = 0) (s : State) (a : Nat) : t.home s a = a := if_pos (by simp [h])

/-! The deadline class leaves the bytes alone. -/

theorem xorFold_lt {n : Nat} {l : List Nat} (h : ∀ x ∈ l, x < 2 ^ n) : xorFold l < 2 ^ n := by
  have key : ∀ (l : List Nat) (a : Nat), a < 2 ^ n → (∀ x ∈ l, x < 2 ^ n) → l.foldl (fun x y => x ^^^ y) a < 2 ^ n := by
    intro l
    induction l with
    | nil =>
      intro a ha _
      exact ha
    | cons y l ih =>
      intro a ha hl
      exact ih _ (Nat.xor_lt_two_pow ha (hl y (List.mem_cons_self ..))) fun x hx => hl x (List.mem_cons_of_mem _ hx)
  exact key l 0 (Nat.two_pow_pos n) h

theorem pchan_lt (b : Bool) (o : Nat) : pchan b o < 128 := by
  unfold pchan
  split
  · have hx : xorFold ([8, 12, 16, 20, 24, 28].map (fun k => o / 2 ^ k % 16) ++ [o / 2 ^ 32 % 4]) < 2 ^ 4 := by
      refine xorFold_lt fun x hx => ?_
      simp only [List.map_cons, List.map_nil, List.cons_append, List.nil_append, List.mem_cons, List.not_mem_nil, or_false] at hx
      omega
    omega
  · refine xorFold_lt (n := 7) fun x hx => ?_
    simp only [List.map_cons, List.map_nil, List.cons_append, List.nil_append, List.mem_cons, List.not_mem_nil, or_false] at hx
    omega

theorem sliceOf_lt {s : State} {a : Nat} (h : tierOf a = some 0) : sliceOf s a < 512 := by
  have ha : a < 0x008000000000 := by
    unfold tierOf at h
    split at h
    · assumption
    · repeat' split at h
      all_goals simp at h
  have := pchan_lt (pcset s) (a % 2 ^ 37)
  unfold sliceOf
  simp only [h]
  omega

theorem pcset_rincHold {s : State} {sl : Nat} (h : sl < 512) : pcset (rincHold s (mcstat sl) 32 16) = pcset s := by
  unfold pcset rbit rincHold rsetF
  rw [rget_rset_ne]
  unfold isocfg mcstat RA
  omega

/-- What a deadline leaves of the state. -/
theorem served_frame (s : State) (t : Txn) : ∃ c r, served s t = { s with ctr := c, regs := r } ∧ pcset (served s t) = pcset s := by
  unfold served
  dsimp only
  split
  case isFalse => exact ⟨_, _, rfl, rfl⟩
  case isTrue h =>
    simp only [Bool.and_eq_true, beq_iff_eq] at h
    unfold drawBool
    dsimp only
    split
    · exact ⟨_, _, rfl, pcset_rincHold (sliceOf_lt h.1.2)⟩
    · exact ⟨_, _, rfl, rfl⟩

/-- u is s but for banks' times, counters and registers that place no byte. -/
def SamePlaces (s u : State) : Prop := ∃ k c r, u = { s with clusters := k, ctr := c, regs := r } ∧ pcset u = pcset s

theorem samePlaces_served {s s1 : State} {t : Txn} (h : withBanks s t = some s1) : SamePlaces s (served s1 t) := by
  obtain ⟨k, rfl⟩ := withBanks_frame h
  obtain ⟨c, r, hs, hp⟩ := served_frame { s with clusters := k } t
  exact ⟨k, c, r, hs, hp⟩

section
variable {s u : State} (h : SamePlaces s u)
include h

theorem SamePlaces.mread (a : Nat) : Machine.mread u a = Machine.mread s a := by
  obtain ⟨k, c, r, rfl, -⟩ := h
  rfl

theorem SamePlaces.sliceOf (a : Nat) : Machine.sliceOf u a = Machine.sliceOf s a := by
  obtain ⟨k, c, r, -, hp⟩ := h
  unfold Machine.sliceOf
  rw [hp]

theorem SamePlaces.bankOf (a : Nat) : Machine.bankOf u a = Machine.bankOf s a := by
  have hs := h.sliceOf a
  obtain ⟨k, c, r, -, hp⟩ := h
  unfold Machine.bankOf
  rw [hs, hp]

theorem SamePlaces.stopped (a : Nat) : Machine.stopped u a = Machine.stopped s a := by
  have hs := h.sliceOf a
  obtain ⟨k, c, r, rfl, -⟩ := h
  unfold Machine.stopped
  rw [hs]

theorem SamePlaces.inSpoiled (a : Nat) : Machine.inSpoiled u a = Machine.inSpoiled s a := by
  obtain ⟨k, c, r, rfl, -⟩ := h
  rfl

theorem SamePlaces.pendingAt (a : Nat) : Machine.pendingAt u a = Machine.pendingAt s a := by
  have hs := h.sliceOf a
  have hb := h.bankOf a
  obtain ⟨k, c, r, rfl, -⟩ := h
  unfold Machine.pendingAt
  rw [hs, hb]
  rfl

theorem SamePlaces.plainByte {a : Nat} (ha : plainByte s a) : plainByte u a := by
  obtain ⟨ht, hs, hi, hp⟩ := ha
  exact ⟨ht, (h.stopped a).trans hs, (h.inSpoiled a).trans hi, by rw [h.pendingAt]; exact hp⟩

end

theorem badByte_of_plain {s : State} {a : Nat} (h : plainByte s a) : badByte s a = false := by
  obtain ⟨ht, hs, hi, -⟩ := h
  rw [badByte, hs, hi]
  rcases ht with h | h | h <;> rw [h] <;> rfl

theorem tier_of_plain {s : State} {a : Nat} (h : plainByte s a) : ∃ n, tierOf a = some n ∧ n < 3 := by
  rcases h.1 with h | h | h
  · exact ⟨0, h, by decide⟩
  · exact ⟨1, h, by decide⟩
  · exact ⟨2, h, by decide⟩

/-! Loads. -/

theorem map_home {t : Txn} (h : t.twin = 0) (s : State) : (t.rd.map fun x => (t.home s x.1, x.2)) = t.rd := by
  conv => rhs; rw [← List.map_id t.rd]
  exact List.map_congr_left fun x _ => by rw [home_of_twin h]; rfl

theorem loadBytes_plain {s : State} {t : Txn} {n : Nat} (htw : t.twin = 0) (h : ∀ x ∈ t.rd, plainByte s x.1) :
    loadBytes s t n = some (s, t.rd.map fun x => (x.2, mread s x.1)) := by
  have hbad : (t.rd.any fun x => badByte s x.1) = false := by
    rw [List.any_eq_false]
    exact fun x hx => by rw [badByte_of_plain (h x hx)]; exact Bool.false_ne_true
  unfold loadBytes
  simp only [map_home htw]
  rw [hbad]
  cases hr : t.rd with
  | nil => rfl
  | cons x r =>
    have hp := (h x (hr ▸ List.mem_cons_self ..)).2.2.2
    exact if_pos hp

theorem performLoad_plain {s : State} {id g : Nat} {t : Txn} (hsrc : t.src = .ctx g) (htw : t.twin = 0) (hfe : t.fe = 0)
    (herr : t.err = 0) (h : ∀ x ∈ t.rd, plainByte s x.1) (hpa : plainByte s t.pa) :
    performLoad s id t = deposit (delTxn (l2Add (rdcKeep s t (t.rd.map (·.1))) t.cp (t.rd.map (·.1))) id) g
      t.req.seq (t.rd.map fun x => (x.2, mread s x.1)) := by
  obtain ⟨n, hn, hn3⟩ := tier_of_plain hpa
  have hwait : feWaiting s t = false := by simp [feWaiting, hfe]
  have hpas : (t.rd.map fun r => t.home s r.1) = t.rd.map (·.1) := List.map_congr_left fun x _ => home_of_twin htw ..
  have hlb := loadBytes_plain (n := loadEsz s t) htw h
  obtain ⟨readReg, hrr⟩ : ∃ f, f = regRead := ⟨_, rfl⟩
  unfold performLoad
  rw [← hrr]
  dsimp only
  rw [home_of_twin htw, if_neg (not_not_intro herr), hn]
  have hn3' : n ≠ 3 := by omega
  have hn4 : (n == 4) = false := by simp; omega
  simp only [hwait, hfe, hlb, hpas, hn4]
  unfold loaded
  rw [hsrc]
  rfl

/-! Stores. -/

theorem map_home_wr {t : Txn} (h : t.twin = 0) (s : State) : (t.wr.map fun c => { c with pa := t.home s c.pa }) = t.wr := by
  conv => rhs; rw [← List.map_id t.wr]
  exact List.map_congr_left fun c _ => by rw [home_of_twin h]; rfl

theorem rdcSpoils_eq_false {s : State} (h : ∀ l ∈ s.rdc, l.bad = 0) (d : Nat) (peer : Option Nat) (wr : List WCell) :
    rdcSpoils s d peer wr = false := by
  rw [rdcSpoils, List.any_eq_false]
  intro l hl
  simp [h l hl]

theorem storeHome_plain {s : State} {t : Txn} (htw : t.twin = 0) (hred : t.red = 0) (hw : ∀ c ∈ t.wr, plainByte s c.pa)
    (hs : s.spoiled = []) : storeHome s t =
      (.done (if t.full then fillGranules (t.wr.foldl writeCell s) (t.wr.map (·.pa)) else t.wr.foldl writeCell s), 0) := by
  have h1 : (t.wr.any fun c => (tierOf c.pa).isNone || stopped s c.pa) = false := by
    rw [List.any_eq_false]
    intro c hc
    obtain ⟨n, hn, -⟩ := tier_of_plain (hw c hc)
    simp [hn, (hw c hc).2.1]
  have h2 : (t.wr.any fun c => !(pendingAt s c.pa).isEmpty) = false := by
    rw [List.any_eq_false]
    intro c hc
    simp [(hw c hc).2.2.2]
  unfold storeHome
  simp only [map_home_wr htw, h1, h2, hred, writeCells_unspoiled hs]
  rfl

theorem performStore_plain {s : State} {id g : Nat} {t : Txn} (hsrc : t.src = .ctx g) (hk : t.kind = .store) (htw : t.twin = 0)
    (hred : t.red = 0) (hfe : t.fe = 0) (hpa : plainByte s t.pa) (hw : ∀ c ∈ t.wr, plainByte s c.pa)
    (hs : s.spoiled = []) (hbad : ∀ l ∈ s.rdc, l.bad = 0) :
    performStore s id t = engineFlags (delTxn (rdcStore (l2Add (if t.full then
      fillGranules (t.wr.foldl writeCell s) (t.wr.map (·.pa)) else t.wr.foldl writeCell s) t.cp (t.wr.map (·.pa))) t.die t.peer t.wr) id)
      g (t.flags ||| 0) := by
  have hat : storeAt s { t with orig := id } = (.done (if t.full then
      fillGranules (t.wr.foldl writeCell s) (t.wr.map (·.pa)) else t.wr.foldl writeCell s), 0) := by
    obtain ⟨n, hn, hn3⟩ := tier_of_plain hpa
    have hn3' : n ≠ 3 := by omega
    have hn4 : n ≠ 4 := by omega
    have hhome : Txn.home s { t with orig := id } t.pa = t.pa := home_of_twin htw ..
    unfold storeAt
    dsimp only
    rw [hhome, hn]
    split
    · next h => exact absurd (Option.some.inj h) hn3'
    · next h => exact absurd (Option.some.inj h) hn4
    · exact storeHome_plain (t := { t with orig := id }) htw hred hw hs
  have hpas (u : State) : (t.wr.map fun c => t.home u c.pa) = t.wr.map (·.pa) := List.map_congr_left fun x _ => home_of_twin htw ..
  have hdone (u : State) : storeDone u t = rdcStore (l2Add u t.cp (t.wr.map (·.pa))) t.die t.peer t.wr := by
    simp [storeDone, afterStore, hfe, hred, hpas, map_home_wr htw]
  have hwritten (u : State) (fl : BitVec 5) : written u id t [] fl = engineFlags (delTxn u id) g (t.flags ||| fl) := by
    simp [written, hsrc, hk]
  unfold performStore
  rw [rdcSpoils_eq_false hbad, Bool.and_false, if_neg Bool.false_ne_true, hat]
  dsimp only
  rw [hdone, hsrc]
  exact hwritten ..

theorem l2Add_frame (s : State) (cp : Nat) (l : List Nat) : ∃ x, l2Add s cp l = { s with l2 := x } := by
  unfold l2Add
  dsimp only
  split <;> exact ⟨_, rfl⟩

theorem getTxn_delTxn_self (s : State) (id : Nat) : getTxn (delTxn s id) id = none := by
  rw [getTxn, delTxn, tfind_tdel, if_pos rfl]

/-- Cells written, with their granules and lines: the bytes and registers are those of the cells alone. -/
theorem stored_frame (s : State) (full : Bool) (wr : List WCell) (pas : List Nat) (cp : Nat) :
    (l2Add (if full then fillGranules (wr.foldl writeCell s) pas else wr.foldl writeCell s) cp pas).mem = (wr.foldl writeCell s).mem ∧
    (l2Add (if full then fillGranules (wr.foldl writeCell s) pas else wr.foldl writeCell s) cp pas).regs = s.regs := by
  obtain ⟨f, hf, -⟩ := filled_frame (s := wr.foldl writeCell s) rfl full pas
  obtain ⟨m, hm⟩ := foldl_writeCell_frame wr s
  rw [hf]
  obtain ⟨x, hx⟩ := l2Add_frame { wr.foldl writeCell s with fe := f } cp pas
  rw [hx, hm]
  exact ⟨rfl, rfl⟩

theorem exec_storePerform_plain {s s1 : State} {id g : Nat} {t : Txn} (hsrc : t.src = .ctx g) (htw : t.twin = 0)
    (hb : withBanks s t = some s1) (h : passes s id .store t) (hred : t.red = 0) (hfe : t.fe = 0) (hpa : plainByte s t.pa)
    (hw : ∀ c ∈ t.wr, plainByte s c.pa ∧ c.msk = 0xFF) (hn : (t.wr.map (·.pa)).Nodup) (hs : s.spoiled = [])
    (hbad : ∀ l ∈ s.rdc, l.bad = 0) :
    ∃ u, exec (.storePerform id) s = .next u ∧ (∀ c ∈ t.wr, mread u c.pa = c.val) ∧
      (∀ a, (∀ c ∈ t.wr, a ≠ c.pa) → mread u a = mread s a) ∧ u.regs = (served s1 t).regs ∧ getTxn u id = none := by
  have hsame := samePlaces_served hb
  have hexec : exec (.storePerform id) s = .next (performStore (served s1 t) id t) := by
    refine (exec_storePerform ..).trans ?_
    rw [execStorePerform, h.1]
    dsimp only
    rw [h.2.1, atHome_passes h hb]
    rfl
  obtain ⟨k, c, r, heq, -⟩ := hsame
  have hsame := samePlaces_served hb
  rw [performStore_plain hsrc h.2.1 htw hred hfe (hsame.plainByte hpa) (fun c hc => hsame.plainByte (hw c hc).1) (by rw [heq]; exact hs)
    (by rw [heq]; exact hbad)] at hexec
  obtain ⟨hmem, hregs⟩ := stored_frame (served s1 t) t.full t.wr (t.wr.map (·.pa)) t.cp
  refine ⟨_, hexec, fun c hc => ?_, fun a ha => ?_, hregs, ?_⟩
  · refine (mread_congr hmem _).trans (mread_foldl_writeCell_in _ _ hn (fun c hc => (hw c hc).2) hc)
  · refine (mread_congr hmem _).trans ((mread_foldl_writeCell_out _ _ _ ha).trans (hsame.mread a))
  · exact getTxn_delTxn_self ..

/-! Atomics. -/

theorem performAtomic_plain {s : State} {id g : Nat} {t : Txn} (hsrc : t.src = .ctx g) (hk : t.kind = .atomic) (htw : t.twin = 0)
    (hpl : ∀ j, j < t.len → plainByte s (t.pa + j)) (hpa : plainByte s t.pa) (hop : aop t.req.op ≠ .none) :
    performAtomic s id t =
      (let y := atomicNew (aop t.req.op) t.req.fmode (laneOf t.req.rnd 0) t.entry (natOfBytes (mreadN s t.pa t.len))
       atomicDone (delTxn (l2Add (mwriteL s t.pa (bytesOf (BitVec.ofNat 128 y.1) t.len)) t.cp ((List.range t.len).map (t.pa + ·))) id)
         g t.req (mreadN s t.pa t.len) y.2) := by
  obtain ⟨n, hn, hn3⟩ := tier_of_plain hpa
  have hn4 : (some n == some 4) = false := by simp; omega
  have hpend : pendingBefore s t.pa t.ix = false := by
    have : pendingAt s t.pa = [] := by simpa using hpa.2.2.2
    rw [pendingBefore, this]
    rfl
  have hbad : (((List.range t.len).map (t.pa + ·)).any (badByte s)) = false := by
    rw [List.any_eq_false]
    intro a ha
    obtain ⟨j, hj, rfl⟩ := List.mem_map.mp ha
    rw [badByte_of_plain (hpl j (List.mem_range.mp hj))]
    exact Bool.false_ne_true
  have hwritten (u : State) (old : List Byte) (fl : BitVec 5) :
      written u id t old fl = atomicDone (delTxn u id) g t.req old fl := by
    simp [written, hsrc, hk]
  unfold performAtomic
  dsimp only
  rw [home_of_twin htw, hpend, if_neg Bool.false_ne_true, hn, hn4, hbad]
  simp only [if_neg Bool.false_ne_true, hwritten]

/-- The entry of a returning atomic once it has been performed. -/
def atomicEntry (s : State) (g : Nat) (old : List Byte) (fl : BitVec 5) (e : LdqEntry) : LdqEntry :=
  { e with raw := (indexed old).foldl (fun r x => tset r x.1 x.2) e.raw, left := e.left - 1,
           due := max e.due (localTime s (coreOf g) + 1), flags := fl }

theorem atomicDone_ldq {s : State} {g : Nat} {q : Req} (h : (aop q.op).pushesLdq = true) (old : List Byte) (fl : BitVec 5) :
    (getCtx (atomicDone s g q old fl) g).ldq = (getCtx s g).ldq.map fun e =>
      if e.req.seq = q.seq && !e.filled then atomicEntry s g old fl e else e := by
  rw [atomicDone, if_pos h, modLdq_ldq, deposit, modLdq_ldq, List.map_map]
  refine List.map_congr_left fun e _ => ?_
  by_cases hc : (decide (e.req.seq = q.seq) && !e.filled) = true
  · simp only [Function.comp_apply, hc, if_true]
    rfl
  · rw [Function.comp_apply, if_neg hc, if_neg hc, if_neg hc]

/-- The old bytes of an atomic, in their places. -/
theorem tget_indexed (r : Tab Byte) (s : State) (a n : Nat) {j : Nat} (hj : j < n) :
    tget 0 ((indexed (mreadN s a n)).foldl (fun r x => tset r x.1 x.2) r) j = mread s (a + j) := by
  have hidx : indexed (mreadN s a n) = (List.range n).map fun j => (j, mread s (a + j)) := by
    rw [indexed, mreadN, List.length_map, List.length_range]
    apply List.ext_getElem <;> simp
  rw [hidx]
  refine tget_foldl_tset_in 0 _ r ?_ (x := (j, mread s (a + j))) (List.mem_map.mpr ⟨j, List.mem_range.mpr hj, rfl⟩)
  rw [List.map_map]
  exact List.pairwise_map.mpr (List.Pairwise.imp (fun hne h => hne h) List.nodup_range)

theorem atomicDone_frame (s : State) (g : Nat) (q : Req) (old : List Byte) (fl : BitVec 5) :
    ∃ c, atomicDone s g q old fl = { s with ctxs := c } := by
  unfold atomicDone
  split <;> exact ⟨_, rfl⟩

theorem mwriteL_frame (s : State) (a : Nat) (l : List Byte) : ∃ m, mwriteL s a l = { s with mem := m } := by
  induction l generalizing s a with
  | nil => exact ⟨_, rfl⟩
  | cons b l ih =>
    obtain ⟨m, hm⟩ := ih (mwrite s a b) (a + 1)
    exact ⟨m, (mwriteL_cons ..).trans hm⟩

theorem exec_atomicPerform_plain {s s1 : State} {id g : Nat} {t : Txn} (hsrc : t.src = .ctx g) (htw : t.twin = 0)
    (hb : withBanks s t = some s1) (h : passes s id .atomic t) (hpl : ∀ j, j < t.len → plainByte s (t.pa + j))
    (hpa : plainByte s t.pa) (hop : aop t.req.op ≠ .none) :
    let y := atomicNew (aop t.req.op) t.req.fmode (laneOf t.req.rnd 0) t.entry (natOfBytes (mreadN s t.pa t.len))
    ∃ v, exec (.atomicPerform id) s = .next (atomicDone v g t.req (mreadN s t.pa t.len) y.2) ∧
      (∀ x, mread v x = if t.pa ≤ x ∧ x < t.pa + t.len then byteAt (BitVec.ofNat 128 y.1) (x - t.pa) else mread s x) ∧
      v.regs = (served s1 t).regs ∧ getTxn v id = none ∧ v.ctxs = s.ctxs ∧ v.cores = s.cores ∧ v.clock = s.clock := by
  intro y
  have hsame := samePlaces_served hb
  have hold : mreadN (served s1 t) t.pa t.len = mreadN s t.pa t.len := List.map_congr_left fun i _ => hsame.mread _
  have hexec : exec (.atomicPerform id) s = .next (performAtomic (served s1 t) id t) := by
    refine (exec_atomicPerform ..).trans ?_
    rw [execAtomicPerform, atHome_passes h hb]
  rw [performAtomic_plain hsrc h.2.1 htw (fun j hj => hsame.plainByte (hpl j hj)) (hsame.plainByte hpa) hop] at hexec
  dsimp only at hexec
  rw [hold] at hexec
  refine ⟨_, hexec, ?_⟩
  obtain ⟨m, hm⟩ := mwriteL_frame (served s1 t) t.pa (bytesOf (BitVec.ofNat 128 y.1) t.len)
  obtain ⟨x, hx⟩ := l2Add_frame (mwriteL (served s1 t) t.pa (bytesOf (BitVec.ofNat 128 y.1) t.len)) t.cp ((List.range t.len).map (t.pa + ·))
  have hmem : (mwriteL (served s1 t) t.pa (bytesOf (BitVec.ofNat 128 y.1) t.len)).mem = m := by rw [hm]
  obtain ⟨k, c, r, heq, -⟩ := samePlaces_served hb
  refine ⟨fun a => ?_, ?_, getTxn_delTxn_self .., ?_, ?_, ?_⟩
  · rw [hx]
    refine (mread_mwriteL_bytesOf (served s1 t) t.pa a t.len (BitVec.ofNat 128 y.1)).trans ?_
    rw [hsame.mread]
  all_goals
    rw [hx, hm, heq]
    rfl

/-- Settles O30. -/
theorem partsPerformed : Obligations.PartsPerformed := by
  intro id g s s1 t hsrc htw hb s2
  have hsame : SamePlaces s s2 := samePlaces_served hb
  refine ⟨fun h hfe herr hrd hpa => ?_, fun h hred hfe hpa hw hn hs hbad => ?_, ?_⟩
  · refine (exec_loadPerform ..).trans ?_
    rw [execLoadPerform, atHome_passes h hb,
      performLoad_plain hsrc htw hfe herr (fun x hx => hsame.plainByte (hrd x hx)) (hsame.plainByte hpa)]
    have hbytes : (t.rd.map fun x => (x.2, mread (served s1 t) x.1)) = t.rd.map fun x => (x.2, mread s x.1) :=
      List.map_congr_left fun x _ => by rw [hsame.mread]
    rw [hbytes]
  · exact exec_storePerform_plain hsrc htw hb h hred hfe hpa hw hn hs hbad
  · intro h hpl hpa hop x y
    obtain ⟨v, hexec, hmem, hregs, hdel, hctxs, hcores, hclock⟩ := exec_atomicPerform_plain hsrc htw hb h hpl hpa hop
    obtain ⟨c, hc⟩ := atomicDone_frame v g t.req (mreadN s t.pa t.len) y.2
    have hgetv (z : Nat) : getCtx v z = getCtx s z := by rw [getCtx, getCtx, hctxs]
    refine ⟨_, hexec, fun j hj => ?_, fun a ha => ?_, ?_, ?_, fun hp => ?_, fun hp => ?_⟩
    · rw [hc]
      refine (hmem _).trans ?_
      rw [if_pos (by omega), Nat.add_sub_cancel_left]
    · rw [hc]
      refine (hmem _).trans (if_neg fun hin => ha (a - t.pa) (by omega) (by omega))
    · rw [hc]
      exact hregs
    · rw [hc]
      exact hdel
    · rw [atomicDone_ldq hp, hgetv]
      refine ⟨List.length_map .., fun n e he hs hf => ?_⟩
      rw [List.getElem?_map, he, Option.map_some, if_pos (by simp [hs, hf])]
      exact ⟨_, rfl, fun j hj => tget_indexed _ _ _ _ hj, rfl, rfl⟩
    · rw [atomicDone, if_neg (by rw [hp]; exact Bool.false_ne_true)]
      have hnow : localTime v (coreOf g) = localTime s (coreOf g) := by rw [localTime, localTime, getCore, getCore, hclock, hcores]
      unfold engineFlags
      dsimp only
      rw [getCtx_modCtx_self, getCtx_modCtx_self, hgetv, hnow]

end Sys2Proof.Machine
end

section
/-!
PROOFS. Sync objects, releases, fences, bindings (R216 to R226, R233, R256 to R259).
-/
namespace Sys2Proof.Machine
open Sys2Proof.Claims

/-! At the object. -/

theorem samePlaces_withBanks {s s1 : State} {t : Txn} (h : withBanks s t = some s1) : SamePlaces s s1 := by
  obtain ⟨k, rfl⟩ := withBanks_frame h
  exact ⟨k, _, _, rfl, rfl⟩

section
variable {s : State} {a : Nat} (h : ∀ j, j < 16 → plainByte s (a + j))
include h

theorem plainObject_good : (((List.range 16).map (a + ·)).any (badByte s)) = false := by
  rw [List.any_eq_false]
  intro x hx
  obtain ⟨j, hj, rfl⟩ := List.mem_map.mp hx
  rw [badByte_of_plain (h j (List.mem_range.mp hj))]
  exact Bool.false_ne_true

theorem plainObject_pending (n : Nat) : pendingBefore s a n = false := by
  have : pendingAt s a = [] := by simpa using (h 0 (by decide)).2.2.2
  rw [pendingBefore, this]
  rfl

end

theorem mread8_congr {s u : State} (h : ∀ a, mread u a = mread s a) (a : Nat) : mread8 u a = mread8 s a := by
  unfold mread8 mreadN
  simp only [h]

theorem acqReady_congr {s u : State} (h : ∀ a, mread u a = mread s a) (a k : Nat) (n : Word64) :
    acqReady u a k n = acqReady s a k n := by
  unfold acqReady holdOf
  simp only [mread8_congr h]

theorem performAcquire_plain {s : State} {id g : Nat} {t : Txn} (hsrc : t.src = .ctx g) (htw : t.twin = 0)
    (hpl : ∀ j, j < 16 → plainByte s (t.pa + j)) (hr : acqReady s t.pa (acqKind t.req.op).1 (t.entry.truncate 64) = true)
    (ho : (s.txns.any fun e => e.1 != id && e.2.kind == .acquire && e.2.pa == t.pa && e.2.peer.isNone) = false) :
    performAcquire s id t = acquired (delTxn (acqStep s t.pa (acqKind t.req.op).1 (ownerOf s g)) id) g t := by
  unfold performAcquire
  dsimp only
  rw [hsrc, home_of_twin htw, plainObject_good hpl, plainObject_pending hpl, if_neg Bool.false_ne_true, if_neg Bool.false_ne_true]
  dsimp only
  rw [hr, ho]
  rfl

theorem performRelease_plain {s : State} {id g : Nat} {t : Txn} (hsrc : t.src = .ctx g) (htw : t.twin = 0)
    (hpl : ∀ j, j < 16 → plainByte s (t.pa + j)) {p : Syl} {o : AY} (hop : t.req.op = .relUn p o ∨ t.req.op = .relPost p o) :
    performRelease s id t =
      (let r := relStep s t.pa (decide (t.req.op = .relPost p o)) (t.entry.truncate 64)
       written (if r.2 then rincHold r.1 (mistat t.vf) 0 32 else r.1) id t [] 0) := by
  unfold performRelease
  dsimp only
  rw [hsrc, home_of_twin htw, plainObject_good hpl, plainObject_pending hpl, if_neg Bool.false_ne_true, if_neg Bool.false_ne_true]
  have hne (c : Nat) : (AOp.rel false c == AOp.rel true c) = false := beq_eq_false_iff_ne.mpr (by simp)
  rcases hop with h | h <;> simp [h, aop, hne]

/-! A release leaves the core's buffer. -/

theorem noFill_frame (s : State) (d : Nat) (f : Txn → Bool) : ∃ x, noFill s d f = { s with txns := x } := ⟨_, rfl⟩

theorem fillRules_frame (s : State) {t : Txn} (hk : t.kind ≠ .load) :
    ∃ x y, fillRules s t = ({ s with txns := x, rdc := y }, t) := by
  unfold fillRules
  split
  · exact ⟨_, _, rfl⟩
  · dsimp only
    rw [if_neg (by simpa using hk)]
    split <;> exact ⟨_, _, rfl⟩

theorem lookup_of_kind {t : Txn} (hk : t.kind ≠ .load) (s : State) : t.lookup s = t := by
  unfold Txn.lookup
  split
  · next h _ => exact absurd h hk
  · next h _ => exact absurd h hk
  · rfl

/-- A part that is sent stands among those on their way; nothing of the cores changes. -/
theorem sendTxn_sent (s : State) {t : Txn} (hk : t.kind ≠ .load) (n late : Nat) :
    (sendTxn s t n late).1.cores = s.cores ∧
    tfind (sendTxn s t n late).1.txns s.ids = some { t with sent := 0, left := 0, born := s.clock + late } := by
  obtain ⟨x, y, hf⟩ := fillRules_frame { s with ids := s.ids + 1 } hk
  unfold sendTxn fresh
  dsimp only
  rw [lookup_of_kind hk, hf]
  dsimp only
  split
  · exact ⟨rfl, tfind_tset_self ..⟩
  · exact ⟨rfl, tfind_tset_self ..⟩

theorem drawLat_frame (s : State) (t : Txn) : ∃ c, (drawLat s t).2 = { s with ctr := c } := by
  unfold drawLat
  split <;> exact ⟨_, rfl⟩

theorem takeSlot_rels (s : State) (g core : Nat) : (getCore (takeSlot s g) core).rels = (getCore s core).rels := by
  unfold takeSlot
  rw [getCore_modCore]
  split
  · next h => rw [h]
  · rfl

/-- The release r, no longer in its core's buffer, its slot taken. -/
def released (s : State) (core id : Nat) (r : Rel) : State :=
  let gone := modCore s core fun k => { k with rels := k.rels.filter fun r => r.id != id }
  if r.req.h.isSome then takeSlot gone r.g else gone

theorem released_rels (s : State) (core id : Nat) (r : Rel) :
    (getCore (released s core id r) core).rels = (getCore s core).rels.filter fun r => r.id != id := by
  unfold released
  dsimp only
  split
  · rw [takeSlot_rels, getCore_modCore_self]
  · rw [getCore_modCore_self]

theorem exec_releasePerform_plain {core id : Nat} {s : State} {r : Rel} {p : Syl} {o : AY}
    (hf : ((getCore s core).rels.find? fun r => r.id == id) = some r) (hop : r.req.op = .relUn p o ∨ r.req.op = .relPost p o) :
    let t := syncTxn s r.g .release r.req (r.req.y.zeroExtend 2048)
    carriedBy s r.g r.req.seq (fun o => boundTo s t.vf o t.peer t.pa) = false →
    (o.sc.val = 5 → dieStores s (dieOfCore core) = false) → (r.req.h.isSome = true → slotFree s r.g = true) →
    exec (.releasePerform core id) s =
      .next (sendTxn (drawLat (released s core id r) t).2 t (drawLat (released s core id r) t).1).1 := by
  intro t hc hd hs
  have hd' : (o.sc.val == 5 && dieStores s (dieOfCore core)) = false := by
    rw [Bool.and_eq_false_imp]
    exact fun h => hd (by simpa using h)
  have hs' : (r.req.h.isSome && !slotFree s r.g) = false := by
    rw [Bool.and_eq_false_imp]
    exact fun h => by rw [hs h]; rfl
  refine (exec_releasePerform ..).trans ?_
  unfold execReleasePerform
  rw [hf]
  dsimp only
  rcases hop with h | h
  all_goals
    rw [h]
    dsimp only [aop]
    rw [hc, hd', hs']
    rfl

/-- Settles O31. -/
theorem syncObjects : Obligations.SyncObjects := by
  refine ⟨fun id g s s1 t hsrc htw hpl hb => ⟨fun h => ?_, fun p o h hop => ?_⟩, fun core id s r p o hf hop => ?_⟩
  · intro k hr ho
    have hsame := samePlaces_withBanks hb
    obtain ⟨k1, rfl⟩ := withBanks_frame hb
    refine (exec_syncAcquireStep ..).trans ?_
    rw [execSyncAcquireStep, atHome_passes h hb, performAcquire_plain hsrc htw (fun j hj => hsame.plainByte (hpl j hj))
      ((acqReady_congr hsame.mread ..).trans hr) ho]
    rfl
  · have hsame := samePlaces_withBanks hb
    refine (exec_syncReleaseStep ..).trans ?_
    rw [execSyncReleaseStep, atHome_passes h hb, performRelease_plain hsrc htw (fun j hj => hsame.plainByte (hpl j hj)) hop]
  · intro t hc hd hs
    obtain ⟨c, hc2⟩ := drawLat_frame (released s core id r) t
    have hk : t.kind = .release := by
      change (syncTxn ..).kind = _
      unfold syncTxn
      split <;> rfl
    have hreq : t.req = r.req := by
      change (syncTxn ..).req = _
      unfold syncTxn
      split <;> rfl
    obtain ⟨hcores, hsent⟩ := sendTxn_sent (drawLat (released s core id r) t).2 (t := t) (by rw [hk]; decide)
      (drawLat (released s core id r) t).1 0
    refine ⟨_, exec_releasePerform_plain hf hop hc hd hs, ?_, _, _, hsent, hk, by rw [← hreq], rfl, rfl⟩
    rw [getCore, hcores, hc2]
    exact released_rels s core id r

/-! Fences and bindings. -/

theorem foldl_noFill_frame (l : List Nat) (f : State → Nat → Txn → Bool) (s : State) :
    ∃ x, l.foldl (fun s d => noFill s d (f s d)) s = { s with txns := x } := by
  induction l generalizing s with
  | nil => exact ⟨_, rfl⟩
  | cons d l ih => exact ih (noFill s d (f s d))

section
variable {s : State} {g : Nat} {q : Req} {p : Syl} (hq : headReady s g = some q)
include hq

theorem exec_fenceComplete_done {o : AF} (hop : q.op = .fence p o) (he : earlierDone s g q.seq = true)
    (hrel : 2 ≤ o.k.val → q.slot = true ∧ (o.sc.val = 5 → dieStores s (dieOfCore (coreOf g)) = false))
    (hacq : o.k.val % 2 = 1 → loadsFilled (getCtx s g) q.seq = true) :
    let s1 := popHead (modCore s (coreOf g) fun c =>
      { c with rels := c.rels.filter fun r => !(r.g == g && r.req.seq == q.seq) }) g
    exec (.fenceComplete g) s = .next
      (if o.k.val % 2 = 1 ∧ 4 ≤ o.sc.val then rdcAcquireAll s1 (dieOfCore (coreOf g)) (vfOf s g) else s1) := by
  intro s1
  have h1 : (!decide (2 ≤ o.k.val) || q.slot) = true := by
    by_cases h : 2 ≤ o.k.val
    · rw [(hrel h).1, Bool.or_true]
    · simp [h]
  have h2 : (!(o.k.val % 2 == 1) || loadsFilled (getCtx s g) q.seq) = true := by
    by_cases h : o.k.val % 2 = 1
    · rw [hacq h, Bool.or_true]
    · simp [h]
  have h3 : (decide (2 ≤ o.k.val) && o.sc.val == 5 && dieStores s (dieOfCore (coreOf g))) = false := by
    by_cases h : 2 ≤ o.k.val
    · by_cases h5 : o.sc.val = 5
      · rw [(hrel h).2 h5, Bool.and_false]
      · simp [h5]
    · simp [h]
  refine (exec_fenceComplete ..).trans ?_
  unfold execFenceComplete
  rw [hq]
  dsimp only
  rw [hop]
  dsimp only [aop]
  rw [he, h1, h2, h3]
  simp only [Bool.and_eq_true, beq_iff_eq, decide_eq_true_eq]
  rfl

theorem exec_pfenceComplete_done {o : AF} (hop : q.op = .pfence p o) (hb : pumpQueued s g = false)
    (ht : (s.txns.any fun e => e.2.src == .ctx g && e.2.kind == .pcmd && decide (e.2.req.seq < q.seq)) = false) :
    let d := dieOfCore (coreOf g)
    exec (.pfenceComplete g) s = .next (popHead (noFill (rdcDrop s fun l => l.die == d && tierOf (l.line % 2 ^ 65) == some 0) d
      fun t => tierOf t.pa == some 0) g) := by
  intro d
  refine (exec_pfenceComplete ..).trans ?_
  unfold execPfenceComplete
  rw [hq]
  dsimp only
  rw [hop]
  dsimp only [aop]
  rw [hb, ht]
  rfl

theorem exec_bindPerform_done {o : AB} {h : HWord} (hop : q.op = .bind p o) (hh : q.h = some h) (hu : o.u = false)
    (he : earlierDone s g q.seq = true) (hroom : (s.binds.filter fun b => b.vf == vfOf s g).length < 64) :
    ∃ t, exec (.bindPerform g) s = .next t ∧ (getCtx t g).laq = (getCtx s g).laq.drop 1 ∧
      t.binds = { vf := vfOf s g, hva := hVa h, off := q.x.toNat % 2 ^ 32, len := q.x.toNat / 2 ^ 32, obj := q.y.toNat } :: s.binds := by
  have hexec := exec_bindPerform g s
  unfold execBindPerform at hexec
  rw [hq] at hexec
  dsimp only at hexec
  rw [hop, hh] at hexec
  dsimp only [aop] at hexec
  rw [he, hu] at hexec
  simp only [Bool.not_true, Bool.false_eq_true, if_false, hroom, if_true] at hexec
  obtain ⟨x, hx⟩ := foldl_noFill_frame (List.range 4) (fun s _ t => (t.keys s).any fun k => _) _
  rw [hx] at hexec
  exact ⟨_, hexec, popHead_laq .., rfl⟩

end

/-- Settles O32. -/
theorem fencesAndBindings : Obligations.FencesAndBindings := by
  intro g s q p hq
  exact ⟨fun o hop he hrel hacq => exec_fenceComplete_done hq hop he hrel hacq,
    fun o hop hb ht => exec_pfenceComplete_done hq hop hb ht,
    fun o h hop hh hu he hroom => exec_bindPerform_done hq hop hh hu he hroom⟩

end Sys2Proof.Machine
end

section
/-!
PROOFS. Words of 4 bytes and packed elements, and what a message sent leaves unchanged.
-/
namespace Sys2Proof.Machine
open Sys2Proof.Claims

/-! Words. -/

theorem toNat_byteAt {n : Nat} (x : BitVec n) (i : Nat) : (byteAt x i).toNat = x.toNat / 2 ^ (8 * i) % 256 := by
  rw [byteAt, BitVec.extractLsb'_toNat, Nat.shiftRight_eq_div_pow]

theorem mread4_congr {s u : State} {a : Nat} (h : ∀ i, i < 4 → mread u (a + i) = mread s (a + i)) : mread4 u a = mread4 s a := by
  unfold mread4 mreadN
  exact congrArg natOfBytes (List.map_congr_left fun i hi => h i (List.mem_range.mp hi))

theorem natOfBytes_four (f : Nat → Byte) : natOfBytes ((List.range 4).map f) =
    (f 0).toNat + 256 * ((f 1).toNat + 256 * ((f 2).toNat + 256 * (f 3).toNat)) := by
  change (((0 * 256 + (f 3).toNat) * 256 + (f 2).toNat) * 256 + (f 1).toNat) * 256 + (f 0).toNat = _
  omega

theorem mread_mwrite4 (s : State) (a x y : Nat) :
    mread (mwrite4 s a x) y = if a ≤ y ∧ y < a + 4 then byteAt (BitVec.ofNat 32 x) (y - a) else mread s y := mread_mwriteL_bytesOf ..

theorem mread4_mwrite4_self (s : State) (a x : Nat) : mread4 (mwrite4 s a x) a = x % 2 ^ 32 := by
  have hb : ∀ i, i < 4 → mread (mwrite4 s a x) (a + i) = byteAt (BitVec.ofNat 32 x) i := fun i hi => by
    rw [mread_mwrite4, if_pos (by omega), Nat.add_sub_cancel_left]
  have hl : mreadN (mwrite4 s a x) a 4 = (List.range 4).map (byteAt (BitVec.ofNat 32 x)) :=
    List.map_congr_left fun i hi => hb i (List.mem_range.mp hi)
  rw [mread4, hl, natOfBytes_four]
  simp only [toNat_byteAt, BitVec.toNat_ofNat]
  omega

theorem mwrite4_frame (s : State) (a x : Nat) : ∃ m, mwrite4 s a x = { s with mem := m } := mwriteL_frame ..

/-! Packed elements. -/

theorem foldr_pack_lt (w : Nat) (l : List Nat) : l.foldr (fun x acc => acc * 2 ^ w + x % 2 ^ w) 0 < 2 ^ (w * l.length) := by
  induction l with
  | nil => simp
  | cons x l ih =>
    rw [List.foldr_cons, List.length_cons, Nat.mul_succ, Nat.pow_add]
    have := Nat.mod_lt x (Nat.two_pow_pos w)
    calc
      _ < (l.foldr (fun x acc => acc * 2 ^ w + x % 2 ^ w) 0 + 1) * 2 ^ w := by rw [Nat.succ_mul]; omega
      _ ≤ _ := Nat.mul_le_mul_right _ ih

theorem foldr_pack_elem (w : Nat) (l : List Nat) (i : Nat) :
    l.foldr (fun x acc => acc * 2 ^ w + x % 2 ^ w) 0 / 2 ^ (w * i) % 2 ^ w = l.getD i 0 % 2 ^ w := by
  induction l generalizing i with
  | nil => simp
  | cons x l ih =>
    have hx := Nat.mod_lt x (Nat.two_pow_pos w)
    rw [List.foldr_cons]
    cases i with
    | zero =>
      rw [Nat.mul_zero, Nat.pow_zero, Nat.div_one, Nat.mul_add_mod_self_right, Nat.mod_mod]
      rfl
    | succ i =>
      rw [Nat.mul_succ, Nat.add_comm (w * i), Nat.pow_add, ← Nat.div_div_eq_div_mul, Nat.mul_comm, Nat.mul_add_div (Nat.two_pow_pos w),
        Nat.div_eq_of_lt hx, Nat.add_zero, ih]
      rfl

theorem toNat_vecOf {l : List Nat} {w : Nat} (h : w * l.length ≤ 2048) :
    (vecOf l w).toNat = l.foldr (fun x acc => acc * 2 ^ w + x % 2 ^ w) 0 := by
  rw [vecOf, BitVec.toNat_ofNat]
  exact Nat.mod_eq_of_lt (Nat.lt_of_lt_of_le (foldr_pack_lt w l) (Nat.pow_le_pow_right (by decide) h))

/-- The two bytes of a 16-bit element. -/
theorem byteAt_vecOf16 {l : List Nat} (h : l.length ≤ 128) (j : Nat) :
    byteAt (vecOf l 16) (2 * j) = BitVec.ofNat 8 (l.getD j 0) ∧ byteAt (vecOf l 16) (2 * j + 1) = BitVec.ofNat 8 (l.getD j 0 / 256) := by
  have he := foldr_pack_elem 16 l j
  have hn := toNat_vecOf (l := l) (w := 16) (by omega)
  rw [← hn] at he
  have h8 : 8 * (2 * j) = 16 * j := by omega
  have h9 : 8 * (2 * j + 1) = 16 * j + 8 := by omega
  constructor
  · apply BitVec.eq_of_toNat_eq
    rw [toNat_byteAt, h8, BitVec.toNat_ofNat]
    omega
  · apply BitVec.eq_of_toNat_eq
    rw [toNat_byteAt, h9, BitVec.toNat_ofNat, Nat.pow_add, ← Nat.div_div_eq_div_mul]
    omega

/-- Past its elements a vector is zero. -/
theorem byteAt_vecOf_past {l : List Nat} {w j : Nat} (h : w * l.length ≤ 2048) (hj : w * l.length ≤ 8 * j) :
    byteAt (vecOf l w) j = 0 := by
  apply BitVec.eq_of_toNat_eq
  rw [toNat_byteAt, toNat_vecOf h, Nat.div_eq_of_lt]
  · rfl
  · exact Nat.lt_of_lt_of_le (foldr_pack_lt w l) (Nat.pow_le_pow_right (by decide) hj)

/-! Messages. -/

theorem escHop_frame (s : State) (q : QMsg) : ∃ a, (escHop s q).1 = { s with agenda := a } := by
  unfold escHop
  dsimp only
  split
  · exact ⟨_, rfl⟩
  · split
    · exact ⟨_, rfl⟩
    · split
      · exact ⟨_, rfl⟩
      · exact ⟨_, rfl⟩

theorem enterEscape_frame (s : State) (q : QMsg) : ∃ a, (enterEscape s q).1 = { s with agenda := a } := by
  unfold enterEscape
  dsimp only
  split
  · exact escHop_frame ..
  · exact ⟨_, rfl⟩

theorem sourceRoute_frame (s : State) (m : Msg) : ∃ f, (sourceRoute s m).1 = { s with fab := f } := by
  unfold sourceRoute
  dsimp only
  split
  · exact ⟨_, rfl⟩
  · split
    · exact ⟨_, rfl⟩
    · exact ⟨_, rfl⟩

theorem chooseRoute_frame (s : State) (q : QMsg) : ∃ f a, (chooseRoute s q).1 = { s with fab := f, agenda := a } := by
  unfold chooseRoute
  split
  · obtain ⟨a, h⟩ := escHop_frame s q
    exact ⟨_, a, h⟩
  · split
    · obtain ⟨f, h⟩ := sourceRoute_frame s { q.m with nm := false, ig := 0 }
      split
      · next heq =>
        rw [heq] at h
        exact ⟨f, _, h⟩
      · next heq =>
        rw [heq] at h
        obtain ⟨a, ha⟩ := enterEscape_frame { s with fab := f } q
        dsimp only at h
        rw [h]
        exact ⟨f, a, ha⟩
    · split
      · exact ⟨_, _, rfl⟩
      · obtain ⟨a, h⟩ := enterEscape_frame s q
        exact ⟨_, a, h⟩

theorem queueMsg_frame (s : State) (m : Msg) (glob : Bool) (inp : Option (Nat × Nat)) :
    ∃ i f a, queueMsg s m glob inp = { s with ids := i, fab := f, agenda := a } := by
  have key (p : State × QMsg) (h : ∃ f a, p.1 = { s with ids := s.ids + 1, fab := f, agenda := a }) :
      ∃ i f a, addQueue p.1 p.2 = { s with ids := i, fab := f, agenda := a } := by
    obtain ⟨f, a, h⟩ := h
    rw [h]
    exact ⟨_, _, a, rfl⟩
  exact key _ (chooseRoute_frame { s with ids := s.ids + 1 } _)

theorem sendMsg_frame (s : State) (m : Msg) : ∃ i f a, sendMsg s m = { s with ids := i, fab := f, agenda := a } := by
  unfold sendMsg
  split
  · exact ⟨_, _, _, rfl⟩
  · exact queueMsg_frame ..

theorem respond_frame (s : State) (m : Msg) (op len : Nat) (opa opb : Word64) (data : VWord) :
    ∃ i f a, respond s m op len opa opb data = { s with ids := i, fab := f, agenda := a } := by
  unfold respond
  split
  · exact ⟨_, _, _, rfl⟩
  · exact sendMsg_frame ..

end Sys2Proof.Machine
end

section
/-!
PROOFS. Pump parts (R230 to R235, R260).
-/
namespace Sys2Proof.Machine
open Sys2Proof.Claims

/-! Words written one after another. -/

/-- A step that writes word j of a part, given the part's old bytes there. -/
def WritesWord (s : State) (pa : Nat) (F : State → Nat → State) (new : Nat → Nat) : Prop :=
  ∀ u j, (∀ i, i < 4 → mread u (pa + 4 * j + i) = mread s (pa + 4 * j + i)) →
    (∃ m, F u j = { u with mem := m }) ∧ mread4 (F u j) (pa + 4 * j) = new j % 2 ^ 32 ∧
    ∀ a, (a < pa + 4 * j ∨ pa + 4 * j + 4 ≤ a) → mread (F u j) a = mread u a

theorem words_written {s : State} {pa : Nat} {F : State → Nat → State} {new : Nat → Nat} (hF : WritesWord s pa F new) (n : Nat) :
    (∃ m, (List.range n).foldl F s = { s with mem := m }) ∧
    (∀ j, j < n → mread4 ((List.range n).foldl F s) (pa + 4 * j) = new j % 2 ^ 32) ∧
    ∀ a, (a < pa ∨ pa + 4 * n ≤ a) → mread ((List.range n).foldl F s) a = mread s a := by
  induction n with
  | zero => exact ⟨⟨_, rfl⟩, fun j hj => absurd hj (Nat.not_lt_zero j), fun _ _ => rfl⟩
  | succ n ih =>
    obtain ⟨⟨m, hm⟩, hw, ho⟩ := ih
    obtain ⟨⟨m2, hm2⟩, hself, hother⟩ := hF ((List.range n).foldl F s) n fun i hi => ho _ (.inr (by omega))
    rw [List.range_succ, List.foldl_append, List.foldl_cons, List.foldl_nil]
    refine ⟨⟨m2, by rw [hm2, hm]⟩, fun j hj => ?_, fun a ha => ?_⟩
    · by_cases h : j = n
      · rw [h]
        exact hself
      · rw [← hw j (by omega)]
        exact mread4_congr fun i hi => hother _ (.inl (by omega))
    · rw [hother a (by omega), ho a (by omega)]

/-! Elementwise parts. -/

/-- The value that a part gives its word j. -/
def pcmdWord (s : State) (u : Txn) (op j : Nat) : Nat :=
  if op == 7 && !u.lmask.getLsbD j then mread4 s (u.pa + 4 * j)
  else (pcmdElem u op (u.ix + j) (mread4 s (u.pa + 4 * j)) (elemOf u.entry 32 j)).1

/-- Its step on that word, of bytes that can be read. -/
def pcmdWriteWord (t : Txn) (op : Nat) (u : State) (j : Nat) : State :=
  if op == 7 && !t.lmask.getLsbD j then u
  else mwrite4 u (t.pa + 4 * j) (pcmdElem t op (t.ix + j) (mread4 u (t.pa + 4 * j)) (elemOf t.entry 32 j)).1

theorem mread4_lt (s : State) (a : Nat) : mread4 s a < 2 ^ 32 := by
  have h := natOfBytes_lt (mreadN s a 4)
  rwa [mreadN, List.length_map, List.length_range] at h

theorem pcmdWriteWord_writes (s : State) (t : Txn) (op : Nat) : WritesWord s t.pa (pcmdWriteWord t op) (pcmdWord s t op) := by
  intro u j h
  have h4 := mread4_congr h
  unfold pcmdWriteWord pcmdWord
  split
  · refine ⟨⟨_, rfl⟩, ?_, fun _ _ => rfl⟩
    rw [h4, Nat.mod_eq_of_lt (mread4_lt ..)]
  · refine ⟨mwrite4_frame .., ?_, fun a ha => ?_⟩
    · rw [mread4_mwrite4_self, h4]
    · rw [mread_mwrite4, if_neg (by omega)]

theorem pcmdElems_unspoiled {s : State} (hs : s.spoiled = []) (t : Txn) (op : Nat) :
    ∃ fl, pcmdElems s t op = ((List.range (t.len / 4)).foldl (pcmdWriteWord t op) s, fl, false) ∧ (op = 0 → fl = 0) := by
  unfold pcmdElems
  generalize t.len / 4 = n
  induction n with
  | zero => exact ⟨0, rfl, fun _ => rfl⟩
  | succ n ih =>
    obtain ⟨fl, hfl, h0⟩ := ih
    obtain ⟨⟨m, hm⟩, -, -⟩ := words_written (pcmdWriteWord_writes s t op) n
    have hsp : inSpoiled ((List.range n).foldl (pcmdWriteWord t op) s) (t.pa + 4 * n) = false := by
      rw [hm]
      unfold inSpoiled
      split
      · simp [hs]
      · rfl
    rw [List.range_succ, List.foldl_append, List.foldl_append, hfl]
    simp only [List.foldl_cons, List.foldl_nil, hsp]
    unfold pcmdWriteWord
    split
    · exact ⟨fl, rfl, h0⟩
    · refine ⟨_, rfl, fun h => ?_⟩
      rw [h0 h, h]
      exact (by decide : (0 : BitVec 5) ||| 0 = 0)

/-! A fill: the words one after another. -/

theorem writeCell_whole (s : State) (a : Nat) (b : Byte) : writeCell s { pa := a, val := b, msk := 0xFF } = mwrite s a b := by
  have h : (mread s a &&& ~~~ (0xFF : Byte)) ||| (b &&& 0xFF) = b := by
    have h1 : (~~~ (0xFF : Byte)) = 0#8 := rfl
    have h2 : (0xFF : Byte) = BitVec.allOnes 8 := rfl
    rw [h1, h2, BitVec.and_zero, BitVec.zero_or, BitVec.and_allOnes]
  exact congrArg (mwrite s a) h

theorem byteAt_ofNat32 (x j : Nat) (h : j < 4) : byteAt (BitVec.ofNat 32 x) j = BitVec.ofNat 8 (x / 2 ^ (8 * j)) := by
  apply BitVec.eq_of_toNat_eq
  rw [toNat_byteAt, BitVec.toNat_ofNat, BitVec.toNat_ofNat]
  obtain rfl | rfl | rfl | rfl : j = 0 ∨ j = 1 ∨ j = 2 ∨ j = 3 := by omega
  all_goals omega

theorem foldl_cellsOfWords (l : List (Nat × Nat)) (s : State) :
    (cellsOfWords l).foldl writeCell s = l.foldl (fun s w => mwrite4 s w.1 w.2) s := by
  induction l generalizing s with
  | nil => rfl
  | cons w l ih =>
    have hw : (cellsOfWords [w]).foldl writeCell s = mwrite4 s w.1 w.2 := by
      have hb : bytesOf (BitVec.ofNat 32 w.2) 4 = (List.range 4).map fun j => BitVec.ofNat 8 (w.2 / 2 ^ (8 * j)) :=
        List.map_congr_left fun j hj => byteAt_ofNat32 _ _ (List.mem_range.mp hj)
      rw [mwrite4, hb]
      change writeCell (writeCell (writeCell (writeCell s _) _) _) _ = mwrite (mwrite (mwrite (mwrite s _ _) _ _) _ _) _ _
      simp only [writeCell_whole]
      rfl
    have hsplit : cellsOfWords (w :: l) = cellsOfWords [w] ++ cellsOfWords l := by simp [cellsOfWords]
    rw [hsplit, List.foldl_append, hw, ih, List.foldl_cons]

theorem pcmdFill_unspoiled {s : State} (hs : s.spoiled = []) (t : Txn) :
    pcmdFill s t = ((List.range (t.len / 4)).foldl (fun u j => mwrite4 u (t.pa + 4 * j) (elemOf t.entry 32 0)) s, false) := by
  have hsp (wr : List WCell) : spoiledTouched s wr = [] := by simp [spoiledTouched, hs]
  have hall (l : List WCell) : (l.filter fun _ => true) = l := List.filter_eq_self.mpr fun _ _ => rfl
  unfold pcmdFill
  simp only [hsp, List.filter_nil, List.any_nil, Bool.not_false, hall, writeCells_unspoiled hs, foldl_cellsOfWords,
    List.foldl_map, Option.getD_some, List.isEmpty_nil, Bool.not_true]

theorem fill_writes (s : State) (pa c : Nat) : WritesWord s pa (fun u j => mwrite4 u (pa + 4 * j) c) fun _ => c := by
  intro u j _
  refine ⟨mwrite4_frame .., mread4_mwrite4_self .., fun a ha => ?_⟩
  rw [mread_mwrite4, if_neg (by omega)]

/-! A part executed. -/

section
variable {s : State} {t : Txn} (hs : s.spoiled = []) (hk : t.kind = .pcmd)
include hs hk

omit hk in
theorem inSpoiled_none (a : Nat) : inSpoiled s a = false := by
  unfold inSpoiled
  split
  · simp [hs]
  · rfl

theorem partApply_elems (h4 : pcmdOp t ≠ 4) (h5 : pcmdOp t ≠ 5) (h6 : pcmdOp t ≠ 6) : ∃ fl, partApply s t =
    ((List.range (t.len / 4)).foldl (pcmdWriteWord t (pcmdOp t)) s, fl, 0) ∧ (pcmdOp t = 0 → fl = 0) := by
  obtain ⟨fl, hfl, h0⟩ := pcmdElems_unspoiled hs t (pcmdOp t)
  refine ⟨fl, ?_, h0⟩
  unfold partApply
  rw [hk]
  dsimp only
  split
  · next h => exact absurd h h4
  · next h => exact absurd h h5
  · next h => exact absurd h h6
  · rw [hfl]
    rfl

theorem partApply_fill (h5 : pcmdOp t = 5) : partApply s t =
    ((List.range (t.len / 4)).foldl (fun u j => mwrite4 u (t.pa + 4 * j) (elemOf t.entry 32 0)) s, 0, 0) := by
  unfold partApply
  rw [hk]
  dsimp only
  rw [h5]
  rw [pcmdFill_unspoiled hs]
  rfl

theorem partApply_cvt (h4 : pcmdOp t = 4) : partApply s t = ((pcmdCvt s t).1, (pcmdCvt s t).2, 0) := by
  unfold partApply
  rw [hk]
  dsimp only
  rw [h4]
  have hgood : (((List.range t.len).map (t.pa + ·)).any (inSpoiled s)) = false := by simp [inSpoiled_none hs]
  rw [hgood]
  rfl

theorem partApply_copy {a : Nat} (h6 : pcmdOp t = 6) (hc : copySource s t = some a) : partApply s t =
    (((List.range t.len).map fun j => ({ pa := t.pa + j, val := mread s (a + j), msk := 0xFF } : WCell)).foldl writeCell s, 0, 0) := by
  unfold partApply
  rw [hk]
  dsimp only
  rw [h6]
  rw [hc]
  dsimp only
  have hgood : ((List.range 256).any fun j => inSpoiled s (a / 256 * 256 + j)) = false := by simp [inSpoiled_none hs]
  rw [hgood, writeCells_unspoiled hs]
  rfl

end

/-! What its requester gets. -/

theorem bankQ_setBankQ (s : State) (k j : Nat) (l : List PumpPart) :
    bankQ (setBankQ s k l) j = if j = k then l else bankQ s j := tget_tput ..

/-- The flags of a command's parts reach a part of it, or the command, or the context. -/
theorem pcmdFlags_frame (s : State) (g seq : Nat) (fl : BitVec 5) :
    ∃ c t b, pcmdFlags s g seq fl = { s with ctxs := c, txns := t, banks := b } ∧
      ∀ k, (bankQ (pcmdFlags s g seq fl) k).map (·.id) = (bankQ s k).map (·.id) ∧
        (fl = 0 → bankQ (pcmdFlags s g seq fl) k = bankQ s k) := by
  unfold pcmdFlags
  dsimp only
  split
  · exact ⟨_, _, _, rfl, fun k => ⟨rfl, fun _ => rfl⟩⟩
  · split
    · refine ⟨_, _, _, rfl, fun k => ?_⟩
      rw [bankQ_setBankQ]
      split
      · next h =>
        subst h
        refine ⟨?_, fun h => ?_⟩
        · rw [List.map_map]
          exact List.map_congr_left fun p _ => by
            rw [Function.comp_apply]
            split <;> rfl
        · conv => rhs; rw [← List.map_id (bankQ s _)]
          refine List.map_congr_left fun p _ => ?_
          split
          · have hz : p.txn.flags ||| (0 : BitVec 5) = p.txn.flags := BitVec.or_zero
            rw [h, hz]
            rfl
          · rfl
      · exact ⟨rfl, fun _ => rfl⟩
    · split
      · split <;> exact ⟨_, _, _, rfl, fun k => ⟨rfl, fun _ => rfl⟩⟩
      · exact ⟨_, _, _, rfl, fun k => ⟨rfl, fun _ => rfl⟩⟩

/-- A pump part that has executed without error leaves memory as it is; of the queues the flags alone may change. -/
theorem partDone_frame {s : State} {t : Txn} (hk : t.kind = .pcmd) (hsrc : (∃ g, t.src = .ctx g) ∨ ∃ m tag, t.src = .peer m tag)
    (fl : BitVec 5) (bad : Nat) :
    (partDone s t fl 0 bad).mem = s.mem ∧ ∀ k, (bankQ (partDone s t fl 0 bad) k).map (·.id) = (bankQ s k).map (·.id) ∧
      (fl = 0 → t.flags = 0 → (∃ g, t.src = .ctx g) → bankQ (partDone s t fl 0 bad) k = bankQ s k) := by
  unfold partDone
  rcases hsrc with ⟨g, hg⟩ | ⟨m, tag, hm⟩
  · rw [hg]
    dsimp only
    rw [hk]
    obtain ⟨c, x, b, heq, hb⟩ := pcmdFlags_frame (rdcInval s t.die t.peer ((List.range (max 1 t.len)).map (t.pa + ·))) g t.req.seq
      (fl ||| t.flags)
    refine ⟨?_, fun k => ⟨?_, fun hfl hz _ => ?_⟩⟩
    · exact (congrArg State.mem heq :)
    · exact (hb k).1
    · exact (hb k).2 (by rw [hfl, hz]; decide)
  · rw [hm]
    dsimp only
    rw [hk]
    obtain ⟨i, f, a, heq⟩ := respond_frame s (t.asked s m tag) 0x10 0 (BitVec.ofNat 64 fl.toNat) 0 0
    refine ⟨(congrArg State.mem heq :), fun k => ⟨?_, fun _ _ h => ?_⟩⟩
    · exact (congrArg (fun s => (bankQ s k).map (·.id)) heq :)
    · obtain ⟨g, h⟩ := h
      cases h

theorem exec_pumpPartExecute_done {bank : Nat} {s : State} {x : PumpPart} {r : List PumpPart} (hq : bankQ s bank = x :: r)
    (hh : bankQ s (holdKey (bank / 16)) = []) {m : List Host.Cell} {fl : BitVec 5}
    (ha : partApply s x.txn = ({ s with mem := m }, fl, 0)) :
    exec (.pumpPartExecute bank) s =
      .next (partDone (setBankQ { s with mem := m } bank r) x.txn fl 0 (partFailedAt s x.txn)) := by
  have hh' : bankQ { s with mem := m } (holdKey (bank / 16)) = [] := hh
  refine (exec_pumpPartExecute ..).trans ?_
  unfold execPumpPartExecute
  rw [hq]
  dsimp only
  rw [ha]
  dsimp only
  rw [hh']
  rfl

theorem part_executed {bank : Nat} {s u : State} {x : PumpPart} {r : List PumpPart} (hq : bankQ s bank = x :: r)
    (hh : bankQ s (holdKey (bank / 16)) = []) (hk : x.txn.kind = .pcmd)
    (hsrc : (∃ g, x.txn.src = .ctx g) ∨ ∃ m tag, x.txn.src = .peer m tag) (hu : ∃ m, u = { s with mem := m }) {fl : BitVec 5}
    (ha : partApply s x.txn = (u, fl, 0)) :
    ∃ t, exec (.pumpPartExecute bank) s = .next t ∧ t.mem = u.mem ∧ (bankQ t bank).map (·.id) = r.map (·.id) ∧
      (fl = 0 → x.txn.flags = 0 → (∃ g, x.txn.src = .ctx g) → bankQ t bank = r) := by
  obtain ⟨m, rfl⟩ := hu
  obtain ⟨hmem, hbank⟩ := partDone_frame (s := setBankQ { s with mem := m } bank r) hk hsrc fl (partFailedAt s x.txn)
  obtain ⟨hids, hsame⟩ := hbank bank
  have hself : bankQ (setBankQ { s with mem := m } bank r) bank = r := by rw [bankQ_setBankQ, if_pos rfl]
  rw [hself] at hids hsame
  exact ⟨_, exec_pumpPartExecute_done hq hh ha, hmem, hids, hsame⟩

/-! The commands. -/

theorem aop_pcmd_lt {i : Instr} {k : Nat} (h : aop i = .pcmd k) : k < 8 := by
  cases i
  case pcmdAddI32 | pcmdAddF32 | pcmdAxpyF32 | pcmdMaxF32 | pcmdCvtBf16 | pcmdFill | pcmdCopy | pcmdAcc =>
    obtain rfl := AOp.pcmd.inj h
    decide
  all_goals cases h

theorem pcmdOp_of_aop {t : Txn} {k : Nat} (h : aop t.req.op = .pcmd k) : pcmdOp t = k := by rw [pcmdOp, h]

/-- The elements of a .cvt.bf16, scaled. -/
def cvtElems (s : State) (t : Txn) : List (Nat × BitVec 5) :=
  let m := t.req.fmode &&& ~~~ (16 : Word32)
  let sig := decode 0 (elemOf t.entry 32 0)
  (List.range 64).map fun j =>
    let x := decode 0 (mread4 s (t.pa + 4 * j))
    let r := if fmRM m == rmSR then engineRnd t.req.seed (t.ix + j) else 0
    finish 2 m r [x, sig] (x.mul sig)

theorem pcmdElem_acc (u : Txn) (e x lane : Nat) : pcmdElem u 7 e x lane =
    (let m := u.req.fmode &&& ~~~ (16 : Word32)
     let rnd : Word32 := if fmRM m == rmSR then engineRnd u.req.seed e else 0
     if u.red = 1 then ((x + lane) % 2 ^ 32, 0) else if u.red = 2 then fAdd 0 m rnd x lane else fMinMax 0 m true x lane) := by
  unfold pcmdElem
  dsimp only
  generalize u.red = n
  match n with
  | 0 => rfl
  | 1 => rfl
  | 2 => rfl
  | n + 3 => rfl

/-- An .acc combines a lane's word where the mask says so. -/
theorem pcmdWord_acc (s : State) (u : Txn) (j : Nat) :
    let m := u.req.fmode &&& ~~~ (16 : Word32)
    let rnd : Word32 := if fmRM m == rmSR then engineRnd u.req.seed (u.ix + j) else 0
    let old := mread4 s (u.pa + 4 * j)
    pcmdWord s u 7 j % 2 ^ 32 = (if u.lmask.getLsbD j = false then old
      else if u.red = 1 then old + elemOf u.entry 32 j
      else if u.red = 2 then (fAdd 0 m rnd old (elemOf u.entry 32 j)).1
      else (fMinMax 0 m true old (elemOf u.entry 32 j)).1) % 2 ^ 32 := by
  intro m rnd old
  unfold pcmdWord
  by_cases hl : u.lmask.getLsbD j = false
  · rw [if_pos hl, if_pos (by rw [hl]; rfl)]
  · rw [if_neg hl, if_neg (by simpa using hl)]
    rw [pcmdElem_acc]
    by_cases h1 : u.red = 1
    · rw [if_pos h1, if_pos h1]
      exact Nat.mod_mod ..
    · rw [if_neg h1, if_neg h1]
      by_cases h2 : u.red = 2
      · rw [if_pos h2, if_pos h2]
      · rw [if_neg h2, if_neg h2]

/-- A .cvt.bf16 packs its scaled elements and clears the rest. -/
theorem cvt_written (s : State) (pa : Nat) {l : List Nat} (hl : l.length = 64) :
    (∀ j, j < 64 → mread (mwriteL s pa (bytesOf (vecOf l 16) 256)) (pa + 2 * j) = BitVec.ofNat 8 (l.getD j 0) ∧
      mread (mwriteL s pa (bytesOf (vecOf l 16) 256)) (pa + 2 * j + 1) = BitVec.ofNat 8 (l.getD j 0 / 256)) ∧
    (∀ j, 128 ≤ j → j < 256 → mread (mwriteL s pa (bytesOf (vecOf l 16) 256)) (pa + j) = 0) ∧
    ∀ a, (a < pa ∨ pa + 256 ≤ a) → mread (mwriteL s pa (bytesOf (vecOf l 16) 256)) a = mread s a := by
  refine ⟨fun j hj => ?_, fun j hj hj2 => ?_, fun a ha => ?_⟩
  · obtain ⟨h0, h1⟩ := byteAt_vecOf16 (l := l) (by omega) j
    rw [mread_mwriteL_bytesOf, if_pos (by omega), mread_mwriteL_bytesOf, if_pos (by omega), Nat.add_assoc, Nat.add_sub_cancel_left,
      Nat.add_sub_cancel_left]
    exact ⟨h0, h1⟩
  · rw [mread_mwriteL_bytesOf, if_pos (by omega), Nat.add_sub_cancel_left]
    exact byteAt_vecOf_past (by omega) (by omega)
  · rw [mread_mwriteL_bytesOf, if_neg (by omega)]

/-- Settles O33. -/
theorem pumpParts : Obligations.PumpParts := by
  refine ⟨fun id s s1 s2 t h hb => ?_, fun bank s x r p o hq hh hs hk hop hfl g hg => ?_, fun bank k s x r hq hh hs hk hop hsrc => ?_⟩
  · intro pa hst he
    refine (exec_pumpPartEnqueue ..).trans ?_
    rw [execPumpPartEnqueue, atHome_passes h hb]
    dsimp only
    rw [if_neg (by rw [hst]; exact Bool.false_ne_true), he]
  · have hz : pcmdOp x.txn = 0 := by rw [pcmdOp, hop]; rfl
    obtain ⟨fl, hfl2, hfl0⟩ := partApply_elems hs hk (by omega) (by omega) (by omega)
    obtain ⟨hfr, hw, ho⟩ := words_written (pcmdWriteWord_writes s x.txn (pcmdOp x.txn)) (x.txn.len / 4)
    obtain ⟨t, ht, hmem, -, hbank⟩ := part_executed hq hh hk (.inl ⟨g, hg⟩) hfr hfl2
    refine ⟨t, ht, hbank (hfl0 hz) hfl ⟨g, hg⟩, fun j hj => ?_, fun a ha => ?_⟩
    · rw [mread4_congr fun i _ => mread_congr hmem _, hw j hj, pcmdWord, hz]
      exact Nat.mod_mod ..
    · rw [mread_congr hmem, ho a (by omega)]
  · intro u c m rnd old new scaled
    have hop2 : pcmdOp x.txn = k := pcmdOp_of_aop hop
    refine ⟨fun h4 h6 => ?_, fun h4 => ?_, fun a h6 hc => ?_⟩
    · by_cases h5 : k = 5
      · obtain ⟨hfr, hw, ho⟩ := words_written (fill_writes s x.txn.pa (elemOf x.txn.entry 32 0)) (x.txn.len / 4)
        obtain ⟨t, ht, hmem, hids, -⟩ := part_executed hq hh hk hsrc hfr (partApply_fill hs hk (hop2.trans h5))
        refine ⟨t, ht, hids, fun j hj => ?_, fun a (ha : a < x.txn.pa ∨ x.txn.pa + x.txn.len / 4 * 4 ≤ a) => ?_⟩
        · rw [mread4_congr fun i _ => mread_congr hmem _]
          refine (hw j hj).trans ?_
          simp only [new, h5]
          rfl
        · rw [mread_congr hmem, ho a (by omega)]
      · obtain ⟨fl, hfl2, -⟩ := partApply_elems hs hk (by omega) (by omega) (by omega)
        obtain ⟨hfr, hw, ho⟩ := words_written (pcmdWriteWord_writes s x.txn (pcmdOp x.txn)) (x.txn.len / 4)
        obtain ⟨t, ht, hmem, hids, -⟩ := part_executed hq hh hk hsrc hfr hfl2
        refine ⟨t, ht, hids, fun j hj => ?_, fun a (ha : a < x.txn.pa ∨ x.txn.pa + x.txn.len / 4 * 4 ≤ a) => ?_⟩
        · rw [mread4_congr fun i _ => mread_congr hmem _]
          refine (hw j hj).trans ?_
          rw [hop2]
          obtain rfl | rfl | rfl | rfl | rfl : k = 0 ∨ k = 1 ∨ k = 2 ∨ k = 3 ∨ k = 7 := by
            have := aop_pcmd_lt hop
            omega
          · exact Nat.mod_mod ..
          · rfl
          · rfl
          · rfl
          · exact pcmdWord_acc s x.txn j
        · rw [mread_congr hmem, ho a (by omega)]
    · obtain ⟨hw, hz, ho⟩ := cvt_written s x.txn.pa (l := (cvtElems s x.txn).map (·.1)) (by simp [cvtElems])
      obtain ⟨t, ht, hmem, hids, -⟩ := part_executed hq hh hk hsrc (mwriteL_frame ..) (partApply_cvt hs hk (hop2.trans h4))
      refine ⟨t, ht, hids, fun j hj => ?_, fun j hj hj2 => ?_, fun a ha => ?_⟩
      · obtain ⟨h0, h1⟩ := hw j hj
        have hel : ((cvtElems s x.txn).map (·.1)).getD j 0 = scaled j := by
          rw [List.getD_eq_getElem?_getD]
          simp only [cvtElems, List.getElem?_map, List.getElem?_range hj, Option.map_some, Option.getD_some]
          rfl
        rw [hel] at h0 h1
        exact ⟨(mread_congr hmem _).trans h0, (mread_congr hmem _).trans h1⟩
      · exact (mread_congr hmem _).trans (hz j hj hj2)
      · exact (mread_congr hmem _).trans (ho a ha)
    · obtain ⟨hin, hout⟩ := mread_foldl_writeCell_bytes s x.txn.pa x.txn.len fun j => mread s (a + j)
      obtain ⟨t, ht, hmem, hids, -⟩ := part_executed hq hh hk hsrc (foldl_writeCell_frame ..) (partApply_copy hs hk (hop2.trans h6) hc)
      refine ⟨t, ht, hids, fun j hj => (mread_congr hmem _).trans (hin j hj), fun b hb => (mread_congr hmem _).trans (hout b ?_)⟩
      intro j hj
      change b < x.txn.pa ∨ x.txn.pa + x.txn.len ≤ b at hb
      change j < x.txn.len at hj
      omega

end Sys2Proof.Machine
end

section
/-!
PROOFS. The matrix unit: the words of a routine (R285 to R297, R330 to R332), its commands (R289, R300), the governor (R302 to R304).
-/
namespace Sys2Proof.Machine
open Sys2Proof.Claims

/-! The last of two updates of a table's entry stands. -/

theorem tdel_tdel {α : Type} (t : Tab α) (k : Nat) : tdel (tdel t k) k = tdel t k := by
  induction t with
  | nil => rfl
  | cons e r ih =>
    obtain ⟨j, v⟩ := e
    by_cases h : j = k
    · simp only [tdel, if_pos h, ih]
    · simp only [tdel, if_neg h, ih]

theorem tdel_tins {α : Type} (t : Tab α) (k : Nat) (v : α) : tdel (tins t k v) k = tdel t k := by
  induction t with
  | nil => simp [tins, tdel]
  | cons e r ih =>
    obtain ⟨j, w⟩ := e
    by_cases h : k < j
    · simp only [tins, if_pos h, tdel, if_true]
    · simp only [tins, if_neg h, tdel, ih]

theorem tset_tset {α : Type} (t : Tab α) (k : Nat) (v w : α) : tset (tset t k v) k w = tset t k w := by
  unfold tset
  rw [tdel_tins, tdel_tdel]

theorem modCore_modCore (s : State) (n : Nat) (f h : CoreSt → CoreSt) : modCore (modCore s n f) n h = modCore s n fun c => h (f c) := by
  unfold modCore
  rw [getCore_setCore_self]
  unfold setCore
  rw [tset_tset]

theorem modCore_congr {s : State} {n : Nat} {f h : CoreSt → CoreSt} (e : f (getCore s n) = h (getCore s n)) :
    modCore s n f = modCore s n h := congrArg (setCore s n) e

/-! The words of a routine. -/

theorem withRun_of {s : State} {r : Routine} (h : (getCore s s.cur).run = some r) (f : Routine → State) :
    withRun s f = .next (f r) := by
  unfold withRun
  rw [h]

theorem setRun_run (s : State) (core : Nat) (r : Routine) : (getCore (setRun s core r) core).run = some r := by
  rw [setRun, getCore_modCore_self]

theorem enterLoop_zero (r : Routine) (len : Nat) :
    enterLoop r 0 len = { r with upc := (afterWord r.loops (r.upc + len)).1, loops := (afterWord r.loops (r.upc + len)).2 } := rfl

theorem enterLoop_of_ne {cnt : Nat} (h : cnt ≠ 0) (r : Routine) (len : Nat) :
    enterLoop r cnt len = { r with
      upc := r.upc + 1, loops := { start := r.upc + 1, len := len, left := cnt } :: r.loops } := if_neg h

theorem sendTxn_mem {s : State} {t : Txn} (hk : t.kind ≠ .load) (n late : Nat) : (sendTxn s t n late).1.mem = s.mem := by
  obtain ⟨x, y, hf⟩ := fillRules_frame { s with ids := s.ids + 1 } hk
  unfold sendTxn fresh
  dsimp only
  rw [lookup_of_kind hk, hf]
  dsimp only
  split <;> rfl

theorem execSig_of_target {s : State} {r : Routine} {h : HWord} {pa : Nat} {i : Fin 8} (j : Bool)
    (hr : (getCore s s.cur).run = some r) (ht : sigTarget s r i.val = some (h, pa)) :
    ∃ t x, execSig j i s = .next t ∧ (getCore t s.cur).run = some { r with sigs := r.sigs + 1 } ∧ getTxn t s.ids = some x ∧
      x.kind = .atomic ∧ x.src = .mx s.cur ∧ x.pa = pa ∧ x.len = 8 ∧ x.add = 1 ∧ t.mem = s.mem := by
  let x : Txn := { (Txn.base .atomic (.mx s.cur) { Req.blank with sys := r.cmd.sys, h := some h } (dieOfCore s.cur)
    (vfOf s r.cmd.g) pa).through s r.cmd.g h with len := 8, add := 1, eng := true, orig := r.cmd.id, ix := r.word }
  have hx : x.kind ≠ .load := by simp [x, Txn.through, Txn.base]
  let s0 := (bookSlot s (cluOf s.cur)).2
  obtain ⟨c, hc⟩ := drawLat_frame s0 x
  let late := (bookSlot s (cluOf s.cur)).1
  let d := (drawLat s0 x).1
  let s1 := (drawLat s0 x).2
  refine ⟨setRun (sendTxn s1 x d late).1 s.cur { r with sigs := r.sigs + 1 }, { x with sent := 0, left := 0, born := s1.clock + late },
    ?_, setRun_run .., ?_, rfl, rfl, rfl, rfl, rfl, ?_⟩
  · unfold execSig
    rw [withRun_of hr, ht]
  · have hi : s1.ids = s.ids := (congrArg State.ids hc :)
    exact hi ▸ (sendTxn_sent s1 hx d late).2
  · have hm : s1.mem = s.mem := (congrArg State.mem hc :)
    exact (sendTxn_mem hx d late).trans hm

theorem execSig_of_no_target {s : State} {r : Routine} {i : Fin 8} (j : Bool)
    (hr : (getCore s s.cur).run = some r) (ht : sigTarget s r i.val = none) :
    execSig j i s = .next (setRun s s.cur (r.halt 0x11 r.word)) := by
  unfold execSig
  rw [withRun_of hr, ht]

/-! The words that take entries of the ports. -/

section
variable {s : State} {r : Routine} (j : Bool) (hr : (getCore s s.cur).run = some r)
include hr

theorem execStep_one {o : UStep} {x y : BitVec 1024 × Option Nat} (hx : portPeek s r.cmd.g 0 = some x)
    (hy : portPeek s r.cmd.g 1 = some y) (hn : (mxClass o.fa.val).n ≠ 2) :
    execStep j o s = .next (setRun (portPop (portPop s r.cmd.g 0) r.cmd.g 1) s.cur
      { r with first := some o, busy := (mxClass o.fa.val).t - 1,
               flags := r.flags ||| (stepSums (entryRows o.fa.val x.1) (entryRows o.fb.val y.1)).2,
               pipe := r.pipe ++ [{ sums := (stepSums (entryRows o.fa.val x.1) (entryRows o.fb.val y.1)).1, tile := r.tile,
                                    left := 4, word := r.gword }] }) := by
  unfold execStep
  rw [withRun_of hr]
  simp only [hx, hy, if_neg hn]

theorem execStep_two {o : UStep} {x y : BitVec 1024 × Option Nat} (hx : portPeek s r.cmd.g 0 = some x)
    (hy : portPeek s r.cmd.g 1 = some y) (hn : (mxClass o.fa.val).n = 2) :
    execStep j o s = .next (setRun (portPop (portPop s r.cmd.g 0) r.cmd.g 1) s.cur
      { r with first := some o, busy := (mxClass o.fa.val).t - 1,
               second := some { a := x.1, b := y.1, tile := r.tile, word := r.gword } }) := by
  unfold execStep
  rw [withRun_of hr]
  simp only [hx, hy, if_pos hn]

theorem execSkip_of (pt : Fin 4) (n : Fin 256) :
    execSkip j pt n s = .next (setRun (popMany s r.cmd.g pt.val (n.val - if pt.val = 2 then r.skipS else r.skipA)) s.cur
      (if pt.val = 2 then { r with skipS := 0 } else { r with skipA := 0 })) := withRun_of hr _

end

/-- Settles O34. -/
theorem matrixWords : Obligations.MatrixWords := by
  refine ⟨fun s r hr => ⟨withRun_of hr _, fun j tile => withRun_of hr _, fun j i => withRun_of hr _, fun count len hc => ?_,
    fun len => withRun_of hr _, fun i len hc => ?_, fun i len hc => ?_, fun j pt n => rfl,
    fun j i => ⟨fun h pa => execSig_of_target j hr, execSig_of_no_target j hr⟩⟩,
    fun s r j hr => ⟨fun o x y hx hy => ⟨execStep_one j hr hx hy, execStep_two j hr hx hy⟩,
      fun e he => ⟨?_, ?_, ?_⟩, fun pt n => ⟨fun h => ?_, fun h => ?_⟩⟩⟩
  · refine (exec_uloop ..).trans ((withRun_of hr _).trans ?_)
    rw [enterLoop_of_ne (Fin.val_ne_zero_iff.mpr hc)]
  · refine (exec_uloopG ..).trans ((withRun_of hr _).trans ?_)
    rw [enterLoop_of_ne hc]
  · refine (exec_uloopG ..).trans ((withRun_of hr _).trans ?_)
    rw [hc, enterLoop_zero]
  · refine (exec_scl ..).trans ((withRun_of hr _).trans ?_)
    rw [he]
  · refine (exec_band ..).trans ((withRun_of hr _).trans ?_)
    rw [he]
    rfl
  · refine (exec_band ..).trans ((withRun_of hr _).trans ?_)
    rw [he]
    rfl
  · refine (exec_skip ..).trans ((execSkip_of j hr pt n).trans ?_)
    rw [if_neg h, if_neg h]
  · refine (exec_skip ..).trans ((execSkip_of j hr pt n).trans ?_)
    rw [if_pos h, if_pos h, h]

/-! Commands begin, a routine completes. -/

/-- No answers await the unit, which is idle: the command at the head of its queue begins. -/
theorem exec_matrixCommandBegin_idle {core : Nat} {s : State} {m : MCmd} {l : List MCmd} (hb : (getCore s core).busyCmd = none)
    (hr : (getCore s core).run = none) (hq : (getCore s core).mq = m :: l) (ha : mxAnswers s core .atomic = []) :
    exec (.matrixCommandBegin core) s = .next (mxBegin s core m) := by
  refine (exec_matrixCommandBegin ..).trans ?_
  unfold execMatrixCommandBegin
  rw [ha]
  simp only [List.foldl_nil, hb, hr, hq]
  rfl

/-- Settles O35. -/
theorem matrixCommandsRun : Obligations.MatrixCommandsRun := by
  refine ⟨fun core s m l hb hr hq ha => ⟨fun p t hop => ?_, fun p en hop hs => ?_⟩, fun core s r hr he hst hem => ?_⟩
  · refine (exec_matrixCommandBegin_idle hb hr hq ha).trans (congrArg Host.Outcome.next ?_)
    unfold mxBegin
    rw [hop]
    dsimp only
    rw [modCore_modCore]
    exact modCore_congr (by simp only [hq, List.drop_one, List.tail_cons])
  · refine (exec_matrixCommandBegin_idle hb hr hq ha).trans (congrArg Host.Outcome.next ?_)
    unfold mxBegin
    rw [hop]
    dsimp only
    rw [modCore_modCore, hs]
    exact modCore_congr (by simp only [hq, hs, List.drop_one, List.tail_cons, List.filter_nil, List.find?_nil])
  · refine (exec_routineComplete ..).trans ?_
    unfold execRoutineComplete
    rw [hr]
    dsimp only
    rw [he, hem, hst]
    rfl

/-! The governor. -/

theorem govern_eq (s : State) (core : Nat) :
    govern s core = if rfld s (mxctl core) 0 16 < (getCore s core).window.sum then
      modCore s core fun k => { k with frozenTo := s.clock + 1 + 8 * max 1 (rfld s (mxctl core) 16 4) } else s := by
  unfold govern govLim govLen
  rw [← List.sum_eq_foldl]

/-- Settles O36. -/
theorem governor : Obligations.Governor := by
  refine fun core s => ⟨fun hc hf => ?_, fun hf => ?_⟩
  · refine (exec_governorCheck ..).trans ?_
    unfold execGovernorCheck
    rw [hf, decide_eq_false (Nat.not_le.mpr hc), Bool.or_false, if_neg Bool.false_ne_true, govern_eq, getCore_modCore_self]
    rfl
  · refine (exec_governorFreezeEnd ..).trans ?_
    unfold execGovernorFreezeEnd
    rw [if_pos hf, govern_eq]

end Sys2Proof.Machine
end

section
/-!
PROOFS. Walks and HINVAL (R199, R202), arrivals at barriers (R157, R159), groups and launches that end (R168).
-/
namespace Sys2Proof.Machine
open Sys2Proof.Claims

/-! Walks, invalidations. -/

/-- Settles O37. -/
theorem walksAndInvalidations : Obligations.WalksAndInvalidations := by
  refine ⟨fun id s w hw hp => ?_, fun s => ⟨rfl, fun hi => ?_⟩⟩
  · have hrun : exec (.tableWalkComplete id) s = execTableWalkComplete id s := exec_tableWalkComplete ..
    unfold execTableWalkComplete at hrun
    rw [hw] at hrun
    refine ⟨_, hrun, ?_, (tfind_tdel ..).trans (if_pos rfl), rfl, fun x hx => getCtx_modCtx_ne _ _ _ _ hx⟩
    rw [getCtx_modCtx_self]
    exact (congrArg (fun h => tget 0 h w.hn) (if_pos hp)).trans (tget_tput_self ..)
  · refine (exec_hinvalComplete ..).trans ?_
    unfold execHinvalComplete hinvalArgs
    dsimp only
    rw [hi, if_neg Bool.false_ne_true]

/-! Updates of many contexts. -/

theorem foldl_modCtx_frame (f : Ctx → Ctx) (l : List Nat) (s : State) : ∃ c, l.foldl (fun s x => modCtx s x f) s = { s with ctxs := c } := by
  induction l generalizing s with
  | nil => exact ⟨_, rfl⟩
  | cons x l ih =>
    obtain ⟨c, hc⟩ := ih (modCtx s x f)
    exact ⟨c, hc⟩

/-- What f gives, and keeps once given, holds of every context of the list afterwards. -/
theorem foldl_modCtx_all {f : Ctx → Ctx} {P : Ctx → Prop} (hf : ∀ c, P (f c)) (l : List Nat) (s : State) {x : Nat}
    (hx : x ∈ l ∨ P (getCtx s x)) : P (getCtx (l.foldl (fun s x => modCtx s x f) s) x) := by
  induction l generalizing s with
  | nil => simpa using hx
  | cons y l ih =>
    refine ih (modCtx s y f) ?_
    by_cases h : x = y
    · exact .inr (by rw [h, getCtx_modCtx_self]; exact hf _)
    · rw [getCtx_modCtx_ne _ _ _ _ h]
      simpa [h] using hx

/-! Barriers. -/

theorem getBar_congr {s t : State} (hc : t.clusters = s.clusters) (hg : t.groups = s.groups) (gid n : Nat) :
    getBar t gid n = getBar s gid n := by
  unfold getBar barKey getGroup getClu
  rw [hc, hg]

theorem getBar_modBar (s : State) (gid n : Nat) (f : BarSlot → BarSlot) : getBar (modBar s gid n f) gid n = f (getBar s gid n) := by
  unfold modBar
  rw [getBar]
  change tget BarSlot.free (getClu (modClu s (getGroup s gid).cluster _) (getGroup s gid).cluster).bars (barKey s gid n) = _
  rw [getClu_modClu_self]
  exact tget_tset_self ..

theorem completePhase_bar (s : State) (gid n : Nat) :
    getBar (completePhase s gid n) gid n = { getBar s gid n with arr := 0, phase := !(getBar s gid n).phase } := by
  unfold completePhase
  dsimp only
  obtain ⟨c, hc⟩ := foldl_modCtx_frame (fun c => { c with arrived := setField c.arrived n 1 0 }) (getGroup s gid).ctxs
    (modBar s gid n fun b => { b with arr := 0, phase := !b.phase })
  rw [hc, ← getBar_modBar s gid n fun b => { b with arr := 0, phase := !b.phase }]
  rfl

theorem getLsbD_setField_zero (w : Word64) (n : Nat) : (setField w n 1 0).getLsbD n = false := by
  unfold setField ones
  simp only [BitVec.getLsbD_or, BitVec.getLsbD_and, BitVec.getLsbD_not, BitVec.getLsbD_ofNat]
  simp

theorem completePhase_arrived (s : State) (gid n : Nat) {x : Nat} (hx : x ∈ (getGroup s gid).ctxs) :
    (getCtx (completePhase s gid n) x).arrived.getLsbD n = false :=
  foldl_modCtx_all (P := fun c => c.arrived.getLsbD n = false) (fun c => getLsbD_setField_zero c.arrived n) _ _ (.inl hx)

section
variable {s : State} {g slot gid : Nat} (hg : (getCtx s g).gid = gid)
include hg

theorem countArrival_open (h : (getBar s gid slot).arr + 1 ≠ (getBar s gid slot).exp) :
    countArrival s g slot = modBar s gid slot fun b => { b with arr := b.arr + 1 } := by
  unfold countArrival
  rw [hg]
  dsimp only
  rw [getBar_modBar]
  exact if_neg h

theorem countArrival_complete (h : (getBar s gid slot).arr + 1 = (getBar s gid slot).exp) :
    countArrival s g slot = completePhase (modBar s gid slot fun b => { b with arr := b.arr + 1 }) gid slot := by
  unfold countArrival
  rw [hg]
  dsimp only
  rw [getBar_modBar]
  exact if_pos h

end

/-- The context's arrival at the slot, taken off those that are to be counted. -/
def countedOff (s : State) (g slot : Nat) : State :=
  modCtx s g fun c => { c with uncounted := c.uncounted.filter fun u => u.1 != slot }

theorem countedOff_gid (s : State) (g slot : Nat) : (getCtx (countedOff s g slot) g).gid = (getCtx s g).gid := by
  unfold countedOff
  rw [getCtx_modCtx_self]

theorem countedOff_arrived (s : State) (g slot x : Nat) : (getCtx (countedOff s g slot) x).arrived = (getCtx s x).arrived := by
  unfold countedOff
  rw [getCtx_modCtx]
  split
  · next h => rw [h]
  · rfl

theorem exec_barrierArrivalCount_of {s : State} {g slot seq : Nat}
    (hu : ((getCtx s g).uncounted.find? fun u => u.1 == slot) = some (slot, seq)) (hd : earlierDone s g seq = true) :
    exec (.barrierArrivalCount g slot) s = .next
      (if (getCtx s g).phase == .exited then leaveSlot (countArrival (countedOff s g slot) g slot) g slot
        ((getCtx (countArrival (countedOff s g slot) g slot) g).hasArrived slot) else countArrival (countedOff s g slot) g slot) := by
  refine (exec_barrierArrivalCount ..).trans ?_
  unfold execBarrierArrivalCount
  dsimp only
  rw [hu]
  dsimp only
  rw [if_pos hd]
  rfl

/-- Settles O38. -/
theorem arrivalsCounted : Obligations.ArrivalsCounted := by
  intro g slot seq s hu hd gid b
  have hgid := countedOff_gid s g slot
  have hb : getBar (countedOff s g slot) gid slot = b := getBar_congr rfl rfl gid slot
  have hrun := exec_barrierArrivalCount_of hu hd
  refine ⟨fun ho hp => ⟨_, hrun, ?_, fun x => ?_⟩, fun hc hp => ⟨_, hrun, ?_, fun x hx => ?_⟩, fun hp => ?_⟩
  · rw [if_neg (by simpa using hp), countArrival_open hgid (by rw [hb]; exact ho), getBar_modBar, hb]
  · rw [if_neg (by simpa using hp), countArrival_open hgid (by rw [hb]; exact ho)]
    exact countedOff_arrived ..
  · rw [if_neg (by simpa using hp), countArrival_complete hgid (by rw [hb]; exact hc), completePhase_bar, getBar_modBar, hb]
  · rw [if_neg (by simpa using hp), countArrival_complete hgid (by rw [hb]; exact hc)]
    exact completePhase_arrived _ gid slot hx
  · refine hrun.trans ?_
    rw [if_pos (by simpa using hp)]
    rfl

/-! Groups and launches. -/

theorem freeStream_frame (s : State) (x : Nat × Nat) : ∃ c k, freeStream s x = { s with ctxs := c, clusters := k } := by
  have hfold (l : List Sub) (s : State) : ∃ c, (l.foldl (fun s u =>
      modCtx s u.g fun c => c.setShadow (8 + u.port) (setField (c.rdShadow (8 + u.port)) 12 1 0)) s) = { s with ctxs := c } := by
    induction l generalizing s with
    | nil => exact ⟨_, rfl⟩
    | cons u l ih =>
      obtain ⟨c, hc⟩ := ih (modCtx s u.g fun c => c.setShadow (8 + u.port) (setField (c.rdShadow (8 + u.port)) 12 1 0))
      exact ⟨c, hc⟩
  obtain ⟨c, hc⟩ := hfold (getStream s x).subs s
  unfold freeStream
  dsimp only
  rw [hc]
  exact ⟨c, _, rfl⟩

theorem foldl_freeStream_frame (k : Nat) (l : List Nat) (s : State) :
    ∃ c u, l.foldl (fun s j => freeStream s (k, j)) s = { s with ctxs := c, clusters := u } := by
  induction l generalizing s with
  | nil => exact ⟨_, _, rfl⟩
  | cons j l ih =>
    obtain ⟨c, u, h⟩ := freeStream_frame s (k, j)
    obtain ⟨c', u', h'⟩ := ih (freeStream s (k, j))
    rw [h] at h'
    exact ⟨c', u', (by rw [List.foldl_cons, h]; exact h')⟩

/-- A group's resources are given back: its contexts start anew, the table has it no more, and nothing else but the clusters' state
has changed. -/
theorem freeGroup_spec {s : State} {gid : Nat} {gr : Group} (h : getGroup s gid = gr) :
    ∃ c u, freeGroup s gid = { s with ctxs := c, clusters := u, groups := tdel s.groups gid } ∧
      ∀ g ∈ gr.ctxs, getCtx (freeGroup s gid) g = Ctx.reset := by
  obtain ⟨c, u, hs⟩ := foldl_freeStream_frame gr.cluster gr.slots s
  unfold freeGroup
  rw [h]
  dsimp only
  rw [hs]
  obtain ⟨c', hc'⟩ := foldl_modCtx_frame (fun _ => Ctx.reset) gr.ctxs (modClu { s with ctxs := c, clusters := u } gr.cluster
    fun c => { c with bars := gr.slots.foldl (fun b k => tdel b k) c.bars })
  refine ⟨c', _, congrArg (fun t : State => { t with groups := tdel t.groups gid }) hc', fun g hg => ?_⟩
  exact foldl_modCtx_all (f := fun _ => Ctx.reset) (P := (· = Ctx.reset)) (fun _ => rfl) gr.ctxs _ (.inl hg)

theorem getGroup_of_find {s : State} {gid : Nat} {gr : Group} (h : tfind s.groups gid = some gr) : getGroup s gid = gr := by
  unfold getGroup tget
  rw [h]
  rfl

/-- Settles O39. -/
theorem groupsRetire : Obligations.GroupsRetire := by
  refine ⟨fun gid s gr hg hd => ?_, fun lid s l hl => ⟨fun hn hr hdead ho hst hc => ?_, fun tid x hdn ha he => ?_⟩⟩
  · obtain ⟨c, u, hf, hreset⟩ := freeGroup_spec (getGroup_of_find hg)
    have hgone : tfind (freeGroup s gid).groups gid = none := by
      rw [hf]
      exact (tfind_tdel ..).trans (if_pos rfl)
    have hrun : exec (.groupRetire gid) s = execGroupRetire gid s := exec_groupRetire ..
    unfold execGroupRetire at hrun
    rw [hg] at hrun
    dsimp only at hrun
    rw [hd, Bool.not_true, if_neg Bool.false_ne_true] at hrun
    have hmem : (freeGroup s gid).mem = s.mem := (congrArg State.mem hf :)
    have hla : (freeGroup s gid).launches = s.launches := (congrArg State.launches hf :)
    cases hl : tfind s.launches gr.lid with
    | none =>
      rw [hla, hl] at hrun
      exact ⟨_, hrun, hgone, hreset, hmem, fun l h => nomatch h⟩
    | some l =>
      rw [hla, hl] at hrun
      refine ⟨_, hrun, ?_, fun g hgm => ?_, ?_, fun l' h => ?_⟩
      · split <;> exact hgone
      · split <;> exact hreset g hgm
      · split <;> exact hmem
      · cases h
        split <;> exact tfind_tset_self ..
  · refine (exec_launchComplete ..).trans ?_
    unfold execLaunchComplete
    rw [hl]
    dsimp only
    rw [hn, hr, hdead, ho, hst, hc]
    simp
  · refine (exec_launchComplete ..).trans ?_
    unfold execLaunchComplete
    rw [hl]
    dsimp only
    rw [hdn, ha]
    dsimp only
    rw [if_pos he]
    rfl

end Sys2Proof.Machine
end

section
/-!
PROOFS. Writes of hardware that find their bytes good; packets taken from their queues, groups placed (R154, R163 to R167, R273, R342).
-/
namespace Sys2Proof.Machine
open Sys2Proof.Claims

/-! Words of 8 bytes. -/

theorem natOfBytes_of_number (n m : Nat) :
    natOfBytes ((List.range n).map fun i => BitVec.ofNat 8 (m / 2 ^ (8 * i))) = m % 2 ^ (8 * n) := by
  induction n generalizing m with
  | zero => simp [natOfBytes, Nat.mod_one]
  | succ n ih =>
    rw [List.range_succ_eq_map, List.map_cons, List.map_map]
    have hs : (fun i => BitVec.ofNat 8 (m / 2 ^ (8 * i))) ∘ Nat.succ = fun i => BitVec.ofNat 8 (m / 256 / 2 ^ (8 * i)) := by
      funext i
      rw [Function.comp_apply, Nat.succ_eq_add_one, Nat.mul_add, Nat.add_comm, Nat.pow_add, ← Nat.div_div_eq_div_mul]
    rw [hs]
    change natOfBytes ((List.range n).map fun i => BitVec.ofNat 8 (m / 256 / 2 ^ (8 * i))) * 256 + _ = _
    rw [ih, BitVec.toNat_ofNat, Nat.mul_add, Nat.add_comm (8 * n), Nat.pow_add, Nat.mod_mul]
    simp only [Nat.mul_zero, Nat.pow_zero, Nat.div_one, Nat.mul_one, Nat.reducePow]
    omega

theorem natOfBytes_bytesOf {w : Nat} (x : BitVec w) (n : Nat) : natOfBytes ((List.range n).map (byteAt x)) = x.toNat % 2 ^ (8 * n) := by
  rw [← natOfBytes_of_number]
  refine congrArg natOfBytes (List.map_congr_left fun i _ => BitVec.eq_of_toNat_eq ?_)
  rw [toNat_byteAt, BitVec.toNat_ofNat]

theorem mread8_of_bytes {s : State} {a : Nat} {x : Word64} (h : ∀ i, i < 8 → mread s (a + i) = byteAt x i) : mread8 s a = x := by
  have hl : mreadN s a 8 = (List.range 8).map (byteAt x) := List.map_congr_left fun i hi => h i (List.mem_range.mp hi)
  unfold mread8
  rw [hl, natOfBytes_bytesOf]
  apply BitVec.eq_of_toNat_eq
  simpa using x.isLt

/-! Writes of hardware that find their bytes good. -/

/-- A byte of tier 0 or 1 that hardware can read and write at once here (R163, R183, R206). -/
def hwByte (s : State) (a : Nat) : Prop :=
  (tierOf a = some 0 ∨ tierOf a = some 1) ∧ inSpoiled s a = false ∧ stopped s a = false

theorem hwRead_bytes {s : State} {a n x : Nat} (h : hwRead s a n = some x) {i : Nat} (hi : i < n) : hwByte s (a + i) := by
  unfold hwRead at h
  dsimp only at h
  rw [Option.ite_none_right_eq_some, List.all_eq_true] at h
  have := h.1 (a + i) (List.mem_map.mpr ⟨i, List.mem_range.mpr hi, rfl⟩)
  simpa [hwByte, and_assoc] using this

theorem writeCells_good {s : State} {wr : List WCell} (h : ∀ c ∈ wr, inSpoiled s c.pa = false) :
    writeCells s wr = some (wr.foldl writeCell s) := by
  have hs : spoiledTouched s wr = [] := by
    unfold spoiledTouched
    rw [List.map_eq_nil_iff, List.filter_eq_nil_iff]
    intro w hw
    rw [List.any_eq_true]
    rintro ⟨c, hc, he⟩
    cases hecc : eccWord c.pa with
    | none => simp [hecc] at he
    | some y =>
      have hm : s.spoiled.contains y.1 = false := by
        have := h c hc
        unfold inSpoiled at this
        rwa [hecc] at this
      have hy : y.1 = w := by simpa [hecc] using he
      rw [hy] at hm
      simp [hw] at hm
  have h0 : ({ s with spoiled := s.spoiled.filter fun w => !(([] : List (Nat × Bool)).any fun x => x.1 == w) } : State) = s :=
    congrArg (fun l => { s with spoiled := l }) (List.filter_eq_self.mpr fun _ _ => rfl)
  rw [writeCells, hs]
  simp only [List.all_nil, if_true]
  rw [h0]

theorem foldl_writeCell_cellsAt (s : State) (a : Nat) (l : List Byte) : (cellsAt a l).foldl writeCell s = mwriteL s a l := by
  have hgen (l : List Byte) : ∀ (s : State) (k : Nat),
      (((List.range' k l.length).zip l).map fun x => ({ pa := a + x.1, val := x.2, msk := 0xFF } : WCell)).foldl writeCell s =
        mwriteL s (a + k) l := by
    induction l with
    | nil => intro s k; rfl
    | cons b l ih =>
      intro s k
      rw [List.length_cons, List.range'_succ, List.zip_cons_cons, List.map_cons, List.foldl_cons, writeCell_whole, ih, mwriteL_cons]
      rfl
  unfold cellsAt
  rw [List.range_eq_range', hgen l s 0, Nat.add_zero]

theorem mem_cellsAt {a : Nat} {l : List Byte} {c : WCell} (h : c ∈ cellsAt a l) : ∃ i, i < l.length ∧ c.pa = a + i := by
  unfold cellsAt at h
  obtain ⟨x, hx, rfl⟩ := List.mem_map.mp h
  exact ⟨x.1, List.mem_range.mp (List.of_mem_zip hx).1, rfl⟩

theorem hwPut_good {s : State} {a : Nat} {l : List Byte} (hm : ∀ i, i < l.length → migFrame s (a + i) = false)
    (hb : ∀ i, i < l.length → hwByte s (a + i)) : hwPut s a l = mwriteL s a l := by
  have hmig : ((cellsAt a l).find? fun c => migFrame s c.pa) = none := by
    rw [List.find?_eq_none]
    intro c hc
    obtain ⟨i, hi, he⟩ := mem_cellsAt hc
    rw [he, hm i hi]
    exact Bool.false_ne_true
  have hany : ((cellsAt a l).any fun c => stopped s c.pa || !(tierOf c.pa == some 0 || tierOf c.pa == some 1)) = false := by
    rw [List.any_eq_false]
    intro c hc
    obtain ⟨i, hi, he⟩ := mem_cellsAt hc
    obtain ⟨ht, -, hs⟩ := hb i hi
    rw [he, hs]
    rcases ht with ht | ht <;> rw [ht] <;> decide
  have hsp : ∀ c ∈ cellsAt a l, inSpoiled s c.pa = false := fun c hc => by
    obtain ⟨i, hi, he⟩ := mem_cellsAt hc
    rw [he]
    exact (hb i hi).2.1
  unfold hwPut hwWrite hwWriteHere
  rw [hmig]
  dsimp only
  rw [hany, if_neg Bool.false_ne_true, writeCells_good hsp, Option.getD_some, foldl_writeCell_cellsAt]

theorem migFrame_of_frame {s : State} {a b : Nat} (h : a / 2 ^ 16 = b / 2 ^ 16) : migFrame s a = migFrame s b := by
  unfold migFrame migVf
  rw [h]

/-! Slots of a ring. -/

theorem ringRead_bytes {s : State} {n : QName} {a len x : Nat} (hm : migFrame s a = false) (h : ringRead s n a len = .bytes x) :
    hwRead s a len = some x := by
  unfold ringRead at h
  rw [hm, if_neg Bool.false_ne_true] at h
  split at h
  · cases h
  · next heq =>
    split at h
    · cases h
      exact heq
    · cases h

/-- What a look at a queue has found where it finds a packet: the descriptor and the slot are aligned and have been read. -/
theorem queuePeek_slot {s : State} {n : QName} {d : Nat} {p : Flit} {idx a : Nat} (h : queuePeek s n d = .slot p idx a) :
    d % 64 = 0 ∧ a % 64 = 0 ∧ (∃ x, ringRead s n d 64 = .bytes x) ∧ ∃ x, ringRead s n a 64 = .bytes x := by
  unfold queuePeek at h
  split at h
  · cases h
  · next hd =>
    have hd64 : d % 64 = 0 := by
      simp only [Bool.or_eq_true, not_or] at hd
      simpa using hd.2
    split at h
    · cases h
    · cases h
    · next x hx =>
      dsimp only at h
      split at h
      · split at h <;> cases h
      · split at h
        · cases h
        · split at h
          · cases h
          · next hring =>
            have hr64 : x / 2 ^ (64 * 2) % 2 ^ 64 % 2 ^ 57 % 64 = 0 := by
              simp only [Bool.or_eq_true, not_or] at hring
              simpa using hring.2
            split at h
            · split at h <;> cases h
            · split at h
              · cases h
              · cases h
              · next y hy =>
                split at h
                · split at h <;> cases h
                · cases h
                  exact ⟨hd64, by omega, ⟨x, hx⟩, ⟨y, hy⟩⟩

theorem hwPut_frame (s : State) (a : Nat) (l : List Byte) : ∃ m p i x g,
    hwPut s a l = { s with mem := m, spoiled := p, ids := i, txns := x, agenda := g } := hwWrite_frame ..

theorem queueTake_frame (s : State) (n : QName) (d idx a : Nat) : ∃ m p i x g,
    queueTake s n d idx a = { dispForget s n.key with mem := m, spoiled := p, ids := i, txns := x, agenda := g } := by
  unfold queueTake
  obtain ⟨m, p, i, x, g, h⟩ := hwPut_frame (dispForget s n.key) a [0]
  obtain ⟨m', p', i', x', g', h'⟩ := hwPut_frame (hwPut (dispForget s n.key) a [0]) (d + 8) (bytesOf (BitVec.ofNat 64 (idx + 1)) 8)
  rw [h] at h'
  exact ⟨m', p', i', x', g', by rw [h]; exact h'⟩

/-- A slot that has been read is taken: its KIND is 0, and RIDX lies past it. -/
theorem queueTake_writes {s : State} {n : QName} {d idx a : Nat} (hd64 : d % 64 = 0) (ha64 : a % 64 = 0)
    (hd : ∀ i, i < 64 → hwByte s (d + i)) (ha : ∀ i, i < 64 → hwByte s (a + i))
    (hmd : migFrame s d = false) (hma : migFrame s a = false) :
    mread8 (queueTake s n d idx a) (d + 8) = BitVec.ofNat 64 (idx + 1) ∧ mread (queueTake s n d idx a) a = 0 := by
  have h1 : hwPut (dispForget s n.key) a [0] = mwrite (dispForget s n.key) a 0 := by
    refine hwPut_good (fun i hi => ?_) fun i hi => ha i (by simp at hi; omega)
    have hi : i = 0 := by simpa using hi
    exact hi ▸ hma
  have h2 : hwPut8 (mwrite (dispForget s n.key) a 0) (d + 8) (BitVec.ofNat 64 (idx + 1)) =
      mwrite8 (mwrite (dispForget s n.key) a 0) (d + 8) (BitVec.ofNat 64 (idx + 1)) := by
    refine hwPut_good (fun i hi => ?_) fun i hi => ?_
    · rw [bytesOf_length] at hi
      exact (migFrame_of_frame (s := s) (b := d) (by omega)).trans hmd
    · rw [bytesOf_length] at hi
      have := hd (8 + i) (by omega)
      rw [← Nat.add_assoc] at this
      exact this
  unfold queueTake
  rw [h1, h2]
  refine ⟨mread8_of_bytes fun i hi => ?_, ?_⟩
  · rw [mread_mwrite8, if_pos (by omega), Nat.add_sub_cancel_left]
  · rw [mread_mwrite8, if_neg (by omega), mread_mwrite_self]

/-! The dispatcher. -/

theorem checkLaunch_ok {s : State} {lid : Nat} {l : Launch} (h : validate s l.q l.pkt = (0, none)) :
    tfind (checkLaunch s lid l).launches lid = some { l with checked := true } := by
  unfold checkLaunch
  dsimp only
  rw [h]
  exact tfind_tset_self ..

theorem foldl_setCtx_frame (f : State → Nat × Nat → Ctx) (l : List (Nat × Nat)) (s : State) :
    ∃ c, l.foldl (fun s x => setCtx s x.1 (f s x)) s = { s with ctxs := c } := by
  induction l generalizing s with
  | nil => exact ⟨_, rfl⟩
  | cons x l ih =>
    obtain ⟨c, hc⟩ := ih (setCtx s x.1 (f s x))
    exact ⟨c, hc⟩

theorem rdcAcquireAll_frame (s : State) (d v : Nat) : ∃ r x c, rdcAcquireAll s d v = { s with rdc := r, txns := x, ctxs := c } :=
  ⟨_, _, _, rfl⟩

/-- The record of a group that is placed. -/
def placedGroup (lid : Nat) (l : Launch) (clu : Nat) (fit : List Nat × Nat × List Nat) : Group :=
  { cluster := clu, lid := lid, index := l.next, ctxs := fit.1, base := fit.2.1, size := pkScr l.pkt,
    slots := fit.2.2, vf := l.vf, part := l.part, code := pkCode l.pkt, codelen := pfld l.pkt 6 0 32,
    shape := pkShape l.pkt, dead := false }

theorem placeGroup_frame (s : State) (lid : Nat) (l : Launch) (clu : Nat) (fit : List Nat × Nat × List Nat) :
    ∃ c r x k, placeGroup s lid l clu fit = { s with
      ids := s.ids + 1, ctxs := c, rdc := r, txns := x, clusters := k,
      groups := tset s.groups s.ids (placedGroup lid l clu fit), launches := tset s.launches lid { l with next := l.next + 1 } } := by
  unfold placeGroup fresh
  dsimp only
  obtain ⟨c, hc⟩ := foldl_setCtx_frame (fun u x => startCtx u s.ids (placedGroup lid l clu fit) l.pkt x.2 x.1)
    fit.1.zipIdx { s with ids := s.ids + 1, groups := tset s.groups s.ids (placedGroup lid l clu fit),
                          launches := tset s.launches lid { l with next := l.next + 1 } }
  refine ⟨_, _, _, _, congrArg (fun u => modClu (rdcAcquireAll u (dieOfClu clu) l.vf) clu fun c =>
    { c with bars := fit.2.2.foldl (fun b k => tset b k { gid := s.ids, exp := fit.1.length, arr := 0, phase := false }) c.bars }) hc⟩

/-- The launch of a packet that is taken, and the state in which it stands in the table. -/
def launchOf (s : State) (q : Nat) (p : Flit) (idx : Nat) : Launch :=
  { q := q, ridx := idx, pkt := p, vf := lqVf s q, part := lqPart s q, next := 0, retired := 0, done := false, dead := false,
    checked := false }
def launchEntered (s : State) (q : Nat) (l : Launch) : State :=
  { s with ids := s.ids + 1, launches := tset s.launches s.ids l, disp := { s.disp with fresh := tdel s.disp.fresh q } }

theorem takePacket_slot {q : Nat} {s : State} {p : Flit} {idx a : Nat} (h : queuePeek s (lqName s q) (lqDesc s q) = .slot p idx a)
    (hm : mayBegin s q p = true) :
    takePacket s q = checkLaunch (queueTake (launchEntered s q (launchOf s q p idx)) (lqName s q) (lqDesc s q) idx a) s.ids
      (launchOf s q p idx) := by
  unfold takePacket
  dsimp only
  rw [h]
  dsimp only
  rw [hm, Bool.not_true, if_neg Bool.false_ne_true]
  rfl

theorem exec_launchPacketTake_new {q : Nat} {s : State} (hq : q < 256) (he : rbit s (lqcfg q) 0 = true) (hf : tableFull s = false)
    (hu : unchecked s q = none) : exec (.launchPacketTake q) s = .next (takePacket s q) := by
  refine (exec_launchPacketTake ..).trans ?_
  unfold execLaunchPacketTake
  rw [hu, he, hf]
  simp [hq]

theorem exec_stewardPacketTake_new {n : Nat} {s : State} (hn : n < 5) (he : rbit s (sqcfg n) 0 = true)
    (hl : launchesOf s (256 + n) = []) : exec (.stewardPacketTake n) s = .next (takePacket s (256 + n)) := by
  refine (exec_stewardPacketTake ..).trans ?_
  unfold execStewardPacketTake
  dsimp only
  rw [hl, he]
  simp [hn]

/-- The next packet of either kind of queue is looked at. -/
theorem exec_packetTake_new {q : Nat} {s : State}
    (h : q < 256 ∧ rbit s (lqcfg q) 0 = true ∧ tableFull s = false ∧ unchecked s q = none ∨
      256 ≤ q ∧ q < 261 ∧ rbit s (sqcfg (q - 256)) 0 = true ∧ launchesOf s q = []) :
    exec (if q < 256 then .launchPacketTake q else .stewardPacketTake (q - 256)) s = .next (takePacket s q) := by
  rcases h with ⟨hq, he, hf, hu⟩ | ⟨hq, hq5, he, hl⟩
  · rw [if_pos hq]
    exact exec_launchPacketTake_new hq he hf hu
  · have hn : 256 + (q - 256) = q := by omega
    rw [if_neg (by omega), exec_stewardPacketTake_new (by omega) he (hn.symm ▸ hl), hn]

theorem exec_dispatchStep_some {s : State} {l : Nat × Launch} {c : Nat} {f : List Nat × Nat × List Nat}
    (hc : s.disp.lastAt + 2 ≤ s.clock) (hs : started s = true)
    (hf : ((eligible s).findSome? fun l =>
      (afterIn (partClusters s l.2.part) (lastClu s l.2.part)).findSome? fun c =>
        (fitOn s c l.2.pkt l.2.vf).map fun f => (l, c, f)) = some (l, c, f)) :
    exec .dispatchStep s = .next { placeGroup s l.1 l.2 c f with disp := { (placeGroup s l.1 l.2 c f).disp with
      lastQ := tset (placeGroup s l.1 l.2 c f).disp.lastQ (pkPrio l.2.pkt) l.2.q, lastAt := s.clock,
      lastC := tset (placeGroup s l.1 l.2 c f).disp.lastC (partKey s l.2.part) c } } := by
  refine (exec_dispatchStep ..).trans ?_
  unfold execDispatchStep
  rw [hs, decide_eq_false (by omega), Bool.not_true, Bool.or_false, if_neg Bool.false_ne_true, hf]

theorem chanCmds_rdcAcquireAll (s : State) (d v k : Nat) : chanCmds (rdcAcquireAll s d v) k = chanCmds s k := rfl
theorem rdcAcquireAll_ids (s : State) (d v : Nat) : (rdcAcquireAll s d v).ids = s.ids := rfl

theorem exec_sharedCopyPacketTake_slot {q : Nat} {s : State} {p : Flit} {idx a : Nat} (he : rbit s (cqcfg q) 0 = true)
    (hf : chanFull s (queueKey q) = false) (hv : copyValid p true = true) :
    let vf := rfld s (cqcfg q) 1 7
    let d := rfld s (cqcfg q) 16 41 * 2 ^ 16
    let name : QName := { reg := cqcfg q, kind := 1, q := q, vf := vf }
    queuePeek s name d = .slot p idx a →
    let s1 := rdcAcquireAll (queueTake s name d idx a) (dieOfClu (chanClu s (queueKey q))) vf
    exec (.sharedCopyPacketTake q) s = .next (setChan { s1 with ids := s1.ids + 1 } (queueKey q)
      (chanCmds s1 (queueKey q) ++ [{ CCmd.blank s1.ids 1 noCtx p with vf := vf, cidx := idx % 2 ^ 32 }])) := by
  intro vf d name hp s1
  refine (exec_sharedCopyPacketTake ..).trans ?_
  unfold execSharedCopyPacketTake
  dsimp only
  rw [he, hf, hp]
  dsimp only
  rw [hv]
  rfl

/-- Settles O40. -/
theorem packetsAndPlacement : Obligations.PacketsAndPlacement := by
  refine ⟨fun q s p idx a hp hm => ?_, fun s l c f hc hs hf => ?_, fun n lid s l r hl hc hn hs => ?_, fun q s p idx a he hf => ?_⟩
  · intro i hq l entered taken
    have hrun : exec i s = .next (checkLaunch taken s.ids l) :=
      (exec_packetTake_new hq).trans (congrArg Host.Outcome.next (takePacket_slot hp hm))
    obtain ⟨hd64, ha64, ⟨x, hx⟩, y, hy⟩ := queuePeek_slot hp
    refine ⟨hrun, fun hmd hma => ?_, fun hv => ⟨_, hrun, checkLaunch_ok hv⟩⟩
    have hd : ∀ i, i < 64 → hwByte s (lqDesc s q + i) := fun i hi => hwRead_bytes (ringRead_bytes hmd hx) hi
    have ha : ∀ i, i < 64 → hwByte s (a + i) := fun i hi => hwRead_bytes (ringRead_bytes hma hy) hi
    exact queueTake_writes (s := entered) hd64 ha64 hd ha hmd hma
  · obtain ⟨cs, r, x, k, hp⟩ := placeGroup_frame s l.1 l.2 c f
    refine ⟨_, exec_dispatchStep_some hc hs hf, ?_, fun part hpart => ?_, rfl,
      ⟨placedGroup l.1 l.2 c f, ?_, rfl, rfl, rfl, rfl, rfl⟩, ?_⟩
    · rw [hp]
      exact tget_tset_self ..
    · rw [hp]
      exact tget_tset_ne _ _ _ hpart
    · rw [hp]
      exact tfind_tset_self ..
    · rw [hp]
      exact tfind_tset_self ..
  · refine (exec_stewardPacketTake ..).trans ?_
    unfold execStewardPacketTake
    dsimp only
    rw [hl]
    dsimp only
    rw [hc, hs]
    simp [hn]
  · intro vf d name hp hv
    refine ⟨_, exec_sharedCopyPacketTake_slot he hf hv hp, ?_⟩
    obtain ⟨m, sp, i, x, g, hq⟩ := queueTake_frame s name d idx a
    have hch : chanCmds (queueTake s name d idx a) (queueKey q) = chanCmds s (queueKey q) := by
      rw [hq]
      rfl
    rw [chanCmds_setChan_self, chanCmds_rdcAcquireAll, hch, rdcAcquireAll_ids]

end Sys2Proof.Machine
end

section
/-!
PROOFS. The launch engine (R164, R174, R309, R312, R317) and the copy channels (R268 to R278).
-/
namespace Sys2Proof.Machine
open Sys2Proof.Claims

/-! The launch engine. -/

section
variable {core id : Nat} {s : State} {c : LCmd} (hf : lengFind s core id = some c)
include hf

theorem execLaunchEngineAppend_begin (h0 : c.stage = 0) (he : earlierDone s c.g c.seq = true) (hb : lengBehind s core c = false)
    {h : HWord} {pa : Nat} (hd : lengDesc s c = .ok (h, pa)) :
    execLaunchEngineAppend core id s = .next (lengSend s core c 1 { lengTxn s core c .atomic h pa 8 with add := 1 }) := by
  unfold execLaunchEngineAppend
  rw [hf]
  dsimp only
  rw [if_pos h0, he, hb, hd]
  rfl

theorem execLaunchEngineAppend_answer (h0 : c.stage ≠ 0) {tid : Nat} {t : Txn} (ha : lengAnswer s c = some (tid, t)) (he : t.err = 0)
    (hd : c.stage = 3 ∧ t.peer.isSome = true → dieStores s (dieOfCore core) = false) :
    execLaunchEngineAppend core id s = .next (appendNext (delTxn s tid) core c t) := by
  have hwait : (c.stage = 3 && t.peer.isSome && dieStores s (dieOfCore core)) = false := by
    rw [Bool.and_eq_false_imp]
    exact fun h => hd (by simpa using h)
  unfold execLaunchEngineAppend
  rw [hf]
  dsimp only
  rw [if_neg h0, ha]
  dsimp only
  rw [if_neg (not_not_intro he), hwait, if_neg Bool.false_ne_true]

theorem counterStep_begin {begin' : LCmd → HWord → Nat → Txn} {ready : LCmd → Bool} (h0 : c.stage = 0)
    (he : earlierDone s c.g c.seq = true) (hr : ready c = true) (hb : lengBehind s core c = false) {h : HWord} {pa : Nat}
    (hc : counterAt s (c.who s) true c.a.toNat = .ok (h, pa)) :
    counterStep core id begin' ready s = .next (lengSend s core c 1 (begin' c h pa)) := by
  unfold counterStep
  rw [hf]
  dsimp only
  rw [if_pos h0, he, hr, hb, hc]
  rfl

theorem counterStep_answer {begin' : LCmd → HWord → Nat → Txn} {ready : LCmd → Bool} (h0 : c.stage ≠ 0) {tid : Nat} {t : Txn}
    (ha : lengAnswer s c = some (tid, t)) (he : t.err = 0) :
    counterStep core id begin' ready s = .next (lengDrop (delTxn s tid) core id) := by
  unfold counterStep
  rw [hf]
  dsimp only
  rw [if_neg h0, ha]
  dsimp only
  rw [if_neg (not_not_intro he)]

theorem execShdwPerform_none (h0 : c.stage = 0) (he : earlierDone s c.g c.seq = true) (hn : c.b.toNat % 2 ^ 20 = 0) :
    execShdwPerform core id s = .next (lengDrop (rsetF s (twr (vfOf s c.g) (c.a.toNat % 16)) 0 1 0) core id) := by
  unfold execShdwPerform
  rw [hf]
  dsimp only
  rw [h0, he, hn]
  rfl

end

/-- Settles O41. -/
theorem launchEngineWorks : Obligations.LaunchEngineWorks := by
  refine fun core id s c hf => ⟨fun h0 he hb => ⟨fun h pa hd => ?_, fun h pa hc => ⟨fun hst => ?_, ?_⟩, fun hn => ?_⟩,
    fun tid t h0 ha he => ⟨fun hd => ?_, ?_, ?_⟩⟩
  · exact (exec_launchEngineAppend ..).trans (execLaunchEngineAppend_begin hf h0 he hb hd)
  · exact (exec_counterAddPerform ..).trans (counterStep_begin hf h0 he (by rw [hst]; rfl) hb hc)
  · exact (exec_counterSetPerform ..).trans (counterStep_begin hf h0 he rfl hb hc)
  · exact (exec_shdwPerform ..).trans (execShdwPerform_none hf h0 he hn)
  · exact (exec_launchEngineAppend ..).trans (execLaunchEngineAppend_answer hf h0 ha he hd)
  · exact (exec_counterAddPerform ..).trans (counterStep_answer hf h0 ha he)
  · exact (exec_counterSetPerform ..).trans (counterStep_answer hf h0 ha he)

/-! Parts and ends of commands. -/

theorem execCopyPartLand_answered {id k cid : Nat} {s : State} {t : Txn} {c : CCmd} (ht : getTxn s id = some t) (ho : t.out = true)
    (hs : t.src = .chan k cid) (hc : findCmd s k cid = some c) : execCopyPartLand id s = .next (partLanded s k c id t) := by
  unfold execCopyPartLand
  rw [ht]
  dsimp only
  rw [if_pos ho, hs]
  dsimp only
  rw [hc]

theorem execCopyPartLand_passes {id : Nat} {s s1 : State} {t : Txn} (h : passes s id .store t) (hb : withBanks s t = some s1) :
    execCopyPartLand id s = .next (performStore (served s1 t) id t) := by
  have hhome := atHome_passes (f := fun s t => performStore (served s t) id t) h hb
  obtain ⟨ht, -, -, ho, -⟩ := h
  unfold execCopyPartLand
  rw [ht]
  dsimp only
  rw [ho, if_neg Bool.false_ne_true, hhome]

section
variable {chan id : Nat} {s : State} {c : CCmd} (hf : findCmd s chan id = some c) (hp : c.parts = []) (hca : c.carried = false)
  (hpk : c.parked = false) (hs : c.allSent s = true) (hn : c.fault = none) (hpost : c.posted = true ∨ c.counter = 0)

include hp hca hpk hs in
theorem CCmd.quiet_of : c.quiet s = true := by
  unfold CCmd.quiet
  rw [hp, hca, hpk, hs]
  rfl

include hn hpost in
theorem finishCmd_ends : finishCmd s chan c = endCmd s chan c := by
  unfold finishCmd
  rw [hn]
  dsimp only
  rw [if_pos (by simpa using hpost)]

include hf hp hca hpk hs hn hpost

theorem execCopyComplete_ends (hk : c.kind ≠ 2) : execCopyComplete chan id s = .next (endCmd s chan c) := by
  unfold execCopyComplete
  rw [hf]
  dsimp only
  rw [CCmd.quiet_of hp hca hpk hs, Bool.not_true, if_neg Bool.false_ne_true, if_neg hk, finishCmd_ends hn hpost]

theorem execPutComplete_ends : execPutComplete chan id s = .next (endCmd s chan c) := by
  unfold execPutComplete
  rw [hf]
  dsimp only
  rw [CCmd.quiet_of hp hca hpk hs, if_pos rfl, finishCmd_ends hn hpost]

end

/-! A feed fills its stream's next entry. -/

theorem natOfBytes_elem (l : List Byte) (b : Nat) : natOfBytes l / 2 ^ (8 * b) % 256 = (l.getD b 0).toNat := by
  induction l generalizing b with
  | nil => simp [natOfBytes]
  | cons x l ih =>
    have hx : x.toNat < 256 := x.isLt
    have hcons : natOfBytes (x :: l) = natOfBytes l * 256 + x.toNat := rfl
    rw [hcons]
    cases b with
    | zero => simp; omega
    | succ b =>
      have he : 8 * (b + 1) = 8 + 8 * b := by omega
      rw [he, Nat.pow_add, ← Nat.div_div_eq_div_mul, List.getD_cons_succ, ← ih]
      congr 2
      omega

theorem byteAt_ofNat_natOfBytes {w : Nat} {l : List Byte} (h : 8 * l.length ≤ w) (b : Nat) :
    byteAt (BitVec.ofNat w (natOfBytes l)) b = l.getD b 0 := by
  have hlt : natOfBytes l < 2 ^ w := by
    refine Nat.lt_of_lt_of_le (natOfBytes_lt l) ?_
    rw [show 256 = 2 ^ 8 from rfl, ← Nat.pow_mul]
    exact Nat.pow_le_pow_right (by decide) h
  apply BitVec.eq_of_toNat_eq
  rw [toNat_byteAt, BitVec.toNat_ofNat, Nat.mod_eq_of_lt hlt, natOfBytes_elem]

theorem askDone_frame (s : State) (k id : Nat) : ∃ a, askDone s k id = { s with agenda := a } := by
  unfold askDone
  split <;> exact ⟨_, rfl⟩

theorem modCmd_frame (s : State) (k id : Nat) (f : CCmd → CCmd) : ∃ c, modCmd s k id f = { s with chans := c } := ⟨_, rfl⟩

/-- The entry with which a feed goes on: n bytes of the tile from byte 128 j on. -/
def feedEntry (s : State) (c : CCmd) (j n : Nat) : BitVec 1024 × Option Nat :=
  (BitVec.ofNat 1024 (natOfBytes ((List.range n).map fun b => tget 0 c.buf (128 * j + b))),
    feedFmt s c ((List.range n).findSome? fun b => ((tileOf c.pkt).byteAt c.srcVa c.dstVa (128 * j + b)).1))

theorem byteAt_feedEntry (s : State) (c : CCmd) (j : Nat) {n : Nat} (hn : n ≤ 128) (b : Nat) :
    byteAt (feedEntry s c j n).1 b = if b < n then tget 0 c.buf (128 * j + b) else 0 := by
  unfold feedEntry
  rw [byteAt_ofNat_natOfBytes (by simpa using Nat.mul_le_mul_left 8 hn)]
  split
  · next h => rw [List.getD_eq_getElem?_getD, List.getElem?_map, List.getElem?_range h]; rfl
  · next h => rw [List.getD_eq_getElem?_getD, List.getElem?_eq_none (by simpa using h)]; rfl

theorem getStream_fed (s : State) (x : Nat × Nat) (f : Stream → Stream) (k id g : Nat) (h : CCmd → CCmd) (u : Ctx → Ctx) :
    getStream (askDone (modCtx (modCmd (modStream s x f) k id h) g u) k id) x = f (getStream s x) := by
  obtain ⟨a, ha⟩ := askDone_frame (modCtx (modCmd (modStream s x f) k id h) g u) k id
  rw [ha]
  exact getStream_modStream_self s x f

theorem execFeederEntryFill_fills {slot k id j n : Nat} {s : State} {st : Stream} {r : List (Nat × Nat)} {c : CCmd}
    (hst : getStream s (slot / 16, slot % 16) = st) (hj : st.filled - c.entry = j)
    (hn : min 128 ((tileOf c.pkt).bytes - 128 * j) = n)
    (hf : st.feeds = (k, id) :: r) (hc : findCmd s k id = some c) (hx : c.next ≠ 0)
    (hca : c.carried = false) (hfa : c.fault = none) (h0 : n ≠ 0) (hroom : st.room st.filled = true)
    (hbuf : ∀ b, b < n → (tfind c.buf (128 * j + b)).isSome = true) :
    ∃ t, execFeederEntryFill slot s = .next t ∧ getStream t (slot / 16, slot % 16) =
      { st with entries := tset st.entries st.filled (feedEntry s c j n), filled := st.filled + 1 } := by
  have hent : ¬ c.entries ≤ j := by
    unfold CCmd.entries
    omega
  have hhave : ((List.range n).all fun b => (tfind c.buf (128 * j + b)).isSome) = true :=
    List.all_eq_true.mpr fun b hb => hbuf b (List.mem_range.mp hb)
  have hlim : ¬ (tileOf c.pkt).bytes < 128 * j + n := by omega
  unfold execFeederEntryFill
  dsimp only
  rw [hst, hf]
  dsimp only
  rw [hc]
  dsimp only
  rw [hfa, hj, hn, hca, hroom, hhave, decide_eq_false hx, decide_eq_false hent]
  dsimp only
  rw [decide_eq_false hlim, if_neg (by decide)]
  refine ⟨_, rfl, ?_⟩
  rw [getStream_fed, hst, ← hf]
  rfl

/-- Settles O42. -/
theorem channelsWork : Obligations.ChannelsWork := by
  refine ⟨fun chan s s1 ht hi => ?_, fun id s t => ⟨fun s1 hp hb => ?_, fun k cid c ht ho hs hc => ?_⟩,
    fun chan id s c hf hp hca hpk hs hn hpost => ⟨fun hk => ?_, ?_⟩, fun slot k id s r c => ?_⟩
  · refine (exec_enginePartIssue ..).trans ?_
    unfold execEnginePartIssue
    dsimp only
    rw [if_neg (by omega), hi, Option.getD_some]
  · exact (exec_copyPartLand ..).trans (execCopyPartLand_passes hp hb)
  · exact (exec_copyPartLand ..).trans (execCopyPartLand_answered ht ho hs hc)
  · exact (exec_copyComplete ..).trans (execCopyComplete_ends hf hp hca hpk hs hn hpost hk)
  · exact (exec_putComplete ..).trans (execPutComplete_ends hf hp hca hpk hs hn hpost)
  · intro x st j hfeeds hc _ hx hca hn n h0 hroom hbuf
    obtain ⟨t, ht, hst⟩ := execFeederEntryFill_fills rfl rfl rfl hfeeds hc hx hca hn h0 hroom hbuf
    refine ⟨t, (feedEntry s c j n).1, (feedEntry s c j n).2, (exec_feederEntryFill ..).trans ht, ?_, ?_,
      fun b _ => byteAt_feedEntry s c j (Nat.min_le_left ..) b⟩
    · rw [hst]
    · rw [hst]
      exact tfind_tset_self ..

end Sys2Proof.Machine
end

section
/-!
PROOFS. Rings and batches (R282, R351 to R353), and what the hardware reports of itself (R183, R206, R301, R364, R370, R379).
-/
namespace Sys2Proof.Machine
open Sys2Proof.Claims

/-! Rings and batches. -/

theorem execFaultResume_of {vf ix : Nat} {s : State} {r : RangeRec}
    (h : (s.faults.ranges.find? fun r => r.vf == vf && r.ix == ix) = some r) :
    execFaultResume vf ix s = .next (r.cmds.foldl unpark (rsetF
      { s with faults := { s.faults with ranges := s.faults.ranges.filter fun x => !(x.vf == vf && x.ix == ix) } }
      (frcfg vf + 16) 32 16 (rfld s (frcfg vf + 16) 32 16 - r.cmds.length))) := by
  unfold execFaultResume
  rw [h]
  rfl

theorem execFaultRingRoom_quiet {vf : Nat} {s : State} (hw : s.faults.wait = []) (hv : vf < 128)
    (hu : unread s (frcfg vf + 8) < 2 ^ (rfld s (frcfg vf) 1 5 - 2)) :
    execFaultRingRoom vf s = .next (rsetF
      { s with faults := { s.faults with full := tput false s.faults.full vf false } } (frcfg vf + 16) 1 1 0) := by
  unfold execFaultRingRoom
  dsimp only
  rw [hw, writeWaiting]
  simp only [hw, List.any_nil, Bool.false_eq_true, if_false]
  rw [if_pos]
  rw [decide_eq_true hv, Bool.true_and]
  exact decide_eq_true hu

/-- Settles O43. -/
theorem ringsAndBatches : Obligations.RingsAndBatches := by
  refine ⟨fun g i s => rfl, fun vf s hl ht => ?_, fun vf ix s r h => ?_, fun s e he hen hr => ?_, fun vf s hw hv hu => ?_⟩
  · refine (exec_faultBatchFlush ..).trans (if_pos ?_)
    rw [Bool.and_eq_true, Bool.or_eq_true, decide_eq_true_eq, decide_eq_true_eq]
    exact ⟨by simpa using hl, ht⟩
  · exact (exec_faultResume ..).trans (execFaultResume_of h)
  · refine (exec_eventRingRoom ..).trans ?_
    unfold execEventRingRoom
    rw [he]
    simp only [drainEvents, hen, hr, Bool.and_self, if_true]
  · exact (exec_faultRingRoom ..).trans (execFaultRingRoom_quiet hw hv hu)

/-! ALERTs. -/

/-- The slice's count of ALERTs in a row, set, and its counter raised. -/
def alertCounted (s : State) (slice m : Nat) : State :=
  rincHold { s with alerts := tset s.alerts slice m } (mcstat slice) 0 32

theorem execParityAlert_counts {slice : Nat} {again : Bool} {s : State} {m : Nat} (hs : slice < 512)
    (hn : tget 0 s.alerts slice < 4) (hm : (if again then tget 0 s.alerts slice + 1 else 1) = m) (h4 : m < 4) :
    execParityAlert slice again s = .next (alertCounted s slice m) := by
  unfold execParityAlert
  dsimp only
  rw [if_neg (by simp; omega), hm]
  exact if_pos h4

theorem execParityAlert_fourth {slice : Nat} {s : State} (hs : slice < 512) (hn : tget 0 s.alerts slice = 3) :
    execParityAlert slice true s = .next (retire (failBanks (postPlain (rset (alertCounted s slice 4) (mcstat slice + 8)
      (rget (alertCounted s slice 4) (mcstat slice + 8) ||| 1)) 0x0A 0 (BitVec.ofNat 64 slice) 0) slice) slice) := by
  unfold execParityAlert
  dsimp only
  rw [if_neg (by simp; omega), hn]
  rfl

theorem execParityAlert_stopped {slice : Nat} {again : Bool} {s : State} (hn : 4 ≤ tget 0 s.alerts slice) :
    execParityAlert slice again s = .next s := if_pos (by simp [hn])

/-! Links. -/

theorem execInternalLinkFailure_known {die link : Nat} {s : State}
    (h : die = link ∨ s.fab.links.contains (min die link, max die link) = true) : execInternalLinkFailure die link s = .next s :=
  if_pos (by
    rw [Bool.or_eq_true, beq_iff_eq]
    exact h.symm)

theorem execInternalLinkFailure_new {die link : Nat} {s : State} (hd : die ≠ link)
    (h : s.fab.links.contains (min die link, max die link) = false) :
    let s1 := { s with fab := { s.fab with links := s.fab.links ++ [(min die link, max die link)] } }
    execInternalLinkFailure die link s = .next (if pathOk s1 die link then
      postPlain s1 0x10 0 (BitVec.ofNat 64 die) (BitVec.ofNat 64 link) else s1) :=
  if_neg (by
    rw [h, Bool.false_or, beq_iff_eq]
    exact hd)

/-! Errors that cannot be mended. -/

theorem execUncorrectableError_word {s : State} {pa w n : Nat} (h : eccWord pa = some (w, n)) :
    execUncorrectableError (.word pa) s = .next (if s.spoiled.contains w then s else { s with spoiled := w :: s.spoiled }) := by
  unfold execUncorrectableError
  dsimp only
  rw [h]

theorem Routine.halt_second (r : Routine) (cause word : Nat) : (r.halt cause word).second = r.second := by
  unfold Routine.halt
  split <;> rfl

section
variable {s : State} {core : Nat} {r : Routine} {q : Pipe} (hr : (getCore s core).run = some r) (h2 : r.second = none)
  (hq : r.pipe.getLast? = some q)
include hr h2 hq

theorem arrayError_mended : arrayError s core false = setRun (rincHold s (mxctl core + 16) 0 32) core { r with corr := true } := by
  unfold arrayError
  rw [hr]
  dsimp only
  rw [h2, hq]
  rfl

theorem arrayError_again : arrayError s core true = setRun
    (if r.stop.isSome then s else rincHold s (mxctl core + 16) 32 32) core
    { r.halt 0x0F q.word with pipe := r.pipe.dropLast, busy := 0 } := by
  have hs : (r.halt 0x0F q.word).second = none := (r.halt_second ..).trans h2
  unfold arrayError
  rw [hr]
  dsimp only
  rw [h2, hq]
  refine congrArg (setRun _ core) ?_
  rw [← hs]
  rfl

end

/-- Settles O44. -/
theorem hardwareEvents : Obligations.HardwareEvents := by
  refine ⟨fun core s => ?_, fun vf s => rfl, fun slice s hs => ⟨fun hn => ?_, fun hn => ?_, fun hn => ?_, fun hn again => ?_⟩,
    fun die link s => ⟨fun h => ?_, fun hd h => ?_⟩, fun s => ⟨fun pa w n h => ?_, fun die line => rfl, fun core tile word h => ?_,
    fun core r q hr h2 hq => ⟨?_, ?_⟩⟩⟩
  · intro g
    refine (exec_traceSample ..).trans ?_
    unfold execTraceSample
    dsimp only
    rw [← apply_ite Host.Outcome.next]
    refine congrArg Host.Outcome.next (ite_congr (propext ?_) (fun _ => rfl) fun _ => rfl)
    simp [g, and_assoc]
  · exact (exec_parityAlert ..).trans (execParityAlert_counts hs (by omega) (if_pos rfl) (by omega))
  · exact (exec_parityAlert ..).trans (execParityAlert_counts hs hn (if_neg Bool.false_ne_true) (by decide))
  · exact (exec_parityAlert ..).trans (execParityAlert_fourth hs hn)
  · exact (exec_parityAlert ..).trans (execParityAlert_stopped hn)
  · exact (exec_internalLinkFailure ..).trans (execInternalLinkFailure_known h)
  · exact (exec_internalLinkFailure ..).trans (execInternalLinkFailure_new hd h)
  · refine ⟨_, (exec_uncorrectableError ..).trans (execUncorrectableError_word h), ?_, ?_⟩
    · unfold inSpoiled
      rw [h]
      dsimp only
      split
      · next hc => exact hc
      · exact List.elem_cons_self
    · split <;> rfl
  · refine (exec_uncorrectableError ..).trans (congrArg Host.Outcome.next (modCore_congr ?_))
    rw [if_neg (by rw [h]; exact Bool.false_ne_true)]
  · exact (exec_uncorrectableError ..).trans (congrArg Host.Outcome.next (arrayError_mended hr h2 hq))
  · exact (exec_uncorrectableError ..).trans (congrArg Host.Outcome.next (arrayError_again hr h2 hq))

end Sys2Proof.Machine
end

section
/-!
PROOFS. Flits received (R381, R384 to R387, R391, R394, R401).
-/
namespace Sys2Proof.Machine
open Sys2Proof.Claims

/-! What a flit is. -/

theorem flitType_lt (f : Flit) : flitType f < 16 := by
  unfold flitType nf
  exact Nat.mod_lt _ (by decide)

/-- A kind below 0x10 is the flit's TYPE, one of 0x20 and above that of a TREE flit. -/
theorem flitType_of_kind {g : Flit} {k : Nat} (h : flitKind g = k) (hk : k ≠ 0x10) : if k < 0x10 then flitType g = k else flitType g = 0xB := by
  unfold flitKind at h
  have := flitType_lt g
  split at h
  · exact absurd h.symm hk
  · split at h
    · rw [if_neg (by omega)]
      assumption
    · rw [if_pos (by omega)]
      exact h

/-! A flit arrives. -/

/-- An RSACK of MODE 0 is awaited: no sequenced flit is taken (R391). -/
def awaitsRsack (s : State) (p : Nat) : Prop := ∃ x, (getPort s p).stripe = some x ∧ x.mode = 0

section
variable {s : State} {p : Nat} {f g : Flit} {k : Nat} (h : flitIn s p f g k)

theorem mended_eq (s : State) (p : Nat) (f : Flit) : (if (correct f).2.isEmpty then s
      else modPort (rincHold s (rport p + 8) 0 32) p fun q =>
        { q with cb := (((correct f).2.map (laneOfBit (rxMap s p))).eraseDups).foldl (fun t i => tset t i (tget 0 t i + 1)) q.cb }) =
      mended s p f := by
  unfold mended
  exact ite_congr (propext List.isEmpty_iff) (fun _ => rfl) fun _ => rfl

include h

theorem flitIn_enters : (!fabOn s || portState s p = 0 || portState s p = 3 || flitKind (correct f).1 ≠ k) = false := by
  obtain ⟨hon, hg, hkind, h0, h3⟩ := h
  simp [hon, h0, h3, hg, hkind]

theorem receive_fails (hk : k = 0x10) : receive s p f k =
    sendNak (modPort (rincHold (mended s p f) (rport p + 8) 32 32) p fun q => { q with cc := q.cc + 1 }) p := by
  unfold receive
  dsimp only
  rw [flitIn_enters h, if_neg Bool.false_ne_true, if_pos hk, mended_eq]

section
variable (hk : k ≠ 0x10) (ht : typeSequenced (flitType g) = true)
include hk ht

theorem receive_awaiting (hw : awaitsRsack s p) : receive s p f k = taken s p f g := by
  obtain ⟨x, hx, hm⟩ := hw
  have hg := h.2.1
  unfold receive taken
  dsimp only
  rw [flitIn_enters h, if_neg Bool.false_ne_true, if_neg hk, mended_eq, hg, if_pos ht, hx]
  exact if_pos (beq_iff_eq.mpr hm)

theorem receive_sequenced (hw : ¬ awaitsRsack s p) : receive s p f k = sequenced (taken s p f g) p g := by
  have hg := h.2.1
  unfold receive taken
  dsimp only
  rw [flitIn_enters h, if_neg Bool.false_ne_true, if_neg hk, mended_eq, hg, if_pos ht]
  cases hx : (getPort s p).stripe with
  | none => rfl
  | some x =>
    dsimp only
    rw [if_neg fun hm => hw ⟨x, hx, by simpa using hm⟩]

end

/-- An unsequenced flit passes: what is left of it is its own kind's. -/
theorem receive_control (hk : k ≠ 0x10) (ht : typeSequenced (flitType g) = false) {t : State}
    (h0 : k = 0 → takenCtl s p f g = t) (h8 : k = 8 → onNak (takenCtl s p f g) p (flitPayload g) = t)
    (h9 : k = 9 → onRsreq (takenCtl s p f g) p (flitPayload g) = t) (hA : k = 0xA → onRsack (takenCtl s p f g) p = t)
    (hall : k = 0 ∨ k = 8 ∨ k = 9 ∨ k = 0xA) : receive s p f k = t := by
  have hg := h.2.1
  unfold takenCtl taken at h0 h8 h9 hA
  unfold receive
  dsimp only
  rw [flitIn_enters h, if_neg Bool.false_ne_true, if_neg hk, mended_eq, hg, ht, if_neg Bool.false_ne_true]
  rcases hall with rfl | rfl | rfl | rfl
  · exact h0 rfl
  · exact h8 rfl
  · exact h9 rfl
  · exact hA rfl

end

/-! In its turn, ahead of it, or out of it. -/

section
variable {s : State} {p : Nat} {g : Flit} {d : Nat} (hd : (flitSeq g + 4096 - (getPort s p).rxE) % 4096 = d)
include hd

theorem sequenced_turn (h : d = 0) : sequenced s p g = drainHeld p 64 (acceptFlit s p g) := by
  unfold sequenced
  dsimp only
  rw [hd, if_pos h]

theorem sequenced_ahead (h : 0 < d) (h64 : d ≤ 64) (hq : ((getPort s p).reorder.any fun r => r.1 == flitSeq g) = false) :
    sequenced s p g = setPort s p { getPort s p with reorder := (getPort s p).reorder ++ [(flitSeq g, g)] } := by
  unfold sequenced
  dsimp only
  rw [hd, if_neg (by omega), if_pos h64, hq, if_neg Bool.false_ne_true]

theorem sequenced_held (h : 0 < d) (h64 : d ≤ 64) (hq : ((getPort s p).reorder.any fun r => r.1 == flitSeq g) = true) :
    sequenced s p g = s := by
  unfold sequenced
  dsimp only
  rw [hd, if_neg (by omega), if_pos h64, if_pos hq]

theorem sequenced_other (h64 : 64 < d) : sequenced s p g = modPort s p fun q => { q with owe := max q.owe 1 } := by
  unfold sequenced
  dsimp only
  rw [hd, if_neg (by omega), if_neg (by omega)]

end

/-! Acceptance. -/

section
variable {s : State} {p : Nat} {g : Flit}

theorem acceptFlit_linkid (h : flitType g = 0xC) : acceptFlit s p g = onLinkid (awaitNext s p) p (flitPayload g) := by
  unfold acceptFlit awaitNext
  dsimp only
  rw [h]
  rfl

/-- A flit of any other TYPE is acted on where the port is up. -/
theorem acceptFlit_other (h : flitType g ≠ 0xC) : acceptFlit s p g =
    if !portUp s p then awaitNext s p
    else if flitType g = 0xB then onTree (awaitNext s p) p (flitPayload g)
    else messageFlit (awaitNext s p) p g := by
  unfold acceptFlit awaitNext
  dsimp only
  split
  · next hc => exact absurd hc h
  · rfl

end

/-- The events of sequenced flits, of one kind each. -/
theorem exec_sequencedFlit {p : Nat} {f : Flit} {s : State} {i : Instr} {k : Nat}
    (h : (i, k) ∈ [(Instr.head p f, 1), (.body p f, 2), (.tail p f, 3), (.solo p f, 4), (.linkid p f, 0xC), (.treeAdv p f, 0x20),
        (.treeDone p f, 0x21), (.treeInstall p f, 0x22)]) :
    exec i s = .next (receive s p f k) ∧ k ≠ 0x10 ∧ ∀ g, flitKind g = k → typeSequenced (flitType g) = true := by
  simp only [List.mem_cons, Prod.mk.injEq, List.not_mem_nil, or_false] at h
  have key : (exec i s = .next (receive s p f k)) ∧ k ≠ 0x10 ∧ (if k < 0x10 then typeSequenced k = true else True) := by
    rcases h with ⟨rfl, rfl⟩ | ⟨rfl, rfl⟩ | ⟨rfl, rfl⟩ | ⟨rfl, rfl⟩ | ⟨rfl, rfl⟩ | ⟨rfl, rfl⟩ | ⟨rfl, rfl⟩ | ⟨rfl, rfl⟩
    · exact ⟨exec_head .., by decide, by decide⟩
    · exact ⟨exec_body .., by decide, by decide⟩
    · exact ⟨exec_tail .., by decide, by decide⟩
    · exact ⟨exec_solo .., by decide, by decide⟩
    · exact ⟨exec_linkid .., by decide, by decide⟩
    · exact ⟨exec_treeAdv .., by decide, by decide⟩
    · exact ⟨exec_treeDone .., by decide, by decide⟩
    · exact ⟨exec_treeInstall .., by decide, by decide⟩
  obtain ⟨he, hk, hs⟩ := key
  refine ⟨he, hk, fun g hg => ?_⟩
  have ht := flitType_of_kind hg hk
  split at ht
  · next hlt =>
    rw [if_pos hlt] at hs
    rw [ht]
    exact hs
  · rw [ht]
    decide

/-- Settles O53. -/
theorem flitsReceived : Obligations.FlitsReceived := by
  refine ⟨fun s p f g => ?_, fun s p g => ?_⟩
  · intro u q ahead awaits
    have hawaits : awaits = true ↔ awaitsRsack s p := by
      unfold awaitsRsack
      change (match (getPort s p).stripe with
        | some x => x.mode == 0
        | none => false) = true ↔ _
      cases (getPort s p).stripe <;> simp
    have hctl {k : Nat} (h : flitIn s p f g k) (hk : k < 0x10) (ht : typeSequenced k = false) : typeSequenced (flitType g) = false := by
      have := flitType_of_kind h.2.2.1 (by omega)
      rw [if_pos hk] at this
      rw [this, ht]
    refine ⟨fun i k hi h => ?_, fun h => ?_, fun h => ?_, fun h => ?_, fun h => ?_, fun h => ?_⟩
    · obtain ⟨he, hk, ht⟩ := exec_sequencedFlit (s := s) hi
      refine ⟨fun hw => ?_, fun hw => ?_⟩
      · rw [he, receive_awaiting h hk (ht g h.2.2.1) (hawaits.mp hw)]
      · rw [he, receive_sequenced h hk (ht g h.2.2.1) fun hx => by rw [hawaits.mpr hx] at hw; cases hw]
        exact ⟨fun h0 => congrArg Host.Outcome.next (sequenced_turn rfl h0),
          fun h0 h64 hq => congrArg Host.Outcome.next (sequenced_ahead rfl h0 h64 hq),
          fun h0 h64 hq => congrArg Host.Outcome.next (sequenced_held rfl h0 h64 hq),
          fun h64 => congrArg Host.Outcome.next (sequenced_other rfl h64)⟩
    · exact (exec_null ..).trans (congrArg Host.Outcome.next (receive_control h (by decide) (hctl h (by decide) (by decide))
        (fun _ => rfl) nofun nofun nofun (.inl rfl)))
    · exact (exec_nak ..).trans (congrArg Host.Outcome.next (receive_control h (by decide) (hctl h (by decide) (by decide))
        nofun (fun _ => rfl) nofun nofun (.inr (.inl rfl))))
    · exact (exec_rsreq ..).trans (congrArg Host.Outcome.next (receive_control h (by decide) (hctl h (by decide) (by decide))
        nofun nofun (fun _ => rfl) nofun (.inr (.inr (.inl rfl)))))
    · exact (exec_rsack ..).trans (congrArg Host.Outcome.next (receive_control h (by decide) (hctl h (by decide) (by decide))
        nofun nofun nofun (fun _ => rfl) (.inr (.inr (.inr rfl)))))
    · exact (exec_flitCrcFail ..).trans (congrArg Host.Outcome.next (receive_fails h rfl))
  · refine ⟨acceptFlit_linkid, fun hc hup => ?_, fun hup => ⟨fun hB => ?_, fun h4 => ?_, fun h1 => ?_⟩⟩
    · rw [acceptFlit_other hc, hup]
      rfl
    · rw [acceptFlit_other (by omega), hup, Bool.not_true, if_neg Bool.false_ne_true, if_pos hB]
    · rw [acceptFlit_other (by omega), hup, Bool.not_true, if_neg Bool.false_ne_true, if_neg (show flitType g ≠ 0xB by omega)]
      unfold messageFlit
      dsimp only
      rw [if_pos h4]
    · rw [acceptFlit_other (by omega), hup, Bool.not_true, if_neg Bool.false_ne_true, if_neg (show flitType g ≠ 0xB by omega)]
      unfold messageFlit
      dsimp only
      rw [if_neg (show flitType g ≠ 4 by omega), if_pos h1]
      rfl

end Sys2Proof.Machine
end

section
/-!
PROOFS. Fields of registers, and the lanes of a port as its registers hold them (R385, R389, R390, R393).
-/
namespace Sys2Proof.Machine
open Sys2Proof.Claims

/-! Fields. -/

theorem getLsbD_setField (w : Word64) (lo n v i : Nat) : (setField w lo n v).getLsbD i =
    if lo ≤ i ∧ i < lo + n then decide (i < 64) && v.testBit (i - lo) else w.getLsbD i := by
  unfold setField ones
  simp only [BitVec.getLsbD_or, BitVec.getLsbD_and, BitVec.getLsbD_not, BitVec.getLsbD_ofNat, Nat.testBit_mul_two_pow,
    Nat.testBit_two_pow_sub_one, Nat.testBit_mod_two_pow]
  split
  · next h =>
    have hn : i - lo < n := by omega
    simp [h.1, hn]
  · next h =>
    have hn : (decide (lo ≤ i) && decide (i - lo < n)) = false := by simp; omega
    have hv : (decide (lo ≤ i) && (decide (i - lo < n) && v.testBit (i - lo))) = false := by rw [← Bool.and_assoc, hn, Bool.false_and]
    rw [hn, hv]
    by_cases hi : i < 64
    · simp [hi]
    · simp [hi, BitVec.getLsbD_of_ge w i (by omega)]

theorem testBit_rfld (s : State) (pa lo n i : Nat) : (rfld s pa lo n).testBit i = (decide (i < n) && (rget s pa).getLsbD (lo + i)) := by
  unfold rfld
  rw [Nat.testBit_mod_two_pow, Nat.testBit_div_two_pow, Nat.add_comm]
  rfl

theorem rget_rsetF_self (s : State) (pa lo n v : Nat) : rget (rsetF s pa lo n v) pa = setField (rget s pa) lo n v := rget_rset_self ..

theorem rget_rsetF_ne {s : State} {pa x : Nat} (h : x ≠ pa) (lo n v : Nat) : rget (rsetF s pa lo n v) x = rget s x :=
  rget_rset_ne _ _ _ _ h

theorem rfld_congr {s t : State} {pa : Nat} (h : rget t pa = rget s pa) (lo n : Nat) : rfld t pa lo n = rfld s pa lo n := by
  unfold rfld
  rw [h]

theorem rfld_rsetF_same {lo n : Nat} (h : lo + n ≤ 64) (s : State) (pa v : Nat) : rfld (rsetF s pa lo n v) pa lo n = v % 2 ^ n := by
  apply Nat.eq_of_testBit_eq
  intro i
  rw [testBit_rfld, rget_rsetF_self, getLsbD_setField, Nat.testBit_mod_two_pow]
  by_cases hi : i < n
  · have h64 : lo + i < 64 := by omega
    simp [hi, h64]
  · simp [hi]

theorem rfld_rsetF_disjoint {lo n lo' n' : Nat} (h : lo' + n' ≤ lo ∨ lo + n ≤ lo') (s : State) (pa v : Nat) :
    rfld (rsetF s pa lo n v) pa lo' n' = rfld s pa lo' n' := by
  apply Nat.eq_of_testBit_eq
  intro i
  rw [testBit_rfld, rget_rsetF_self, getLsbD_setField, testBit_rfld]
  by_cases hi : i < n'
  · rw [if_neg (by omega)]
  · simp [hi]

theorem rfld_rsetF_ne {pa x : Nat} (h : x ≠ pa) (s : State) (lo n v lo' n' : Nat) :
    rfld (rsetF s pa lo n v) x lo' n' = rfld s x lo' n' := rfld_congr (rget_rsetF_ne h ..) ..

/-! Lanes. -/

theorem laneReg_inj {p i j : Nat} (h : laneReg p i = laneReg p j) : i = j := by
  unfold laneReg at h
  omega

theorem laneReg_ne_rport (p i : Nat) : rport p ≠ laneReg p i := by
  unfold laneReg
  omega

theorem laneState_setLane_self (s : State) (p i : Nat) {st : Nat} (h : st < 4) : laneState (setLane s p i st) p i = st := by
  unfold laneState setLane
  rw [rfld_rsetF_disjoint (by decide), rfld_rsetF_same (by decide), Nat.mod_eq_of_lt (by simpa using h)]

theorem rget_setLane_ne {p i x : Nat} (h : x ≠ laneReg p i) (s : State) (st : Nat) : rget (setLane s p i st) x = rget s x := by
  unfold setLane
  rw [rget_rsetF_ne h, rget_rsetF_ne h]

theorem setLane_frame (s : State) (p i st : Nat) : ∃ r, setLane s p i st = { s with regs := r } := ⟨_, rfl⟩

/-! Maps of lanes. -/

/-- The map of a choice of the lanes below n has the bits of those chosen. -/
theorem testBit_map_filter (P : Nat → Bool) (n i : Nat) :
    (((List.range n).filter P).foldl (fun m i => m + 2 ^ i) 0).testBit i = (decide (i < n) && P i) ∧
      ((List.range n).filter P).foldl (fun m i => m + 2 ^ i) 0 < 2 ^ n := by
  induction n with
  | zero => simp
  | succ n ih =>
    obtain ⟨hbit, hlt⟩ := ih
    have hpow := Nat.pow_succ (n := 2) (m := n)
    rw [List.range_succ, List.filter_append, List.foldl_append]
    generalize ((List.range n).filter P).foldl (fun m i => m + 2 ^ i) 0 = m at hbit hlt
    by_cases hP : P n = true
    · rw [List.filter_cons_of_pos hP, List.filter_nil, List.foldl_cons, List.foldl_nil, Nat.add_comm m]
      refine ⟨?_, by omega⟩
      rcases Nat.lt_trichotomy i n with h | rfl | h
      · rw [Nat.testBit_two_pow_add_gt h, hbit, decide_eq_true h, decide_eq_true (by omega)]
      · rw [Nat.testBit_two_pow_add_eq, Nat.testBit_lt_two_pow hlt, decide_eq_true (by omega), hP]
        rfl
      · rw [Nat.testBit_lt_two_pow (Nat.lt_of_lt_of_le (by omega) (Nat.pow_le_pow_right (by decide) h)),
          decide_eq_false (by omega), Bool.false_and]
    · rw [List.filter_cons_of_neg hP, List.filter_nil, List.foldl_nil, hbit]
      refine ⟨?_, by omega⟩
      by_cases h : i = n
      · rw [h, Bool.eq_false_iff.mpr hP, Bool.and_false, Bool.and_false]
      · rw [decide_eq_decide.mpr (show i < n ↔ i < n + 1 by omega)]

/-- The map of a choice of the eight lanes names them again. -/
theorem lanesOf_map_filter (P : Nat → Bool) :
    lanesOf (((List.range 8).filter P).foldl (fun m i => m + 2 ^ i) 0) = (List.range 8).filter P := by
  unfold lanesOf
  refine List.filter_congr fun i hi => ?_
  rw [(testBit_map_filter P 8 i).1, decide_eq_true (List.mem_range.mp hi), Bool.true_and]

theorem lanesOf_mod (m : Nat) : lanesOf (m % 2 ^ 8) = lanesOf m := by
  unfold lanesOf
  refine List.filter_congr fun i hi => ?_
  rw [Nat.testBit_mod_two_pow, decide_eq_true (List.mem_range.mp hi), Bool.true_and]

/-! Who is to blame. -/

/-- The lowest lane of the greatest sum that is not 0 (R389). -/
def blamed (bad : Nat → Nat) (l : List Nat) (i : Nat) : Prop :=
  i ∈ l ∧ bad i ≠ 0 ∧ (∀ j ∈ l, bad j ≤ bad i) ∧ ∀ j ∈ l, j < i → bad j < bad i

/-- The model's search for it. -/
def findBlamed (bad : Nat → Nat) (l : List Nat) : Option Nat :=
  l.foldl (fun (b : Option Nat) i =>
    match b with
    | none => if bad i = 0 then none else some i
    | some j => if bad j < bad i then some i else b) none

theorem findBlamed_append (bad : Nat → Nat) (l : List Nat) (x : Nat) : findBlamed bad (l ++ [x]) =
    match findBlamed bad l with
    | none => if bad x = 0 then none else some x
    | some j => if bad j < bad x then some x else some j := by
  unfold findBlamed
  rw [List.foldl_append, List.foldl_cons, List.foldl_nil]
  split
  · rfl
  · next h => rw [h]

/-- A lane above all of l is to blame where every lane of l has a lesser sum. -/
theorem blamed_append_new {bad : Nat → Nat} {l : List Nat} {x : Nat} (hl : ∀ j ∈ l, bad j < bad x) (h0 : bad x ≠ 0) :
    blamed bad (l ++ [x]) x := by
  unfold blamed
  simp only [List.forall_mem_append, List.forall_mem_singleton]
  exact ⟨by simp, h0, ⟨fun j hj => Nat.le_of_lt (hl j hj), Nat.le_refl _⟩, fun j hj _ => hl j hj, fun h => absurd h (Nat.lt_irrefl _)⟩

/-- The lane to blame stays so beside a later one of no greater sum. -/
theorem blamed_append_old {bad : Nat → Nat} {l : List Nat} {i x : Nat} (h : blamed bad l i) (hx : i < x) (hb : bad x ≤ bad i) :
    blamed bad (l ++ [x]) i := by
  obtain ⟨hi, h0, hmax, hfirst⟩ := h
  unfold blamed
  simp only [List.forall_mem_append, List.forall_mem_singleton]
  exact ⟨by simp [hi], h0, ⟨hmax, hb⟩, hfirst, fun h => by omega⟩

/-- The search goes up the list, so the induction is on what it has passed, the last lane first. -/
theorem findBlamed_reverse_spec (bad : Nat → Nat) (r : List Nat) (hl : r.reverse.Pairwise (· < ·)) :
    (findBlamed bad r.reverse = none → ∀ j ∈ r.reverse, bad j = 0) ∧
      ∀ i, findBlamed bad r.reverse = some i → blamed bad r.reverse i := by
  induction r with
  | nil => exact ⟨fun _ _ h => absurd h List.not_mem_nil, fun _ h => nomatch h⟩
  | cons x r ih =>
    rw [List.reverse_cons] at hl ⊢
    generalize r.reverse = l at hl ih
    obtain ⟨hl, -, hx⟩ := List.pairwise_append.mp hl
    have hx : ∀ j ∈ l, j < x := fun j hj => hx j hj x (List.mem_singleton.mpr rfl)
    obtain ⟨hnone, hsome⟩ := ih hl
    rw [findBlamed_append, List.forall_mem_append, List.forall_mem_singleton]
    cases h : findBlamed bad l with
    | none =>
      have h0 := hnone h
      by_cases hb : bad x = 0
      · simp only [hb, if_true]
        exact ⟨fun _ => ⟨h0, trivial⟩, fun _ h => nomatch h⟩
      · simp only [hb, if_false]
        exact ⟨nofun, fun i hi => Option.some.inj hi ▸ blamed_append_new (fun j hj => by rw [h0 j hj]; omega) hb⟩
    | some k =>
      have hk := hsome k h
      by_cases hb : bad k < bad x
      · simp only [hb, if_true]
        refine ⟨nofun, fun i hi => Option.some.inj hi ▸ blamed_append_new (fun j hj => ?_) (by omega)⟩
        have := hk.2.2.1 j hj
        omega
      · simp only [hb, if_false]
        exact ⟨nofun, fun i hi => Option.some.inj hi ▸ blamed_append_old hk (hx k hk.1) (by omega)⟩

theorem findBlamed_spec (bad : Nat → Nat) (l : List Nat) (hl : l.Pairwise (· < ·)) :
    (findBlamed bad l = none → ∀ j ∈ l, bad j = 0) ∧ ∀ i, findBlamed bad l = some i → blamed bad l i := by
  have h := findBlamed_reverse_spec bad l.reverse
  rw [List.reverse_reverse] at h
  exact h hl

/-- Only one lane is to blame. -/
theorem blamed_unique {bad : Nat → Nat} {l : List Nat} {i j : Nat} (hi : blamed bad l i) (hj : blamed bad l j) : i = j := by
  obtain ⟨hi, -, himax, hifirst⟩ := hi
  obtain ⟨hj, -, hjmax, hjfirst⟩ := hj
  have h1 := himax j hj
  have h2 := hjmax i hi
  rcases Nat.lt_trichotomy i j with h | h | h
  · have := hjfirst i hi h; omega
  · exact h
  · have := hifirst j hj h; omega

theorem findBlamed_iff {bad : Nat → Nat} {l : List Nat} (hl : l.Pairwise (· < ·)) (i : Nat) :
    findBlamed bad l = some i ↔ blamed bad l i := by
  obtain ⟨hnone, hsome⟩ := findBlamed_spec bad l hl
  refine ⟨hsome i, fun h => ?_⟩
  cases hf : findBlamed bad l with
  | none => exact absurd (hnone hf i h.1) h.2.1
  | some j => rw [blamed_unique h (hsome j hf)]

theorem lanesOf_pairwise (m : Nat) : (lanesOf m).Pairwise (· < ·) := List.pairwise_lt_range.filter _

end Sys2Proof.Machine
end

section
/-!
PROOFS. Lanes, ports, the escape tree and their timers (R387 to R393, R399 to R402).
-/
namespace Sys2Proof.Machine
open Sys2Proof.Claims

/-! Steps over the lanes of a port. -/

/-- A step for lane i writes registers only, and of the lanes' only that of i. -/
def LaneStep (p : Nat) (f : State → Nat → State) : Prop :=
  ∀ u i, (∃ r, f u i = { u with regs := r }) ∧ ∀ x, x ≠ laneReg p i → rget (f u i) x = rget u x

section
variable {p : Nat} {f : State → Nat → State} (hf : LaneStep p f)
include hf

theorem LaneStep.foldl_frame (l : List Nat) (s : State) : ∃ r, l.foldl f s = { s with regs := r } := by
  induction l generalizing s with
  | nil => exact ⟨_, rfl⟩
  | cons i l ih =>
    obtain ⟨r, hr⟩ := (hf s i).1
    obtain ⟨r', hr'⟩ := ih (f s i)
    exact ⟨r', (by rw [List.foldl_cons, hr', hr])⟩

theorem LaneStep.foldl_other (l : List Nat) (s : State) {x : Nat} (hx : ∀ i ∈ l, x ≠ laneReg p i) : rget (l.foldl f s) x = rget s x := by
  induction l generalizing s with
  | nil => rfl
  | cons i l ih =>
    rw [List.foldl_cons, ih _ fun j hj => hx j (List.mem_cons_of_mem _ hj), (hf s i).2 x (hx i List.mem_cons_self)]

/-- What lane i's register holds after the steps of different lanes: what its own gave it. -/
theorem LaneStep.foldl_lane {l : List Nat} (hl : l.Nodup) (s : State) {i : Nat} (hi : i ∈ l) :
    ∃ u, rget u (laneReg p i) = rget s (laneReg p i) ∧ rget (l.foldl f s) (laneReg p i) = rget (f u i) (laneReg p i) := by
  induction l generalizing s with
  | nil => exact absurd hi List.not_mem_nil
  | cons j l ih =>
    obtain ⟨hj, hl⟩ := List.nodup_cons.mp hl
    rw [List.foldl_cons]
    by_cases h : i = j
    · subst h
      exact ⟨s, rfl, hf.foldl_other l _ fun k hk he => hj (laneReg_inj he ▸ hk)⟩
    · obtain ⟨u, hu, hr⟩ := ih hl (f s j) ((List.mem_cons.mp hi).resolve_left h)
      exact ⟨u, hu.trans ((hf s j).2 _ fun he => h (laneReg_inj he)), hr⟩

end

theorem laneStep_setLane (p i st : Nat) (u : State) :
    (∃ r, setLane u p i st = { u with regs := r }) ∧ ∀ x, x ≠ laneReg p i → rget (setLane u p i st) x = rget u x :=
  ⟨setLane_frame .., fun _ h => rget_setLane_ne h u st⟩

/-! Scores. -/

/-- A lane's score and margin are written at the end of a window (R389). -/
def scoreStep (p : Nat) (cb : Nat → Nat) (cc : Nat → Nat) (mg : Nat → Nat) (u : State) (i : Nat) : State :=
  rsetF (rsetF u (laneReg p i) 0 8 (newScore (laneScore u p i) (cb i) (cc i) (mg i))) (laneReg p i) 8 8 (mg i)

theorem laneStep_scoreStep (p : Nat) (cb cc mg : Nat → Nat) : LaneStep p (scoreStep p cb cc mg) := fun u i =>
  ⟨⟨_, rfl⟩, fun x h => by
    unfold scoreStep
    rw [rget_rsetF_ne h, rget_rsetF_ne h]⟩

theorem newScore_le (score cb cc margin : Nat) : newScore score cb cc margin ≤ 255 := Nat.min_le_left ..

theorem scoreStep_fields {p i : Nat} {cb cc mg : Nat → Nat} (hm : mg i ≤ 255) (u : State) :
    rfld (scoreStep p cb cc mg u i) (laneReg p i) 8 8 = mg i ∧
    laneScore (scoreStep p cb cc mg u i) p i = newScore (laneScore u p i) (cb i) (cc i) (mg i) := by
  have hs := newScore_le (laneScore u p i) (cb i) (cc i) (mg i)
  unfold scoreStep
  refine ⟨?_, ?_⟩
  · rw [rfld_rsetF_same (by decide)]
    exact Nat.mod_eq_of_lt (by omega)
  · unfold laneScore at hs ⊢
    rw [rfld_rsetF_disjoint (by decide), rfld_rsetF_same (by decide)]
    exact Nat.mod_eq_of_lt (by omega)

theorem scoreSteps_fields {p i : Nat} {cb cc mg : Nat → Nat} (hm : mg i ≤ 255) (hi : i < 8) (s : State) :
    rfld ((List.range 8).foldl (scoreStep p cb cc mg) s) (laneReg p i) 8 8 = mg i ∧
    laneScore ((List.range 8).foldl (scoreStep p cb cc mg) s) p i = newScore (laneScore s p i) (cb i) (cc i) (mg i) := by
  obtain ⟨u, hu, hr⟩ := (laneStep_scoreStep p cb cc mg).foldl_lane List.nodup_range s (List.mem_range.mpr hi)
  obtain ⟨h8, h0⟩ := scoreStep_fields (p := p) (cb := cb) (cc := cc) hm u
  refine ⟨(rfld_congr hr ..).trans h8, (rfld_congr hr ..).trans (h0.trans ?_)⟩
  unfold laneScore
  rw [rfld_congr hu]

/-- The port after a window: nothing counted yet of the next one. -/
def windowEnded (s : State) (p : Nat) (act : List Nat) (th : Nat) (mg : Nat → Nat) : State :=
  modPort s p fun q =>
    { q with
      cb := [], cc := 0
      above := act.foldl (fun t i => if th < laneScore s p i then tset t i (tget 0 t i + 1) else tdel t i) q.above
      good := q.good.map fun x => (x.1, if 64 ≤ mg x.1 then x.2 + 1 else 0)
      lost := q.lost.filter fun i => act.contains i }

theorem windowEnded_spec (s : State) (p : Nat) (act : List Nat) (th : Nat) (mg : Nat → Nat) :
    (getPort (windowEnded s p act th mg) p).cc = 0 ∧ (getPort (windowEnded s p act th mg) p).cb = [] ∧
    (∀ x, rget (windowEnded s p act th mg) x = rget s x) ∧ (windowEnded s p act th mg).mem = s.mem := by
  unfold windowEnded
  rw [getPort_modPort_self]
  exact ⟨rfl, rfl, fun _ => rfl, rfl⟩

theorem execLaneScoreUpdate_spec (p : Nat) (margins : List Nat) (s : State) :
    let q := getPort s p
    let mg (i : Nat) : Nat := min 255 (margins.getD i 0)
    let bad (i : Nat) : Nat := tget 0 q.cb i + (32 - mg i)
    ∃ t, execLaneScoreUpdate p margins s = .next (readmitNext (shedNext t p) p) ∧ t.mem = s.mem ∧ (getPort t p).cc = 0 ∧
      (getPort t p).cb = [] ∧ ∀ i, i < 8 → rfld t (laneReg p i) 8 8 = mg i ∧
        laneScore t p i = newScore (laneScore s p i) (tget 0 q.cb i)
          (if findBlamed bad (lanesOf (rxMap s p)) = some i then q.cc else 0) (mg i) := by
  intro q mg bad
  let cc (i : Nat) : Nat := if findBlamed bad (lanesOf (rxMap s p)) = some i then q.cc else 0
  obtain ⟨s1, hs1⟩ : ∃ s1, s1 = (List.range 8).foldl (scoreStep p (tget 0 q.cb) cc mg) s := ⟨_, rfl⟩
  obtain ⟨hcc, hcb, hrg, hmem⟩ := windowEnded_spec s1 p (lanesOf (rxMap s p)) (rfld s (rport p) 40 8) mg
  refine ⟨windowEnded s1 p (lanesOf (rxMap s p)) (rfld s (rport p) 40 8) mg, ?_, hmem.trans ?_, hcc, hcb, fun i hi => ?_⟩
  · rw [hs1]
    rfl
  · obtain ⟨r, hr⟩ := (laneStep_scoreStep p (tget 0 q.cb) cc mg).foldl_frame (List.range 8) s
    rw [hs1, hr]
  · obtain ⟨h8, h0⟩ := scoreSteps_fields (cb := tget 0 q.cb) (cc := cc) (mg := mg) (p := p) (Nat.min_le_left ..) hi s
    rw [← hs1] at h8 h0
    exact ⟨(rfld_congr (hrg _) ..).trans h8, (rfld_congr (hrg _) ..).trans h0⟩

/-! STATE of a port. -/

theorem rport_ne_evcfg {p : Nat} (k : Nat) (hk : k < 32) : rport p ≠ evcfg + k := by
  unfold rport evcfg RA
  omega

theorem rget_evWrite {x : Nat} (h : x ≠ evcfg + 8) (s : State) (e : Event) : rget (evWrite s e) x = rget s x := by
  unfold evWrite
  dsimp only
  rw [rget_rset_ne _ _ _ _ h]
  obtain ⟨m, p, i, t, g, hw⟩ := hwPutWords_frame s (evSlot s)
    [BitVec.ofNat 64 (e.kind % 256 + e.g % 4096 * 2 ^ 8 + e.vf % 128 * 2 ^ 20), BitVec.ofNat 64 e.cyc, e.i0, e.i1]
  rw [hw]
  rfl

theorem rget_postEvent {x : Nat} (h8 : x ≠ evcfg + 8) (h24 : x ≠ evcfg + 24) (s : State) (e : Event) :
    rget (postEvent s e) x = rget s x := by
  unfold postEvent
  split
  · split
    · exact rget_evWrite h8 s e
    · split
      · rfl
      · exact rget_rsetF_ne h24 ..
  · exact rget_rsetF_ne h24 ..

theorem rget_postPlain_rport (s : State) (k v : Nat) (i0 i1 : Word64) (p : Nat) :
    rget (postPlain s k v i0 i1) (rport p) = rget s (rport p) :=
  rget_postEvent (rport_ne_evcfg 8 (by decide)) (rport_ne_evcfg 24 (by decide)) ..

theorem foldl_sendCtl_frame (f : State → Nat → Payload) (ty : Nat) (l : List Nat) (s : State) :
    ∃ b, l.foldl (fun s p => sendCtl s p ty (f s p)) s = { s with fab := b } := by
  induction l generalizing s with
  | nil => exact ⟨_, rfl⟩
  | cons p l ih =>
    obtain ⟨b, hb⟩ := ih (sendCtl s p ty (f s p))
    exact ⟨b, hb⟩

theorem treeStart_frame (s : State) (e : Nat) : ∃ i a b, treeStart s e = { s with ids := i, agenda := a, fab := b } := by
  unfold treeStart advAll
  dsimp only
  obtain ⟨b, hb⟩ := foldl_sendCtl_frame (fun u p => advPayload u.fab.tree p) 0xB
    (upPorts (treeTimers (setTree s { Tree.reset with epoch := e % 65536, root := moduleNo s, epAt := s.fab.tree.epAt,
                                                      tabs := s.fab.tree.tabs })))
    (treeTimers (setTree s { Tree.reset with epoch := e % 65536, root := moduleNo s, epAt := s.fab.tree.epAt,
                                             tabs := s.fab.tree.tabs }))
  exact ⟨_, _, b, hb⟩

/-- A change of STATE changes no other field of the port's register. -/
theorem fields_setPState (s : State) (p st : Nat) : portState (setPState s p st) p = (if portState s p = st then st else st % 8) ∧
    ∀ lo n, 4 ≤ lo → rfld (setPState s p st) (rport p) lo n = rfld s (rport p) lo n := by
  unfold setPState
  split
  · next h => exact ⟨h, fun _ _ _ => rfl⟩
  · next h =>
    dsimp only
    let s1 := postPlain (rsetF s (rport p) 1 3 st) 0x0C 0 (BitVec.ofNat 64 p) (BitVec.ofNat 64 st)
    obtain ⟨i, a, b, ht⟩ := treeStart_frame s1 (s1.fab.tree.epoch + 1)
    have hr : rget (treeStart s1 (s1.fab.tree.epoch + 1)) (rport p) = rget (rsetF s (rport p) 1 3 st) (rport p) := by
      rw [ht]
      exact rget_postPlain_rport ..
    refine ⟨(rfld_congr hr ..).trans (rfld_rsetF_same (by decide) ..), fun lo n hlo => (rfld_congr hr ..).trans ?_⟩
    exact rfld_rsetF_disjoint (.inr (by omega)) ..

/-! Training. -/

/-- The lanes that have passed begin afresh, the others stay shed or held. -/
def trainStep (p : Nat) (ls : List Nat) (u : State) (i : Nat) : State :=
  if ls.contains i then setLane u p i 0 else if laneState u p i = 3 then u else setLane u p i 2

theorem laneStep_trainStep (p : Nat) (ls : List Nat) : LaneStep p (trainStep p ls) := fun u i => by
  unfold trainStep
  split
  · exact laneStep_setLane p i 0 u
  · split
    · exact ⟨⟨_, rfl⟩, fun _ _ => rfl⟩
    · exact laneStep_setLane p i 2 u

/-- The port that a training attempt leaves, before its STATE changes: both maps name the lanes that have passed. -/
def trained (s : State) (p : Nat) (ls : List Nat) : State :=
  let map := ls.foldl (fun m i => m + 2 ^ i) 0
  let s2 := (List.range 8).foldl (trainStep p ls) (setPort s p { Port.reset with sheds := (getPort s p).sheds })
  let s3 := rsetF (rsetF s2 (rport p) 4 8 map) (rport p) 12 8 map
  sendCtl s3 p 0xC (linkPayload s3 p)

theorem trained_fields (s : State) (p : Nat) (ls : List Nat) :
    portState (trained s p ls) p = portState s p ∧
    txMap (trained s p ls) p = ls.foldl (fun m i => m + 2 ^ i) 0 % 2 ^ 8 ∧
    rxMap (trained s p ls) p = ls.foldl (fun m i => m + 2 ^ i) 0 % 2 ^ 8 := by
  let map := ls.foldl (fun m i => m + 2 ^ i) 0
  let s1 := setPort s p { Port.reset with sheds := (getPort s p).sheds }
  let s2 := (List.range 8).foldl (trainStep p ls) s1
  let s3 := rsetF (rsetF s2 (rport p) 4 8 map) (rport p) 12 8 map
  have hr : rget s2 (rport p) = rget s (rport p) :=
    (laneStep_trainStep p ls).foldl_other (List.range 8) s1 fun i _ => laneReg_ne_rport p i
  refine ⟨?_, ?_, ?_⟩
  · change rfld s3 (rport p) 1 3 = _
    rw [rfld_rsetF_disjoint (by decide), rfld_rsetF_disjoint (by decide)]
    exact rfld_congr hr ..
  · change rfld s3 (rport p) 4 8 = _
    rw [rfld_rsetF_disjoint (by decide), rfld_rsetF_same (by decide)]
  · change rfld s3 (rport p) 12 8 = _
    rw [rfld_rsetF_same (by decide)]

theorem execPortTrainingAttempt_trains {p passed : Nat} {s : State} (he : rbit s (rport p) 0 = true) (hf : rbit s fabcfg 0 = true)
    (hu : portUp s p = false) :
    let ls := (lanesOf passed).filter fun i => laneState s p i != 3
    4 ≤ ls.length → execPortTrainingAttempt p passed s =
      .next (if portState (trained s p ls) p = 4 then trained s p ls else setPState (trained s p ls) p 1) := by
  intro ls hl
  have hon : fabOn s = true := hf
  unfold execPortTrainingAttempt
  dsimp only
  rw [he, hon, hu, if_neg (by decide), if_neg Bool.false_ne_true, if_neg (Nat.not_lt.mpr hl)]
  rfl

/-! Messages that wait. -/

theorem enterLate_single {s : State} {id : Nat} {q : QMsg} (hq : (s.fab.queue.filter fun q => q.id == id) = [q])
    (hl : escLate s q = true) (hi : escInstalled s = true) :
    let x := enterEscape s q
    enterLate s (fun q => q.id == id) = { x.1 with fab := { x.1.fab with
      queue := x.1.fab.queue.map fun y => if y.id = id then x.2 else y } } := by
  intro x
  have hid : q.id = id := by
    have : q ∈ s.fab.queue.filter fun q => q.id == id := by rw [hq]; exact List.mem_singleton.mpr rfl
    simpa using (List.mem_filter.mp this).2
  have hone : (s.fab.queue.filter fun q => q.id == id && escLate s q) = [q] := by
    rw [List.filter_congr fun a _ => Bool.and_comm (a.id == id) (escLate s a), ← List.filter_filter, hq]
    simp [hl]
  unfold enterLate
  rw [if_pos hi, hone, ← hid]
  rfl

theorem execEscapeTableWaitExpire_disposes {s : State} {id : Nat} {q : QMsg}
    (hq : (s.fab.queue.filter fun q => q.id == id) = [q]) (hh : q.head ≠ 0) (hp : q.port = none) (he : q.m.esc = true)
    (ht : q.head + 62500 ≤ s.clock + 1) : execEscapeTableWaitExpire id s = .next (dispose s q 7) := by
  have hf : (s.fab.queue.find? fun q => q.id == id) = some q := by
    rw [← List.head?_filter, hq]
    rfl
  unfold execEscapeTableWaitExpire
  rw [hf]
  refine if_pos ?_
  rw [hp, he, decide_eq_true hh, decide_eq_true (by exact ht)]
  rfl

/-! A module joins. -/

theorem foldl_startTraining_frame (l : List Nat) (s : State) :
    ∃ c a, l.foldl startTraining s = { s with ctr := c, agenda := a } := by
  induction l generalizing s with
  | nil => exact ⟨_, _, rfl⟩
  | cons p l ih =>
    obtain ⟨c, a, h⟩ : ∃ c a, startTraining s p = { s with ctr := c, agenda := a } := by
      unfold startTraining
      split <;> exact ⟨_, _, rfl⟩
    obtain ⟨c', a', h'⟩ := ih (startTraining s p)
    exact ⟨c', a', (by rw [List.foldl_cons, h', h])⟩

/-- The seed of the route generator is never 0: a module number is short. -/
theorem seed_ne_zero (s : State) : BitVec.ofNat 32 (moduleNo s) ^^^ (0x9E3779B9 : Word32) ≠ 0 := by
  have hm : moduleNo s < 2 ^ 14 := Nat.mod_lt _ (by decide)
  intro h
  have heq : BitVec.ofNat 32 (moduleNo s) = (0x9E3779B9 : Word32) := by
    have := congrArg (· ^^^ (0x9E3779B9 : Word32)) h
    simpa [BitVec.xor_assoc] using this
  have := congrArg BitVec.toNat heq
  rw [BitVec.toNat_ofNat, Nat.mod_eq_of_lt (by omega)] at this
  simp at this
  omega

theorem execFabricJoin_spec (s : State) : ∃ c a, execFabricJoin s = .next { s with
    ctr := c, agenda := a, fab := { s.fab with gen := BitVec.ofNat 32 (moduleNo s) ^^^ 0x9E3779B9 } } := by
  obtain ⟨c, a, h⟩ := foldl_startTraining_frame (List.range 47)
    { s with fab := { s.fab with gen := BitVec.ofNat 32 (moduleNo s) ^^^ 0x9E3779B9 } }
  refine ⟨c, a, ?_⟩
  unfold execFabricJoin
  dsimp only
  rw [if_neg (seed_ne_zero s), h]

/-- Settles O54. -/
theorem linksAndTimers : Obligations.LinksAndTimers := by
  refine ⟨fun p s hp => ⟨fun due hn hd => ?_, fun x hx => ⟨fun hr => ?_, fun hr => ?_⟩, fun lane hl => ?_, fun lane hl h3 => ?_,
    fun margins => ?_, fun passed he hf hu => ?_, ?_⟩, fun s => ?_, fun s hq hh ht => ?_,
    fun id s q hq hh => ⟨fun hs hesc hport ht hi => ?_, fun hport hesc ht => ?_⟩, fun s => ?_⟩
  · refine (exec_nakRepeat ..).trans ?_
    unfold execNakRepeat
    dsimp only
    rw [hn]
    dsimp only
    rw [if_neg (by omega), if_pos rfl]
    rfl
  · refine (exec_rsreqTimeout ..).trans ?_
    unfold execRsreqTimeout
    rw [hx]
    dsimp only
    rw [if_neg (not_not_intro rfl), if_neg (by omega)]
    rfl
  · refine (exec_rsreqTimeout ..).trans ?_
    unfold execRsreqTimeout
    rw [hx]
    dsimp only
    rw [if_neg (not_not_intro rfl), if_pos hr]
  · exact (exec_laneLockLost ..).trans (if_neg (by omega))
  · exact ⟨_, (exec_laneHoldRelease ..).trans (if_pos h3), laneState_setLane_self _ p lane (by decide), rfl⟩
  · intro q lanes missing sum failures
    obtain ⟨t, ht, hmem, hcc, hcb, hlanes⟩ := execLaneScoreUpdate_spec p margins s
    refine ⟨t, (exec_laneScoreUpdate ..).trans ht, hmem, hcc, hcb, fun i hi => ?_⟩
    obtain ⟨h8, h0⟩ := hlanes i hi
    have hfail : (if findBlamed sum lanes = some i then q.cc else 0) = failures i :=
      ite_congr (propext (findBlamed_iff (lanesOf_pairwise _) i)) (fun _ => rfl) fun _ => rfl
    refine ⟨h8, h0.trans ?_⟩
    rw [hfail]
    rfl
  · intro ls hl
    obtain ⟨hst, htx, hrx⟩ := trained_fields s p ls
    have hmap : lanesOf (ls.foldl (fun m i => m + 2 ^ i) 0 % 2 ^ 8) = ls := by
      rw [lanesOf_mod]
      have hls : ls = (List.range 8).filter fun i => (laneState s p i != 3) && passed.testBit i := List.filter_filter
      rw [hls, lanesOf_map_filter]
    refine ⟨_, (exec_portTrainingAttempt ..).trans (execPortTrainingAttempt_trains he hf hu hl), ?_⟩
    rw [hst]
    split
    · next h4 => exact ⟨hst.trans h4, by rw [hrx, hmap], by rw [htx, hmap]⟩
    · obtain ⟨hp1, hfld⟩ := fields_setPState (trained s p ls) p 1
      refine ⟨hp1.trans (by split <;> rfl), ?_, ?_⟩
      · unfold rxMap at hrx ⊢
        rw [hfld _ _ (by decide), hrx, hmap]
      · unfold txMap at htx ⊢
        rw [hfld _ _ (by decide), htx, hmap]
  · intro down
    have hdown : ((portState s p = 0 || portState s p = 3) = true) ↔ down := by simp [down]
    refine ⟨(exec_portEnableWrite ..).trans ?_, (exec_portEnableWrite ..).trans ?_⟩
    · unfold execPortEnableWrite fabOn
      dsimp only
      rw [if_pos rfl, ← apply_ite Host.Outcome.next]
      refine congrArg Host.Outcome.next (ite_congr (propext ?_) (fun _ => rfl) fun _ => rfl)
      rw [Bool.and_eq_true, Bool.and_eq_true, hdown, and_assoc]
    · unfold execPortEnableWrite
      dsimp only
      rw [if_neg Bool.false_ne_true, ← apply_ite Host.Outcome.next]
      exact congrArg Host.Outcome.next (ite_congr (propext hdown) (fun _ => rfl) fun _ => rfl)
  · exact (exec_treeStableTimer ..).trans (if_pos rfl)
  · refine (exec_escapeParityQuiet ..).trans ?_
    unfold execEscapeParityQuiet
    dsimp only
    rw [hq, if_neg (by simp), if_neg]
    rw [hh, Bool.false_or, Bool.and_eq_true, decide_eq_true_eq, decide_eq_true_eq]
    rintro ⟨h1, h2⟩
    rcases ht with ht | ht
    · omega
    · exact absurd h1 (Nat.not_lt.mpr ht)
  · intro x l
    refine (exec_escapeWaitExpire ..).trans (congrArg Host.Outcome.next (enterLate_single hq ?_ hi))
    unfold escLate
    rw [hs, hesc, hport, decide_eq_true ht]
    simp [hh]
  · exact (exec_escapeTableWaitExpire ..).trans (execEscapeTableWaitExpire_disposes hq hh hport hesc ht)
  · obtain ⟨c, a, h⟩ := execFabricJoin_spec s
    exact ⟨_, (exec_fabricJoin ..).trans h, seed_ne_zero s, rfl, rfl, rfl⟩

end Sys2Proof.Machine
end

section
/-!
PROOFS. Requests to other modules, their answers and their absence (R404 to R409, R426, R458).
-/
namespace Sys2Proof.Machine
open Sys2Proof.Claims

/-! A request's next message. -/

section
variable {id : Nat} {s : State} {t : Txn} {m0 : Msg} (ht : getTxn s id = some t) (hp : t.peer.isSome = true) (ho : t.out = false)
  (hm : (txnMsgs s t)[t.sent]? = some m0)
include ht hp ho hm

theorem execFabricRequestInject_noPath (hw : pathOk s t.die 4 = false) :
    let t1 := { t with sent := t.sent + 1, left := t.left + 1 }
    execFabricRequestInject id s = .next (msgAnswered (setTxn s id t1) id { t1 with err := 9 } []) := by
  have hnone : t.peer.isNone = false := by rw [Option.isNone_eq_false_iff]; exact hp
  unfold execFabricRequestInject
  dsimp only
  rw [ht]
  dsimp only
  rw [hnone, ho, if_neg (by decide), hm]
  dsimp only
  rw [hw, if_pos (by decide)]

variable (hw : pathOk s t.die 4 = true)
include hw

theorem execFabricRequestInject_refused (hd : dstStatus s (redirected s m0).dst ≠ 0) :
    let t1 := { t with sent := t.sent + 1, left := t.left + 1 }
    execFabricRequestInject id s = .next (msgAnswered (setTxn s id t1) id { t1 with err := 0x0A } []) := by
  have hnone : t.peer.isNone = false := by rw [Option.isNone_eq_false_iff]; exact hp
  unfold execFabricRequestInject
  dsimp only
  rw [ht]
  dsimp only
  rw [hnone, ho, if_neg (by decide), hm]
  dsimp only
  rw [hw, if_neg (by decide), if_pos hd]

/-- A request whose path and destination are good waits, is parted from its post, or is entered. -/
theorem execFabricRequestInject_good (hd : dstStatus s (redirected s m0).dst = 0) : execFabricRequestInject id s = .next
    (if heldBack s id t || granuleBusy s (t.agent s) (redirected s m0) || decide (65536 ≤ s.fab.outst.length) then s
     else if (redirected s m0).dst != m0.dst && t.splitPost != t then setTxn s id t.splitPost
     else enter (setTxn s id { t with sent := t.sent + 1, left := t.left + 1 }) m0 (.txn id) (t.agent s)) := by
  have hnone : t.peer.isNone = false := by rw [Option.isNone_eq_false_iff]; exact hp
  unfold execFabricRequestInject
  dsimp only
  rw [ht]
  dsimp only
  rw [hnone, ho, if_neg (by decide), hm]
  dsimp only
  rw [hw, if_neg (by decide), if_neg (not_not_intro hd)]
  simp only [← apply_ite Host.Outcome.next]

end

/-! Responses. -/

section
variable {s : State} {r : Msg} {o : Outst} (ho : tfind s.fab.outst r.tag = some o)

theorem answered_txn {id : Nat} (hu : o.use = .txn id) (s : State) (tag : Nat) (r : Msg) :
    answered s tag o r = txnAnswer (setOutst s (tdel s.fab.outst tag)) id o.orig o.m r := by
  unfold answered
  rw [hu]

include ho

theorem response_txn_ok {id : Nat} (hu : o.use = .txn id) (hr : r.op ≠ 0x1F) :
    response s r = txnAnswer (setOutst s (tdel s.fab.outst r.tag)) id o.orig o.m r := by
  unfold response
  rw [ho, ← answered_txn hu]
  dsimp only
  split
  · next h _ => exact absurd (by simpa using h) hr
  · next h _ => exact absurd (by simpa using h) hr
  · rfl

theorem response_txn_error {id : Nat} (hu : o.use = .txn id) (h9 : errStatus r ≠ 9) (h10 : errStatus r ≠ 10 ∨ 4 ≤ o.tries) :
    response s r = txnAnswer (setOutst s (tdel s.fab.outst r.tag)) id o.orig o.m r := by
  unfold response
  rw [ho, ← answered_txn hu]
  dsimp only
  split
  · next h => exact absurd h h9
  · next h => rw [if_pos (h10.resolve_left (not_not_intro h))]
  · rfl

theorem response_txn_retry {id : Nat} (hu : o.use = .txn id) (hr : r.op = 0x1F) (h9 : errStatus r = 9) :
    response s r = sendAgain s r.tag o := by
  unfold response
  rw [ho]
  dsimp only
  rw [hu, hr, h9]
  rfl

theorem response_txn_moved {id : Nat} (hu : o.use = .txn id) (hr : r.op = 0x1F) (h10 : errStatus r = 10) (h4 : o.tries < 4) :
    let dest := r.opa.toNat % 2 ^ 14
    let dframe := r.opa.toNat / 2 ^ 16 % 2 ^ 34
    let moved := partPost (redirectTo s o.m.dst (o.m.addr / 2 ^ 16) dest dframe o.m.vf r.vf) o
    response s r = sendAgain moved.1 r.tag
      { o with m := { moved.2 with dst := dest, addr := dframe * 2 ^ 16 + o.m.addr % 2 ^ 16 }, tries := o.tries + 1 } := by
  unfold response
  rw [ho]
  dsimp only
  rw [hu, hr, h10]
  exact if_neg (by omega)

theorem response_probe {m : Nat} (hu : o.use = .probe m) (hr : r.op = 0x13) :
    let s1 := setOutst s (tdel s.fab.outst r.tag)
    let s2 := { s1 with fab := { s1.fab with probes := s1.fab.probes.filter fun p => p.1 != m } }
    response s r = if (upPorts s2).any fun p => portPeer s2 p == m then unfence s2 m else s2 := by
  unfold response
  rw [ho]
  dsimp only
  split
  · next h _ _ => rw [hu] at h; cases h
  · next h _ _ => rw [hu] at h; cases h
  · unfold answered
    rw [hu, hr]
    rfl

end

/-- Settles O55. -/
theorem requestsToPeers : Obligations.RequestsToPeers := by
  refine ⟨fun id s t m0 ht hp ho hm => ?_, fun r s o ho => ⟨fun id hu => ⟨fun hr => ?_, fun hr => ?_, fun hr => ?_, fun hr => ?_⟩, fun m hu hr => ?_⟩, fun tag s o ho => ?_, fun m stamp s hp hf => ?_,
    fun port s hu hf hl => ?_, fun m s hf => ?_, fun m s => rfl⟩
  · refine ⟨fun hw hd hh hg hl => ⟨fun hd' => ?_, fun hd' hs => ?_⟩, fun hw hd hwait => ?_, fun hw => ?_, fun hw hd => ?_⟩
    · refine (exec_fabricRequestInject ..).trans ((execFabricRequestInject_good ht hp ho hm hw hd).trans ?_)
      rw [hh, hg, decide_eq_false (by omega), if_neg (by decide), if_neg]
      rw [Bool.and_eq_true, bne_iff_ne, bne_iff_ne]
      exact fun h => hd'.elim h.1 h.2
    · refine (exec_fabricRequestInject ..).trans ((execFabricRequestInject_good ht hp ho hm hw hd).trans ?_)
      rw [hh, hg, decide_eq_false (by omega), if_neg (by decide), if_pos]
      rw [Bool.and_eq_true, bne_iff_ne, bne_iff_ne]
      exact ⟨hd', hs⟩
    · refine (exec_fabricRequestInject ..).trans ((execFabricRequestInject_good ht hp ho hm hw hd).trans ?_)
      rw [if_pos]
      rw [Bool.or_eq_true, Bool.or_eq_true, decide_eq_true_eq, or_assoc]
      exact hwait
    · exact (exec_fabricRequestInject ..).trans (execFabricRequestInject_noPath ht hp ho hm hw)
    · exact (exec_fabricRequestInject ..).trans (execFabricRequestInject_refused ht hp ho hm hw hd)
  · exact (exec_ack ..).trans (congrArg Host.Outcome.next (response_txn_ok ho hu (by omega)))
  · exact (exec_data ..).trans (congrArg Host.Outcome.next (response_txn_ok ho hu (by omega)))
  · exact (exec_atomicData ..).trans (congrArg Host.Outcome.next (response_txn_ok ho hu (by omega)))
  · refine ⟨fun h9 h10 => ?_, fun h9 => ?_, fun h10 h4 => ?_, fun h10 h4 => ?_⟩
    · exact (exec_error ..).trans (congrArg Host.Outcome.next (response_txn_error ho hu h9 (.inl h10)))
    · exact (exec_error ..).trans (congrArg Host.Outcome.next (response_txn_retry ho hu hr h9))
    · exact (exec_error ..).trans (congrArg Host.Outcome.next (response_txn_moved ho hu hr h10 h4))
    · exact (exec_error ..).trans (congrArg Host.Outcome.next (response_txn_error ho hu (by omega) (.inr h4)))
  · exact (exec_probeack ..).trans (congrArg Host.Outcome.next (response_probe ho hu hr))
  · refine (exec_requestTimeout ..).trans ?_
    unfold execRequestTimeout
    rw [ho]
    exact if_pos rfl
  · refine (exec_probeTimeout ..).trans ?_
    unfold execProbeTimeout
    rw [if_pos hp]
    exact if_neg (by rw [← Bool.not_eq_true] at hf; exact hf)
  · refine (exec_probePeriodic ..).trans ?_
    unfold execProbePeriodic
    dsimp only
    rw [hu, hf, if_pos (by decide), if_neg (by omega)]
    rfl
  · refine (exec_fenceNotice ..).trans ?_
    unfold execFenceNotice
    rw [hf, if_neg Bool.false_ne_true]

end Sys2Proof.Machine
end

section
/-!
PROOFS. Requests that arrive from other modules (R395, R409, R410).
-/
namespace Sys2Proof.Machine
open Sys2Proof.Claims

/-! A request of the Ridge die reaches no die's cache. -/

theorem rdcCan_of_ridge {d : Nat} (h : 4 ≤ d) (peer : Option Nat) (pa : Nat) : rdcCan d peer pa = false := by
  unfold rdcCan
  rw [decide_eq_false (by omega), Bool.false_and, Bool.false_and]

section
variable {t : Txn} (hd : 4 ≤ t.die)
include hd

theorem rdcSplit_of_ridge (s : State) : rdcSplit s t = ([], false, t.rd) := by
  unfold rdcSplit
  simp only [rdcCan_of_ridge hd, Bool.false_eq_true, if_false]
  induction t.rd with
  | nil => rfl
  | cons x l ih => rw [List.foldr_cons, ih]

theorem lookup_of_ridge (s : State) : t.lookup s = t := by
  unfold Txn.lookup
  split
  · rfl
  · split
    · rfl
    · rw [rdcSplit_of_ridge hd]
      rfl
  · rfl

theorem fillRules_of_ridge (s : State) : fillRules s t = (s, t) := by
  unfold fillRules
  rw [rdcCan_of_ridge hd]
  rfl

theorem sendTxn_of_ridge (hp : t.peer = none) (s : State) (n late : Nat) : ∃ c a, (sendTxn s t n late).1 =
    { s with ids := s.ids + 1, ctr := c, agenda := a,
             txns := tset s.txns s.ids { t with sent := 0, left := 0, born := s.clock + late } } := by
  unfold sendTxn fresh
  dsimp only
  rw [lookup_of_ridge hd, fillRules_of_ridge hd]
  dsimp only
  rw [hp]
  exact ⟨_, _, rfl⟩

theorem startPeer_of_ridge (hp : t.peer = none) (s : State) : ∃ c a, startPeer s t =
    { s with ids := s.ids + 1, ctr := c, agenda := a,
             txns := tset s.txns s.ids { t with sent := 0, left := 0, born := s.clock } } := by
  unfold startPeer
  dsimp only
  obtain ⟨c, hc⟩ := drawLat_frame s t
  obtain ⟨c', a, h⟩ := sendTxn_of_ridge hd hp (drawLat s t).2 (drawLat s t).1 0
  refine ⟨c', a, h.trans ?_⟩
  rw [hc]
  rfl

end

theorem startsFor_of {i : Instr} {s : State} {m : Msg} {ok : Txn → Prop} {x : Txn} (he : exec i s = .next (startPeer s x))
    (hd : x.die = 4) (hp : x.peer = none) (hs : x.src = .peer m.src m.tag) (hv : x.vf = m.vf) (ha : x.pa = m.addr)
    (hok : ok { x with sent := 0, left := 0, born := s.clock }) : startsFor i s m ok := by
  obtain ⟨c, a, h⟩ := startPeer_of_ridge (Nat.le_of_eq hd.symm) hp s
  refine ⟨_, { x with sent := 0, left := 0, born := s.clock }, he, ?_, hs, hv, ha, hp, hok, fun n hn => ?_, ?_, ?_⟩
  · rw [h]
    exact tfind_tset_self ..
  · rw [h]
    exact (tfind_tset ..).trans (if_neg hn)
  · rw [h]
  · rw [h]

/-! The requests. -/

section
variable {m : Msg} {s : State}

theorem execAtomic_starts (hr : peerReach m.addr (4 * 2 ^ m.size) = true) (hs : m.sub < 11 ∧ m.size < 2 ∨ m.sub = 11 ∧ m.size ≤ 2) :
    ∃ x, execAtomic m s = .next (startPeer s x) ∧ x.die = 4 ∧ x.peer = none ∧ x.src = .peer m.src m.tag ∧ x.vf = m.vf ∧
      x.pa = m.addr ∧ x.kind = .atomic ∧ x.len = 4 * 2 ^ m.size ∧ x.req.op = peerAtomic m ∧
      (m.sub < 11 → x.entry = m.opa.zeroExtend 2048) := by
  have hno : ¬ (11 < m.sub || 2 < m.size || (m.sub ≠ 11 && m.size = 2)) = true := by
    simp only [Bool.or_eq_true, Bool.and_eq_true, decide_eq_true_eq]
    omega
  unfold execAtomic
  dsimp only
  rw [hr, Bool.not_true, if_neg Bool.false_ne_true, if_neg hno]
  refine ⟨_, rfl, rfl, rfl, rfl, rfl, rfl, rfl, rfl, rfl, fun h => ?_⟩
  exact if_pos (by omega)

/-- The instruction that an ATOMIC stands for is of its SUB and its SIZE. -/
theorem aop_peerAtomic_amo (h : m.sub < 11) (hs : m.size < 2) : aop (peerAtomic m) = .amo true m.sub (4 * 2 ^ m.size) false := by
  have hv : (Fin.ofNat 11 m.sub).val = m.sub := Nat.mod_eq_of_lt h
  unfold peerAtomic
  dsimp only
  rw [if_neg (by omega)]
  obtain h0 | h1 : m.size = 0 ∨ m.size = 1 := by omega
  · rw [if_pos h0, h0]
    exact congrArg (AOp.amo true · (4 * 2 ^ 0) false) hv
  · rw [if_neg (by omega), h1]
    exact congrArg (AOp.amo true · (4 * 2 ^ 1) false) hv

theorem aop_peerAtomic_cas (h : m.sub = 11) (hs : m.size ≤ 2) : aop (peerAtomic m) = .cas (4 * 2 ^ m.size) false := by
  have hv : (Fin.ofNat 3 m.size).val = m.size := Nat.mod_eq_of_lt (by omega)
  unfold peerAtomic
  dsimp only
  rw [if_pos h]
  simp only [aop, hv]

theorem execPcmdPart_starts {i : Instr} {k : Nat} (hi : Sys2Proof.decodeTableWord 32 (m.opa.toNat % 2 ^ 32) = some i)
    (hk : aop i = .pcmd k) (ht : tierOf m.addr = some 0) (hl : m.addr % 256 + m.cnt % 512 ≤ 256) (h0 : m.cnt % 512 ≠ 0) :
    ∃ x, execPcmdPart m s = .next (startPeer s x) ∧ x.die = 4 ∧ x.peer = none ∧ x.src = .peer m.src m.tag ∧ x.vf = m.vf ∧
      x.pa = m.addr ∧ x.kind = .pcmd ∧ x.req.op = i ∧ x.len = m.cnt % 512 ∧ x.entry = m.data ∧ x.lmask = m.opb := by
  have hno : ¬ (tierOf m.addr ≠ some 0 || m.addr % 256 + m.cnt % 512 > 256 || m.cnt % 512 = 0) = true := by
    simp only [Bool.or_eq_true, decide_eq_true_eq]
    exact fun h => h.elim (fun h => h.elim (fun h => h ht) fun h => by omega) h0
  unfold execPcmdPart
  dsimp only
  rw [hi]
  dsimp only
  rw [hk]
  dsimp only
  rw [if_neg hno]
  exact ⟨_, rfl, rfl, rfl, rfl, rfl, rfl, rfl, rfl, rfl, rfl, rfl⟩

end

/-- Settles O56. -/
theorem requestsFromPeers : Obligations.RequestsFromPeers := by
  refine fun m s => ⟨fun hr => ?_, fun hr => ?_, fun hr => ?_, fun hr hc => ?_, fun hr hs => ?_, fun hr hs => ?_,
    fun i k hi hk ht hl h0 => ?_, fun hr => ⟨?_, ?_⟩⟩
  · refine (exec_read ..).trans ?_
    unfold execRead
    rw [hr]
    rfl
  · refine startsFor_of (x := { peerTxn m .load with rd := (List.range m.len).map fun i => (m.addr + i, i) }) ?_ rfl rfl rfl rfl rfl
      ⟨rfl, rfl⟩
    refine (exec_read ..).trans ?_
    unfold execRead
    rw [hr]
    rfl
  · refine startsFor_of (x := { peerTxn m .store with wr := putCells m }) ?_ rfl rfl rfl rfl rfl ⟨rfl, rfl⟩
    refine (exec_putWithoutPost ..).trans ?_
    unfold execPutWithoutPost
    rw [hr]
    rfl
  · refine startsFor_of (x := { peerTxn m .store with wr := putCells m, cnt := m.cnt, add := putAdd m, fe := 0 }) ?_
      rfl rfl rfl rfl rfl ⟨rfl, rfl, rfl, rfl⟩
    refine (exec_putWithPost ..).trans ?_
    unfold execPutWithPost
    rw [hr, hc]
    rfl
  · obtain ⟨x, he, hd, hp, hsrc, hv, ha, hkind, hlen, hop, hent⟩ := execAtomic_starts (s := s) hr hs
    refine startsFor_of ((exec_atomic ..).trans he) hd hp hsrc hv ha ⟨hkind, hlen, fun h => ⟨?_, hent h⟩, fun h => ?_⟩
    · rw [hop, aop_peerAtomic_amo h (by omega)]
    · rw [hop, aop_peerAtomic_cas h (by omega)]
  · refine startsFor_of (x := { peerTxn m (if m.sub < 3 then .acquire else .release) with
      len := 16, entry := m.opa.zeroExtend 2048, add := m.opb.toNat }) ?_ rfl rfl rfl rfl rfl ⟨rfl, rfl, rfl⟩
    refine (exec_sync ..).trans ?_
    unfold execSync
    rw [hr, Bool.not_true, if_neg Bool.false_ne_true, if_neg (by omega)]
  · obtain ⟨x, he, hd, hp, hsrc, hv, ha, hkind, hop, hlen, hent, hlm⟩ := execPcmdPart_starts (s := s) hi hk ht hl h0
    exact startsFor_of ((exec_pcmdPart ..).trans he) hd hp hsrc hv ha ⟨hkind, hop, hlen, hent, hlm⟩
  · refine (exec_orderedMulticastToRoot ..).trans ?_
    unfold execOrderedMulticastToRoot
    rw [hr]
    rfl
  · intro k d s1
    have hrun : exec (.orderedMulticastCopy m) s = execOrderedMulticastCopy m s := exec_orderedMulticastCopy ..
    unfold execOrderedMulticastCopy at hrun
    dsimp only at hrun
    rw [hr, Bool.not_true, if_neg Bool.false_ne_true] at hrun
    refine ⟨fun h0 => hrun.trans (if_pos h0), fun h0 hlt hh => ?_, fun hge => ?_⟩
    · exact hrun.trans ((if_neg h0).trans ((if_neg (Nat.not_le.mpr hlt)).trans (if_pos hh)))
    · have h0 : d ≠ 0 := by omega
      exact hrun.trans ((if_neg h0).trans (if_pos hge))

end Sys2Proof.Machine
end

section
/-!
PROOFS. The combining all-reduce (R415 to R419).
-/
namespace Sys2Proof.Machine
open Sys2Proof.Claims

/-! Contributions. -/

/-- A contribution comes from the entry's own VF, or for any VF (R416; log 77). -/
def ownContribution (s : State) (v : Nat) : ReqSrc → Bool
  | .ctx g _ => vfOf s g == v
  | .host (some f) => f == v
  | _ => true

/-- The entry's list can be read and names this module. -/
def arListed (s : State) (v i : Nat) : Bool :=
  match arList s v i with
  | some l => (arIndex s l).isSome
  | none => false

theorem arListed_iff (s : State) (v i : Nat) : arListed s v i = true ↔ ∃ l, arList s v i = some l ∧ (arIndex s l).isSome = true := by
  unfold arListed
  cases h : arList s v i <;> simp

theorem arListed_of_refused {s : State} {v i : Nat} (h : arList s v i = none ∨ ∃ l, arList s v i = some l ∧ arIndex s l = none) :
    arListed s v i = false := by
  unfold arListed
  rcases h with h | ⟨l, h, hx⟩
  · rw [h]
  · rw [h]
    simp [hx]

/-- The state in which a contribution has opened its sequence. -/
def arOpened (s : State) (v i : Nat) (c : Word64) : State :=
  arSet { s with arHeld := s.arHeld.filter fun h => !(h.v == v && h.i == i && h.n == arNext s v i) }
    { v := v, i := i, n := arNext s v i, c := some c,
      parts := (s.arHeld.filter fun h => h.v == v && h.i == i && h.n == arNext s v i).map fun h => (h.child, h.val),
      sentUp := false, since := s.clock, toWrite := none, redo := false, ends := false }

theorem execArcontWrite_eq (src : ReqSrc) (v i : Nat) (c : Word64) (s : State) : execArcontWrite src v i c s =
    if !rbit s (arcfg v i) 0 || 8 < rfld s (arcfg v i) 1 4 || !arListed s v i || !ownContribution s v src || (arFind s v i).isSome then
      .next (rincHold s (arcfg v i + 24) 32 32)
    else .next (arTry (after (arOpened s v i c) 1250000 (.allreduceTimeout v i (arNext s v i))) v i) := by
  cases src with
  | host f => cases f <;> rfl
  | _ => rfl

/-! Partials. -/

section
variable {m : Msg} {s : State} {l : List Nat} {j k : Nat} (hl : arList s m.vf m.sub = some l)
  (hj : arIndex s l = some j) (hk : l.findIdx? (fun x => x == m.src) = some k) (hc : (arKids l.length j).contains k = true)
include hl hj hk hc

theorem execAllReducePartial_open {a : ArSeq} (ha : arFind s m.vf m.sub = some a) (hn : a.n = m.sq) : execAllReducePartial m s =
    .next (arTry (respond (arSet s { a with parts := (a.parts.filter fun p => p.1 != k) ++ [(k, m.opa)] }) m 0x10 0 0 0 0)
      m.vf m.sub) := by
  unfold execAllReducePartial
  dsimp only
  rw [hl]
  dsimp only
  rw [hj, hk]
  dsimp only
  rw [if_pos hc]
  dsimp only
  rw [ha]
  exact if_pos hn

theorem execAllReducePartial_next (ha : arFind s m.vf m.sub = none) (hn : m.sq = arNext s m.vf m.sub)
    (hh : (s.arHeld.any fun h => h.v == m.vf && h.i == m.sub && h.child == k) = false) : execAllReducePartial m s =
    .next (respond { s with arHeld := s.arHeld ++ [{ v := m.vf, i := m.sub, n := m.sq, child := k, val := m.opa }] }
      m 0x10 0 0 0 0) := by
  unfold execAllReducePartial
  dsimp only
  rw [hl]
  dsimp only
  rw [hj, hk]
  dsimp only
  rw [if_pos hc]
  dsimp only
  rw [ha]
  dsimp only
  rw [hh, if_neg]
  simp [hn]

end

/-! Aborts. -/

theorem arFind_respond (s : State) (m : Msg) (v i : Nat) : arFind (respond s m 0x10 0 0 0 0) v i = arFind s v i := by
  obtain ⟨_, _, _, h⟩ := respond_frame s m 0x10 0 0 0 0
  rw [h]
  rfl

theorem arList_respond (s : State) (m : Msg) (v i : Nat) : arList (respond s m 0x10 0 0 0 0) v i = arList s v i := by
  obtain ⟨_, _, _, h⟩ := respond_frame s m 0x10 0 0 0 0
  rw [h]
  rfl

theorem arIndex_respond (s : State) (m : Msg) (l : List Nat) : arIndex (respond s m 0x10 0 0 0 0) l = arIndex s l := by
  obtain ⟨_, _, _, h⟩ := respond_frame s m 0x10 0 0 0 0
  rw [h]
  rfl

section
variable {s : State} {v i n : Nat} {l : List Nat} (hl : arList s v i = some l)
include hl

theorem arAbortHere_member (hx : arIndex s l ≠ some 0) : arAbortHere s v i n = arDown s v i n 0 2 := by
  unfold arAbortHere
  rw [hl]
  exact if_neg (by simpa using hx)

theorem arAbortHere_root (hx : arIndex s l = some 0) : arAbortHere s v i n = arAbortDown s v i n := by
  unfold arAbortHere
  rw [hl]
  exact if_pos (by simpa using hx)

end

theorem execAllReduceAbort_behind {m : Msg} {s : State} {a : ArSeq} (ha : arFind s m.vf m.sub = some a)
    (hw : a.toWrite.isSome = true) (hn : (a.n + 1) % 2 ^ 32 = m.sq % 2 ^ 32) :
    execAllReduceAbort m s = .next (arSet (respond s m 0x10 0 0 0 0) { a with ends := true }) := by
  unfold execAllReduceAbort
  dsimp only
  rw [ha]
  exact if_pos (by rw [hw, Bool.true_and, beq_iff_eq]; exact hn)

theorem execAllReduceAbort_here {m : Msg} {s : State} (ha : ∀ a, arFind s m.vf m.sub = some a → a.toWrite = none) :
    execAllReduceAbort m s = .next (arAbortHere (respond s m 0x10 0 0 0 0) m.vf m.sub m.sq) := by
  unfold execAllReduceAbort
  dsimp only
  split
  · next a h => exact if_neg (by simp [ha a h])
  · rfl

/-! Records. -/

theorem execAllreduceTimeout_writes {s : State} {v i : Nat} {a : ArSeq} {x : Word64} {st : Nat} (ha : arFind s v i = some a)
    (hw : a.toWrite = some (x, st)) : execAllreduceTimeout v i a.n s = .next
      (if a.ends = true ∧ arFind (arRecord s v i a.n x st) v i = none then
        arAbortHere (arRecord s v i a.n x st) v i ((a.n + 1) % 2 ^ 32) else arRecord s v i a.n x st) := by
  unfold execAllreduceTimeout
  rw [ha]
  dsimp only
  rw [if_neg (not_not_intro rfl), hw]
  refine congrArg Host.Outcome.next (ite_congr (propext ?_) (fun _ => rfl) fun _ => rfl)
  rw [Bool.and_eq_true, Option.isNone_iff_eq_none]

theorem execAllreduceTimeout_late {s : State} {v i : Nat} {a : ArSeq} (ha : arFind s v i = some a) (hw : a.toWrite = none)
    (hc : a.c.isSome = true) (ht : a.since + 1250000 ≤ s.clock) :
    execAllreduceTimeout v i a.n s = .next (arRecord s v i a.n 0 3) := by
  unfold execAllreduceTimeout
  rw [ha]
  dsimp only
  rw [if_neg (not_not_intro rfl), hw]
  refine if_pos ?_
  rw [hc, Bool.true_and]
  exact decide_eq_true ht

/-- EN taken away: nothing of the entry stands open or is held, and its numbers start again (R415). -/
theorem execArcfgWrite_off {v i : Nat} {c : Word64} (s : State) (hc : c.getLsbD 0 = false) :
    ∃ t, execArcfgWrite v i 0 c s = .next t ∧ arFind t v i = none ∧ (∀ h ∈ t.arHeld, ¬ (h.v = v ∧ h.i = i)) ∧ arNext t v i = 0 := by
  have hrun : execArcfgWrite v i 0 c s = .next (rsetF (arDel { s with
      arHeld := s.arHeld.filter fun h => !(h.v == v && h.i == i), arEnd := tdel s.arEnd (arKey v i) } v i)
      (arcfg v i + 24) 0 32 0) := if_pos (by rw [hc]; rfl)
  refine ⟨_, hrun, ?_, fun h hh => ?_, rfld_rsetF_same (by decide) ..⟩
  · unfold arFind
    rw [rsetF_ar, List.find?_eq_none]
    intro a ha
    simpa [Decidable.imp_iff_not_or] using (List.mem_filter.mp ha).2
  · rw [rsetF_arHeld] at hh
    simpa [Decidable.imp_iff_not_or] using (List.mem_filter.mp hh).2

/-- Settles O57. -/
theorem allReduce : Obligations.AllReduce := by
  intro v i s n own
  have hown (src : ReqSrc) : own src = ownContribution s v src := by
    cases src with
    | host f => cases f <;> rfl
    | _ => rfl
  refine ⟨fun src c h => ?_, fun src c l ho hf he hop hl hx => ?_, fun c hc => ?_, fun a ha => ⟨fun x st hw => ?_, fun hw hc ht => ?_⟩,
    fun m l j k hv hi hl hj hk hc => ⟨fun a ha hn => ?_, fun ha hn hh => ?_⟩, fun m hv hi => ⟨?_, fun a ha hw hn => ?_, ?_⟩,
    fun x st hr hc => ?_⟩
  · refine (exec_arcontWrite ..).trans ((execArcontWrite_eq ..).trans (if_pos ?_))
    rw [hown] at h
    simp only [Bool.or_eq_true, Bool.not_eq_true', decide_eq_true_eq]
    rcases h with h | h | h | h | h
    · exact .inl (.inr h)
    · exact .inr h
    · exact .inl (.inl (.inl (.inl h)))
    · exact .inl (.inl (.inl (.inr h)))
    · exact .inl (.inl (.inr (arListed_of_refused h)))
  · refine (exec_arcontWrite ..).trans ((execArcontWrite_eq ..).trans (if_neg ?_))
    rw [hown] at ho
    have hlist := (arListed_iff s v i).mpr ⟨l, hl, hx⟩
    simp [ho, hf, he, hlist, hop]
  · obtain ⟨t, ht, hrest⟩ := execArcfgWrite_off (v := v) (i := i) s hc
    exact ⟨t, (exec_arcfgWrite ..).trans ht, hrest⟩
  · exact (exec_allreduceTimeout ..).trans (execAllreduceTimeout_writes ha hw)
  · exact (exec_allreduceTimeout ..).trans (execAllreduceTimeout_late ha hw hc ht)
  · subst hv hi
    exact (exec_allReducePartial ..).trans (execAllReducePartial_open hl hj hk hc ha hn)
  · subst hv hi
    exact (exec_allReducePartial ..).trans (execAllReducePartial_next hl hj hk hc ha hn hh)
  · subst hv hi
    exact exec_allReduceResult ..
  · subst hv hi
    exact (exec_allReduceAbort ..).trans (execAllReduceAbort_behind ha hw hn)
  · intro s1 l ha hl
    subst hv hi
    have hrun := (exec_allReduceAbort m s).trans (execAllReduceAbort_here ha)
    have hl1 : arList s1 m.vf m.sub = some l := (arList_respond s m ..).trans hl
    have hx1 : arIndex s1 l = arIndex s l := arIndex_respond s m l
    refine ⟨fun hx => ?_, fun hx he hn => ?_, fun hx he => ?_⟩
    · rw [hrun, arAbortHere_member hl1 (hx1 ▸ hx)]
    · rw [hrun, arAbortHere_root hl1 (hx1.trans hx)]
      refine congrArg Host.Outcome.next (if_neg ?_)
      rw [Bool.or_eq_true, decide_eq_true_eq, decide_eq_true_eq]
      exact fun h => h.elim he fun h => Nat.not_le.mpr hn h
    · rw [hrun, arAbortHere_root hl1 (hx1.trans hx)]
      refine congrArg Host.Outcome.next (if_pos ?_)
      rw [Bool.or_eq_true, decide_eq_true_eq]
      exact .inl he
  · unfold arRecord
    dsimp only
    rw [if_neg (not_not_intro rfl), hr, hc]
    rfl

end Sys2Proof.Machine
end

section
/-!
PROOFS. Migration of a virtual function (R422 to R428).
-/
namespace Sys2Proof.Machine
open Sys2Proof.Claims

/-! What sending leaves: memory, and the redirections kept. -/

/-- Memory and the cache of redirections are the same. -/
def SameRedir (s t : State) : Prop := t.mem = s.mem ∧ t.fab.redir = s.fab.redir

theorem SameRedir.trans {s t u : State} (h : SameRedir s t) (k : SameRedir t u) : SameRedir s u :=
  ⟨k.1.trans h.1, k.2.trans h.2⟩

theorem sameRedir_escHop (s : State) (q : QMsg) : SameRedir s (escHop s q).1 := by
  obtain ⟨a, h⟩ := escHop_frame s q
  rw [h]
  exact ⟨rfl, rfl⟩

theorem sameRedir_enterEscape (s : State) (q : QMsg) : SameRedir s (enterEscape s q).1 := by
  obtain ⟨a, h⟩ := enterEscape_frame s q
  rw [h]
  exact ⟨rfl, rfl⟩

theorem sameRedir_sourceRoute (s : State) (m : Msg) : SameRedir s (sourceRoute s m).1 := by
  unfold sourceRoute
  dsimp only
  split
  · exact ⟨rfl, rfl⟩
  · split
    · exact ⟨rfl, rfl⟩
    · exact ⟨rfl, rfl⟩

theorem sameRedir_chooseRoute (s : State) (q : QMsg) : SameRedir s (chooseRoute s q).1 := by
  unfold chooseRoute
  split
  · exact sameRedir_escHop ..
  · split
    · have h := sameRedir_sourceRoute s { q.m with nm := false, ig := 0 }
      split
      · next heq =>
        rw [heq] at h
        exact h
      · next heq =>
        rw [heq] at h
        exact SameRedir.trans h (sameRedir_enterEscape ..)
    · split
      · exact ⟨rfl, rfl⟩
      · exact sameRedir_enterEscape ..

theorem sameRedir_queueMsg (s : State) (m : Msg) (glob : Bool) (inp : Option (Nat × Nat)) : SameRedir s (queueMsg s m glob inp) := by
  have key (p : State × QMsg) (h : SameRedir s p.1) : SameRedir s (addQueue p.1 p.2) := h
  exact key _ (sameRedir_chooseRoute (fresh s).2 _)

theorem sameRedir_sendMsg (s : State) (m : Msg) : SameRedir s (sendMsg s m) := by
  unfold sendMsg
  split
  · exact ⟨rfl, rfl⟩
  · exact sameRedir_queueMsg ..

/-- A request entered by a way that keeps them keeps them. -/
theorem sameRedir_enterBy {send : State → Msg → State} (h : ∀ s m, SameRedir s (send s m)) (s : State) (m : Msg) (use : Use)
    (a : Agent) : SameRedir s (enterBy send s m use a) := by
  refine SameRedir.trans ?_ (h _ _)
  exact ⟨rfl, rfl⟩

theorem sameRedir_sendReq (s : State) (m : Msg) (use : Use) (a : Agent) : SameRedir s (sendReq s m use a) := by
  unfold sendReq
  split
  · unfold enterOwn
    dsimp only
    split
    · exact sameRedir_enterBy sameRedir_sendMsg ..
    · unfold enterRefused
      refine sameRedir_enterBy (fun _ _ => ?_) ..
      exact ⟨rfl, rfl⟩
  · exact ⟨rfl, rfl⟩

theorem execRedirackWrite_spec (v : Nat) (c : Word64) (s : State) : ∃ t, execRedirackWrite v c s = .next t ∧ t.mem = s.mem ∧
    ∀ r ∈ t.fab.redir, ¬ (r.m = c.toNat % 2 ^ 14 ∧ r.vf = c.toNat / 2 ^ 14 % 128) := by
  refine ⟨_, rfl, (sameRedir_sendReq ..).1, fun r hr hx => ?_⟩
  rw [(sameRedir_sendReq ..).2] at hr
  have hk := (List.mem_filter.mp hr).2
  rw [beq_iff_eq.mpr hx.1, beq_iff_eq.mpr hx.2] at hk
  cases hk

/-! A unit is sealed. -/

/-- A write of hardware changes no byte but its own. -/
theorem mread_hwPut_out (s : State) {a x : Nat} {l : List Byte} (h : ∀ i, i < l.length → x ≠ a + i) :
    mread (hwPut s a l) x = mread s x := by
  unfold hwPut hwWrite
  split
  · rfl
  · unfold hwWriteHere writeCells
    split
    · rfl
    · dsimp only
      split
      · refine mread_foldl_writeCell_out _ _ _ fun c hc => ?_
        obtain ⟨i, hi, he⟩ := mem_cellsAt hc
        exact he ▸ h i hi
      · rfl

/-- BMAP's byte enters: no other byte changes, and nothing that a seal or an answer turns on. -/
theorem bmapPut_frame (s : State) (v u : Nat) (x : Byte) :
    (bmapPut s v u x).mig = s.mig ∧ ∀ a, a ≠ bmapAt s v u → mread (bmapPut s v u x) a = mread s a := by
  unfold bmapPut
  dsimp only
  split
  · refine ⟨?_, fun a ha => mread_hwPut_out s fun i hi => ?_⟩
    · obtain ⟨m, p, i, t, g, h⟩ := hwPut_frame s (bmapAt s v u) [x]
      rw [h]
    · rw [Nat.lt_one_iff.mp hi]
      exact ha
  · obtain ⟨i, c, b, g, h⟩ := hwBehind_frame s (bmapAt s v u) [x]
    rw [h]
    exact ⟨rfl, fun _ _ => rfl⟩

/-- Where nothing pends and the byte can be written, BMAP's byte is written. -/
theorem mread_bmapPut {s : State} {v u : Nat} {x : Byte} (hr : hwReady s (bmapAt s v u) 1 = true)
    (hm : migFrame s (bmapAt s v u) = false) (hb : badByte s (bmapAt s v u) = false)
    (ht : tierOf (bmapAt s v u) = some 0 ∨ tierOf (bmapAt s v u) = some 1) :
    mread (bmapPut s v u x) (bmapAt s v u) = x := by
  unfold badByte at hb
  rw [Bool.or_eq_false_iff, Bool.or_eq_false_iff] at hb
  obtain ⟨⟨-, hstop⟩, hsp⟩ := hb
  unfold bmapPut
  dsimp only
  rw [if_pos hr, hwPut_good]
  · exact mread_mwrite_self s (bmapAt s v u) x
  · intro i hi
    rw [Nat.lt_one_iff.mp hi]
    exact hm
  · intro i hi
    rw [Nat.lt_one_iff.mp hi]
    exact ⟨ht, hsp, hstop⟩

/-- A PULL of a unit that no seal holds: the seal is entered, BMAP's byte is 1 where it can be, and the answer goes. -/
theorem execPull_seals {s : State} {m : Msg} {e : Nat} (v u : Nat) (hv : m.opb.toNat % 128 = v) (hu : m.opa.toNat % 2 ^ 57 / 2 ^ 16 = u)
    (hok : (rbit s (migs v) 0 && decide (rfld s (migs v + 8) 16 41 ≤ u) && decide (u < rfld s (migs v + 16) 16 41)) = true)
    (hs : (s.mig.seals.find? fun x => x.v == v && x.unit == u) = none) (hw : walkEntry s v (u * 2 ^ 16) = some (e, 0))
    {h : HWord} {x : Sealed} (hh : handleOf (u * 2 ^ 16) e 0 = h)
    (hx : { frame := handlePa h (u * 2 ^ 16) / 2 ^ 16, v := v, unit := u, dest := rfld s (migs v) 5 14,
            dframe := m.addr / 2 ^ 16, sent := false } = x)
    (ht : hTier h < 2) (htw : hTwin h = false) (hmg : hMig h ≠ 3) :
    execPull m s = .next (after (respond (bmapPut { s with mig := { s.mig with seals := s.mig.seals ++ [x] } } v u 1) m 0x10 0 0 0 0) 1
      (.pagedataTimeout (frameTimer x.frame) 0)) := by
  subst hv hu hh hx
  suffices hF : ∀ F : Msg → State → Res, F = execPull → F m s = _ from hF _ rfl
  intro F e
  delta execPull at e
  subst e
  refine (if_neg (by rw [hok]; decide)).trans ?_
  rw [hs]
  revert hw
  generalize walkEntry s (m.opb.toNat % 128) (m.opa.toNat % 2 ^ 57 / 2 ^ 16 * 2 ^ 16) = w
  revert w
  -- the kernel is to check this for every w: it does not walk the tables
  refine id fun w hw => ?_
  subst hw
  dsimp only
  split
  · next e' he =>
    cases he
    rw [htw, if_neg]
    rw [Bool.or_false, Bool.or_eq_true, decide_eq_true_eq, beq_iff_eq]
    omega
  · next hne => exact absurd rfl (hne e)

theorem execPull_refused {s : State} {m : Msg} (hok : (rbit s (migs (m.opb.toNat % 128)) 0 &&
    decide (rfld s (migs (m.opb.toNat % 128) + 8) 16 41 ≤ m.opa.toNat % 2 ^ 57 / 2 ^ 16) &&
    decide (m.opa.toNat % 2 ^ 57 / 2 ^ 16 < rfld s (migs (m.opb.toNat % 128) + 16) 16 41)) = false) :
    execPull m s = .next (respondError s m 11) := by
  suffices hF : ∀ F : Msg → State → Res, F = execPull → F m s = _ from hF _ rfl
  intro F e
  delta execPull at e
  subst e
  exact if_pos (by rw [hok]; rfl)

theorem execPull_sealed {s : State} {m : Msg} {x : Sealed} (hok : (rbit s (migs (m.opb.toNat % 128)) 0 &&
    decide (rfld s (migs (m.opb.toNat % 128) + 8) 16 41 ≤ m.opa.toNat % 2 ^ 57 / 2 ^ 16) &&
    decide (m.opa.toNat % 2 ^ 57 / 2 ^ 16 < rfld s (migs (m.opb.toNat % 128) + 16) 16 41)) = true)
    (hx : (s.mig.seals.find? fun x => x.v == m.opb.toNat % 128 && x.unit == m.opa.toNat % 2 ^ 57 / 2 ^ 16) = some x) :
    execPull m s = .next (sendUnit (respond s m 0x10 0 0 0 0) x) := by
  suffices hF : ∀ F : Msg → State → Res, F = execPull → F m s = _ from hF _ rfl
  intro F e
  delta execPull at e
  subst e
  refine (if_neg (by rw [hok]; decide)).trans ?_
  rw [hx]

/-- What follows from that state. -/
theorem sealed_spec (s : State) (m : Msg) (v u : Nat) (x : Sealed) (n : Nat) (i : Instr) {t : State}
    (ht : after (respond (bmapPut { s with mig := { s.mig with seals := s.mig.seals ++ [x] } } v u 1) m 0x10 0 0 0 0) n i = t) :
    t.mig.seals = s.mig.seals ++ [x] ∧ (∀ a, a ≠ bmapAt s v u → mread t a = mread s a) ∧
      (hwReady s (bmapAt s v u) 1 = true → badByte s (bmapAt s v u) = false → migFrame t (bmapAt s v u) = false →
        tierOf (bmapAt s v u) = some 0 ∨ tierOf (bmapAt s v u) = some 1 → mread t (bmapAt s v u) = 1) := by
  obtain ⟨s0, hs0⟩ : ∃ s0, s0 = { s with mig := { s.mig with seals := s.mig.seals ++ [x] } } := ⟨_, rfl⟩
  rw [← hs0] at ht
  obtain ⟨hmig, hout⟩ := bmapPut_frame s0 v u 1
  obtain ⟨j, f, a, hr⟩ := respond_frame (bmapPut s0 v u 1) m 0x10 0 0 0 0
  rw [hr] at ht
  have hm1 : t.mig = s0.mig := by rw [← ht]; exact hmig
  have hread (y : Nat) : mread t y = mread (bmapPut s0 v u 1) y := by rw [← ht]; rfl
  refine ⟨?_, fun y hy => ?_, fun hrd hb hmf htier => ?_⟩
  · rw [hm1, hs0]
  · rw [hread, hout y (by rw [hs0]; exact hy), hs0]
    rfl
  · have hmf0 : migFrame s0 (bmapAt s v u) = false := by
      unfold migFrame migVf at hmf ⊢
      rw [hm1] at hmf
      exact hmf
    rw [hread]
    subst hs0
    exact mread_bmapPut (s := { s with mig := { s.mig with seals := s.mig.seals ++ [x] } }) hrd hmf0 hb htier

/-! Page data. -/

theorem execPagedata_late {m : Msg} {s : State}
    (h : ((respond s m 0x10 0 0 0 0).mig.units.find? fun u => u.frame == m.addr / 2 ^ 16) = none) :
    execPagedata m s = .next (respond s m 0x10 0 0 0 0) := by
  unfold execPagedata
  dsimp only
  rw [h]

theorem execPagedata_fenced {m : Msg} {s : State} {u : MigUnit}
    (h : ((respond s m 0x10 0 0 0 0).mig.units.find? fun u => u.frame == m.addr / 2 ^ 16) = some u) (hf : srcFenced s u.v = true) :
    execPagedata m s = .next s := by
  unfold execPagedata
  dsimp only
  rw [h]
  exact if_pos hf

theorem execPagedata_new {m : Msg} {s : State} {u : MigUnit} (u1 : MigUnit) (s2 s3 : State)
    (h : ((respond s m 0x10 0 0 0 0).mig.units.find? fun u => u.frame == m.addr / 2 ^ 16) = some u)
    (hb : u.bits.getLsbD (m.addr / 256 % 256) = false) (hf : srcFenced s u.v = false)
    (hr : hwReady s (m.addr / 256 * 256) 256 = true)
    (hu : { u with bits := u.bits ||| BitVec.ofNat 256 (2 ^ (m.addr / 256 % 256)), got := u.got + 1 } = u1)
    (h2 : hwWriteHere (respond s m 0x10 0 0 0 0) (cellsAt (m.addr / 256 * 256) (bytesOf m.data 256)) = s2)
    (h3 : { s2 with mig := { s2.mig with units := s2.mig.units.map fun x => if x.v == u.v && x.unit == u.unit then u1 else x } } = s3) :
    execPagedata m s = .next (if u.got + 1 = 256 then installUnit s3 u1 else s3) := by
  subst hu h2 h3
  unfold execPagedata
  dsimp only
  rw [h]
  dsimp only
  rw [hb, hf, hr, if_neg (by decide), if_neg (by decide), if_neg (by decide)]

/-! Redirections acknowledged. -/

theorem execRedirack_of {m : Msg} {s : State} {p : Nat × Nat × Nat}
    (h : ackedPair (respond s m 0x10 0 0 0 0) (m.opa.toNat % 128) m.src m.vf = some p) :
    execRedirack m s = .next (rsetF
        { respond s m 0x10 0 0 0 0 with
          mig := { (respond s m 0x10 0 0 0 0).mig with peers := (respond s m 0x10 0 0 0 0).mig.peers.filter fun x => x != p } }
        (migs (m.opa.toNat % 128) + 32) 0 32 (rfld (respond s m 0x10 0 0 0 0) (migs (m.opa.toNat % 128) + 32) 0 32 - 1)) := by
  unfold execRedirack
  dsimp only
  rw [h]

/-! The source's and the destination's own timers. -/

theorem execPagedataTimeout_seal {x : Sealed} {s : State} (stamp : Nat)
    (h : (s.mig.seals.find? fun y => frameTimer y.frame == frameTimer x.frame) = some x) (hs : x.sent = false) :
    execPagedataTimeout (frameTimer x.frame) stamp s = .next (sendUnit s x) := by
  unfold execPagedataTimeout
  rw [if_pos (by unfold frameTimer; omega), h]
  dsimp only
  rw [hs, if_neg Bool.false_ne_true]

theorem execPagedataTimeout_page {tag f i : Nat} {o : Outst} {s : State} (ht : tag < 65536) (ho : tfind s.fab.outst tag = some o)
    (hu : o.use = .page f i) : execPagedataTimeout tag o.stamp s =
      .next (pageAgain (rincHold (setOutst s (tdel s.fab.outst tag)) (fabcfg + 24) 32 32) f i) := by
  unfold execPagedataTimeout
  rw [if_neg (Nat.not_le.mpr ht), ho]
  dsimp only
  rw [hu, decide_eq_true rfl]

theorem execPullTimeout_again {v u stamp : Nat} {x : MigUnit} {s : State}
    (h : (s.mig.units.find? fun x => x.v == v && x.unit == u && x.stamp == stamp && x.pulled) = some x) (hf : srcFenced s v = false) :
    execPullTimeout v u stamp s = .next (if x.got = 256 then installUnit s x else sendPull s x) := by
  unfold execPullTimeout
  rw [h]
  dsimp only
  rw [hf, if_neg Bool.false_ne_true]

theorem execMigrationPrefetch_pulls {v : Nat} {u : MigUnit} {s : State} (h0 : rbit s (migd v) 0 = true) (h1 : rbit s (migd v) 1 = true)
    (hu : (s.mig.units.find? fun u => u.v == v && !u.pulled) = some u) (hf : srcFenced s v = false) :
    execMigrationPrefetch v s = .next (after (drawIn (sendPull s u) 1 Config.cyclesPerUs).2
      (drawIn (sendPull s u) 1 Config.cyclesPerUs).1 (.migrationPrefetch v)) := by
  unfold execMigrationPrefetch
  rw [h0, h1, hu]
  dsimp only
  rw [hf, if_pos (by decide), if_neg Bool.false_ne_true]

/-- Settles O58: sealing, page data, redirections and prefetching, each at the branch its premises name. -/
theorem migration : Obligations.Migration := by
  intro s
  refine ⟨fun m => ⟨fun hok => ?_, fun hok => ⟨fun x hx => ?_, ?_⟩⟩, fun m => ⟨fun h => ?_, ?_, fun u h hf => ?_⟩,
    fun m => ⟨fun h => ?_, fun p hn hp => ?_⟩, fun v c => ?_, fun v => ⟨fun h2 h0 => ?_, fun h2 => ?_⟩, fun x stamp h hs => ?_,
    fun tag f i o ht ho hu => ?_, fun v u stamp x h hf => ?_, fun v u h0 h1 hu hf => ?_⟩
  · exact (exec_pull ..).trans (execPull_refused hok)
  · exact (exec_pull ..).trans (execPull_sealed hok hx)
  · intro e hs hw h x ht htw hmg
    exact ⟨_, (exec_pull ..).trans (execPull_seals _ _ rfl rfl hok hs hw rfl rfl ht htw hmg), sealed_spec s m _ _ x 1 _ rfl⟩
  · exact (exec_pagedata ..).trans (execPagedata_late h)
  · intro u h hb hf hr
    exact (exec_pagedata ..).trans (execPagedata_new _ _ _ h hb hf hr rfl rfl rfl)
  · exact (exec_pagedata ..).trans (execPagedata_fenced h hf)
  · exact (exec_redirack ..).trans (execRedirack_of (if_pos h))
  · refine (exec_redirack ..).trans (execRedirack_of ((if_neg ?_).trans hp))
    rw [hn]
    exact Bool.false_ne_true
  · obtain ⟨t, h, ht⟩ := execRedirackWrite_spec v c s
    exact ⟨t, (exec_redirackWrite ..).trans h, ht⟩
  · refine (exec_migsClose ..).trans ?_
    unfold execMigsClose
    rw [h2, h0]
    rfl
  · refine (exec_migsClose ..).trans ?_
    unfold execMigsClose
    rw [h2]
    rfl
  · exact (exec_pagedataTimeout ..).trans (execPagedataTimeout_seal stamp h hs)
  · exact (exec_pagedataTimeout ..).trans (execPagedataTimeout_page ht ho hu)
  · exact (exec_pullTimeout ..).trans (execPullTimeout_again h hf)
  · exact ⟨_, (exec_migrationPrefetch ..).trans (execMigrationPrefetch_pulls h0 h1 hu hf), rfl, rfl, rfl⟩

end Sys2Proof.Machine
end

section
/-!
PROOFS. The host's accesses (R208, R227, R431 to R433) and its arbiter (R429, R430).
-/
namespace Sys2Proof.Machine
open Sys2Proof.Claims

/-! An access of the host. -/

/-- The host's access `n` waits under number `id`; the way from s to t wrote no memory and no register, and gave nothing out. -/
def HostWaits (s t : State) (id n : Nat) : Prop :=
  (∃ x, getTxn t id = some x ∧ x.src = .host n ∧ x.kind = .fe) ∧ id < t.ids ∧ t.outbox = s.outbox ∧ t.mem = s.mem ∧ t.regs = s.regs

/-- Sending another part from the Ridge die leaves the access waiting. -/
theorem HostWaits.sendTxn {s t : State} {id n : Nat} (h : HostWaits s t id n) {x : Txn} (hd : 4 ≤ x.die) (k late : Nat) :
    HostWaits s (sendTxn t x k late).1 id n := by
  obtain ⟨⟨y, hy, hsrc, hk⟩, hid, hout, hmem, hregs⟩ := h
  have htx (v : Txn) : tfind (tset t.txns t.ids v) id = some y := by
    rw [tfind_tset, if_neg (Nat.ne_of_lt hid)]
    exact hy
  have hid' : id < t.ids + 1 := Nat.lt_succ_of_lt hid
  unfold Machine.sendTxn fresh
  dsimp only
  rw [lookup_of_ridge hd, fillRules_of_ridge hd]
  dsimp only
  split
  · exact ⟨⟨y, htx _, hsrc, hk⟩, hid', hout, hmem, hregs⟩
  · exact ⟨⟨y, htx _, hsrc, hk⟩, hid', hout, hmem, hregs⟩

theorem HostWaits.drawLat {s t : State} {id n : Nat} (h : HostWaits s t id n) (x : Txn) : HostWaits s (drawLat t x).2 id n := by
  obtain ⟨c, hc⟩ := drawLat_frame t x
  rw [hc]
  exact h

/-- One part after another is drawn its time and sent. -/
def hostSend (s : State) (t : Txn) : State := (sendTxn (drawLat s t).2 t (drawLat s t).1).1

theorem HostWaits.foldl_hostSend {s : State} {id n : Nat} (l : List Txn) (hl : ∀ x ∈ l, 4 ≤ x.die) {t : State}
    (h : HostWaits s t id n) : HostWaits s (l.foldl hostSend t) id n := by
  induction l generalizing t with
  | nil => exact h
  | cons x l ih =>
    exact ih (fun y hy => hl y (List.mem_cons_of_mem _ hy)) ((h.drawLat x).sendTxn (hl x (List.mem_cons_self ..)) _ _)

/-- What a start of an access may make of its parts: all are the Ridge die's. -/
def ridgeParts (parts : Txn → Nat → Nat → Nat → List Txn) : Prop :=
  ∀ t pa x n, t.die = 4 → ∀ p ∈ parts t pa x n, p.die = 4

theorem hostStart_starts {s : State} {o : HostReq} {nd : HostNeed} {parts : Txn → Nat → Nat → Nat → List Txn} (hp : ridgeParts parts)
    (h0 : o.len ≠ 0)
    (hok : (hostTakes s o nd && (cutAt 65536 o.addr o.len).all fun p => (hostPlace s o nd p.1 p.2).isSome) = true) :
    HostWaits s (hostStart s o nd parts) s.ids (o.port * 1024 + o.tag) := by
  rw [Bool.and_eq_true, List.all_eq_true] at hok
  obtain ⟨htk, hpl⟩ := hok
  unfold hostStart
  dsimp only
  rw [if_neg]
  · refine HostWaits.foldl_hostSend _ (fun p hm => ?_)
      ⟨⟨_, tfind_tset_self .., rfl, rfl⟩, Nat.lt_succ_self _, rfl, rfl, rfl⟩
    obtain ⟨y, -, hy⟩ := List.mem_flatMap.mp hm
    exact Nat.le_of_eq (hp _ _ _ _ (by rfl) p hy).symm
  · rw [htk, decide_eq_false h0, Bool.not_true, Bool.false_or, Bool.false_or, List.any_eq_true]
    rintro ⟨y, hy, hn⟩
    obtain ⟨p, hm, rfl⟩ := List.mem_map.mp hy
    obtain ⟨v, hv⟩ := Option.isSome_iff_exists.mp (hpl p hm)
    rw [hv] at hn
    cases hn

theorem hostStart_refused {s : State} {o : HostReq} {nd : HostNeed} (parts : Txn → Nat → Nat → Nat → List Txn)
    (h : o.len = 0 ∨ (hostTakes s o nd && (cutAt 65536 o.addr o.len).all fun p => (hostPlace s o nd p.1 p.2).isSome) = false) :
    hostStart s o nd parts = emitOut s (.completion o.port o.tag false []) := by
  unfold hostStart
  dsimp only
  rw [if_pos]
  rw [Bool.or_eq_true, Bool.or_eq_true, decide_eq_true_eq]
  rcases h with h | h
  · exact .inl (.inl h)
  · rcases Bool.and_eq_false_iff.mp h with h | h
    · exact .inl (.inr (by rw [h]; rfl))
    · obtain ⟨p, hm, hn⟩ := List.all_eq_false.mp h
      refine .inr (List.any_eq_true.mpr ⟨_, List.mem_map.mpr ⟨p, hm, rfl⟩, ?_⟩)
      rw [Option.isNone_map, Option.not_isSome_iff_eq_none.mp hn]
      rfl

/-- An access that begins, in the words of the statement. -/
theorem starts_of {s : State} {r : Res} {t : State} (hr : r = .next t) {n : Nat} (h : HostWaits s t s.ids n) :
    ∃ t x, r = .next t ∧ getTxn t s.ids = some x ∧ x.src = .host n ∧ x.kind = .fe ∧ t.outbox = s.outbox ∧ t.mem = s.mem ∧
      t.regs = s.regs := by
  obtain ⟨⟨x, hx, hsrc, hk⟩, -, hout, hmem, hregs⟩ := h
  exact ⟨t, x, hr, hx, hsrc, hk, hout, hmem, hregs⟩

/-! Atomics of the host. -/

/-- The part of a host's atomic, at its slice. -/
def hostAtomicPart (o : HostReq) (i : Instr) (t : Txn) (pa _x n : Nat) : List Txn :=
  [{ t with kind := .atomic, pa := pa, len := n
            entry := if o.op = 2 then BitVec.ofNat 2048 (o.cmp.toNat % 2 ^ (8 * o.len) + o.data.toNat % 2 ^ (8 * o.len) * 2 ^ (8 * o.len))
              else o.data.truncate 2048
            req := { t.req with op := i } }]

theorem execHostAtomicop_runs {o : HostReq} {i : Instr} (h : hostOp o = some i) (ha : o.addr % o.len = 0) (hb : o.bar0 = false)
    (s : State) : execHostAtomicop o s =
      .next (hostStart s o { read := false, write := true, op := aop i } (hostAtomicPart o i)) := by
  unfold execHostAtomicop
  rw [h]
  dsimp only
  rw [hb, ha, if_neg (by decide)]
  rfl

theorem execHostAtomicop_none {o : HostReq} (h : hostOp o = none ∨ o.addr % o.len ≠ 0 ∨ o.bar0 = true) (s : State) :
    execHostAtomicop o s = .next (emitOut s (.completion o.port o.tag false [])) := by
  unfold execHostAtomicop
  cases ho : hostOp o with
  | none => rfl
  | some i =>
    refine if_pos ?_
    rw [Bool.or_eq_true, decide_eq_true_eq]
    exact h.resolve_left (by rw [ho]; exact Option.some_ne_none i)

/-- An AtomicOp that stands for an instruction has bytes. -/
theorem len_ne_zero_of_hostOp {o : HostReq} {i : Instr} (h : hostOp o = some i) : o.len ≠ 0 := by
  intro h0
  unfold hostOp at h
  rw [h0] at h
  split at h <;> simp_all

/-! The arbiter. -/

theorem harbFind_harbPut (s : State) (v u : Nat) (st : HarbState) :
    harbFind (harbPut s v u st) v u = some { v := v, unit := u, st := st, stamp := s.ids } := by
  have hnone : ((s.harb.filter fun e => !(e.v == v && e.unit == u)).find? fun e => e.v == v && e.unit == u) = none := by
    rw [List.find?_eq_none]
    intro e he hx
    have hk := (List.mem_filter.mp he).2
    rw [hx] at hk
    cases hk
  unfold harbFind harbPut fresh
  dsimp only
  rw [List.find?_append, hnone, Option.none_or, List.find?_cons, beq_self_eq_true, beq_self_eq_true]
  rfl

theorem harbDwell_entry (s : State) (v u : Nat) (st : HarbState) :
    ∃ x, harbFind (harbDwell s v u st) v u = some x ∧ x.st = st := by
  refine ⟨{ v := v, unit := u, st := st, stamp := s.ids }, ?_, rfl⟩
  unfold harbDwell
  dsimp only
  rw [harbFind_harbPut]
  exact harbFind_harbPut s v u st

/-- What an entry answers to the host's request. -/
theorem execHarbGo_entry {v : Nat} {s : State} {e : HarbEnt} (h : harbFind s v (rfld s (harbReg v + 8) 16 41) = some e) :
    execHarbGo v s = .next (rsetF s (harbReg v + 8) 1 3 (match e.st with
      | .movingD => 2
      | .dwellD => 3
      | .movingH => 1
      | .dwellH => 1)) := by
  unfold execHarbGo
  dsimp only
  rw [h]
  cases hst : e.st <;> simp only [hst]

theorem execHarbGo_full {v : Nat} {s : State} (h : harbFind s v (rfld s (harbReg v + 8) 16 41) = none) (hf : 256 ≤ s.harb.length) :
    execHarbGo v s = .next (rsetF s (harbReg v + 8) 1 3 4) := by
  unfold execHarbGo
  dsimp only
  rw [h]
  exact if_pos hf

theorem execHarbGo_enters {v : Nat} {s : State} (h : harbFind s v (rfld s (harbReg v + 8) 16 41) = none) (hf : s.harb.length < 256) :
    execHarbGo v s = .next (rsetF (harbPut s v (rfld s (harbReg v + 8) 16 41) .movingH) (harbReg v + 8) 1 3 1) := by
  unfold execHarbGo
  dsimp only
  rw [h]
  exact if_neg (Nat.not_le.mpr hf)

theorem execHarbDone_of {v u : Nat} {s : State} {e : HarbEnt} (h : harbFind s v u = some e) :
    (e.st = .movingD → execHarbDone v u s = .next (harbDwell s v u .dwellD)) ∧
    (e.st = .movingH → execHarbDone v u s = .next (harbDwell s v u .dwellH)) ∧
    (e.st = .dwellD ∨ e.st = .dwellH → execHarbDone v u s = .next s) := by
  unfold execHarbDone
  rw [h]
  dsimp only
  refine ⟨fun hst => by rw [hst], fun hst => by rw [hst], ?_⟩
  rintro (hst | hst)
  · rw [hst]
  · rw [hst]

/-- An entry that dwells under this stamp returns to idle; the others stay. -/
theorem mem_harbDwellExpire (l : List HarbEnt) (v u stamp : Nat) (e : HarbEnt) :
    e ∈ (l.filter fun e => !(e.v == v && e.unit == u && e.stamp == stamp && (e.st == .dwellD || e.st == .dwellH))) ↔
      e ∈ l ∧ ¬ (e.v = v ∧ e.unit = u ∧ e.stamp = stamp ∧ (e.st = .dwellD ∨ e.st = .dwellH)) := by
  rw [List.mem_filter, Bool.not_eq_true', ← Bool.not_eq_true]
  simp only [Bool.and_eq_true, Bool.or_eq_true, beq_iff_eq, and_assoc]

/-- Settles O59: the parts of an access leave from the Ridge die one by one, which keeps the access waiting; the arbiter's entries are
read back from where they are put. -/
theorem hostSide : Obligations.HostSide := by
  refine ⟨fun o s => ⟨fun h0 hok => ?_, fun h => ?_, fun h0 hok => ?_, fun h => ?_, fun i hi ha hb => ⟨fun hok => ?_, fun h => ?_⟩,
    fun h => ?_, fun lo hi => ?_⟩,
    fun v s => ⟨⟨fun hn hf => ?_, fun hn hf => ?_, fun e he => ?_⟩, fun u e he => ⟨fun hst => ?_, fun hst => ?_, fun hst => ?_⟩,
      fun u stamp => ?_⟩⟩
  · refine starts_of (exec_hostMemoryRead ..) (hostStart_starts (fun t pa x n hd p hp => ?_) h0 hok)
    obtain ⟨l, -, rfl⟩ := List.mem_map.mp hp
    exact hd
  · exact (exec_hostMemoryRead ..).trans (congrArg Host.Outcome.next (hostStart_refused _ h))
  · refine starts_of (exec_hostMemoryWrite ..) (hostStart_starts (fun t pa x n hd p hp => ?_) h0 hok)
    obtain ⟨l, -, rfl⟩ := List.mem_map.mp hp
    exact hd
  · exact (exec_hostMemoryWrite ..).trans (congrArg Host.Outcome.next (hostStart_refused _ h))
  · refine starts_of ((exec_hostAtomicop ..).trans (execHostAtomicop_runs hi ha hb s))
      (hostStart_starts (fun t pa x n hd p hp => ?_) (len_ne_zero_of_hostOp hi) hok)
    rw [List.mem_singleton.mp hp]
    exact hd
  · exact (exec_hostAtomicop ..).trans ((execHostAtomicop_runs hi ha hb s).trans
      (congrArg Host.Outcome.next (hostStart_refused _ (.inr h))))
  · exact (exec_hostAtomicop ..).trans (execHostAtomicop_none h s)
  · exact exec_atsInvalidation ..
  · exact (exec_harbGo ..).trans (execHarbGo_full hn hf)
  · exact ⟨_, _, (exec_harbGo ..).trans (execHarbGo_enters hn hf), rfld_rsetF_same (by decide) .., harbFind_harbPut .., rfl⟩
  · exact (exec_harbGo ..).trans (execHarbGo_entry he)
  · obtain ⟨x, hx, hs⟩ := harbDwell_entry s v u .dwellD
    exact ⟨_, x, (exec_harbDone ..).trans ((execHarbDone_of he).1 hst), hx, hs⟩
  · obtain ⟨x, hx, hs⟩ := harbDwell_entry s v u .dwellH
    exact ⟨_, x, (exec_harbDone ..).trans ((execHarbDone_of he).2.1 hst), hx, hs⟩
  · exact (exec_harbDone ..).trans ((execHarbDone_of he).2.2 hst)
  · exact ⟨_, exec_harbDwellExpire .., rfl, fun e => mem_harbDwellExpire ..⟩

end Sys2Proof.Machine
end

section
/-!
PROOFS. A start (R447 to R449): it writes no memory but by its scrub, makes no context, and takes no port out of STATE 0.
-/
namespace Sys2Proof.Machine
open Sys2Proof.Claims

/-! The registers that a start leaves: STATE of the fabric ports, and EVCFG. -/

/-- Neither EVCFG nor the first word of a port. -/
def quietReg (a : Nat) : Prop := a ≠ evcfg ∧ ∀ p, p < 47 → a ≠ rport p

/-- Events are not recorded, and every port is in STATE 0. -/
def Quiet (s : State) : Prop := rbit s evcfg 0 = false ∧ ∀ p, p < 47 → portState s p = 0

theorem Quiet.rset {s : State} (h : Quiet s) {a : Nat} (ha : quietReg a) (v : Word64) : Quiet (rset s a v) := by
  refine ⟨?_, fun p hp => (rfld_congr (rget_rset_ne _ _ _ _ (ha.2 p hp).symm) ..).trans (h.2 p hp)⟩
  unfold rbit
  rw [rget_rset_ne _ _ _ _ ha.1.symm]
  exact h.1

/-- Nothing here runs: no context, no transaction, no group; memory is m or the host's part of it; flash holds the wear w. -/
def Started (m : List Host.Cell) (w : Tab Word64) (s : State) : Prop :=
  s.ctxs = [] ∧ s.txns = [] ∧ s.groups = [] ∧ s.start.powered = true ∧ s.start.flash.wear = w ∧
    (s.mem = m ∨ s.mem = m.filter fun c => tierOf c.1 == some 4) ∧ Quiet s

section
variable {m : List Host.Cell} {w : Tab Word64} {s : State}

theorem Started.rset (h : Started m w s) {a : Nat} (ha : quietReg a) (v : Word64) : Started m w (rset s a v) := by
  obtain ⟨hc, ht, hg, hp, hw, hm, hq⟩ := h
  exact ⟨hc, ht, hg, hp, hw, hm, hq.rset ha v⟩

theorem Started.rsetF (h : Started m w s) {a : Nat} (ha : quietReg a) (lo n v : Nat) : Started m w (rsetF s a lo n v) := h.rset ha _

theorem Started.rincHold (h : Started m w s) {a : Nat} (ha : quietReg a) (lo n : Nat) : Started m w (rincHold s a lo n) := h.rset ha _

/-- A change of the fields past STATE, or of EN, in a port's first word. -/
theorem Started.rsetF_rport (h : Started m w s) (p : Nat) {lo n : Nat} (hd : 1 + 3 ≤ lo ∨ lo + n ≤ 1) (v : Nat) :
    Started m w (Machine.rsetF s (rport p) lo n v) := by
  obtain ⟨hc, ht, hg, hp, hw, hm, hev, hst⟩ := h
  refine ⟨hc, ht, hg, hp, hw, hm, ?_, fun q hq => ?_⟩
  · unfold rbit
    rw [rget_rsetF_ne (by unfold evcfg rport RA; omega)]
    exact hev
  · by_cases he : rport q = rport p
    · unfold portState at hst ⊢
      rw [← he, rfld_rsetF_disjoint hd]
      exact hst q hq
    · unfold portState at hst ⊢
      rw [rfld_rsetF_ne he]
      exact hst q hq

theorem Started.after (h : Started m w s) (n : Nat) (i : Instr) : Started m w (after s n i) := h

/-- A change of the start's record that keeps power and wear. -/
theorem Started.withStart (h : Started m w s) {st : Start} (hp : st.powered = s.start.powered)
    (hf : st.flash.wear = s.start.flash.wear) : Started m w { s with start := st } := by
  obtain ⟨hc, ht, hg, hpw, hw, hm, hq⟩ := h
  exact ⟨hc, ht, hg, hp.trans hpw, hf.trans hw, hm, hq⟩

theorem Started.foldl {α : Type} (h : Started m w s) (l : List α) {f : State → α → State}
    (hf : ∀ t, Started m w t → ∀ a ∈ l, Started m w (f t a)) : Started m w (l.foldl f s) :=
  List.foldlRecOn l f h hf

theorem Started.postPlain (h : Started m w s) (k v : Nat) (i0 i1 : Word64) : Started m w (postPlain s k v i0 i1) := by
  have hev : rbit s evcfg 0 = false := h.2.2.2.2.2.2.1
  unfold Machine.postPlain postEvent
  rw [hev, if_neg Bool.false_ne_true]
  exact h.rincHold ⟨by unfold evcfg RA; omega, fun p _ => by unfold evcfg rport RA; omega⟩ _ _

theorem quietReg_measReg (i j : Nat) : quietReg (measReg i + 8 * j) :=
  ⟨by unfold evcfg measReg RA; omega, fun p _ => by unfold rport measReg RA; omega⟩

theorem quietReg_mgen : quietReg mgen := ⟨by decide, fun p _ => by unfold rport mgen RA; omega⟩
theorem quietReg_startst : quietReg startst := ⟨by decide, fun p _ => by unfold rport startst RA; omega⟩
theorem quietReg_startst_next : quietReg (startst + 8) := ⟨by decide, fun p _ => by unfold rport startst RA; omega⟩
theorem quietReg_hostcfg : quietReg hostcfg := ⟨by decide, fun p _ => by unfold rport hostcfg RA; omega⟩
theorem quietReg_fabcfg : quietReg fabcfg := ⟨by decide, fun p _ => by unfold rport fabcfg RA; omega⟩
theorem quietReg_spmap (d : Nat) : quietReg (spmap d) :=
  ⟨by unfold evcfg spmap RA; omega, fun p _ => by unfold rport spmap RA; omega⟩
theorem quietReg_retpc (i : Nat) : quietReg (retpc i) :=
  ⟨by unfold evcfg retpc RA; omega, fun p _ => by unfold rport retpc RA; omega⟩
theorem quietReg_wearReg (u j : Nat) : quietReg (wearReg u + 8 * j) :=
  ⟨by unfold evcfg wearReg RA; omega, fun p _ => by unfold rport wearReg RA; omega⟩

theorem Started.remeasure (h : Started m w s) (i : Nat) : Started m w (remeasure s i) := by
  unfold Machine.remeasure drawBits
  dsimp only
  refine Started.postPlain (Started.rsetF (Started.foldl (s := { s with ctr := s.ctr + 1 }) h _ fun t ht j _ => ?_) quietReg_mgen _ _ _) _ _ _ _
  exact ht.rset (quietReg_measReg i j) _

theorem Started.foldl_remeasure (h : Started m w s) (l : List Nat) : Started m w (l.foldl Machine.remeasure s) :=
  h.foldl l fun _ ht i _ => ht.remeasure i

/-! The steps of a start. -/

theorem Started.fuses (h : Started m w s) (o : StartIn) : Started m w (fuses s o) := by
  unfold Machine.fuses
  refine Started.foldl (Started.foldl h _ fun t ht d _ => ht.rset (quietReg_spmap d) _) _ fun t ht p _ => ?_
  exact Started.rset (s := { t with alerts := tset t.alerts p 4 }) ht (quietReg_retpc _) _

theorem Started.fuseStep (h : Started m w s) (o : StartIn) (measure : Bool) : Started m w (fuseStep s o measure) := by
  have hrem (c : Bool) {t : State} (i : Nat) (ht : Started m w t) : Started m w (if c then Machine.remeasure t i else t) := by
    split
    · exact ht.remeasure i
    · exact ht
  exact hrem _ _ (hrem _ _ (h.fuses o))

theorem Started.standIn (h : Started m w s) (n : Nat) (stored warm : Bool) : Started m w (standIn s n stored warm) := by
  unfold Machine.standIn fresh
  dsimp only
  split
  · exact h.rsetF quietReg_startst 0 3 n
  · exact h.rsetF quietReg_startst 0 3 n

theorem Started.scrubAll (h : Started m w s) : Started m w (scrubAll s) := by
  obtain ⟨hc, ht, hg, hp, hw, hm, hq⟩ := h
  refine ⟨hc, ht, hg, hp, hw, .inr ?_, hq⟩
  change s.mem.filter _ = _
  rcases hm with hm | hm
  · rw [hm]
  · rw [hm, List.filter_filter]
    simp only [Bool.and_self]

theorem Started.retrained (h : Started m w s) (o : StartIn) : Started m w (retrained s o) := by
  have h1 : Started m w ((o.redo.filter fun p => decide (p < 47)).foldl (fun s p => Machine.rincHold s (rport p + 16) 48 16) s) :=
    h.foldl _ fun t ht p _ => ht.rincHold
      ⟨by unfold evcfg rport RA; omega, fun q _ => by unfold rport RA; omega⟩ _ _
  unfold Machine.retrained drawBool
  dsimp only
  split
  · exact h1
  · split
    · exact h1
    · exact h1

theorem Started.fst_ite {c : Prop} [Decidable c] {a b : State × Option Nat} (ha : Started m w a.1) (hb : Started m w b.1) :
    Started m w (if c then a else b).1 := by
  split
  · exact ha
  · exact hb

theorem Started.attempt (h : Started m w s) (o : StartIn) (full warm measure : Bool) :
    Started m w (attempt s o full warm measure).1 := by
  unfold Machine.attempt
  extract_lets s0 n put s1 s3 stored s4 _ _ s5 scrub s6
  have hs0 : Started m w s0 := h.rincHold quietReg_startst_next 0 32
  have hput {t : State} (ht : Started m w t) (l : List Nat) : Started m w (put t l) := by
    unfold put
    split
    · exact ht.foldl_remeasure l
    · exact ht
  have hs1 : Started m w s1 := by
    unfold s1
    split
    · exact hs0
    · exact hs0.fuseStep o measure
  refine Started.fst_ite (hs1.standIn _ _ _) (Started.fst_ite ((hput hs1 _).standIn _ _ _) ?_)
  have hs3 : Started m w s3 := hput hs1 _
  refine Started.fst_ite (hs3.standIn _ _ _) (Started.fst_ite hs3 ?_)
  have hs4 : Started m w s4 := hs3.rsetF quietReg_startst _ _ _
  refine Started.fst_ite (hs4.standIn _ _ _) ?_
  have hs5 : Started m w s5 := by
    unfold s5
    split
    · exact hs4
    · split
      · exact hs4.retrained o
      · exact hs4.withStart rfl rfl
  refine Started.fst_ite (hs5.standIn _ _ _) ?_
  have hs6 : Started m w s6 := by
    unfold s6
    split
    · exact hs5.scrubAll
    · exact hs5
  exact Started.fst_ite (((hs6.rsetF quietReg_fabcfg _ _ _).standIn _ _ _).after _ _) (hs6.rsetF quietReg_startst _ _ _)

/-- An attempt from a state whose record of the start has changed. -/
theorem Started.of_attempt (h : Started m w s) {st : Start} {c : Nat} {o : StartIn} {full warm measure : Bool}
    {r : State × Option Nat} (hr : Machine.attempt { s with ctr := c, start := st } o full warm measure = r)
    (hp : st.powered = s.start.powered) (hf : st.flash = s.start.flash) : Started m w r.1 := by
  obtain ⟨hc, ht, hg, hpw, hw, hm, hq⟩ := h
  have h1 : Started m w { s with ctr := c, start := st } := ⟨hc, ht, hg, hp.trans hpw, (congrArg Flash.wear hf).trans hw, hm, hq⟩
  rw [← hr]
  exact h1.attempt o full warm measure

theorem Started.failNote (h : Started m w s) (n : Nat) : Started m w (failNote s n) :=
  (h.rincHold quietReg_startst_next _ _).rsetF quietReg_startst _ _ _

/-- In the service state every port stays in STATE 0, and none goes down. -/
theorem Started.service (h : Started m w s) : Started m w (service s) := by
  unfold Machine.service
  refine Started.foldl (Started.foldl ((h.rsetF quietReg_startst _ _ _).rsetF quietReg_startst _ _ _) _ fun t ht p _ => ?_) _
    fun t ht p hp => ?_
  · exact ht.rsetF_rport p (.inr (by decide)) _
  · have h0 : portState t p = 0 := ht.2.2.2.2.2.2.2 p (List.mem_range.mp hp)
    rw [h0, if_pos (by decide)]
    exact ht

theorem Started.failStart (h : Started m w s) (n : Nat) : Started m w (failStart s n) := by
  unfold Machine.failStart
  extract_lets s1
  have h1 : Started m w s1 := h.failNote n
  clear_value s1
  unfold drawIn
  dsimp only
  split
  · exact h1.service
  · split
    · next heq => exact h1.of_attempt heq rfl rfl
    · next heq => exact ((h1.of_attempt heq rfl rfl).failNote _).service

theorem Started.beginStart (h : Started m w s) (o : StartIn) (warm measure : Bool) : Started m w (beginStart s o warm measure) := by
  unfold Machine.beginStart
  split
  · next heq => exact h.of_attempt heq rfl rfl
  · next heq => exact (h.of_attempt heq rfl rfl).failStart _

theorem Started.stewardWork (h : Started m w s) : Started m w (stewardWork s) :=
  Started.foldl (s := nextWear s) h _ fun _ ht _ _ => ht

end

/-! What a start begins from. -/

theorem quiet_of_no_regs {s : State} (h : s.regs = []) : Quiet s := by
  have hget (a : Nat) : rget s a = regDefault a := by
    unfold rget
    rw [h]
    rfl
  refine ⟨?_, fun p hp => ?_⟩
  · unfold rbit
    rw [hget]
    decide
  · unfold portState rfld
    rw [hget, (regDefault_rport hp).1]
    decide

/-- The registers that a start keeps are none of those. -/
theorem Started.keepRegs {m : List Host.Cell} {w : Tab Word64} {t : State} (ht : Started m w t) (s : State) {regs : List Nat}
    (hr : ∀ a ∈ regs, quietReg a) (warm : Bool) : Started m w
      (let s1 := regs.foldl (fun x a => Machine.rset x a (rget s a)) t
       let s2 := Machine.rsetF s1 hostcfg 0 1 (rfld s hostcfg 0 1)
       if warm then Machine.rsetF s2 startst 5 1 (rfld s startst 5 1) else s2) := by
  have h2 := (ht.foldl regs fun x hx a ha => hx.rset (hr a ha) (rget s a)).rsetF quietReg_hostcfg 0 1 (rfld s hostcfg 0 1)
  dsimp only
  split
  · exact h2.rsetF quietReg_startst _ _ _
  · exact h2

theorem started_cleared (s : State) (warm : Bool) :
    Started (if warm then s.mem else hostMem s) s.start.flash.wear (cleared s warm) := by
  refine Started.keepRegs ⟨rfl, rfl, rfl, rfl, rfl, .inl rfl, quiet_of_no_regs rfl⟩ s (fun a ha => ?_) warm
  simp only [List.mem_append, List.mem_map, List.mem_singleton] at ha
  rcases ha with ((((⟨i, -, rfl⟩ | ⟨i, -, rfl⟩) | rfl) | ⟨i, -, rfl⟩) | ⟨i, -, rfl⟩) | rfl
  · exact quietReg_wearReg 0 i
  · exact quietReg_measReg 0 i
  · exact quietReg_mgen
  · exact quietReg_spmap i
  · exact quietReg_retpc i
  · exact quietReg_startst_next

theorem abandon_frame (s : State) : ∃ r, abandon s = { s with regs := r } := by
  unfold abandon
  dsimp only
  split
  · exact ⟨_, rfl⟩
  · exact ⟨_, rfl⟩

theorem execColdStart_started (o : StartIn) (s : State) :
    ∃ t, execColdStart o s = .next t ∧ Started (hostMem s) s.start.flash.wear t := by
  obtain ⟨r, hr⟩ := abandon_frame s
  refine ⟨_, rfl, Started.beginStart (Started.stewardWork ?_) ..⟩
  have h1 : Started (hostMem s) s.start.flash.wear (cleared (abandon s) false) := by
    have h := started_cleared (abandon s) false
    rw [hr] at h ⊢
    exact h
  refine Started.foldl (Started.rset (Started.foldl (Started.foldl h1 _ fun t ht i _ => ?_) _ fun t ht u _ => ?_) quietReg_mgen 0) _
    fun t ht i _ => ?_
  · exact ht.rset (quietReg_wearReg 0 i) _
  · exact ht.rincHold (quietReg_wearReg u 1) _ _
  · exact ht.foldl _ fun x hx j _ => hx.rset (quietReg_measReg i j) _

theorem execWarmReset_started (o : StartIn) (s : State) :
    ∃ t, execWarmReset o s = .next t ∧ Started s.mem s.start.flash.wear t := by
  obtain ⟨r, hr⟩ := abandon_frame s
  refine ⟨_, rfl, Started.beginStart (Started.stewardWork ?_) ..⟩
  have h := started_cleared (abandon s) true
  rw [hr] at h ⊢
  exact h

end Sys2Proof.Machine
end

section
/-!
PROOFS. Power, wear, the quote and a register write (R11, R182, R304, R451 to R453); O60.
-/
namespace Sys2Proof.Machine
open Sys2Proof.Claims

/-! A write of MXCTL's first word. -/

section
variable {n : Nat} (hn : n < 1024)
include hn

theorem regSpec_mxctl : regSpec (0xA0000 + 32 * n) = some { rw := 0xFFFFF, w1c := 0 } := by
  unfold regSpec
  dsimp only
  rw [if_neg (by omega), if_neg (by omega), if_neg (by omega), if_neg (by omega), if_neg (by omega), if_neg (by omega), if_neg (by omega),
    if_neg (by omega), if_neg (by omega), if_pos (by omega), show (0xA0000 + 32 * n) % 32 / 8 = 0 by omega]
  rfl

/-- Nothing else happens with the word. -/
theorem regEffects_mxctl (s : State) (src : ReqSrc) (old w new : Word64) (low : Bool) :
    regEffects s src (0xA0000 + 32 * n) old w new low = s := by
  have ha : isArcont (0xA0000 + 32 * n) = false := by
    unfold isArcont
    rw [decide_eq_false (by omega)]
    rfl
  have hr : isRedirack (0xA0000 + 32 * n) = false := by
    unfold isRedirack
    rw [decide_eq_false (by omega)]
    rfl
  unfold regEffects
  dsimp only
  rw [if_neg (by omega), if_neg (by omega), if_neg (by omega), if_neg (by omega), if_neg (by omega), if_neg (by omega), if_neg (by omega),
    if_neg (by omega), if_neg (by omega), if_neg (by omega), if_neg (by omega), if_neg (by omega), if_neg (by omega), if_neg (by omega),
    ha, hr]
  rfl

omit hn in
/-- An 8-byte write of a word without bits that a 1 clears, where nothing holds it back. -/
theorem regWrite_word {s : State} {src : ReqSrc} {pa : Nat} {c : Word64} {rw : Nat}
    (hheld : heldEn s ((pa - regBase) / 8 * 8) = false) (hmay : mayWrite src ((pa - regBase) / 8 * 8) = true)
    (hinv : ¬ (0x30000 ≤ (pa - regBase) / 8 * 8 ∧ (pa - regBase) / 8 * 8 < 0x30020))
    (hspec : regSpec ((pa - regBase) / 8 * 8) = some { rw := rw, w1c := 0 }) : ∃ new low,
    regWrite s src pa c 8 = regEffects (rset s (regBase + (pa - regBase) / 8 * 8)
      ((rget s (regBase + (pa - regBase) / 8 * 8) &&& ~~~ (BitVec.ofNat 64 (rw &&& ones 64))) ||| (c &&& BitVec.ofNat 64 (rw &&& ones 64))))
      src ((pa - regBase) / 8 * 8) (rget s (regBase + (pa - regBase) / 8 * 8)) c new low := by
  have h8 : ¬ (8 : Nat) = 4 := by decide
  have hz : BitVec.ofNat 64 (0 &&& ones 64) = 0#64 := by decide
  unfold regWrite
  simp only [hspec, hheld, hmay, hz, h8, Bool.not_true, Bool.false_eq_true, if_false, BitVec.ofNat_toNat, BitVec.setWidth_eq,
    BitVec.and_zero, BitVec.not_zero, BitVec.and_allOnes]
  rw [if_neg fun h => hinv ⟨h.1, h.2.1⟩]
  exact ⟨_, _, rfl⟩

theorem regWrite_mxctl (s : State) (src : ReqSrc) (c : Word64) :
    regWrite s src (mxctl n) c 8 = rset s (mxctl n) ((rget s (mxctl n) &&& ~~~ 0xFFFFF) ||| (c &&& 0xFFFFF)) := by
  have hpa : mxctl n = regBase + (0xA0000 + 32 * n) := rfl
  have ho : (mxctl n - regBase) / 8 * 8 = 0xA0000 + 32 * n := by
    unfold mxctl RA
    omega
  have hheld : heldEn s (0xA0000 + 32 * n) = false := by
    unfold heldEn
    rw [decide_eq_false (p := 0x120000 ≤ 0xA0000 + 32 * n) (by omega), Bool.and_false]
    rfl
  have hk : BitVec.ofNat 64 (0xFFFFF &&& ones 64) = 0xFFFFF := by decide
  obtain ⟨new, low, h⟩ := regWrite_word (s := s) (src := src) (pa := mxctl n) (c := c) (by rw [ho]; exact hheld)
    (by rw [ho]; exact if_neg (by omega)) (by omega) (by rw [ho]; exact regSpec_mxctl hn)
  rw [h, ho, regEffects_mxctl hn, ← hpa, hk]

theorem execRegisterWrite_mxctl (src : ReqSrc) (c : Word64) (s : State) : execRegisterWrite src (mxctl n) c 8 s =
    .next (if regAllowed s src (mxctl n) true 8 then rset s (mxctl n) ((rget s (mxctl n) &&& ~~~ 0xFFFFF) ||| (c &&& 0xFFFFF)) else s) := by
  have hsp : spmapDie (mxctl n) = none := by
    unfold spmapDie
    rw [List.find?_eq_none]
    intro d hd
    have hd4 := List.mem_range.mp hd
    rw [beq_iff_eq]
    unfold spmap mxctl RA
    omega
  have harm : foreignArm s src (mxctl n) c.toNat = false := by
    unfold foreignArm
    split
    · rw [decide_eq_false (by unfold mxctl RA; omega), Bool.false_and, Bool.false_and]
    · rfl
  have htier : tierOf (mxctl n) = some 3 := by
    unfold tierOf mxctl RA regBase
    rw [if_neg (by omega), if_neg (by omega), if_neg (by omega), if_pos (by omega)]
  unfold execRegisterWrite
  rw [hsp]
  split
  · next h => cases h
  · rw [harm, htier]
    refine congrArg Host.Outcome.next ?_
    have hcond : (regAllowed s src (mxctl n) true 8 && !false && some 3 == some 3) = regAllowed s src (mxctl n) true 8 := by
      rw [Bool.not_false, Bool.and_true, beq_self_eq_true, Bool.and_true]
    exact ite_congr (congrArg (· = true) hcond) (fun _ => regWrite_mxctl hn s src c) fun _ => rfl

end

/-! The governor's limits. -/

theorem mxctl_inj {n k : Nat} (h : mxctl n = mxctl k) : n = k := by
  unfold mxctl RA at h
  omega

/-- The fold over the units of a die sets each limit once, and no other register. -/
theorem foldl_limits (f : Nat → Nat) (b n : Nat) (s : State) :
    (∀ i, i < n → rfld ((List.range n).foldl (fun s i => rsetF s (mxctl (b + i)) 0 16 (f (rfld s (mxctl (b + i)) 0 16))) s)
      (mxctl (b + i)) 0 16 = f (rfld s (mxctl (b + i)) 0 16) % 2 ^ 16) ∧
    ∀ a, (∀ i, i < n → a ≠ mxctl (b + i)) →
      rget ((List.range n).foldl (fun s i => rsetF s (mxctl (b + i)) 0 16 (f (rfld s (mxctl (b + i)) 0 16))) s) a = rget s a := by
  induction n with
  | zero => exact ⟨fun i hi => absurd hi (Nat.not_lt_zero i), fun _ _ => rfl⟩
  | succ n ih =>
    obtain ⟨hin, hout⟩ := ih
    rw [List.range_succ, List.foldl_append, List.foldl_cons, List.foldl_nil]
    refine ⟨fun i hi => ?_, fun a ha => ?_⟩
    · rcases Nat.lt_succ_iff_lt_or_eq.mp hi with hi | rfl
      · rw [rfld_rsetF_ne fun h => Nat.ne_of_lt hi (Nat.add_left_cancel (mxctl_inj h)), hin i hi]
      · rw [rfld_rsetF_same (by decide), rfld_congr (hout _ fun j hj h => Nat.ne_of_gt hj (Nat.add_left_cancel (mxctl_inj h)))]
    · rw [rget_rsetF_ne (ha n (Nat.lt_succ_self n)), hout a fun i hi => ha i (Nat.lt_succ_of_lt hi)]

theorem execPowerAdjust_spec (die watts total : Nat) (s : State) : ∃ t, execPowerAdjust die watts total s = .next t ∧
    rfld t powcfg 16 16 = total % 65536 ∧ ∀ i, i < 256 →
      rfld t (mxctl (256 * (die % 4) + i)) 0 16 = max 1024 (min 0xFFFF
        (if rfld s powcfg 0 16 * rfld s powcfg 32 8 < watts * 256 then rfld s (mxctl (256 * (die % 4) + i)) 0 16 - rfld s powcfg 40 16
          else rfld s (mxctl (256 * (die % 4) + i)) 0 16 + rfld s powcfg 40 16)) := by
  obtain ⟨f, hf⟩ : ∃ f : Nat → Nat, f = fun lim => max 1024 (min 0xFFFF
      (if decide (rfld s powcfg 0 16 * rfld s powcfg 32 8 < watts * 256) then lim - rfld s powcfg 40 16 else lim + rfld s powcfg 40 16)) :=
    ⟨_, rfl⟩
  have hne (i : Nat) (hi : i < 256) : mxctl (256 * (die % 4) + i) ≠ powcfg := by
    unfold mxctl powcfg RA
    omega
  obtain ⟨hin, hout⟩ := foldl_limits f (256 * (die % 4)) 256 (rsetF s powcfg 16 16 total)
  obtain ⟨t, ht⟩ : ∃ t, t = (List.range 256).foldl (fun s i => rsetF s (mxctl (256 * (die % 4) + i)) 0 16
    (f (rfld s (mxctl (256 * (die % 4) + i)) 0 16))) (rsetF s powcfg 16 16 total) := ⟨_, rfl⟩
  rw [← ht] at hin hout
  refine ⟨nextAdjust t die, ?_, ?_, fun i hi => ?_⟩
  · rw [ht, hf]
    rfl
  · exact (rfld_congr (hout powcfg fun i hi => (hne i hi).symm) 16 16).trans (rfld_rsetF_same (by decide) ..)
  · refine (hin i hi).trans ?_
    rw [rfld_rsetF_ne (hne i hi), hf]
    simp only [decide_eq_true_eq]
    exact Nat.mod_eq_of_lt (by omega)

/-! Wear. -/

/-- One threshold of a unit is followed; a cycle that is complete counts. -/
def thermalBin (u temp : Nat) (s : State) (j : Nat) : State :=
  let r := swing s.start (4 * u + j) (200 * (j + 1)) temp
  if r.2 then rincHold { s with start := r.1 } (wearReg u + 8 * (j / 2)) (32 * (j % 2)) 32 else { s with start := r.1 }

theorem thermalBin_frame (u temp : Nat) (s : State) {j : Nat} (hj : j < 4) :
    rget (thermalBin u temp s j) (wearReg u + 16) = rget s (wearReg u + 16) ∧ (thermalBin u temp s j).mem = s.mem := by
  unfold thermalBin
  dsimp only
  split
  · exact ⟨rget_rsetF_ne (by omega) .., rfl⟩
  · exact ⟨rfl, rfl⟩

theorem execThermalCycleCount_eq {u : Nat} (hu : u < 12) (temp : Nat) (s : State) : execThermalCycleCount u temp s =
    .next (rsetF ([0, 1, 2].foldl (thermalBin u temp) s) (wearReg u + 16) 0 16
      (max (rfld ([0, 1, 2].foldl (thermalBin u temp) s) (wearReg u + 16) 0 16) (min 0xFFFF temp))) :=
  if_neg (Nat.not_le.mpr hu)

theorem execThermalCycleCount_spec {u : Nat} (hu : u < 12) (temp : Nat) (s : State) :
    ∃ t, execThermalCycleCount u temp s = .next t ∧
      rfld t (wearReg u + 16) 0 16 = max (rfld s (wearReg u + 16) 0 16) (min 0xFFFF temp) ∧ t.mem = s.mem := by
  obtain ⟨hreg, hmem⟩ : rget ([0, 1, 2].foldl (thermalBin u temp) s) (wearReg u + 16) = rget s (wearReg u + 16) ∧
      ([0, 1, 2].foldl (thermalBin u temp) s).mem = s.mem :=
    List.foldlRecOn (motive := fun t => rget t (wearReg u + 16) = rget s (wearReg u + 16) ∧ t.mem = s.mem) [0, 1, 2] (thermalBin u temp)
      ⟨rfl, rfl⟩ fun t ht j hj => by
        have hj4 : j < 4 := by
          simp only [List.mem_cons, List.not_mem_nil, or_false] at hj
          omega
        obtain ⟨hr, hm⟩ := thermalBin_frame u temp t hj4
        exact ⟨hr.trans ht.1, hm.trans ht.2⟩
  have hlt : rfld s (wearReg u + 16) 0 16 < 2 ^ 16 := Nat.mod_lt _ (by decide)
  refine ⟨_, execThermalCycleCount_eq hu temp s, ?_, hmem⟩
  rw [rfld_rsetF_same (by decide), rfld_congr hreg]
  exact Nat.mod_eq_of_lt (by omega)

/-- The table that a fold over the first n numbers leaves. -/
theorem tget_foldl_tput (f : Nat → Word64) (n i : Nat) :
    tget 0 ((List.range n).foldl (fun (t : Tab Word64) i => tput 0 t i (f i)) []) i = if i < n then f i else 0 := by
  induction n with
  | zero => rfl
  | succ n ih =>
    rw [List.range_succ, List.foldl_append, List.foldl_cons, List.foldl_nil, tget_tput, ih]
    by_cases h : i = n
    · rw [if_pos h, if_pos (by omega), h]
    · rw [if_neg h]
      exact ite_congr (propext (by omega)) (fun _ => rfl) fun _ => rfl

theorem wearToFlash_wear (s : State) {i : Nat} (hi : i < 48) :
    tget 0 (wearToFlash s).start.flash.wear i = rget s (wearReg 0 + 8 * i) :=
  (tget_foldl_tput (fun i => rget s (wearReg 0 + 8 * i)) 48 i).trans (if_pos hi)

/-- A timed event leaves all but the agenda as it was. -/
theorem after_restored (s : State) (n : Nat) (i : Instr) (x : Start) (y : List (Nat × Instr)) :
    { after s n i with start := x, agenda := y } = { s with start := x, agenda := y } := rfl

/-- Settles O60: a start keeps what `Started` says from the cleared state on; the registers by what each fold sets. -/
theorem startsPowerRegisters : Obligations.StartsPowerRegisters := by
  refine ⟨fun o s => ?_, fun o s => ?_, fun n s hn => ?_, fun o s => ⟨fun h => ?_, fun h => ?_⟩, fun src n c s hn => ⟨fun h => ?_, fun h => ?_⟩,
    fun die watts total s => ?_, fun u temp s hu => ?_, fun s => ⟨?_, ?_⟩, fun tag s => ?_⟩
  · obtain ⟨t, ht, hc, hx, hg, hp, -, hm, -⟩ := execColdStart_started o s
    refine ⟨t, (exec_coldStart ..).trans ht, hp, ?_, hc, hx, hg⟩
    rcases hm with hm | hm
    · exact hm
    · rw [hm, hostMem, List.filter_filter]
      simp only [Bool.and_self]
  · obtain ⟨t, ht, hc, hx, hg, hp, hw, hm, -⟩ := execWarmReset_started o s
    exact ⟨t, (exec_warmReset ..).trans ht, hp, hm, hc, hx, hg, hw⟩
  · refine (exec_startStepTimeout ..).trans (congrArg Host.Outcome.next (if_pos ?_))
    rw [hn]
    simp only [decide_true, Bool.and_self]
  · exact (exec_startstGo ..).trans (congrArg Host.Outcome.next (if_pos h))
  · exact (exec_startstGo ..).trans (congrArg Host.Outcome.next (if_neg (by rw [h]; exact Bool.false_ne_true)))
  · exact (exec_registerWrite ..).trans ((execRegisterWrite_mxctl hn src c s).trans (congrArg Host.Outcome.next (if_pos h)))
  · exact (exec_registerWrite ..).trans ((execRegisterWrite_mxctl hn src c s).trans
      (congrArg Host.Outcome.next (if_neg (by rw [h]; exact Bool.false_ne_true))))
  · obtain ⟨t, ht, h⟩ := execPowerAdjust_spec die watts total s
    exact ⟨t, (exec_powerAdjust ..).trans ht, h⟩
  · obtain ⟨t, ht, h⟩ := execThermalCycleCount_spec hu temp s
    exact ⟨t, (exec_thermalCycleCount ..).trans ht, h⟩
  · exact ⟨_, exec_wearFlashUpdate s, after_restored (wearToFlash s) .., fun i hi => wearToFlash_wear s hi⟩
  · exact ⟨_, exec_powerOff s, rfl, rfl, fun i hi => wearToFlash_wear s hi⟩
  · exact exec_attestationQuote tag s

end Sys2Proof.Machine
end

section
/-!
PROOFS. Memory's canonical form (log 1) under what the model's functions are made of: an update of another field, a choice, a fold, an
outcome.
-/
namespace Sys2Proof.Machine

/-- Memory is in its canonical form. -/
def Canon (s : State) : Prop := memWf s.mem = true

/-- Where r goes on, memory is in its canonical form. -/
def CanonRes (r : Res) : Prop := ∀ t, r = .next t → Canon t

/-- The state, where there is one, has memory in its canonical form. -/
def CanonOpt (o : Option State) : Prop := ∀ t, o = some t → Canon t

/-- The same of a state that comes with an answer behind it. -/
def CanonOptFst {α : Type} (o : Option (State × α)) : Prop := ∀ p, o = some p → Canon p.1

/-- The same of a state that comes behind its answer. -/
def CanonOptSnd {α : Type} (o : Option (α × State)) : Prop := ∀ p, o = some p → Canon p.2

/-! Answers that hold a state. -/

/-- The state that a fetch leaves. -/
def CanonFetch : Fetch → Prop
  | .wait s => Canon s
  | _ => True

def CanonQPeek : QPeek → Prop
  | .wait s => Canon s
  | _ => True

def CanonCodeRead : CodeRead → Prop
  | .wait s => Canon s
  | _ => True

def CanonFetched : Fetched → Prop
  | .wait s => Canon s
  | _ => True

def CanonRows : Rows → Prop
  | .done s | .bad s | .left s _ => Canon s

def CanonPerf : Perf → Prop
  | .done s | .queued s | .err s _ | .wait s => Canon s

def CanonAttempt : Attempt → Prop
  | .trap s | .stall s | .go s => Canon s

/-- What holds of a value holds of what it equals. -/
theorem pred_of_eq {α : Type} (P : α → Prop) {x y : α} (h : P x) (e : x = y) : P y := e ▸ h

/-! Updates. -/

/-- What leaves memory alone keeps the form. -/
theorem canon_upd {s t : State} (h : Canon s) (ht : t.mem = s.mem) : Canon t := memWf_congr ht h

theorem canon_mwrite {s : State} {a : Nat} {b : Byte} (h : Canon s) : Canon (mwrite s a b) := memWf_mwrite a b h

theorem canon_mwriteL {s : State} {a : Nat} {l : List Byte} (h : Canon s) : Canon (mwriteL s a l) := memWf_mwriteL a l h

theorem canon_zeroRange {s : State} {a n : Nat} (h : Canon s) : Canon (zeroRange s a n) := memWf_zeroRange a n h

/-! Choices. -/

section
variable {c : Prop} [Decidable c] {α : Type}

theorem pred_ite (P : α → Prop) {x y : α} (hx : P x) (hy : P y) : P (if c then x else y) := by
  split
  · exact hx
  · exact hy

theorem pred_ite_fst (P : α → Prop) {β : Type} {x y : α × β} (hx : P x.1) (hy : P y.1) : P (if c then x else y).1 := by
  split
  · exact hx
  · exact hy

theorem canon_ite {s t : State} (hs : Canon s) (ht : Canon t) : Canon (if c then s else t) := by
  split
  · exact hs
  · exact ht

theorem canon_ite_fst {p q : State × α} (hp : Canon p.1) (hq : Canon q.1) : Canon (if c then p else q).1 := by
  split
  · exact hp
  · exact hq

theorem canon_ite_snd {p q : α × State} (hp : Canon p.2) (hq : Canon q.2) : Canon (if c then p else q).2 := by
  split
  · exact hp
  · exact hq

theorem canonRes_ite {r q : Res} (hr : CanonRes r) (hq : CanonRes q) : CanonRes (if c then r else q) := by
  split
  · exact hr
  · exact hq

theorem canonOpt_ite {r q : Option State} (hr : CanonOpt r) (hq : CanonOpt q) : CanonOpt (if c then r else q) := by
  split
  · exact hr
  · exact hq

theorem canonOptFst_ite {r q : Option (State × α)} (hr : CanonOptFst r) (hq : CanonOptFst q) : CanonOptFst (if c then r else q) := by
  split
  · exact hr
  · exact hq

end

/-! Outcomes. -/

section
variable {α : Type}

theorem canonRes_next {s : State} (h : Canon s) : CanonRes (.next s) := fun _ ht => Host.Outcome.next.inj ht ▸ h
theorem canonRes_fault {f : Fault} : CanonRes (.fault f) := fun _ ht => nomatch ht
theorem canonRes_refused {r : Refusal} : CanonRes (.refused r) := fun _ ht => nomatch ht

theorem canonOpt_some {s : State} (h : Canon s) : CanonOpt (some s) := fun _ ht => Option.some.inj ht ▸ h
theorem canonOpt_none : CanonOpt none := fun _ ht => nomatch ht
theorem canonOptFst_some {p : State × α} (h : Canon p.1) : CanonOptFst (some p) := fun _ ht => Option.some.inj ht ▸ h
theorem canonOptFst_none : CanonOptFst (none : Option (State × α)) := fun _ ht => nomatch ht
theorem canonOptSnd_some {p : α × State} (h : Canon p.2) : CanonOptSnd (some p) := fun _ ht => Option.some.inj ht ▸ h
theorem canonOptSnd_none : CanonOptSnd (none : Option (α × State)) := fun _ ht => nomatch ht

theorem canon_getD {o : Option State} {s : State} (ho : CanonOpt o) (h : Canon s) : Canon (o.getD s) := by
  cases o with
  | none => exact h
  | some t => exact ho t rfl

/-- A state that an equation of pairs names. -/
theorem canon_of_fst {p q : State × α} (h : Canon p.1) (e : p = q) : Canon q.1 := e ▸ h
theorem canon_of_snd {p q : α × State} (h : Canon p.2) (e : p = q) : Canon q.2 := e ▸ h

end

/-! Folds. -/

section
variable {α β : Type} {l : List α}

theorem canon_foldl {f : State → α → State} {s : State} (hf : ∀ t x, Canon t → Canon (f t x)) (h : Canon s) :
    Canon (l.foldl f s) := memWf_foldl f hf l h

theorem canon_foldl_fst {f : State × β → α → State × β} {p : State × β} (hf : ∀ q x, Canon q.1 → Canon (f q x).1) (h : Canon p.1) :
    Canon (l.foldl f p).1 :=
  List.foldlRecOn (motive := fun q => Canon q.1) l f h fun q hq x _ => hf q x hq

theorem canon_foldl_snd {f : β × State → α → β × State} {p : β × State} (hf : ∀ q x, Canon q.2 → Canon (f q x).2) (h : Canon p.2) :
    Canon (l.foldl f p).2 :=
  List.foldlRecOn (motive := fun q => Canon q.2) l f h fun q hq x _ => hf q x hq

end

end Sys2Proof.Machine
end

section
/-!
PROOFS. Memory keeps its canonical form (log 1): the state's operations, and what instructions do at issue.
-/
namespace Sys2Proof.Machine

/-! Tables, registers and memory. -/

theorem canon_setCtx {s : State} {g : Nat} {c : Ctx} (h : Canon s) : Canon (setCtx s g c) :=
  canon_upd h rfl

theorem canon_modCtx {s : State} {g : Nat} {f : Ctx → Ctx} (h : Canon s) : Canon (modCtx s g f) :=
  canon_setCtx h

theorem canon_setCore {s : State} {n : Nat} {c : CoreSt} (h : Canon s) : Canon (setCore s n c) :=
  canon_upd h rfl

theorem canon_modCore {s : State} {n : Nat} {f : CoreSt → CoreSt} (h : Canon s) : Canon (modCore s n f) :=
  canon_setCore h

theorem canon_setClu {s : State} {n : Nat} {c : Cluster} (h : Canon s) : Canon (setClu s n c) :=
  canon_upd h rfl

theorem canon_modClu {s : State} {n : Nat} {f : Cluster → Cluster} (h : Canon s) : Canon (modClu s n f) :=
  canon_setClu h

theorem canon_setPort {s : State} {n : Nat} {p : Port} (h : Canon s) : Canon (setPort s n p) :=
  canon_upd h rfl

theorem canon_modPort {s : State} {n : Nat} {f : Port → Port} (h : Canon s) : Canon (modPort s n f) :=
  canon_setPort h

theorem canon_setTree {s : State} {t : Tree} (h : Canon s) : Canon (setTree s t) :=
  canon_upd h rfl

theorem canon_modGroup {s : State} {gid : Nat} {f : Group → Group} (h : Canon s) : Canon (modGroup s gid f) :=
  canon_upd h rfl

theorem canon_draw {s : State} (h : Canon s) : Canon (draw s).2 :=
  canon_upd h rfl

theorem canon_drawIn {s : State} {lo hi : Nat} (h : Canon s) : Canon (drawIn s lo hi).2 :=
  canon_upd h rfl

theorem canon_drawBool {s : State} (h : Canon s) : Canon (drawBool s).2 :=
  canon_upd h rfl

theorem canon_drawBits {s : State} (h : Canon s) : Canon (drawBits s).2 :=
  canon_upd h rfl

theorem canon_fresh {s : State} (h : Canon s) : Canon (fresh s).2 :=
  canon_upd h rfl

theorem canon_after {s : State} {n : Nat} {i : Instr} (h : Canon s) : Canon (after s n i) :=
  canon_upd h rfl

theorem canon_emitOut {s : State} {o : Out} (h : Canon s) : Canon (emitOut s o) :=
  canon_upd h rfl

theorem canon_hostAnswer {s : State} {k : Nat} {ok : Bool} {data : List Byte} (h : Canon s) : Canon (hostAnswer s k ok data) :=
  canon_foldl (fun _ _ h1 => canon_emitOut h1) h

theorem canon_emit {s : State} {dest : Dest} {val : VWord} {mask : Word64} {lat : Nat} {flags : BitVec 5} (h : Canon s) :
    Canon (emit s dest val mask lat flags) :=
  canon_modCtx h

theorem canon_rset {s : State} {pa : Nat} {v : Word64} (h : Canon s) : Canon (rset s pa v) :=
  canon_upd h rfl

theorem canon_rsetF {s : State} {pa lo n v : Nat} (h : Canon s) : Canon (rsetF s pa lo n v) :=
  canon_rset h

theorem canon_rincHold {s : State} {pa lo n : Nat} (h : Canon s) : Canon (rincHold s pa lo n) :=
  canon_rsetF h

theorem canon_mwrite8 {s : State} {a : Nat} {x : Word64} (h : Canon s) : Canon (mwrite8 s a x) :=
  canon_mwriteL h

/-! The flags of engine commands. -/

theorem canon_engineFlags {s : State} {g : Nat} {fl : BitVec 5} (h : Canon s) : Canon (engineFlags s g fl) :=
  canon_modCtx h

/-! Where an address lives. -/

theorem canon_feSet {s : State} {a : Nat} {b : Bool} (h : Canon s) : Canon (feSet s a b) :=
  canon_upd h rfl

/-! Writes with their errors; what hardware writes. -/

theorem canon_writeCell {s : State} {c : WCell} (h : Canon s) : Canon (writeCell s c) :=
  canon_mwrite h

theorem canonOpt_writeCells {s : State} {wr : List WCell} (h : Canon s) : CanonOpt (writeCells s wr) :=
  canonOpt_ite (canonOpt_some (canon_foldl (fun _ _ h1 => canon_writeCell h1) (canon_upd h rfl))) canonOpt_none

theorem canon_banksTake {s : State} {c : Nat} {n : Tab Nat} (h : Canon s) : Canon (banksTake s c n) :=
  canon_modClu h

theorem canon_setBankQ {s : State} {k : Nat} {l : List PumpPart} (h : Canon s) : Canon (setBankQ s k l) :=
  canon_upd h rfl

theorem canon_enqueueAt {s : State} {t : Txn} (h : Canon s) : Canon (enqueueAt s t) := by
  have hd : Canon (drawIn (fresh s).2 1 400).2 := canon_drawIn (canon_fresh h)
  exact canon_after (canon_ite (canon_setBankQ hd) (canon_setBankQ hd))

theorem canonOpt_enqueue {s : State} {t : Txn} (h : Canon s) : CanonOpt (enqueue s t) :=
  canonOpt_ite (canonOpt_some (canon_enqueueAt h)) canonOpt_none

theorem canon_hwSend {s : State} {kind : TxnKind} {a : Nat} {f : Txn → Txn} {ev : Nat → Instr} (h : Canon s) :
    Canon (hwSend s kind a f ev) :=
  canon_after (canon_upd (canon_fresh h) rfl)

theorem canon_hwWriteHere {s : State} {wr : List WCell} (h : Canon s) : Canon (hwWriteHere s wr) :=
  canon_ite h (canon_getD (canonOpt_writeCells h) h)

theorem canon_hwWrite {s : State} {wr : List WCell} (h : Canon s) : Canon (hwWrite s wr) := by
  unfold hwWrite
  split
  · exact canon_hwSend h
  · exact canon_hwWriteHere h

theorem canon_hwPut {s : State} {a : Nat} {l : List Byte} (h : Canon s) : Canon (hwPut s a l) :=
  canon_hwWrite h

theorem canon_hwPutWords {s : State} {a : Nat} {l : List Word64} (h : Canon s) : Canon (hwPutWords s a l) :=
  canon_hwPut h

theorem canon_hwBehind {s : State} {a : Nat} {l : List Byte} (h : Canon s) : Canon (hwBehind s a l) :=
  canon_enqueueAt h

theorem canon_hwPut8 {s : State} {a : Nat} {x : Word64} (h : Canon s) : Canon (hwPut8 s a x) :=
  canon_hwPut h

/-! Events, holds and traps. -/

theorem canon_evWrite {s : State} {e : Event} (h : Canon s) : Canon (evWrite s e) :=
  canon_rset (canon_hwPutWords h)

theorem canon_postEvent {s : State} {e : Event} (h : Canon s) : Canon (postEvent s e) :=
  canon_ite (canon_ite (canon_evWrite h) (canon_ite (canon_upd h rfl) (canon_rincHold h))) (canon_rincHold h)

theorem canon_postPlain {s : State} {kind vf : Nat} {i0 i1 : Word64} (h : Canon s) : Canon (postPlain s kind vf i0 i1) :=
  canon_postEvent h

theorem canon_postCtx {s : State} {g kind : Nat} {i0 i1 : Word64} (h : Canon s) : Canon (postCtx s g kind i0 i1) :=
  canon_postEvent h

theorem canon_traceRec {s : State} {g kind code pc : Nat} (h : Canon s) : Canon (traceRec s g kind code pc) :=
  canon_ite (canon_ite (canon_rsetF (canon_rset (canon_ite (canon_hwPutWords h) (canon_hwBehind h)))) (canon_rset (canon_ite
      (canon_hwPutWords h) (canon_hwBehind h)))) h

theorem canon_trigger {s : State} {d : Nat} (h : Canon s) : Canon (trigger s d) :=
  canon_ite (canon_postPlain (canon_rsetF (canon_rset h))) h

theorem canon_freezeCtx {s : State} {g : Nat} (h : Canon s) : Canon (freezeCtx s g) :=
  canon_ite h (canon_traceRec (canon_setCtx h))

theorem canon_freezeNow {s : State} {g : Nat} (h : Canon s) : Canon (freezeNow s g) :=
  canon_upd (canon_freezeCtx h) rfl

theorem canon_takeTrap {s : State} {g cause : Nat} {info : Word64} {async : Bool} {pc next : Nat} (h : Canon s) :
    Canon (takeTrap s g cause info async pc next) :=
  canon_ite (canon_postCtx (canon_freezeNow (canon_setCtx h))) (canon_traceRec (canon_setCtx h))

theorem canon_doubleFault {s : State} {g pc : Nat} (h : Canon s) : Canon (doubleFault s g pc) :=
  canon_postCtx (canon_freezeNow (canon_setCtx h))

/-! What the syllables share. -/

theorem canon_modIssuer {s : State} {f : Ctx → Ctx} (h : Canon s) : Canon (modIssuer s f) :=
  canon_modCtx h

theorem canonRes_issue {p : Syl} {s : State} {f : State → Res} (h : Canon s) (hf : ∀ (t : State), Canon t → CanonRes (f t)) :
    CanonRes (issue p s f) :=
  canonRes_ite (hf _ h) (canonRes_next h)

theorem canonRes_stall {s : State} (h : Canon s) : CanonRes (stall s) :=
  canonRes_next (canon_upd h rfl)

theorem canonRes_trapNow {s : State} {cause : Nat} {info : Word64} (h : Canon s) : CanonRes (trapNow s cause info) :=
  canonRes_next (canon_upd (canon_takeTrap h) rfl)

theorem canonRes_trapFree {s : State} {cause : Nat} (h : Canon s) : CanonRes (trapFree s cause) :=
  canonRes_trapNow (canon_drawBits h)

theorem canonRes_needSystem {s : State} {f : Res} (h : Canon s) (hf : CanonRes f) : CanonRes (needSystem s f) :=
  canonRes_ite hf (canonRes_trapNow h)

theorem canonRes_withPop {q : Bool} {s : State} {f : Option VWord → State → Res} (h : Canon s) (hf : ∀ (v : Option VWord)
    (t : State), Canon t → CanonRes (f v t)) : CanonRes (withPop q s f) := by
  unfold withPop
  refine canonRes_ite ?_ (hf _ _ h)
  split
  · exact canonRes_stall h
  · exact canonRes_ite (canonRes_stall h) (canonRes_ite (canonRes_trapNow h) (hf _ _ (canon_modIssuer h)))

theorem canonRes_withRoom {q : Bool} {s : State} {f : State → Res} (h : Canon s) (hf : ∀ (t : State), Canon t → CanonRes
    (f t)) : CanonRes (withRoom q s f) :=
  canonRes_ite (canonRes_stall h) (hf _ h)

theorem canon_reserveSdq {s : State} (h : Canon s) : Canon (reserveSdq s).1 :=
  canon_modIssuer h

theorem canon_deliver {s : State} {q : Bool} {dest : Dest} {v : VWord} {mask : Word64} {lat : Nat} {fl : BitVec 5}
    (h : Canon s) : Canon (deliver s q dest v mask lat fl) :=
  canon_ite (canon_emit (canon_reserveSdq h)) (canon_emit h)

theorem canon_putP {s : State} {n : Nat} {x : Bool} {lat : Nat} (h : Canon s) : Canon (putP s n x lat) :=
  canon_emit h

theorem canon_putS {s : State} {n : Nat} {x : Word64} {lat : Nat} (h : Canon s) : Canon (putS s n x lat) :=
  canon_emit h

theorem canon_putK {s : State} {n : Nat} {x : Word64} {lat : Nat} (h : Canon s) : Canon (putK s n x lat) :=
  canon_emit h

theorem canonRes_runXR {p : Syl} {o : XR} {lat : Nat} {s : State} {f : Word64 → Word64 → Word64 → Word64} (h : Canon s) :
    CanonRes (runXR p o lat s f) :=
  canonRes_issue h (fun _ h1 => canonRes_withRoom h1 (fun _ h2 => canonRes_withPop h2 (fun _ _ h3 => canonRes_next (canon_deliver h3))))

theorem canonRes_runXU {p : Syl} {o : XU} {s : State} {f : Word64 → Word64} (h : Canon s) : CanonRes (runXU p o s f) :=
  canonRes_runXR h

theorem canonRes_runS {p : Syl} {sd : Nat} {s : State} {f : Ctx → Word64} (h : Canon s) : CanonRes (runS p sd s f) :=
  canonRes_issue h (fun _ h1 => canonRes_next (canon_putS h1))

theorem canonRes_runV {p : Syl} {qs : Bool} {va km lat : Nat} {dst : VDst} {wm : Word64 → Word64} {s : State}
    {f : VIn → VWord × BitVec 5} (h : Canon s) : CanonRes (runV p qs va km lat dst wm s f) :=
  canonRes_issue h (fun _ h1 => canonRes_withRoom h1 (fun _ h2 => canonRes_withPop h2 (fun _ _ h3 => canonRes_ite
      (canonRes_trapNow h2) (canonRes_next (canon_deliver (canon_ite (canon_modIssuer h3) h3))))))

theorem canonRes_runVR {p : Syl} {o : VR} {lat : Nat} {s : State} {f : VIn → VWord → VWord → VWord × BitVec 5}
    (h : Canon s) : CanonRes (runVR p o lat s f) :=
  canonRes_runV h

theorem canonRes_runVE {p : Syl} {t : VTy} {o : VR} {lat : Nat} {s : State} {f : Word32 → Word32 → Nat → Nat → Nat → Nat × BitVec 5}
    (h : Canon s) : CanonRes (runVE p t o lat s f) :=
  canonRes_runVR h

/-! Fault records. -/

theorem canon_pendFault {s : State} {g ix : Nat} (h : Canon s) : Canon (pendFault s g ix) :=
  canon_modCtx h

theorem canon_frWrite {s : State} {r : FRec} (h : Canon s) : Canon (frWrite s r) := by
  unfold frWrite
  extract_lets i s1 s2 s3
  have h1 : Canon s1 := canon_hwPutWords h
  have h2 : Canon s2 := canon_hwPut h1
  have h3 : Canon s3 := canon_rsetF h2
  clear_value s3
  refine canon_ite (canon_upd h3 rfl) (canon_ite (canon_postPlain h3) ?_)
  split
  · exact canon_pendFault h3
  · exact h3

theorem canon_parkCount {s : State} {r : FRec} {n : Int} (h : Canon s) : Canon (parkCount s r n) := by
  unfold parkCount
  split
  · exact h
  · exact canon_ite h (canon_rsetF h)

theorem canon_frWait {s : State} {r : FRec} (h : Canon s) : Canon (frWait s r) := by
  unfold frWait
  extract_lets _ s1 v
  have h1 : Canon s1 := canon_parkCount (canon_upd h rfl)
  clear_value s1
  exact canon_ite h1 (canon_postPlain (canon_upd h1 rfl))

theorem canon_frPost {s0 : State} {r : FRec} (h : Canon s0) : Canon (frPost s0 r).1 :=
  canon_ite_fst (canon_frWrite h) (canon_frWait h)

theorem canon_report {s : State} {r : FRec} (h : Canon s) : Canon (report s r).1 := by
  unfold report
  extract_lets page l cmds l' _ s1 s2 _ s3
  have h1 : Canon s1 := canon_upd h rfl
  have h2 : Canon s2 := canon_rsetF (canon_parkCount h1)
  have h3 : Canon s3 := by
    clear_value s2
    exact canon_ite (canon_after (canon_upd h2 rfl)) (canon_ite (canon_after h2) h2)
  exact canon_ite_fst h3 (canon_frPost (canon_ite (canon_rsetF h) h))

theorem canon_reqError {s : State} {g : Nat} {q : Req} {cause addr len : Nat} {sdq0 : Word64} (h : Canon s) :
    Canon (reqError s g q cause addr len sdq0) :=
  canon_report h

theorem canon_flushBatch {s : State} {v : Nat} (h : Canon s) : Canon (flushBatch s v) := by
  unfold flushBatch
  split
  · exact h
  · exact canon_postPlain (canon_foldl (fun _ _ h2 => canon_frPost h2) (canon_upd h rfl))

theorem canon_pendAsync {s : State} {g cause : Nat} {info : Word64} (h : Canon s) : Canon (pendAsync s g cause info) :=
  canon_modCtx h

/-! The requests of the A unit. -/

theorem canon_pushReq {s : State} {i : Instr} {fm : AForm} {h : Option HWord} (hs : Canon s) : Canon (pushReq s i fm h) :=
  canon_setCtx hs

theorem canonRes_runA {p : Syl} {i : Instr} {s : State} (h : Canon s) : CanonRes (runA p i s) := by
  unfold runA
  refine canonRes_issue h (fun _ h1 => canonRes_ite (canonRes_stall h1) ?_)
  split
  · exact canonRes_stall h1
  · exact canonRes_trapNow h1
  · exact canonRes_next (canon_pushReq h1)

/-! The home of a location. -/

theorem canon_rdcDrop {s : State} {f : RdcLine → Bool} (h : Canon s) : Canon (rdcDrop s f) :=
  canon_upd h rfl

theorem canon_rdcStore {s : State} {d : Nat} {peer : Option Nat} {wr : List WCell} (h : Canon s) : Canon (rdcStore s d peer wr) :=
  canon_upd h rfl

theorem canon_rdcInval {s : State} {d : Nat} {peer : Option Nat} {pas : List Nat} (h : Canon s) : Canon (rdcInval s d peer pas) :=
  canon_rdcDrop h

theorem canon_noFill {s : State} {d : Nat} {f : Txn → Bool} (h : Canon s) : Canon (noFill s d f) :=
  canon_upd h rfl

theorem canon_rdcAcquire {s : State} {d v : Nat} {f : RdcLine → Bool} (h : Canon s) : Canon (rdcAcquire s d v f) :=
  canon_noFill (canon_rdcDrop h)

theorem canon_rdcAcquireAll {s : State} {d v : Nat} (h : Canon s) : Canon (rdcAcquireAll s d v) := by
  unfold rdcAcquireAll
  extract_lets s1
  have h1 : Canon s1 := canon_rdcAcquire h
  exact canon_upd h1 rfl

theorem canon_rdcEvict {s : State} {d : Nat} (h : Canon s) : Canon (rdcEvict s d) :=
  canon_upd h rfl

theorem canon_rdcFill {s : State} {d key vf obj : Nat} {bytes : List Byte} (h : Canon s) : Canon (rdcFill s d key vf obj bytes) := by
  unfold rdcFill
  extract_lets s1
  have h1 : Canon s1 := canon_rdcEvict (canon_rdcDrop h)
  exact canon_upd h1 rfl

theorem canon_l2Add {s : State} {cp : Nat} {pas : List Nat} (h : Canon s) : Canon (l2Add s cp pas) :=
  canon_ite h (canon_upd h rfl)

theorem canon_l2Drop {s : State} {pa : Nat} (h : Canon s) : Canon (l2Drop s pa) :=
  canon_upd h rfl

theorem canon_fillGranules {s : State} {pas : List Nat} (h : Canon s) : Canon (fillGranules s pas) :=
  canon_foldl (fun _ _ h1 => canon_feSet h1) h

theorem canon_mwrite4 {s : State} {a x : Nat} (h : Canon s) : Canon (mwrite4 s a x) :=
  canon_mwriteL h

theorem canon_combine {s : State} {red : Nat} {m : Word32} {ws : List (Nat × Nat)} (h : Canon s) : Canon (combine s red m ws).1 :=
  canon_foldl_fst (fun _ _ h1 => canon_mwrite4 h1) h

theorem canon_countWord {s : State} {c i o : Nat} (h : Canon s) : Canon (countWord s c i o) :=
  canon_ite (canon_feSet (canon_modClu h)) (canon_modClu h)

theorem canonPerf_reduceStore {s : State} {v red : Nat} {m : Word32} {wr : List WCell} (h : Canon s) :
    CanonPerf (reduceStore s v red m wr).1 := by
  unfold reduceStore
  refine pred_ite_fst CanonPerf h (pred_ite_fst CanonPerf h (pred_ite_fst CanonPerf (canon_ite (canon_upd (canon_foldl
      (fun _ _ h1 => ?_) (canon_combine h)) rfl) (canon_rsetF (canon_upd (canon_foldl (fun _ _ h1 => ?_) (canon_combine h)) rfl))) h))
  · split
    · exact canon_countWord h1
    · exact h1
  · split
    · exact canon_countWord h1
    · exact h1

theorem canon_replayRec {s : State} {c i : Nat} {r : SumpRec} (h : Canon s) : Canon (replayRec s c i r) :=
  canon_rsetF (canon_foldl (fun _ _ h1 => canon_countWord h1) (canon_combine (canon_banksTake (canon_upd h rfl))))

theorem canon_replayFrom {l : List SumpRec} {late : List Nat} {s : State} (h : Canon s) : Canon (replayFrom l late s) := by
  induction l generalizing late s with
  | nil => exact h
  | cons r l ih =>
    rw [replayFrom]
    split
    · exact ih h
    · split
      · exact ih h
      · exact ih (canon_replayRec h)

theorem canon_sumpReplay {s : State} {c i : Nat} (h : Canon s) : Canon (sumpReplay s c i) :=
  canon_replayFrom h

theorem canonPerf_storeHome {s : State} {t : Txn} (h : Canon s) : CanonPerf (storeHome s t).1 := by
  unfold storeHome
  refine pred_ite_fst CanonPerf h (pred_ite_fst CanonPerf ?_ (pred_ite_fst CanonPerf ?_ (pred_ite_fst CanonPerf ?_ ?_)))
  · split
    · next he =>
      exact (canonOpt_enqueue h) _ he
    · exact h
  · split
    · next he =>
      exact canon_ite (canon_fillGranules (pred_of_eq CanonPerf (canonPerf_reduceStore h) (congrArg Prod.fst he)))
          (pred_of_eq CanonPerf (canonPerf_reduceStore h) (congrArg Prod.fst he))
    · exact canonPerf_reduceStore h
  · split
    · next he =>
      exact (canonOpt_enqueue h) _ he
    · exact h
  · split
    · next he =>
      exact canon_ite (canon_fillGranules ((canonOpt_writeCells h) _ he)) ((canonOpt_writeCells h) _ he)
    · exact h

theorem canon_pcmdElems {s : State} {t : Txn} {op : Nat} (h : Canon s) : Canon (pcmdElems s t op).1 :=
  canon_foldl_fst (fun _ _ h1 => canon_ite_fst h1 (canon_ite_fst h1 (canon_mwrite4 h1))) h

theorem canon_pcmdFill {s : State} {t : Txn} (h : Canon s) : Canon (pcmdFill s t).1 :=
  canon_getD (canonOpt_writeCells h) h

theorem canon_pcmdCvt {s : State} {t : Txn} (h : Canon s) : Canon (pcmdCvt s t).1 :=
  canon_mwriteL h

theorem canon_partApply {s : State} {t : Txn} (h : Canon s) : Canon (partApply s t).1 := by
  unfold partApply
  split
  · refine canon_ite_fst (canon_combine h) ?_
    split
    · next he1 =>
      exact (canonOpt_writeCells h) _ he1
    · exact h
  · split
    · refine canon_ite_fst h ?_
      split
      next he1 =>
        have h1 := canon_of_fst (canon_pcmdCvt h) he1
        exact h1
    · exact canon_pcmdFill h
    · split
      · exact h
      · refine canon_ite_fst h ?_
        split
        · next he3 =>
          exact (canonOpt_writeCells h) _ he3
        · exact h
    · exact canon_pcmdElems h

theorem canon_markSeen {s : State} {a : Agent} {l : List (Nat × Nat)} (h : Canon s) : Canon (markSeen s a l) :=
  canon_upd h rfl

theorem canonOpt_loadBytes {s : State} {t : Txn} {esz : Nat} (h : Canon s) : CanonOptFst (loadBytes s t esz) := by
  unfold loadBytes
  refine canonOptFst_ite canonOptFst_none ?_
  split
  · exact canonOptFst_some h
  · exact canonOptFst_ite (canonOptFst_some h) (canonOptFst_some (canon_markSeen (canon_upd h rfl)))

theorem canon_modLdq {s : State} {g seq : Nat} {f : LdqEntry → LdqEntry} (h : Canon s) : Canon (modLdq s g seq f) :=
  canon_modCtx h

theorem canon_deposit {s : State} {g seq : Nat} {bytes : List (Nat × Byte)} (h : Canon s) : Canon (deposit s g seq bytes) :=
  canon_modLdq h

theorem canon_depositFail {s : State} {g seq : Nat} (h : Canon s) : Canon (depositFail s g seq) :=
  canon_modLdq h

theorem canon_acqStep {s : State} {a k owner : Nat} (h : Canon s) : Canon (acqStep s a k owner) := by
  unfold acqStep
  split
  · exact canon_mwrite8 h
  · exact canon_mwrite8 h
  · exact h

theorem canon_relStep {s : State} {a : Nat} {post : Bool} {n : Word64} (h : Canon s) : Canon (relStep s a post n).1 :=
  canon_ite_fst (canon_mwrite8 h) (canon_ite_fst (canon_mwrite8 h) (canon_ite_fst (canon_mwrite8 h) h))

theorem canon_setTxn {s : State} {id : Nat} {t : Txn} (h : Canon s) : Canon (setTxn s id t) :=
  canon_upd h rfl

theorem canon_delTxn {s : State} {id : Nat} (h : Canon s) : Canon (delTxn s id) :=
  canon_upd h rfl

theorem canon_drawLat {s : State} {t : Txn} (h : Canon s) : Canon (drawLat s t).2 :=
  canon_ite_snd (canon_drawIn h) (canon_draw h)

/-! The A unit's syllables at issue. -/

theorem canonRes_runPush {p : Syl} {i : Instr} {s : State} (h : Canon s) : CanonRes (runPush p i s) :=
  canonRes_issue h (fun _ h1 => canonRes_ite (canonRes_stall h1) (canonRes_next (canon_pushReq h1)))

theorem canon_putB {s : State} {bd : Nat} {x : Word64} (h : Canon s) : Canon (putB s bd x) :=
  canon_emit h

theorem canon_walkTime {s : State} {g va : Nat} (h : Canon s) : Canon (walkTime s g va).2 :=
  canon_foldl_snd (fun _ _ h1 => canon_drawLat h1) h

/-- The state that TRANS leaves with its walk begun, whatever says how long the walk takes. -/
theorem canonRes_transWalk {oh va vf g : Nat} {W : State → Nat → Nat → Nat × State} (hW : ∀ u, Canon u → Canon (W u g va).2)
    {q : Nat × State} : Canon q.2 → CanonRes (match q with
    | (id, s1) =>
      match W s1 g va with
      | (d, s2) =>
        let w : Walk := { g := g, hn := oh, va := va, vf := vf, dead := false, res := 0 }
        let s3 := after { s2 with walks := tset s2.walks id w } d (.tableWalkComplete id)
        .next (emit s3 (.h oh) ((pendHandle va id).zeroExtend 2048) 1 24 0)) := by
  cases q with | mk a t =>
  intro h
  exact canonRes_next (canon_emit (canon_after (canon_upd (hW t h) rfl)))

theorem canonRes_execTrans {p : Syl} {o : AH} {s : State} (h : Canon s) : CanonRes (execTrans p o s) := by
  refine canonRes_issue h fun t ht => ?_
  refine canonRes_ite ?_ (canonRes_next (canon_emit ht))
  have h1 : Canon (fresh t).2 := canon_fresh ht
  generalize fresh t = q at h1
  have hw (va : Nat) : ∀ u, Canon u → Canon (walkTime u t.iss.g va).2 := fun u hu => canon_walkTime hu
  generalize walkTime = w at hw
  exact canonRes_transWalk (hw _) h1

theorem canonRes_execHchk {p : Syl} {o : AH} {s : State} (h : Canon s) : CanonRes (execHchk p o s) :=
  canonRes_issue h (fun _ h1 => canonRes_ite (canonRes_stall h1) (canonRes_next (canon_pushReq h1)))

theorem canonRes_execPreq {p : Syl} {o : AH} {s : State} (h : Canon s) : CanonRes (execPreq p o s) := by
  unfold execPreq
  refine canonRes_issue h (fun _ h1 => canonRes_ite (canonRes_stall h1) ?_)
  split
  · exact canonRes_stall h1
  · exact canonRes_trapNow h1
  · exact canonRes_ite (canonRes_next h1) (canonRes_next (canon_pushReq h1))

theorem canonRes_execBind {p : Syl} {o : AB} {s : State} (h : Canon s) : CanonRes (execBind p o s) := by
  unfold execBind
  refine canonRes_issue h (fun _ h1 => canonRes_ite (canonRes_next h1) (canonRes_ite (canonRes_stall h1) ?_))
  dsimp only
  split
  · exact canonRes_stall h1
  · exact canonRes_trapNow h1
  · exact canonRes_next (canon_pushReq h1)

/-! Barrier slots and the end of a context. -/

theorem canon_modBar {s : State} {gid n : Nat} {f : BarSlot → BarSlot} (h : Canon s) : Canon (modBar s gid n f) :=
  canon_modClu h

theorem canon_completePhase {s : State} {gid n : Nat} (h : Canon s) : Canon (completePhase s gid n) :=
  canon_foldl (fun _ _ h1 => canon_modCtx h1) (canon_modBar h)

theorem canon_arrive {s : State} {g n : Nat} (h : Canon s) : Canon (arrive s g n) :=
  canon_modCtx h

theorem canon_countArrival {s : State} {g n : Nat} (h : Canon s) : Canon (countArrival s g n) :=
  canon_ite (canon_completePhase (canon_modBar h)) (canon_modBar h)

theorem canon_leaveSlot {s : State} {g n : Nat} {arrived : Bool} (h : Canon s) : Canon (leaveSlot s g n arrived) :=
  canon_ite (canon_completePhase (canon_modBar h)) (canon_modBar h)

theorem canon_leaveBarriers {s : State} {g : Nat} (h : Canon s) : Canon (leaveBarriers s g) :=
  canon_foldl (fun _ _ h1 => canon_ite h1 (canon_leaveSlot h1)) h

theorem canon_dropUnsent {s : State} {g : Nat} (h : Canon s) : Canon (dropUnsent s g) :=
  canon_upd h rfl

theorem canon_exitContext {s : State} {g : Nat} (h : Canon s) : Canon (exitContext s g) :=
  canon_leaveBarriers (canon_modCtx (canon_dropUnsent h))

theorem canonRes_withSlot {p : Syl} {n : Nat} {s : State} {f : State → Res} (h : Canon s) (hf : ∀ (t : State), Canon t → CanonRes
    (f t)) : CanonRes (withSlot p n s f) :=
  canonRes_issue h (fun _ h1 => canonRes_ite (canonRes_trapFree h1) (hf _ h1))

theorem canonRes_waitWith {s : State} (h : Canon s) : CanonRes (waitWith s) :=
  canonRes_next (canon_upd h rfl)

theorem canonRes_execBar {p : Syl} {n : Fin 16} {s : State} (h : Canon s) : CanonRes (execBar p n s) :=
  canonRes_withSlot h (fun _ h1 => canonRes_ite (canonRes_ite (canonRes_waitWith h1) (canonRes_next (canon_modIssuer h1)))
      (canonRes_ite (canonRes_waitWith h1) (canonRes_waitWith (canon_modCtx (canon_arrive h1)))))

theorem canonRes_execBara {p : Syl} {n : Fin 16} {s : State} (h : Canon s) : CanonRes (execBara p n s) :=
  canonRes_withSlot h (fun _ h1 => canonRes_ite (canonRes_waitWith h1) (canonRes_next (canon_arrive h1)))

theorem canonRes_execBarw {p : Syl} {n : Fin 16} {s : State} (h : Canon s) : CanonRes (execBarw p n s) :=
  canonRes_withSlot h (fun _ h1 => canonRes_ite (canonRes_waitWith h1) (canonRes_next h1))

theorem canonRes_execBarrierArrivalCount {g slot : Nat} {s : State} (h : Canon s) : CanonRes (execBarrierArrivalCount g slot s) := by
  unfold execBarrierArrivalCount
  dsimp only
  split
  · exact canonRes_next h
  · exact canonRes_ite (canonRes_next (canon_ite (canon_leaveSlot (canon_countArrival (canon_modCtx h))) (canon_countArrival
      (canon_modCtx h)))) (canonRes_next h)

/-! The fabric: channels, routes and the messages queued. -/

theorem canon_drawRoute {s : State} (h : Canon s) : Canon (drawRoute s).2 :=
  canon_upd h rfl

theorem canon_sourceRoute {s : State} {m : Msg} (h : Canon s) : Canon (sourceRoute s m).1 :=
  canon_ite_fst (canon_drawRoute (canon_drawRoute h)) (canon_ite_fst h (canon_drawRoute (canon_drawRoute h)))

theorem canon_escHop {s : State} {q : QMsg} (h : Canon s) : Canon (escHop s q).1 := by
  unfold escHop
  split
  · dsimp only
    split
    · exact h
    · split
      · exact h
      · exact h
  · dsimp only
    split
    · exact h
    · split
      · exact h
      · exact canon_after h

theorem canon_enterEscape {s : State} {q : QMsg} (h : Canon s) : Canon (enterEscape s q).1 :=
  canon_ite_fst (canon_escHop h) h

theorem canon_chooseRoute {s : State} {q : QMsg} (h : Canon s) : Canon (chooseRoute s q).1 := by
  unfold chooseRoute
  refine canon_ite_fst (canon_escHop h) (canon_ite_fst ?_ ?_)
  · split
    · next he =>
      have h1 := canon_of_fst (canon_sourceRoute h) he
      exact h1
    · next he =>
      exact canon_enterEscape (canon_of_fst (canon_sourceRoute h) he)
  · split
    · exact h
    · exact canon_enterEscape h

theorem canon_addQueue {s : State} {q : QMsg} (h : Canon s) : Canon (addQueue s q) :=
  canon_upd h rfl

theorem canon_queueMsg {s : State} {m : Msg} {glob : Bool} {inp : Option (Nat × Nat)} (h : Canon s) : Canon (queueMsg s m glob inp) :=
  canon_addQueue (canon_chooseRoute (canon_fresh h))

theorem canon_sendMsg {s : State} {m : Msg} (h : Canon s) : Canon (sendMsg s m) :=
  canon_ite (canon_upd h rfl) (canon_queueMsg h)

theorem canon_respond {s : State} {m : Msg} {op len : Nat} {opa opb : Word64} {data : VWord} (h : Canon s) :
    Canon (respond s m op len opa opb data) :=
  canon_ite h (canon_sendMsg h)

theorem canon_respondError {s : State} {m : Msg} {status : Nat} (h : Canon s) : Canon (respondError s m status) :=
  canon_respond h

end Sys2Proof.Machine
end

section
/-!
PROOFS. Memory keeps its canonical form (log 1): requests and their homes, the engines, other modules.
-/
namespace Sys2Proof.Machine

/-! The registers of tier 3. -/

theorem canon_regRead {s : State} {pa n : Nat} (h : Canon s) : Canon (regRead s pa n).2 := by
  unfold regRead
  refine canon_ite_snd h ?_
  split
  · exact canon_ite_snd (canon_ite (canon_rsetF (canon_draw h)) h) (canon_ite (canon_rsetF (canon_draw h)) h)
  · exact canon_drawBits h

theorem canon_heldDrop {s : State} {v : Nat} {l : List Nat} (h : Canon s) : Canon (heldDrop s v l) :=
  canon_rsetF (canon_upd h rfl)

theorem canon_unhold {s : State} {v : Nat} {l : List Nat} (h : Canon s) : Canon (unhold s v l) := by
  unfold unhold
  refine canon_foldl (fun _ _ h1 => ?_) (canon_heldDrop h)
  split
  · exact canon_after (canon_upd h1 rfl)
  · exact h1

theorem canon_migServe {s : State} {v : Nat} {on : Bool} (h : Canon s) : Canon (migServe s v on) :=
  canon_unhold (canon_rsetF (canon_upd h rfl))

theorem canon_migsWritten {s : State} {v : Nat} {was now : Bool} (h : Canon s) : Canon (migsWritten s v was now) := by
  unfold migsWritten
  extract_lets s1
  have h1 : Canon s1 := canon_rsetF h
  exact canon_ite (canon_upd h1 rfl) (canon_ite (canon_rsetF h1) h1)

theorem canon_regEffects {s : State} {src : ReqSrc} {o : Nat} {old w new : Word64} {low : Bool} (h : Canon s) :
    Canon (regEffects s src o old w new low) := by
  unfold regEffects
  exact canon_ite (canon_ite (canon_upd h rfl) h) (canon_ite (canon_ite (canon_after (canon_rset h)) h) (canon_ite (canon_ite
      (canon_ite (canon_after h) h) (canon_after h)) (canon_ite (canon_after h) (canon_ite (canon_ite (canon_rset h) h) (canon_ite
      (canon_ite (canon_ite (canon_after h) h) (canon_ite (canon_after h) h)) (canon_ite (canon_ite (canon_after h) h) (canon_ite
      (canon_ite h (canon_after h)) (canon_ite (canon_ite (canon_ite (canon_after (canon_migsWritten h)) (canon_migsWritten h))
      (canon_migsWritten h)) (canon_ite (canon_ite (canon_after (canon_ite (canon_migServe h) h)) (canon_ite (canon_migServe h) h))
      (canon_ite (canon_ite (canon_ite (canon_after (canon_rsetF h)) h) (canon_ite (canon_after h) h)) (canon_ite (canon_ite
      (canon_after (canon_drawIn (lo := 1) (hi := 7) (canon_rsetF h))) (canon_rsetF h)) (canon_ite (canon_after h) (canon_ite
      (canon_ite (canon_upd h rfl) h) (canon_ite (canon_after h) (canon_ite (canon_after h) h)))))))))))))))

theorem canon_regWrite {s : State} {src : ReqSrc} {pa : Nat} {c : Word64} {n : Nat} (h : Canon s) : Canon (regWrite s src pa c n) := by
  unfold regWrite
  refine canon_ite h (canon_ite h ?_)
  split
  · exact canon_regEffects (canon_rset h)
  · exact canon_regEffects h

/-! Requests on their way out of LAQ. -/

theorem canon_popHead {s : State} {g : Nat} (h : Canon s) : Canon (popHead s g) :=
  canon_modCtx h

theorem canon_modHead {s : State} {g : Nat} {f : Req → Req} (h : Canon s) : Canon (modHead s g f) :=
  canon_modCtx h

theorem canon_dropSdq {s : State} {g : Nat} {q : Req} (h : Canon s) : Canon (dropSdq s g q) := by
  unfold dropSdq
  split
  · exact canon_modCtx h
  · exact h

theorem canon_leaveHead {s : State} {g : Nat} {q : Req} (h : Canon s) : Canon (leaveHead s g q) :=
  canon_popHead (canon_dropSdq h)

theorem canon_reserveLdq {s : State} {g : Nat} {q : Req} {lat left : Nat} (h : Canon s) : Canon (reserveLdq s g q lat left) :=
  canon_ite (canon_modCtx h) h

theorem canon_takeSlot {s : State} {g : Nat} (h : Canon s) : Canon (takeSlot s g) :=
  canon_modCore h

theorem canon_fillRules {s : State} {t : Txn} (h : Canon s) : Canon (fillRules s t).1 :=
  canon_ite_fst h (canon_ite_fst h (canon_ite (canon_rdcStore (canon_noFill h)) (canon_rdcDrop (canon_noFill h))))

theorem canon_bookSlot {s : State} {clu : Nat} (h : Canon s) : Canon (bookSlot s clu).2 :=
  canon_modClu h

theorem canon_sendTxn {s : State} {t : Txn} {n : Nat} {late : Nat} (h : Canon s) : Canon (sendTxn s t n late).1 := by
  unfold sendTxn
  split
  next he =>
    split
    next he1 =>
      extract_lets s3
      have h3 : Canon s3 := canon_setTxn (canon_of_fst (canon_fillRules (canon_of_snd (canon_fresh h) he)) he1)
      clear_value s3
      split
      · exact canon_upd h3 rfl
      · split
        next he2 => exact canon_after (canon_of_snd (canon_drawIn h3) he2)

theorem canon_loadNow {s : State} {g : Nat} {q : Req} {items : List (Nat × Nat)} {lat : Nat} (h : Canon s) :
    Canon (loadNow s g q items lat) := by
  unfold loadNow
  split
  · exact canon_deposit (canon_reserveLdq h)
  · exact canon_depositFail (canon_reserveLdq h)

theorem canonOpt_atomicNow {s : State} {q : Req} {entry : VWord} {pa : Nat} (h : Canon s) : CanonOptFst (atomicNow s q entry pa) :=
  canonOptFst_ite canonOptFst_none (canonOptFst_some (canon_mwriteL h))

theorem canon_atomicDone {s : State} {g : Nat} {q : Req} {old : List Byte} {fl : BitVec 5} (h : Canon s) :
    Canon (atomicDone s g q old fl) :=
  canon_ite (canon_modLdq (canon_deposit h)) (canon_engineFlags h)

theorem canon_requestFails {s : State} {g : Nat} {q : Req} {cause len : Nat} {data : Word64} (h : Canon s) :
    Canon (requestFails s g q cause len data) :=
  canon_ite (canon_depositFail h) (canon_reqError h)

theorem canon_feRun {g : Nat} {q : Req} {items : List (Nat × Nat)} {l : List Nat} {s : State} (h : Canon s) :
    Canon (feRun g q items l s).1 := by
  induction l generalizing s with
  | nil => exact h
  | cons a l ih =>
    rw [feRun]
    dsimp only
    split
    · refine ih (canon_ite (canon_feSet ?_) ?_) <;>
        split <;> exact canon_modLdq (canon_banksTake h)
    · exact h

theorem canon_feStep {s : State} {g : Nat} {q : Req} (h : Canon s) : Canon (feStep s g q) :=
  canon_ite (canon_modHead (canon_feRun h)) (canon_popHead (canon_modLdq (canon_ite_snd (canon_feRun h) (canon_drawLat
      (canon_feRun h)))))

theorem canon_feReserve {s : State} {g : Nat} {q : Req} (h : Canon s) : Canon (feReserve s g q) :=
  canon_ite (canon_reserveLdq h) h

theorem canon_feBegin {s : State} {g : Nat} {q : Req} (h : Canon s) : Canon (feBegin s g q) :=
  canon_feStep (canon_modHead (canon_feReserve h))

theorem canon_pushRel {s : State} {g : Nat} {q : Req} (h : Canon s) : Canon (pushRel s g q) :=
  canon_after (canon_modCore (canon_fresh h))

theorem canon_leaveAcquire {s : State} {g : Nat} {q : Req} (h : Canon s) : Canon (leaveAcquire s g q) :=
  canon_modCtx (canon_sendTxn (canon_leaveHead (canon_drawLat h)))

theorem canon_leaveRelease {s : State} {g : Nat} {q : Req} (h : Canon s) : Canon (leaveRelease s g q) :=
  canon_pushRel (canon_leaveHead h)

theorem canon_leaveWindow {s : State} {g : Nat} {q : Req} (h : Canon s) : Canon (leaveWindow s g q) := by
  unfold leaveWindow
  refine canon_ite h ?_
  split
  · exact canon_ite h (canon_feBegin h)
  · exact canon_ite (canon_leaveHead (canon_feSet (canon_banksTake h))) h
  · exact canon_leaveAcquire h
  · exact canon_ite (canon_leaveRelease h) h
  · refine canon_ite (canon_ite h (canon_feBegin h)) ?_
    extract_lets e ld st pas n s0 s1
    have h0 : Canon s0 := canon_banksTake h
    refine canon_ite (canon_ite (canon_popHead (canon_loadNow h0)) (canon_ite ?_ ?_)) h
    · split
      · next he =>
        have h1 := canonOpt_writeCells h0 _ he
        exact canon_leaveHead (canon_ite (canon_fillGranules h1) h1)
      · exact canon_leaveHead (canon_requestFails h0)
    · have h1 : Canon s1 := canon_reserveLdq h0
      split
      · next he => exact canon_leaveHead (canon_atomicDone (canonOpt_atomicNow h1 _ he))
      · exact canon_leaveHead (canon_requestFails h1)

theorem canon_l2Hit {s : State} {t : Txn} (h : Canon s) : Canon (l2Hit s t).2 :=
  canon_ite_snd (canon_drawBool h) h

theorem canon_sendLoad {s : State} {g : Nat} {t : Txn} (h : Canon s) : Canon (sendLoad s g t) := by
  unfold sendLoad
  split
  extract_lets give wait
  have hg {u : State} (hu : Canon u) : Canon (give u) := canon_modLdq hu
  have hw {u : State} {n left : Nat} (hu : Canon u) : Canon (wait u n left) := canon_modLdq hu
  clear_value give wait
  refine canon_ite ?_ ?_
  · split
    next he => exact hw (hg (canon_of_snd (canon_drawIn h) he))
  · split
    next _ s1 he =>
      have h1 : Canon s1 := canon_of_snd (canon_l2Hit h) he
      split
      next _ s2 he1 =>
        have h2 : Canon s2 := canon_of_snd (canon_ite_snd h1 (canon_drawLat h1)) he1
        exact hw (hg (canon_sendTxn h2))

theorem canon_sendStore {s : State} {g : Nat} {t : Txn} (h : Canon s) : Canon (sendStore s g t) :=
  canon_ite (canon_requestFails h) (canon_sendTxn (canon_drawLat h))

theorem canon_sendAtomic {s : State} {g : Nat} {t : Txn} (h : Canon s) : Canon (sendAtomic s g t) :=
  canon_modLdq (canon_sendTxn (canon_ite_snd (canon_l2Hit h) (canon_ite_snd (canon_l2Hit h) (canon_drawLat (canon_l2Hit h)))))

theorem canon_sendPcmd {s : State} {t : Txn} (h : Canon s) : Canon (sendPcmd s t) :=
  canon_sendTxn (canon_drawLat h)

theorem canon_sendPart {s : State} {g : Nat} {t : Txn} (h : Canon s) : Canon (sendPart s g t) := by
  unfold sendPart
  split
  · exact canon_sendLoad h
  · exact canon_sendStore h
  · exact canon_sendAtomic h
  · exact canon_sendPcmd h

theorem canon_pcmdFault {s : State} {g : Nat} {q : Req} {cause pa rem : Nat} {entry : VWord} (h : Canon s) :
    Canon (pcmdFault s g q cause pa rem entry) :=
  canon_report h

theorem canon_prqDrop {s : State} {vf : Nat} (h : Canon s) : Canon (prqDrop s vf) :=
  canon_rincHold h

theorem canon_prqRecord {s : State} {g vf va : Nat} (h : Canon s) : Canon (prqRecord s g vf va) :=
  canon_ite (canon_prqDrop h) (canon_rsetF (canon_hwPutWords h))

theorem canon_harbPut {s : State} {v u : Nat} {st : HarbState} (h : Canon s) : Canon (harbPut s v u st) :=
  canon_upd (canon_fresh h) rfl

theorem canon_harbDevice {s : State} {v va : Nat} (h : Canon s) : Canon (harbDevice s v va) := by
  unfold harbDevice
  extract_lets u no
  have hno : Canon no := canon_rincHold h
  split
  · exact canon_ite hno (canon_emitOut (canon_harbPut h))
  · split
    · exact h
    · exact h
    · exact hno
    · exact hno

theorem canon_leavePreq {s : State} {g : Nat} {q : Req} (h : Canon s) : Canon (leavePreq s g q) :=
  canon_ite (canon_prqDrop h) (canon_ite (canon_pushRel h) (canon_ite (canon_harbDevice h) (canon_emitOut h)))

theorem canon_leaveHandle {s : State} {g : Nat} {q : Req} {h : HWord} (hs : Canon s) : Canon (leaveHandle s g q h) := by
  unfold leaveHandle
  extract_lets op entry s0
  have h0 : Canon s0 := canon_ite hs (canon_takeSlot hs)
  clear_value s0 op entry
  refine canon_ite hs ?_
  split
  · exact canon_popHead (canon_leavePreq h0)
  · exact canon_leaveAcquire h0
  · exact canon_ite (canon_leaveRelease h0) hs
  · exact canon_ite (canon_popHead (canon_sendTxn h0)) (canon_ite hs (canon_popHead (canon_feSet (canon_banksTake h0))))
  · refine canon_ite (canon_leaveHead (canon_requestFails (canon_reserveLdq h0))) (canon_ite (canon_popHead (canon_reserveLdq h0))
      (canon_ite (canon_leaveHead (canon_reserveLdq h0)) (canon_ite (canon_ite hs (canon_ite (canon_sendTxn (canon_modHead
          (canon_feReserve h0)))
        (canon_feBegin h0))) ?_)))
    split
    · refine canon_ite (canon_leaveHead h0) (canon_ite (canon_leaveHead (canon_pcmdFault h0)) ?_)
      split
      · exact canon_leaveHead hs
      · exact canon_ite (canon_leaveHead (canon_sendPart h0)) (canon_modHead (canon_sendPart h0))
    · have hr (n : Nat) : Canon (if q.done == 0 then reserveLdq s0 g q 1 n else s0) := canon_ite (canon_reserveLdq h0) h0
      split
      · exact canon_leaveHead (hr 0)
      · exact canon_ite (canon_leaveHead (canon_sendPart (hr _))) (canon_modHead (canon_sendPart (hr _)))

theorem canonRes_execLaqRequestLeave {g : Nat} {s : State} (h : Canon s) : CanonRes (execLaqRequestLeave g s) := by
  unfold execLaqRequestLeave
  split
  · exact canonRes_next h
  · split
    · exact canonRes_ite (canonRes_next (canon_modHead (canon_modCore (canon_fresh h)))) (canonRes_next h)
    · exact canonRes_next h
    · exact canonRes_next h
    · exact canonRes_next (canon_popHead (canon_modLdq (canon_reserveLdq h)))
    · split
      · exact canonRes_next (canon_leaveWindow h)
      · refine canonRes_ite (canonRes_next (canon_leaveHandle h)) ?_
        dsimp only
        split
        · exact canonRes_next (canon_pendAsync (canon_leaveHead h))
        · exact canonRes_next (canon_modHead h)

theorem canonRes_execFullEmptyWaitEnd {g : Nat} {s : State} (h : Canon s) : CanonRes (execFullEmptyWaitEnd g s) := by
  unfold execFullEmptyWaitEnd
  split
  · exact canonRes_next h
  · exact canonRes_ite (canonRes_next (canon_feStep h)) (canonRes_next h)

/-! Requests performed at their homes. -/

theorem canon_memberDone {s : State} {p cause : Nat} {fl : BitVec 5} (h : Canon s) : Canon (memberDone s p cause fl) := by
  unfold memberDone
  split
  · exact canon_setTxn h
  · exact h

theorem canon_loaded {s : State} {id : Nat} {t : Txn} {b : List (Nat × Byte)} (h : Canon s) : Canon (loaded s id t b) := by
  unfold loaded
  extract_lets raw line s1 _ s2
  have h1 : Canon s1 := canon_delTxn h
  have h2 : Canon s2 := canon_setTxn h
  clear_value raw line s1
  split
  · exact canon_deposit (canon_delTxn h)
  · exact canon_hostAnswer (canon_delTxn h)
  · exact canon_respond (canon_delTxn h)
  · refine canon_after (canon_memberDone (canon_delTxn ?_))
    split
    · exact canon_setTxn h
    · exact h
  · exact canon_modCtx (canon_delTxn h)
  · exact canon_upd h1 rfl
  · split
    · exact canon_after h2
    · exact canon_delTxn h

theorem canon_written {s : State} {id : Nat} {t : Txn} {old : List Byte} {fl : BitVec 5} (h : Canon s) :
    Canon (written s id t old fl) := by
  unfold written
  split
  · extract_lets s1
    have h1 : Canon s1 := canon_delTxn h
    split
    · exact canon_atomicDone h1
    · exact canon_engineFlags h1
  · exact canon_ite (canon_delTxn h) (canon_hostAnswer (canon_delTxn h))
  · exact canon_ite (canon_after (canon_setTxn h)) (canon_ite (canon_respond (canon_delTxn h)) (canon_respond (canon_delTxn h)))
  · exact canon_delTxn h
  · refine canon_ite (canon_after (canon_setTxn h)) (canon_after (canon_memberDone (canon_delTxn ?_)))
    split
    · exact canon_setTxn h
    · exact h
  · extract_lets s1
    have h1 : Canon s1 := canon_setTxn h
    split
    · exact canon_after h1
    · exact canon_delTxn h

theorem canon_pcmdFlags {s : State} {g seq : Nat} {fl : BitVec 5} (h : Canon s) : Canon (pcmdFlags s g seq fl) := by
  unfold pcmdFlags
  split
  · split
    · dsimp only
      split
      · exact canon_setTxn h
      · split
        · exact canon_setBankQ h
        · exact canon_modHead h
    · dsimp only
      split
      · exact canon_setTxn h
      · split
        · exact canon_setBankQ h
        · exact canon_engineFlags h
  · dsimp only
    split
    · exact canon_setTxn h
    · split
      · exact canon_setBankQ h
      · exact canon_engineFlags h

theorem canon_partFails {s : State} {id : Nat} {t : Txn} {cause : Nat} (h : Canon s) : Canon (partFails s id t cause) := by
  unfold partFails
  split
  · extract_lets s1
    have h1 : Canon s1 := canon_delTxn h
    split
    · exact canon_pcmdFault (canon_pcmdFlags h1)
    · exact canon_modCtx (canon_reqError h1)
    · exact canon_requestFails h1
  · exact canon_hostAnswer (canon_delTxn h)
  · exact canon_respond (canon_delTxn h)
  · exact canon_modCtx (canon_delTxn h)
  · extract_lets s1
    have h1 : Canon s1 := canon_delTxn h
    exact canon_ite (canon_upd h1 rfl) (canon_after (canon_setTxn h))
  · exact canon_after (canon_memberDone (canon_delTxn h))
  · extract_lets s1
    have h1 : Canon s1 := canon_setTxn h
    split
    · exact canon_after h1
    · exact canon_delTxn h

theorem canon_setOutst {s : State} {t : Tab Outst} (h : Canon s) : Canon (setOutst s t) :=
  canon_rsetF (canon_upd h rfl)

theorem canon_enterBy {send : State → Msg → State} {s : State} {m : Msg} {use : Use} {a : Agent} (hsend : ∀ (t : State)
    (m : Msg), Canon t → Canon (send t m)) (h : Canon s) : Canon (enterBy send s m use a) :=
  hsend _ _ (canon_after (canon_setOutst (canon_fresh (canon_draw h))))

theorem canon_enter {s : State} {m : Msg} {use : Use} {a : Agent} (h : Canon s) : Canon (enter s m use a) :=
  canon_enterBy (fun _ _ h1 => canon_sendMsg h1) h

theorem canon_enterRefused {s : State} {m : Msg} {use : Use} {a : Agent} {status : Nat} (h : Canon s) :
    Canon (enterRefused s m use a status) :=
  canon_enterBy (fun _ _ h1 => canon_upd h1 rfl) h

theorem canon_enterOwn {send : State → Msg → State} {s : State} {m : Msg} {use : Use} {a : Agent} (hsend : ∀ (t : State)
    (m : Msg), Canon t → Canon (send t m)) (h : Canon s) : Canon (enterOwn send s m use a) :=
  canon_ite (canon_enterBy (fun _ _ h1 => hsend _ _ h1) h) (canon_enterRefused h)

theorem canon_sendReq {s : State} {m : Msg} {use : Use} {a : Agent} (h : Canon s) : Canon (sendReq s m use a) :=
  canon_ite (canon_enterOwn (fun _ _ h1 => canon_sendMsg h1) h) (canon_upd h rfl)

theorem canon_sendPull {s : State} {u : MigUnit} (h : Canon s) : Canon (sendPull s u) :=
  canon_after (canon_upd (canon_sendReq (canon_fresh h)) rfl)

theorem canon_dropFrame {s : State} {peer : Option Nat} {frame : Nat} (h : Canon s) : Canon (dropFrame s peer frame) :=
  canon_rdcDrop h

theorem canon_redirectTo {s : State} {m frame dest dframe vf svf : Nat} (h : Canon s) :
    Canon (redirectTo s m frame dest dframe vf svf) :=
  canon_postPlain (canon_dropFrame (canon_upd h rfl))

theorem canon_onMoved {s : State} {id : Nat} {t : Txn} {x : Sealed} (h : Canon s) : Canon (onMoved s id t x) := by
  unfold onMoved
  split
  · extract_lets s1 _ s2
    have h1 : Canon s1 := canon_rsetF (canon_delTxn h)
    have h2 : Canon s2 := canon_ite h1 (canon_rsetF (canon_upd h1 rfl))
    exact canon_respond h2
  · extract_lets _ t' s1
    have h1 : Canon s1 := canon_redirectTo (canon_setTxn h)
    exact canon_ite (canon_partFails h) (canon_upd h1 rfl)

theorem canon_onReserved {s : State} {id : Nat} {t : Txn} {u : MigUnit} (h : Canon s) : Canon (onReserved s id t u) := by
  unfold onReserved
  extract_lets s0 _ s1 s2
  have h0 : Canon s0 := canon_setTxn h
  have h1 : Canon s1 := canon_upd h0 rfl
  have h2 : Canon s2 := canon_rsetF h1
  exact canon_ite h2 (canon_sendPull h2)

theorem canon_retry {s : State} {id : Nat} {t : Txn} (h : Canon s) : Canon (retry s id t) :=
  canon_after (canon_setTxn h)

theorem canon_holdPart {s : State} {id : Nat} {t : Txn} (h : Canon s) : Canon (holdPart s id t) :=
  canon_retry h

theorem canonOpt_withBanks {s : State} {t : Txn} (h : Canon s) : CanonOpt (withBanks s t) := by
  unfold withBanks
  split
  · dsimp only
    split
    · exact canonOpt_some h
    · exact canonOpt_some h
  · split
    · dsimp only
      split
      · exact canonOpt_some h
      · exact canonOpt_ite (canonOpt_some (canon_banksTake h)) canonOpt_none
    · dsimp only
      split
      · exact canonOpt_some h
      · exact canonOpt_ite (canonOpt_some (canon_banksTake h)) canonOpt_none

theorem canon_atHome {s : State} {id : Nat} {kind : TxnKind} {f : State → Txn → State} (h : Canon s) (hf : ∀ (t : State)
    (x : Txn), Canon t → Canon (f t x)) : Canon (atHome s id kind f) := by
  unfold atHome
  split
  · exact h
  · refine canon_ite h ?_
    split
    · split
      · next he2 =>
        exact hf _ _ ((canonOpt_withBanks h) _ he2)
      · exact canon_after h
    · exact canon_after h
    · exact canon_onMoved h
    · split
      · exact canon_respondError (canon_delTxn h)
      · exact canon_partFails h
    · exact canon_onReserved h
    · exact canon_partFails h

theorem canon_served {s : State} {t : Txn} (h : Canon s) : Canon (served s t) :=
  canon_ite (canon_ite (canon_rincHold (canon_drawBool h)) (canon_drawBool h)) h

theorem canonOpt_atsAsk {s : State} {vf pa n : Nat} (h : Canon s) : CanonOpt (atsAsk s vf pa n) :=
  canonOpt_ite canonOpt_none (canonOpt_some (canon_foldl (fun _ _ h1 => canon_emitOut (canon_upd (canon_draw h1) rfl)) h))

theorem canon_hostRead {s : State} {id vf pa n : Nat} (h : Canon s) : Canon (hostRead s id vf pa n) :=
  canon_foldl (fun _ _ h1 => canon_emitOut h1) h

theorem canon_hostWrite {s : State} {vf pa n : Nat} {wr : List WCell} (h : Canon s) : Canon (hostWrite s vf pa n wr) :=
  canon_foldl (fun _ _ h1 => canon_emitOut h1) h

theorem canon_rdcKeep {s : State} {t : Txn} {pas : List Nat} (h : Canon s) : Canon (rdcKeep s t pas) :=
  canon_ite (canon_foldl (fun _ _ h1 => canon_ite (canon_rdcFill h1) h1) h) h

theorem canon_performFull {s : State} {id : Nat} {t : Txn} (h : Canon s) : Canon (performFull s id t) := by
  unfold performFull
  extract_lets a mine t1 s1
  have hs1 : Canon s1 := canon_ite (canon_feSet h) h
  split
  · exact canon_partFails h
  · exact canon_ite (canon_loaded hs1) (canon_retry hs1)

theorem canon_performLoad {s : State} {id : Nat} {t : Txn} (h : Canon s) : Canon (performLoad s id t) := by
  unfold performLoad
  refine canon_ite (canon_partFails h) ?_
  split
  · exact canon_partFails h
  · split
    next he => exact canon_loaded (canon_of_snd (canon_regRead h) he)
  · refine canon_ite (canon_retry h) (canon_ite (canon_performFull h) ?_)
    split
    · split
      · dsimp only
        split
        · next he3 =>
          exact canon_retry ((canonOpt_atsAsk h) _ he3)
        · exact canon_partFails h
      · next he2 =>
        dsimp only
        split
        · next he3 =>
          exact canon_retry ((canonOpt_atsAsk h) _ he3)
        · exact canon_loaded (canon_l2Add (canon_rdcKeep (canon_hostRead ((canonOpt_loadBytes h) _ he2))))
    · split
      · next he2 =>
        exact canon_retry (canonOpt_none _ he2)
      · split
        · exact canon_partFails h
        · next he3 =>
          exact canon_loaded (canon_l2Add (canon_rdcKeep ((canonOpt_loadBytes h) _ he3)))

theorem canonRes_execLoadPerform {id : Nat} {s : State} (h : Canon s) : CanonRes (execLoadPerform id s) :=
  canonRes_next (canon_atHome h (fun _ _ h1 => canon_performLoad (canon_served h1)))

theorem canonPerf_storeAt {s : State} {t : Txn} (h : Canon s) : CanonPerf (storeAt s t).1 := by
  unfold storeAt
  extract_lets a n m
  clear_value a
  split
  · have hw : Canon (regWrite s t.reqSrc a (BitVec.ofNat 64 (natOfBytes (t.wr.map (·.val)))) n) := canon_regWrite h
    generalize regWrite s t.reqSrc a (BitVec.ofNat 64 (natOfBytes (t.wr.map (·.val)))) n = s1 at *
    generalize (isArcont (a - regBase) && !arcontMay s t) = c
    exact pred_ite_fst CanonPerf h (pred_ite_fst CanonPerf hw h)
  · split
    · next he1 =>
      have h1 := canonOpt_atsAsk h _ he1
      exact h1
    · exact canonPerf_storeHome (canon_hostWrite h)
  · exact canonPerf_storeHome h

theorem canon_afterStore {s : State} {t : Txn} (h : Canon s) : Canon (afterStore s t) :=
  canon_ite (canon_rdcInval h) (canon_rdcStore h)

theorem canon_storeDone {s : State} {t : Txn} (h : Canon s) : Canon (storeDone s t) :=
  canon_ite (canon_feSet h) (canon_afterStore (canon_ite h (canon_l2Add h)))

theorem canon_performStore {s : State} {id : Nat} {t : Txn} (h : Canon s) : Canon (performStore s id t) := by
  unfold performStore
  refine canon_ite (canon_partFails h) ?_
  split
  · next he =>
    split
    · exact canon_written (canon_storeDone (pred_of_eq CanonPerf (canonPerf_storeAt h) (congrArg Prod.fst he)))
    · exact canon_ite (canon_setTxn (canon_storeDone (pred_of_eq CanonPerf (canonPerf_storeAt h) (congrArg Prod.fst he))))
        (canon_written (canon_storeDone (pred_of_eq CanonPerf (canonPerf_storeAt h) (congrArg Prod.fst he))))
  · next he =>
    exact canon_setTxn (pred_of_eq CanonPerf (canonPerf_storeAt h) (congrArg Prod.fst he))
  · next he =>
    exact canon_partFails (pred_of_eq CanonPerf (canonPerf_storeAt h) (congrArg Prod.fst he))
  · next he =>
    exact canon_retry (canon_ite (canon_rincHold (pred_of_eq CanonPerf (canonPerf_storeAt h) (congrArg Prod.fst he)))
        (pred_of_eq CanonPerf (canonPerf_storeAt h) (congrArg Prod.fst he)))

theorem canonRes_execStorePerform {id : Nat} {s : State} (h : Canon s) : CanonRes (execStorePerform id s) := by
  unfold execStorePerform
  split
  · exact canonRes_next h
  · exact canonRes_ite (canonRes_next (canon_ite h (canon_ite (canon_setTxn h) (canon_ite (canon_written h) (canon_partFails h)))))
      (canonRes_next (canon_atHome h (fun _ _ h2 => canon_performStore (canon_served h2))))

theorem canon_performAtomic {s : State} {id : Nat} {t : Txn} (h : Canon s) : Canon (performAtomic s id t) := by
  unfold performAtomic
  refine canon_ite (canon_holdPart h) ?_
  split
  · next he =>
    exact canon_retry ((canonOpt_ite (canonOpt_atsAsk h) canonOpt_none) _ he)
  · exact canon_ite (canon_partFails h) (canon_written (canon_l2Add (canon_ite (canon_emitOut (canon_mwriteL h)) (canon_mwriteL h))))

theorem canonRes_execAtomicPerform {id : Nat} {s : State} (h : Canon s) : CanonRes (execAtomicPerform id s) :=
  canonRes_next (canon_atHome h (fun _ _ h1 => canon_performAtomic (canon_served h1)))

theorem canon_acquired {s : State} {g : Nat} {t : Txn} (h : Canon s) : Canon (acquired s g t) :=
  canon_modCtx (canon_ite (canon_ite (canon_rdcAcquireAll (canon_noFill (canon_rdcDrop h))) (canon_rdcAcquire (canon_noFill
      (canon_rdcDrop h)))) (canon_noFill (canon_rdcDrop h)))

theorem canon_performAcquire {s : State} {id : Nat} {t : Txn} (h : Canon s) : Canon (performAcquire s id t) := by
  unfold performAcquire
  extract_lets k owner a l others
  refine canon_ite (canon_partFails h) (canon_ite (canon_holdPart h) (canon_ite (canon_retry h) ?_))
  split
  next now s1 he =>
  have h1 : Canon s1 := canon_of_snd (canon_ite_snd (canon_drawBool h) h) he
  refine canon_ite (canon_retry h1) ?_
  split
  · exact canon_acquired (canon_delTxn (canon_acqStep h1))
  · exact canon_respond (canon_delTxn (canon_acqStep h1))
  · exact canon_delTxn (canon_acqStep h1)

theorem canon_performRelease {s : State} {id : Nat} {t : Txn} (h : Canon s) : Canon (performRelease s id t) :=
  canon_ite (canon_partFails h) (canon_ite (canon_holdPart h) (canon_written (canon_ite (canon_rincHold (canon_relStep h))
      (canon_relStep h))))

theorem canonRes_execReleasePerform {core id : Nat} {s : State} (h : Canon s) : CanonRes (execReleasePerform core id s) := by
  unfold execReleasePerform
  split
  · exact canonRes_next h
  · split
    · exact canonRes_ite (canonRes_next (canon_after h)) (canonRes_next (canon_prqRecord (canon_modCore h)))
    · exact canonRes_ite (canonRes_next (canon_after h)) (canonRes_next (canon_sendTxn (canon_drawLat (canon_ite (canon_takeSlot
        (canon_modCore h)) (canon_modCore h)))))

theorem canonRes_execFenceComplete {g : Nat} {s : State} (h : Canon s) : CanonRes (execFenceComplete g s) := by
  unfold execFenceComplete
  split
  · exact canonRes_next h
  · split
    · exact canonRes_ite (canonRes_next (canon_ite (canon_rdcAcquireAll (canon_popHead (canon_modCore h))) (canon_popHead
        (canon_modCore h)))) (canonRes_next h)
    · exact canonRes_next h

theorem canonRes_execPfenceComplete {g : Nat} {s : State} (h : Canon s) : CanonRes (execPfenceComplete g s) := by
  unfold execPfenceComplete
  split
  · exact canonRes_next h
  · split
    · exact canonRes_ite (canonRes_next h) (canonRes_next (canon_popHead (canon_noFill (canon_rdcDrop h))))
    · exact canonRes_next h

theorem canonRes_execBindPerform {g : Nat} {s : State} (h : Canon s) : CanonRes (execBindPerform g s) := by
  unfold execBindPerform
  split
  · exact canonRes_next h
  · split
    · exact canonRes_ite (canonRes_next h) (canonRes_next (canon_popHead (canon_foldl (fun _ _ h3 => canon_noFill h3) (canon_rdcDrop
        (canon_ite (canon_upd h rfl) (canon_ite (canon_upd h rfl) h))))))
    · exact canonRes_next h

theorem canonRes_execPumpPartEnqueue {id : Nat} {s : State} (h : Canon s) : CanonRes (execPumpPartEnqueue id s) := by
  unfold execPumpPartEnqueue
  refine canonRes_next (canon_atHome h (fun _ _ h1 => canon_ite (canon_partFails h1) ?_))
  split
  · next he =>
    exact canon_delTxn (canon_l2Drop ((canonOpt_enqueue h1) _ he))
  · exact canon_retry h1

theorem canon_partDone_queued {s : State} {t : Txn} {fl : BitVec 5} {cause : Nat} (h : Canon s) :
    Canon (partDone.queued s t fl cause) := by
  unfold partDone.queued
  split
  · exact canon_ite (canon_written (canon_ite (canon_storeDone h) h)) (canon_partFails h)
  · exact h

theorem canon_partDone {s : State} {t : Txn} {fl : BitVec 5} {cause bad : Nat} (h : Canon s) : Canon (partDone s t fl cause bad) := by
  unfold partDone
  extract_lets s1 fva
  have hs1 : Canon s1 := canon_rdcInval h
  split
  · exact canon_ite (canon_partDone_queued h) (canon_ite (canon_ite (canon_pcmdFlags hs1) (canon_pcmdFault (canon_pcmdFlags hs1)))
      (canon_ite (canon_engineFlags hs1) (canon_requestFails (canon_engineFlags hs1))))
  · exact canon_ite (canon_ite (canon_respond h) (canon_respondError h)) (canon_partDone_queued h)
  · exact canon_partDone_queued h

theorem canonRes_execPumpPartExecute {bank : Nat} {s : State} (h : Canon s) : CanonRes (execPumpPartExecute bank s) := by
  unfold execPumpPartExecute
  split
  · exact canonRes_next h
  · next p r hq =>
    generalize he : partApply s p.txn = x
    obtain ⟨s1, fl, cause⟩ := x
    have h1 : Canon s1 := canon_of_fst (canon_partApply h) he
    refine canonRes_next (canon_partDone ?_)
    split
    · exact canon_setBankQ (canon_setBankQ h1)
    · exact canon_setBankQ h1

/-! LDQ entries, walks and handles. -/

theorem canonRes_execTableWalkComplete {id : Nat} {s : State} (h : Canon s) : CanonRes (execTableWalkComplete id s) := by
  unfold execTableWalkComplete
  split
  · exact canonRes_next h
  · exact canonRes_next (canon_modCtx (canon_upd h rfl))

theorem canon_invalidate {s : State} {v lo hi : Nat} {stew : Bool} (h : Canon s) : Canon (invalidate s v lo hi stew) :=
  canon_upd h rfl

theorem canon_invalidateHeld {s : State} {v lo hi : Nat} {stew : Bool} (h : Canon s) : Canon (invalidateHeld s v lo hi stew) :=
  canon_upd h rfl

theorem canonRes_execHinvalComplete {s : State} (h : Canon s) : CanonRes (execHinvalComplete s) :=
  canonRes_ite (canonRes_next (canon_after (canon_invalidateHeld h))) (canonRes_next (canon_rsetF (canon_invalidateHeld h)))

/-! What the engines share. -/

theorem canon_setChan {s : State} {k : Nat} {l : List CCmd} (h : Canon s) : Canon (setChan s k l) :=
  canon_upd h rfl

theorem canon_modCmd {s : State} {k id : Nat} {f : CCmd → CCmd} (h : Canon s) : Canon (modCmd s k id f) :=
  canon_setChan h

theorem canon_dropCmd {s : State} {k id : Nat} (h : Canon s) : Canon (dropCmd s k id) :=
  canon_setChan h

theorem canon_bump {s : State} {g ix : Nat} (h : Canon s) : Canon (bump s g ix) :=
  canon_modCtx h

theorem canon_issueCmd {s : State} {ch : Nat} {f : CCmd → CCmd} (h : Canon s) : Canon (issueCmd s ch f) :=
  canon_bump (canon_setChan (canon_fresh h))

theorem canon_endCmd {s : State} {k : Nat} {c : CCmd} (h : Canon s) : Canon (endCmd s k c) := by
  unfold endCmd
  extract_lets s1 s2 gr slot s3 ix
  have hs1 : Canon s1 := canon_dropCmd h
  have hs2 : Canon s2 := canon_ite (canon_bump hs1) hs1
  have hs3 : Canon s3 := canon_modClu hs2
  refine canon_ite ?_ hs2
  split
  · exact hs3
  · exact canon_modCtx hs3

theorem canon_failCmd {s : State} {k : Nat} {c : CCmd} {f : Nat × Nat × Nat} (h : Canon s) : Canon (failCmd s k c f) := by
  have hF (F : State → Nat → CCmd → Nat × Nat × Nat → State) (e : F = failCmd) : Canon (F s k c f) := by
    delta failCmd at e
    subst e
    dsimp -zeta -iota -proj only
    generalize hr : report s (cmdRecord s k c f.1 f.2.1 f.2.2) = p
    have h1 : Canon p.1 := canon_of_fst (canon_report h) hr
    cases p
    exact canon_ite (canon_modCmd h1) (canon_endCmd h1)
  exact hF _ rfl

theorem canon_noteFault {s : State} {k id cause pos fva : Nat} (h : Canon s) : Canon (noteFault s k id cause pos fva) :=
  canon_modCmd h

theorem canon_askDone {s : State} {k id : Nat} (h : Canon s) : Canon (askDone s k id) := by
  unfold askDone
  split
  · exact canon_after h
  · exact h

theorem canon_sendChan {s : State} {k id : Nat} {t : Txn} (h : Canon s) : Canon (sendChan s k id t) :=
  canon_modCmd (canon_sendTxn (canon_bookSlot (canon_drawLat h)))

theorem canon_issueCopyPart {s : State} {k : Nat} {c : CCmd} (h : Canon s) : Canon (issueCopyPart s k c) := by
  unfold issueCopyPart
  refine canon_ite (canon_askDone (canon_modCmd h)) ?_
  split
  · exact canon_askDone (canon_noteFault h)
  · refine canon_ite h (canon_ite (canon_askDone (canon_noteFault h)) ?_)
    split
    · split
      · exact canon_sendChan (canon_modCmd h)
      · exact canon_modCmd (canon_modCmd h)
    · split
      · exact canon_sendChan (canon_modCmd h)
      · exact canon_sendChan (canon_modCmd h)

theorem canon_finishCmd {s : State} {k : Nat} {c : CCmd} (h : Canon s) : Canon (finishCmd s k c) := by
  unfold finishCmd
  split
  · exact canon_failCmd h
  · refine canon_ite (canon_endCmd h) ?_
    split
    · exact canon_failCmd h
    · exact canon_ite (canon_failCmd h) (canon_sendChan (canon_modCmd h))

/-! Multicasts. -/

theorem canon_omPerform {s : State} {t : Txn} (h : Canon s) : Canon (omPerform s t) :=
  canon_sendTxn h

theorem canon_omRoot {s : State} {id : Nat} {t : Txn} (h : Canon s) : Canon (omRoot s id t) := by
  unfold omRoot
  refine canon_ite (canon_partFails h) (canon_foldl (fun _ _ h1 => ?_) (canon_setTxn (canon_upd h rfl)))
  split
  · exact canon_after (canon_memberDone h1)
  · exact canon_sendTxn h1

/-! Rings of packets. -/

theorem canon_dispForget {s : State} {q : Nat} (h : Canon s) : Canon (dispForget s q) :=
  canon_upd h rfl

theorem canonFetch_ringRead {s : State} {n : QName} {a len : Nat} (h : Canon s) : CanonFetch (ringRead s n a len) := by
  unfold ringRead
  refine pred_ite CanonFetch ?_ ?_
  · split
    · exact trivial
    · exact trivial
    · exact pred_ite CanonFetch h (canon_sendTxn h)
  · split
    · exact trivial
    · exact pred_ite CanonFetch trivial h

theorem canonQPeek_queuePeek {s : State} {n : QName} {d : Nat} (h : Canon s) : CanonQPeek (queuePeek s n d) := by
  unfold queuePeek
  refine pred_ite CanonQPeek trivial ?_
  split
  · next he =>
    exact pred_of_eq CanonFetch (canonFetch_ringRead h) he
  · exact trivial
  · refine pred_ite CanonQPeek (pred_ite CanonQPeek (canon_dispForget h) trivial) (pred_ite CanonQPeek trivial
      (pred_ite CanonQPeek trivial (pred_ite CanonQPeek (pred_ite CanonQPeek (canon_dispForget h) trivial) ?_)))
    dsimp only
    split
    · next he1 =>
      exact pred_of_eq CanonFetch (canonFetch_ringRead h) he1
    · exact trivial
    · exact pred_ite CanonQPeek (pred_ite CanonQPeek (canon_dispForget h) trivial) trivial

theorem canon_queueTake {s : State} {n : QName} {d idx a : Nat} (h : Canon s) : Canon (queueTake s n d idx a) :=
  canon_hwPut8 (canon_hwPut (canon_dispForget h))

theorem canon_queueUnusable {s : State} {n : QName} (h : Canon s) : Canon (queueUnusable s n) :=
  canon_postPlain (canon_rsetF h)

theorem canon_queueStop {s : State} {n : QName} {d err idx : Nat} (h : Canon s) : Canon (queueStop s n d err idx) :=
  canon_ite (canon_queueUnusable h) (canon_hwPut8 (canon_hwWrite (canon_dispForget h)))

theorem canon_queueSkip {s : State} {n : QName} {d err idx : Nat} (h : Canon s) : Canon (queueSkip s n d err idx) :=
  canon_queueStop (canon_ite (canon_hwPut8 h) h)

/-! Copies, puts and their channels. -/

theorem canonRes_execCpy {p : Syl} {va : Fin 32} {ch : Fin 4} {s : State} (h : Canon s) : CanonRes (execCpy p va ch s) :=
  canonRes_issue h (fun _ h1 => canonRes_ite (canonRes_stall h1) (canonRes_next (canon_issueCmd h1)))

theorem canonRes_issuePut {p : Syl} {kind : Nat} {n : Fin 6} {o : MP} {s : State} (h : Canon s) : CanonRes (issuePut p kind n o s) :=
  canonRes_issue h (fun _ h1 => canonRes_ite (canonRes_stall h1) (canonRes_ite (canonRes_trapNow h1) (canonRes_next
      (canon_issueCmd h1))))

theorem canonRes_waitMark {s : State} (h : Canon s) : CanonRes (waitMark s) :=
  canonRes_waitWith (canon_modIssuer h)

theorem canonRes_execDrain {p : Syl} {chs : Fin 8} {s : State} (h : Canon s) : CanonRes (execDrain p chs s) :=
  canonRes_issue h (fun _ h1 => canonRes_ite (canonRes_next h1) (canonRes_waitMark h1))

theorem canon_pollHere {s : State} {vf : Nat} {h : HWord} {pa : Nat} (hs : Canon s) : Canon (pollHere s vf h pa).2 := by
  unfold pollHere
  refine canon_ite_snd ?_ (canon_ite_snd hs hs)
  split
  next he =>
    have h1 := canon_of_snd (canon_regRead hs) he
    exact h1

theorem canonRes_waitCounter {s : State} (h : Canon s) : CanonRes (waitCounter s) :=
  canonRes_waitWith (canon_modIssuer h)

theorem canonRes_counterWait {p : Syl} {o : MS} {s : State} (h : Canon s) : CanonRes (counterWait p o s) := by
  refine canonRes_issue h fun t ht => ?_
  extract_lets c g w a n h va pa acquire
  have hacq {u : State} (hu : Canon u) : Canon (acquire u) := canon_ite (canon_rdcAcquireAll hu) hu
  clear_value acquire
  refine canonRes_ite (canonRes_next ht) (canonRes_ite (canonRes_trapNow ht) ?_)
  split
  · exact canonRes_stall ht
  · exact canonRes_trapNow ht
  · split
    · refine canonRes_ite (canonRes_waitCounter ht) ?_
      split
      next x s1 he =>
      have h1 : Canon s1 := canon_of_snd (canon_pollHere (canon_takeSlot ht)) he
      split
      · exact canonRes_ite (canonRes_next (hacq h1)) (canonRes_waitCounter h1)
      · exact canonRes_waitCounter h1
    · extract_lets k
      split
      · exact canonRes_ite (canonRes_next (hacq (canon_modIssuer ht))) (canonRes_waitCounter (canon_modIssuer ht))
      · exact canonRes_ite (canonRes_waitCounter ht) (canonRes_waitCounter (canon_sendTxn (canon_rdcInval (canon_takeSlot ht))))

theorem canon_publish {s : State} {v i obj : Nat} (h : Canon s) : Canon (publish s v i obj) :=
  canon_rdcDrop (canon_hwPut8 (canon_rsetF h))

theorem canonRes_execPubl {p : Syl} {o : MS} {s : State} (h : Canon s) : CanonRes (execPubl p o s) :=
  canonRes_issue h (fun _ h1 => canonRes_ite (canonRes_trapFree h1) (canonRes_ite (canonRes_stall h1) (canonRes_ite (canonRes_next
      (canon_report h1)) (canonRes_ite (canonRes_waitMark h1) (canonRes_ite (canonRes_next (canon_report h1)) (canonRes_ite
      (canonRes_waitMark h1) (canonRes_next (canon_publish h1))))))))

theorem canon_putFault {s : State} {k : Nat} {c : CCmd} {cause : Nat} (h : Canon s) : Canon (putFault s k c cause) :=
  canon_askDone (canon_noteFault h)

theorem canon_issuePutOne {s : State} {k : Nat} {c : CCmd} {h : HWord} (hs : Canon s) : Canon (issuePutOne s k c h) := by
  unfold issuePutOne
  split
  · exact canon_ite (canon_sendChan (canon_modCmd hs)) (canon_ite (canon_sendChan (canon_modCmd hs)) (canon_putFault hs))
  · exact canon_sendChan (canon_modCmd hs)

theorem canon_issueMember {s : State} {k : Nat} {c : CCmd} {h : HWord} {hc : Option (HWord × Nat)} (hs : Canon s) :
    Canon (issueMember s k c h hc) := by
  unfold issueMember
  split
  · exact canon_askDone (canon_report (canon_modCmd hs))
  · exact canon_sendChan (canon_modCmd hs)

theorem canon_issueOrdered {s : State} {k : Nat} {c : CCmd} {h : HWord} {hc : Option (HWord × Nat)} (hs : Canon s) :
    Canon (issueOrdered s k c h hc) :=
  canon_ite (canon_omRoot (canon_modCmd (canon_setTxn (canon_fresh (canon_bookSlot (canon_modCmd hs)))))) (canon_sendChan
      (canon_modCmd hs))

theorem canon_issuePutPart {s : State} {k : Nat} {c : CCmd} (h : Canon s) : Canon (issuePutPart s k c) := by
  unfold issuePutPart
  refine canon_ite (canon_putFault h) ?_
  split
  · exact canon_putFault h
  · refine canon_ite (canon_putFault h) (canon_ite (canon_issuePutOne h) ?_)
    split
    · exact canon_putFault h
    · exact canon_ite (canon_issueMember h) (canon_issueOrdered h)

theorem canon_modStream {s : State} {x : Nat × Nat} {f : Stream → Stream} (h : Canon s) : Canon (modStream s x f) :=
  canon_modClu h

theorem canonOpt_issueAny {s : State} {k : Nat} {before : List CCmd} {c : CCmd} (h : Canon s) : CanonOpt (issueAny s k before c) :=
  canonOpt_ite (canonOpt_some (canon_ite (canon_issueCopyPart (canon_ite (canon_modCmd h) h)) (canon_issuePutPart h)))
      (canonOpt_ite canonOpt_none (canonOpt_some (canon_ite (canon_issueCopyPart (canon_ite (canon_modCmd h) h))
      (canon_issuePutPart h))))

theorem canonOpt_issueFrom {s : State} {k : Nat} {l m : List CCmd} (h : Canon s) : CanonOpt (issueFrom s k l m) := by
  induction m generalizing l with
  | nil => exact canonOpt_none
  | cons c m ih =>
    rw [issueFrom]
    exact canonOpt_ite ih (canonOpt_ite (canonOpt_ite ih canonOpt_none) (canonOpt_issueAny h))

theorem canon_askAll {s : State} {k : Nat} (h : Canon s) : Canon (askAll s k) :=
  canon_foldl (fun _ _ h1 => canon_askDone h1) h

theorem canonRes_execEnginePartIssue {chan : Nat} {s : State} (h : Canon s) : CanonRes (execEnginePartIssue chan s) :=
  canonRes_ite (canonRes_next (canon_askAll h)) (canonRes_next (canon_getD (canonOpt_issueFrom (canon_askAll h)) (canon_askAll h)))

theorem canon_dropPart {s : State} {k cid id : Nat} (h : Canon s) : Canon (dropPart s k cid id) :=
  canon_modCmd (canon_delTxn h)

theorem canon_partTrouble {s : State} {k : Nat} {c : CCmd} {id : Nat} {t : Txn} (h : Canon s) : Canon (partTrouble s k c id t) := by
  unfold partTrouble
  extract_lets tl load here j pos0 pos keep x fva s1 rd t1
  have h1 : Canon s1 := canon_noteFault h
  refine canon_ite (canon_askDone (canon_dropPart h1)) ?_
  split
  next he =>
    extract_lets s3
    have h3 : Canon s3 := canon_setTxn (canon_of_snd (canon_bookSlot h1) he)
    clear_value s3
    split
    · exact canon_upd h3 rfl
    · exact canon_after h3

theorem canon_partLanded {s : State} {k : Nat} {c : CCmd} {id : Nat} {t : Txn} (h : Canon s) : Canon (partLanded s k c id t) := by
  unfold partLanded
  refine canon_ite (canon_ite (canon_askDone (canon_dropPart (canon_foldl (fun _ _ h1 => canon_report h1) h))) (canon_ite
      (canon_dropPart (canon_noteFault h)) (canon_partTrouble h))) ?_
  split
  · refine canon_ite (canon_modCmd (canon_dropPart h)) ?_
    split
    next he1 =>
      split
      next he2 =>
        extract_lets s2
        have h2 : Canon s2 := canon_setTxn (canon_of_snd (canon_bookSlot (canon_of_fst (canon_fillRules (canon_modCmd h)) he1)) he2)
        clear_value s2
        split
        · exact canon_upd h2 rfl
        · exact canon_after h2
  · exact canon_ite (canon_after (canon_setTxn h)) (canon_askDone (canon_dropPart h))
  · exact canon_askDone (canon_dropPart h)

theorem canonRes_execCopyPartLand {id : Nat} {s : State} (h : Canon s) : CanonRes (execCopyPartLand id s) := by
  unfold execCopyPartLand
  split
  · exact canonRes_next h
  · refine canonRes_ite ?_ (canonRes_next (canon_atHome h (fun _ _ h2 => canon_performStore (canon_served h2))))
    split
    · split
      · exact canonRes_next (canon_delTxn h)
      · exact canonRes_next (canon_partLanded h)
    · exact canonRes_next (canon_delTxn h)

theorem canonRes_execCopyComplete {chan id : Nat} {s : State} (h : Canon s) : CanonRes (execCopyComplete chan id s) := by
  unfold execCopyComplete
  split
  · exact canonRes_next h
  · refine canonRes_ite (canonRes_next h) (canonRes_ite ?_ (canonRes_next (canon_finishCmd h)))
    split
    · split
      · exact canonRes_ite (canonRes_next (canon_failCmd h)) (canonRes_next h)
      · exact canonRes_ite (canonRes_next (canon_endCmd h)) (canonRes_next h)
    · split
      · exact canonRes_ite (canonRes_next (canon_failCmd h)) (canonRes_next h)
      · exact canonRes_ite (canonRes_next (canon_endCmd h)) (canonRes_next h)

theorem canonRes_execPutComplete {chan id : Nat} {s : State} (h : Canon s) : CanonRes (execPutComplete chan id s) := by
  unfold execPutComplete
  split
  · exact canonRes_next h
  · exact canonRes_ite (canonRes_next (canon_finishCmd h)) (canonRes_next h)

theorem canonRes_execFeederEntryFill {slot : Nat} {s : State} (h : Canon s) : CanonRes (execFeederEntryFill slot s) := by
  unfold execFeederEntryFill
  dsimp only
  split
  · exact canonRes_next h
  · split
    · exact canonRes_next h
    · exact canonRes_ite (canonRes_next (canon_askDone h)) (canonRes_next (canon_askDone (canon_modCtx (canon_modCmd
        (canon_modStream h)))))

theorem canonRes_execSharedCopyPacketTake {q : Nat} {s : State} (h : Canon s) : CanonRes (execSharedCopyPacketTake q s) := by
  unfold execSharedCopyPacketTake
  refine canonRes_ite (canonRes_next h) ?_
  split
  · exact canonRes_next h
  · next he =>
    exact canonRes_next (pred_of_eq CanonQPeek (canonQPeek_queuePeek h) he)
  · exact canonRes_next (canon_queueUnusable h)
  · exact canonRes_next (canon_queueSkip h)
  · exact canonRes_ite (canonRes_next (canon_setChan (canon_fresh (canon_rdcAcquireAll (canon_queueTake h))))) (canonRes_next
      (canon_queueStop (canon_rdcAcquireAll (canon_queueTake h))))

/-! Requests that leave the module. -/

theorem canon_feAnswered {s : State} {id g : Nat} {t : Txn} {bad : Bool} (h : Canon s) : Canon (feAnswered s id g t bad) := by
  unfold feAnswered
  extract_lets s1 s2
  have hs1 : Canon s1 := canon_delTxn h
  have hs2 : Canon s2 := canon_ite (canon_depositFail hs1) (canon_deposit hs1)
  refine canon_ite (canon_ite (canon_requestFails hs1) hs1) ?_
  split
  · exact canon_ite (canon_popHead hs2) hs2
  · exact hs2

theorem canon_ownPost {s : State} {id : Nat} {t : Txn} {m : Option Nat} (h : Canon s) : Canon (ownPost s id t m) := by
  unfold ownPost
  extract_lets s1
  have h1 : Canon s1 := canon_setTxn h
  clear_value s1
  split
  · exact canon_after h1
  · exact canon_upd h1 rfl

theorem canon_txnDone {s : State} {id : Nat} {t : Txn} {old : List Byte} (h : Canon s) : Canon (txnDone s id t old) := by
  unfold txnDone
  extract_lets s1
  have hs1 : Canon s1 := canon_ite (canon_afterStore h) h
  split
  · exact canon_feAnswered h
  · refine canon_ite (canon_partFails h) ?_
    split
    · exact canon_loaded h
    · exact canon_written h
    · split
      · exact canon_acquired (canon_delTxn h)
      · exact canon_delTxn h
    · exact canon_partDone (canon_delTxn h)
    · split
      · exact canon_ite (canon_written hs1) (canon_ownPost hs1)
      · exact canon_written hs1

theorem canon_msgAnswered {s : State} {id : Nat} {t : Txn} {old : List Byte} (h : Canon s) : Canon (msgAnswered s id t old) :=
  canon_ite (canon_txnDone (canon_upd h rfl)) (canon_setTxn h)

theorem canon_txnAnswer {s : State} {id a : Nat} {q r : Msg} (h : Canon s) : Canon (txnAnswer s id a q r) := by
  unfold txnAnswer
  split
  · exact h
  · split
    · exact canon_msgAnswered (canon_noFill (canon_ite (canon_rdcFill h) h))
    · exact canon_msgAnswered h
    · exact canon_msgAnswered h
    · exact canon_msgAnswered h

theorem canonRes_execFabricRequestInject {id : Nat} {s : State} (h : Canon s) : CanonRes (execFabricRequestInject id s) := by
  unfold execFabricRequestInject
  split
  · exact canonRes_next (canon_upd h rfl)
  · refine canonRes_ite (canonRes_next (canon_upd h rfl)) ?_
    split
    · exact canonRes_next (canon_ite (canon_txnDone (canon_upd h rfl)) (canon_upd h rfl))
    · exact canonRes_ite (canonRes_next (canon_msgAnswered (canon_setTxn h))) (canonRes_ite (canonRes_next (canon_msgAnswered
        (canon_setTxn h))) (canonRes_ite (canonRes_next h) (canonRes_ite (canonRes_next (canon_setTxn h)) (canonRes_next (canon_enter
        (canon_setTxn h))))))

theorem canonOpt_injectNext {s : State} (h : Canon s) : CanonOptSnd (injectNext s) := by
  unfold injectNext
  dsimp only
  split
  · exact canonOptSnd_some (canon_upd h rfl)
  · split
    · exact canonOptSnd_some (canon_upd h rfl)
    · exact canonOptSnd_none

/-! The combining all-reduce. -/

theorem canon_hwAdd8 {s : State} {pa n : Nat} (h : Canon s) : Canon (hwAdd8 s pa n) :=
  canon_ite (canon_hwSend h) (canon_ite h (canon_hwPut8 h))

theorem canon_arSet {s : State} {a : ArSeq} (h : Canon s) : Canon (arSet s a) :=
  canon_upd h rfl

theorem canon_arDel {s : State} {v i : Nat} (h : Canon s) : Canon (arDel s v i) :=
  canon_upd h rfl

theorem canon_arSend {s : State} {v i n op dst : Nat} {x : Word64} (h : Canon s) : Canon (arSend s v i n op dst x) :=
  canon_sendReq h

theorem canon_arWrite {s : State} {v i n : Nat} {x : Word64} {status : Nat} (h : Canon s) : Canon (arWrite s v i n x status) := by
  unfold arWrite
  extract_lets cf res l cnt away s1 s2 s3
  have hs1 : Canon s1 := canon_ite (canon_hwSend h) (canon_hwPutWords h)
  have hs2 : Canon s2 := canon_arDel (canon_rsetF hs1)
  have hs3 : Canon s3 := canon_ite hs2 (canon_hwAdd8 hs2)
  exact canon_ite hs3 (canon_postPlain hs3)

theorem canon_arRecord {s : State} {v i n : Nat} {x : Word64} {status : Nat} (h : Canon s) : Canon (arRecord s v i n x status) :=
  canon_ite h (canon_ite (canon_arWrite h) (canon_after (canon_arSet h)))

theorem canon_arDown {s : State} {v i n : Nat} {x : Word64} {status : Nat} (h : Canon s) : Canon (arDown s v i n x status) :=
  canon_arRecord (canon_foldl (fun _ _ h1 => canon_arSend h1) h)

theorem canon_arTry {s : State} {v i : Nat} (h : Canon s) : Canon (arTry s v i) := by
  unfold arTry
  split
  · split
    · refine canon_ite h (canon_ite (canon_arDown h) ?_)
      split
      · exact canon_arSend (canon_arSet h)
      · exact h
    · exact h
  · exact h

theorem canon_arAbortDown {s : State} {v i n : Nat} (h : Canon s) : Canon (arAbortDown s v i n) :=
  canon_ite h (canon_arDown (canon_upd h rfl))

theorem canon_arAbort {s : State} {v i n : Nat} (h : Canon s) : Canon (arAbort s v i n) := by
  unfold arAbort
  split
  · exact canon_ite (canon_arAbortDown h) (canon_arSend h)
  · exact h

theorem canon_collError {s : State} {v i n op dst : Nat} (h : Canon s) : Canon (collError s v i n op dst) := by
  unfold collError
  refine canon_ite (canon_arAbort h) ?_
  split
  · exact canon_ite (canon_after (canon_arSet h)) h
  · exact h

theorem canonRes_execArcontWrite {src : ReqSrc} {v i : Nat} {c : Word64} {s : State} (h : Canon s) :
    CanonRes (execArcontWrite src v i c s) :=
  canonRes_ite (canonRes_next (canon_rincHold h)) (canonRes_next (canon_arTry (canon_after (canon_arSet (canon_upd h rfl)))))

theorem canonRes_execArcfgWrite {v i dw : Nat} {c : Word64} {s : State} (h : Canon s) : CanonRes (execArcfgWrite v i dw c s) :=
  canonRes_ite (canonRes_next (canon_rsetF (canon_arDel (canon_upd h rfl)))) (canonRes_next h)

theorem canon_arAbortHere {s : State} {v i n : Nat} (h : Canon s) : Canon (arAbortHere s v i n) := by
  unfold arAbortHere
  split
  · exact canon_ite (canon_arAbortDown h) (canon_arDown h)
  · exact h

theorem canonRes_execAllreduceTimeout {v i n : Nat} {s : State} (h : Canon s) : CanonRes (execAllreduceTimeout v i n s) := by
  unfold execAllreduceTimeout
  split
  · exact canonRes_next h
  · refine canonRes_ite (canonRes_next h) ?_
    split
    · exact canonRes_next (canon_ite (canon_arAbortHere (canon_arRecord h)) (canon_arRecord h))
    · exact canonRes_ite (canonRes_next (canon_arRecord h)) (canonRes_ite (canonRes_next (canon_arAbort (canon_arSet h)))
        (canonRes_next h))

theorem canonRes_execAllReducePartial {m : Msg} {s : State} (h : Canon s) : CanonRes (execAllReducePartial m s) := by
  unfold execAllReducePartial
  dsimp only
  split
  · exact canonRes_next (canon_respondError h)
  · split
    · exact canonRes_ite (canonRes_next (canon_arTry (canon_respond (canon_arSet h)))) (canonRes_ite (canonRes_next
        (canon_respondError h)) (canonRes_next (canon_respond (canon_upd h rfl))))
    · exact canonRes_ite (canonRes_next (canon_respondError h)) (canonRes_next (canon_respond (canon_upd h rfl)))

theorem canonRes_execAllReduceAbort {m : Msg} {s : State} (h : Canon s) : CanonRes (execAllReduceAbort m s) := by
  unfold execAllReduceAbort
  split
  · exact canonRes_ite (canonRes_next (canon_arSet (canon_respond h))) (canonRes_next (canon_arAbortHere (canon_respond h)))
  · exact canonRes_next (canon_arAbortHere (canon_respond h))

/-! Migration of a virtual function. -/

theorem canon_rewriteLeaf {s : State} {v va mig home : Nat} {frame : Option Nat} (h : Canon s) :
    Canon (rewriteLeaf s v va mig home frame) := by
  have hF (F : State → Nat → Nat → Nat → Nat → Option Nat → State) (e : F = rewriteLeaf) : Canon (F s v va mig home frame) := by
    delta rewriteLeaf at e
    subst e
    dsimp -zeta -iota -proj only
    split
    · exact h
    · exact canon_hwPut8 h
  exact hF _ rfl

theorem canon_bmapPut {s : State} {v u : Nat} {x : Byte} (h : Canon s) : Canon (bmapPut s v u x) :=
  canon_ite (canon_hwPut h) (canon_hwBehind h)

theorem canon_allSent {s : State} {v : Nat} (h : Canon s) : Canon (allSent s v) :=
  canon_ite (canon_postPlain (canon_rsetF h)) h

theorem canon_sendPage {s : State} {x : Sealed} {i : Nat} (h : Canon s) : Canon (sendPage s x i) :=
  canon_ite h (canon_sendReq h)

theorem canon_sendUnit {s : State} {x : Sealed} (h : Canon s) : Canon (sendUnit s x) :=
  canon_ite (canon_after h) (canon_allSent (canon_rewriteLeaf (canon_bmapPut (canon_foldl (fun _ _ h1 => canon_sendPage h1)
      (canon_upd h rfl)))))

theorem canon_mig {s : State} {g : Mig} (h : Canon s) : Canon { s with mig := g } :=
  canon_upd h rfl

theorem canonRes_execPull {m : Msg} {s : State} (h : Canon s) : CanonRes (execPull m s) := by
  have hF (F : Msg → State → Res) (e : F = execPull) : CanonRes (F m s) := by
    delta execPull at e
    subst e
    refine canonRes_ite (canonRes_next (canon_respondError h)) ?_
    generalize walkEntry s (m.opb.toNat % 128) (m.opa.toNat % 2 ^ 57 / 2 ^ 16 * 2 ^ 16) = w
    revert w
    -- the kernel is to check this for every w: it does not walk the tables
    refine id fun w => ?_
    split
    · exact canonRes_next (canon_sendUnit (canon_respond h))
    · split
      · exact canonRes_ite (canonRes_next (canon_respondError h)) (canonRes_next (canon_after (canon_respond (canon_bmapPut
          (canon_mig h)))))
      · exact canonRes_next (canon_respondError h)
  exact hF _ rfl

theorem canon_pageAgain {s : State} {frame i : Nat} (h : Canon s) : Canon (pageAgain s frame i) := by
  unfold pageAgain
  split
  · exact canon_ite h (canon_sendPage h)
  · exact h

theorem canonRes_execPagedataTimeout {tag stamp : Nat} {s : State} (h : Canon s) : CanonRes (execPagedataTimeout tag stamp s) := by
  unfold execPagedataTimeout
  refine canonRes_ite ?_ ?_
  · split
    · exact canonRes_next (canon_ite h (canon_sendUnit h))
    · exact canonRes_next h
  · split
    · split
      · exact canonRes_next (canon_pageAgain (canon_rincHold (canon_setOutst h)))
      · exact canonRes_next h
    · exact canonRes_next h

theorem canonRes_execRedirack {m : Msg} {s : State} (h : Canon s) : CanonRes (execRedirack m s) := by
  unfold execRedirack
  dsimp only
  split
  · exact canonRes_next (canon_rsetF (canon_upd (canon_respond h) rfl))
  · exact canonRes_next (canon_respond h)

theorem canon_failHeld {s : State} {u : MigUnit} {status : Nat} (h : Canon s) : Canon (failHeld s u status) := by
  unfold failHeld
  refine canon_foldl (fun _ _ h1 => ?_) (canon_heldDrop h)
  split
  · split
    · exact canon_respondError (canon_delTxn h1)
    · exact canon_partFails h1
  · exact h1

theorem canon_installUnit {s : State} {u : MigUnit} (h : Canon s) : Canon (installUnit s u) :=
  canon_ite h (canon_ite (canon_after h) (canon_ite (canon_postPlain (canon_rsetF (canon_unhold (canon_rewriteLeaf
      (canon_upd h rfl))))) (canon_rsetF (canon_unhold (canon_rewriteLeaf (canon_upd h rfl))))))

theorem canonRes_execPagedata {m : Msg} {s : State} (h : Canon s) : CanonRes (execPagedata m s) := by
  unfold execPagedata
  extract_lets s1 i a s2 _
  have hs1 : Canon s1 := canon_respond h
  have hs2 : Canon s2 := canon_hwWriteHere hs1
  split
  · exact canonRes_next hs1
  · exact canonRes_ite (canonRes_next h) (canonRes_ite (canonRes_next (canon_ite (canon_installUnit hs1) hs1)) (canonRes_ite
      (canonRes_next h) (canonRes_next (canon_ite (canon_installUnit (canon_upd hs2 rfl)) (canon_upd hs2 rfl)))))

theorem canonRes_execPullTimeout {v u stamp : Nat} {s : State} (h : Canon s) : CanonRes (execPullTimeout v u stamp s) := by
  unfold execPullTimeout
  split
  · exact canonRes_next (canon_ite h (canon_ite (canon_installUnit h) (canon_sendPull h)))
  · exact canonRes_next h

theorem canon_pullError {s : State} {v u status : Nat} (h : Canon s) : Canon (pullError s v u status) := by
  unfold pullError
  split
  · exact canon_ite (canon_failHeld (canon_upd h rfl)) h
  · exact h

theorem canonRes_execMigrationPrefetch {v : Nat} {s : State} (h : Canon s) : CanonRes (execMigrationPrefetch v s) := by
  unfold execMigrationPrefetch
  refine canonRes_ite ?_ (canonRes_next h)
  split
  · split
    next he => exact canonRes_next (canon_after (canon_of_snd (canon_drawIn (canon_ite h (canon_sendPull h))) he))
  · exact canonRes_next h

/-! Responses and their absence. -/

theorem canon_setFenced {s : State} {m : Nat} {b : Bool} (h : Canon s) : Canon (setFenced s m b) :=
  canon_rsetF h

theorem canon_unfence {s : State} {m : Nat} (h : Canon s) : Canon (unfence s m) :=
  canon_ite (canon_postPlain (canon_setFenced h)) h

theorem canon_answered {s : State} {tag : Nat} {o : Outst} {r : Msg} (h : Canon s) : Canon (answered s tag o r) := by
  unfold answered
  extract_lets s1 bad _
  have hs1 : Canon s1 := canon_setOutst h
  split
  · exact canon_txnAnswer hs1
  · exact canon_ite hs1 (canon_ite (canon_unfence (canon_upd hs1 rfl)) (canon_upd hs1 rfl))
  · exact canon_ite (canon_collError hs1) hs1
  · exact canon_ite (canon_pullError hs1) hs1
  · exact canon_ite (canon_pageAgain hs1) hs1
  · exact hs1

theorem canon_synthesise {s : State} {tag : Nat} {o : Outst} {status : Nat} (h : Canon s) : Canon (synthesise s tag o status) :=
  canon_answered h

theorem canon_sendAgain {s : State} {tag : Nat} {o : Outst} (h : Canon s) : Canon (sendAgain s tag o) :=
  canon_ite (canon_synthesise h) (canon_sendMsg (canon_after (canon_setOutst (canon_fresh h))))

theorem canon_partPost {s : State} {o : Outst} (h : Canon s) : Canon (partPost s o).1 := by
  unfold partPost
  split
  · split
    · exact canon_setTxn h
    · exact h
  · exact h

theorem canon_response {s : State} {r : Msg} (h : Canon s) : Canon (response s r) := by
  unfold response
  split
  · exact h
  · split
    · exact canon_sendAgain h
    · exact canon_ite (canon_answered h) (canon_sendAgain (canon_partPost (canon_redirectTo h)))
    · exact canon_answered h

theorem canonRes_execRequestTimeout {tag stamp : Nat} {s : State} (h : Canon s) : CanonRes (execRequestTimeout tag stamp s) := by
  unfold execRequestTimeout
  split
  · exact canonRes_ite (canonRes_next (canon_synthesise (canon_rincHold h))) (canonRes_next h)
  · exact canonRes_next h

theorem canon_freeBuf {s : State} {inp : Option (Nat × Nat)} {n : Nat} (h : Canon s) : Canon (freeBuf s inp n) := by
  unfold freeBuf
  split
  · exact canon_modPort h
  · exact h

theorem canon_dispose {s : State} {q : QMsg} {status : Nat} (h : Canon s) : Canon (dispose s q status) :=
  canon_ite (canon_freeBuf (canon_upd h rfl)) (canon_respondError (canon_freeBuf (canon_upd h rfl)))

theorem canon_failInject {s : State} {id : Nat} (h : Canon s) : Canon (failInject s id) := by
  unfold failInject
  split
  · exact h
  · exact canon_ite h (canon_msgAnswered h)

theorem canon_fence {s : State} {m : Nat} (h : Canon s) : Canon (fence s m) := by
  unfold fence
  extract_lets s1 s2 s3 s4 out s5 own _ s6
  have h2 : Canon s2 := canon_foldl (fun _ _ h1 => canon_synthesise h1) (canon_setFenced h)
  have h3 : Canon s3 := canon_foldl (fun _ _ h1 => canon_ite (canon_upd h1 rfl) (canon_dispose h1)) h2
  have h4 : Canon s4 := canon_foldl (fun _ _ h1 => canon_failHeld (canon_upd h1 rfl)) h3
  have h5 : Canon s5 := canon_foldl (fun _ _ h1 => canon_failInject h1) h4
  clear_value s5
  have h6 : Canon s6 := canon_foldl (fun _ _ h1 => canon_synthesise h1) (canon_upd h5 rfl)
  exact canon_foldl (fun _ _ h1 => canon_after h1) h6

theorem canon_flood {s : State} {m : Nat} (h : Canon s) : Canon (flood s m) :=
  canon_foldl (fun _ _ h1 => canon_emitOut h1) h

theorem canonRes_execFenceNotice {m : Nat} {s : State} (h : Canon s) : CanonRes (execFenceNotice m s) :=
  canonRes_ite (canonRes_next h) (canonRes_next (canon_flood (canon_fence h)))

theorem canonRes_execProbeTimeout {m stamp : Nat} {s : State} (h : Canon s) : CanonRes (execProbeTimeout m stamp s) :=
  canonRes_ite (canonRes_ite (canonRes_next (canon_upd h rfl)) (canonRes_next (canon_postPlain (canon_flood (canon_fence
      (canon_upd h rfl)))))) (canonRes_next h)

theorem canon_probePeer {s : State} {m : Nat} (h : Canon s) : Canon (probePeer s m) :=
  canon_ite h (canon_after (canon_sendReq (canon_upd (canon_fresh h) rfl)))

theorem canon_queueOn {p : Nat} {s : State} {m : Msg} (h : Canon s) : Canon (queueOn p s m) :=
  canon_addQueue (canon_fresh h)

theorem canonRes_execProbePeriodic {port : Nat} {s : State} (h : Canon s) : CanonRes (execProbePeriodic port s) :=
  canonRes_ite (canonRes_ite (canonRes_next (canon_after h)) (canonRes_next (canon_after (canon_enterBy
      (fun _ _ h1 => canon_queueOn h1) h)))) (canonRes_next h)

end Sys2Proof.Machine
end

section
/-!
PROOFS. Memory keeps its canonical form (log 1): the syllables.
-/
namespace Sys2Proof.Machine
open Sys2Proof.Claims

/-! The B unit and the special registers. -/

theorem canon_branchTo {s : State} {target : Nat} {near : Bool} (h : Canon s) : Canon (branchTo s target near) :=
  canon_modIssuer h

theorem canonRes_execBrt {p : Syl} {o : BT} {s : State} (h : Canon s) : CanonRes (execBrt p o s) := by
  unfold execBrt
  refine canonRes_issue h (fun _ h1 => ?_)
  split
  · exact canonRes_next (canon_branchTo h1)
  · exact canonRes_next (canon_branchTo h1)
  · exact canonRes_next (canon_branchTo h1)
  · exact canonRes_next (canon_branchTo h1)
  · exact canonRes_next h1

theorem canonRes_execBrc {p : Syl} {o : BC} {s : State} (h : Canon s) : CanonRes (execBrc p o s) :=
  canonRes_issue h (fun _ h1 => canonRes_ite (canonRes_next (canon_branchTo h1)) (canonRes_next h1))

theorem canonRes_jumpTo {p : Syl} {sa : Nat} {s : State} (h : Canon s) : CanonRes (jumpTo p sa s) :=
  canonRes_issue h (fun _ h1 => canonRes_next (canon_branchTo h1))

theorem canonRes_execCall {p : Syl} {sd : Fin 64} {off : Int} {s : State} (h : Canon s) : CanonRes (execCall p sd off s) :=
  canonRes_issue h (fun _ h1 => canonRes_next (canon_branchTo (canon_putS h1)))

theorem canon_putPhysP {s : State} {n : Nat} {x : Bool} (h : Canon s) : Canon (putPhysP s n x) :=
  canon_emit h

theorem canon_putSr {s : State} {n x : Nat} (h : Canon s) : Canon (putSr s n x) :=
  canon_emit h

theorem canonRes_execLoop {p : Syl} {off : Int} {s : State} (h : Canon s) : CanonRes (execLoop p off s) :=
  canonRes_issue h (fun _ h1 => canonRes_ite (canonRes_next (canon_branchTo (canon_putPhysP (canon_putSr (canon_putSr h1)))))
      (canonRes_ite (canonRes_next (canon_foldl (fun _ _ h2 => canon_putPhysP h2) (canon_putSr (canon_putSr h1)))) (canonRes_next h1)))

theorem canonRes_execLset {p : Syl} {sa : Fin 64} {sm : Fin 8} {s : State} (h : Canon s) : CanonRes (execLset p sa sm s) :=
  canonRes_issue h (fun _ h1 => canonRes_next (canon_foldl (fun _ _ h2 => canon_putP h2) (canon_putP (canon_putSr (canon_putSr
      (canon_putSr h1))))))

theorem canonRes_execEret {p : Syl} {s : State} (h : Canon s) : CanonRes (execEret p s) :=
  canonRes_issue h (fun _ h1 => canonRes_needSystem h1 (canonRes_ite (canonRes_next (canon_modIssuer h1)) (canonRes_stall h1)))

theorem canonRes_execHalt {p : Syl} {s : State} (h : Canon s) : CanonRes (execHalt p s) :=
  canonRes_issue h (fun _ h1 => canonRes_needSystem h1 (canonRes_next (canon_postCtx (canon_upd h1 rfl))))

theorem canonRes_execMfsr {p : Syl} {o : XS} {s : State} (h : Canon s) : CanonRes (execMfsr p o s) :=
  canonRes_issue h (fun _ h1 => canonRes_ite (canonRes_next (canon_putS h1)) (canonRes_trapNow h1))

theorem canonRes_execMtsr {p : Syl} {o : XS} {s : State} (h : Canon s) : CanonRes (execMtsr p o s) :=
  canonRes_issue h (fun _ h1 => canonRes_ite (canonRes_ite (canonRes_next (canon_branchTo h1)) (canonRes_next (canon_emit h1)))
      (canonRes_trapNow h1))

theorem canonRes_execTrig {p : Syl} {n : Fin 256} {s : State} (h : Canon s) : CanonRes (execTrig p n s) :=
  canonRes_issue h (fun _ h1 => canonRes_ite (canonRes_ite (canonRes_next (canon_trigger (canon_traceRec h1))) (canonRes_next
      (canon_traceRec h1))) (canonRes_next h1))

/-! The launch engine of a core. -/

theorem canonRes_lengPush {op : Instr} {a b : Word64} {pkt : Flit} {s : State} (h : Canon s) : CanonRes (lengPush op a b pkt s) :=
  canonRes_ite (canonRes_stall h) (canonRes_next (canon_modCore (canon_fresh h)))

theorem canonRes_counterOp {p : Syl} {op : Instr} {o : MS} {s : State} (h : Canon s) : CanonRes (counterOp p op o s) :=
  canonRes_issue h (fun _ h1 => canonRes_ite (canonRes_trapNow h1) (canonRes_lengPush h1))

theorem canonRes_execShdw {p : Syl} {o : MS} {s : State} (h : Canon s) : CanonRes (execShdw p o s) :=
  canonRes_issue h (fun _ h1 => canonRes_ite (canonRes_trapFree h1) (canonRes_lengPush h1))

theorem canon_lengMod {s : State} {core id : Nat} {f : LCmd → LCmd} (h : Canon s) : Canon (lengMod s core id f) :=
  canon_modCore h

theorem canon_lengDrop {s : State} {core id : Nat} (h : Canon s) : Canon (lengDrop s core id) :=
  canon_modCore h

theorem canon_lengFail {s : State} {core : Nat} {c : LCmd} {cause : Nat} (h : Canon s) : Canon (lengFail s core c cause) := by
  have hF (F : State → Nat → LCmd → Nat → State) (e : F = lengFail) : Canon (F s core c cause) := by
    delta lengFail at e
    subst e
    dsimp -zeta -iota -proj only
    generalize hr : report s (lengRecord s c.g c.ipc cause c.a.toNat c.pkt (some (lengKey core, c.id))) = p
    have h1 : Canon p.1 := canon_of_fst (canon_report h) hr
    cases p
    exact canon_ite (canon_lengMod h1) (canon_lengDrop h1)
  exact hF _ rfl

theorem canon_lengSend {s : State} {core : Nat} {c : LCmd} {stage : Nat} {t : Txn} (h : Canon s) : Canon (lengSend s core c stage t) :=
  canon_lengMod (canon_sendTxn (canon_drawLat (canon_bookSlot h)))

theorem canon_lengStore {s : State} {core : Nat} {c : LCmd} {stage : Nat} {t : Txn} {pa : Nat} {l : List Byte} (h : Canon s) :
    Canon (lengStore s core c stage t pa l) :=
  canon_lengSend h

theorem canon_appendNext {s : State} {core : Nat} {c : LCmd} {t : Txn} (h : Canon s) : Canon (appendNext s core c t) := by
  unfold appendNext
  split
  · exact canon_lengSend (canon_rdcInval (canon_lengMod h))
  · exact canon_ite (canon_lengStore (canon_lengMod h)) (canon_lengSend (canon_rdcInval h))
  · exact canon_lengStore h
  · exact canon_lengDrop h

theorem canonRes_execLaunchEngineAppend {core id : Nat} {s : State} (h : Canon s) : CanonRes (execLaunchEngineAppend core id s) := by
  unfold execLaunchEngineAppend
  split
  · exact canonRes_next h
  · refine canonRes_ite (canonRes_ite (canonRes_next h) ?_) ?_
    · split
      · exact canonRes_next (canon_lengFail h)
      · exact canonRes_next (canon_lengSend h)
    · split
      · exact canonRes_next h
      · exact canonRes_ite (canonRes_next (canon_lengFail (canon_delTxn h))) (canonRes_ite (canonRes_next h) (canonRes_next
          (canon_appendNext (canon_delTxn h))))

theorem canonRes_counterStep {core id : Nat} {begin' : LCmd → HWord → Nat → Txn} {ready : LCmd → Bool} {s : State}
    (h : Canon s) : CanonRes (counterStep core id begin' ready s) := by
  unfold counterStep
  split
  · exact canonRes_next h
  · refine canonRes_ite (canonRes_ite (canonRes_next h) ?_) ?_
    · split
      · exact canonRes_next (canon_lengFail h)
      · exact canonRes_next (canon_lengSend h)
    · split
      · exact canonRes_next h
      · exact canonRes_ite (canonRes_next (canon_lengFail (canon_delTxn h))) (canonRes_next (canon_lengDrop (canon_delTxn h)))

theorem canonRes_execShdwPerform {core id : Nat} {s : State} (h : Canon s) : CanonRes (execShdwPerform core id s) := by
  unfold execShdwPerform
  split
  · exact canonRes_next h
  · refine canonRes_ite (canonRes_next h) (canonRes_ite (canonRes_next (canon_lengDrop (canon_rsetF h))) ?_)
    split
    · exact canonRes_next (canon_lengDrop (canon_rset (canon_rset (canon_rset (canon_rset h)))))
    · exact canonRes_next (canon_lengFail h)

/-! Launches and groups. -/

theorem canonFetch_dispRead {s : State} {q va n : Nat} {exec : Bool} (h : Canon s) : CanonFetch (dispRead s q va n exec) := by
  unfold dispRead
  refine pred_ite CanonFetch trivial (pred_ite CanonFetch (pred_ite CanonFetch trivial (pred_ite CanonFetch h trivial)) ?_)
  split
  · exact trivial
  · exact trivial
  · exact pred_ite CanonFetch h (canon_sendTxn h)

theorem canonOpt_validate {s : State} {q : Nat} {p : Flit} (h : Canon s) : CanonOpt (validate s q p).2 := by
  unfold validate
  split
  · exact canonOpt_none
  · split
    · next he => exact canonOpt_some (pred_of_eq CanonFetch (canonFetch_dispRead h) he)
    · exact canonOpt_none
    · split
      · exact canonOpt_none
      · split
        · next he => exact canonOpt_some (pred_of_eq CanonFetch (canonFetch_dispRead h) he)
        · exact canonOpt_none
        · exact canonOpt_none

theorem canon_firstNext {s : State} {q : Nat} (h : Canon s) : Canon (firstNext s q) :=
  canon_upd h rfl

theorem canon_checkLaunch {s : State} {lid : Nat} {l : Launch} (h : Canon s) : Canon (checkLaunch s lid l) := by
  unfold checkLaunch
  extract_lets d s1
  have h1 : Canon s1 := canon_dispForget h
  split
  · next he => exact canonOpt_validate h _ (congrArg Prod.snd he)
  · exact canon_upd h1 rfl
  · exact canon_ite h (canon_firstNext (canon_queueStop (canon_upd h1 rfl)))

theorem canon_takePacket {s : State} {q : Nat} (h : Canon s) : Canon (takePacket s q) := by
  unfold takePacket
  split
  · next he =>
    dsimp only
    split
    · exact h
    · next he1 =>
      exact pred_of_eq CanonQPeek (canonQPeek_queuePeek h) he1
    · exact canon_firstNext (canon_queueUnusable h)
    · exact canon_firstNext (canon_queueSkip h)
    · exact canon_ite h (canon_checkLaunch (canon_queueTake (canon_upd (canon_of_snd (canon_fresh h) he) rfl)))

theorem canonRes_execLaunchPacketTake {q : Nat} {s : State} (h : Canon s) : CanonRes (execLaunchPacketTake q s) := by
  unfold execLaunchPacketTake
  refine canonRes_next ?_
  split
  · exact canon_checkLaunch h
  · exact canon_ite (canon_takePacket h) h

theorem canon_placeGroup {s : State} {lid : Nat} {l : Launch} {clu : Nat} {fit : List Nat × Nat × List Nat} (h : Canon s) :
    Canon (placeGroup s lid l clu fit) :=
  canon_modClu (canon_rdcAcquireAll (canon_foldl (fun _ _ h1 => canon_setCtx h1) (canon_upd (canon_fresh h) rfl)))

theorem canonRes_execDispatchStep {s : State} (h : Canon s) : CanonRes (execDispatchStep s) := by
  unfold execDispatchStep
  refine canonRes_ite (canonRes_next h) ?_
  split
  · exact canonRes_next h
  · exact canonRes_next (canon_upd (canon_placeGroup h) rfl)

theorem canon_stewardPlace {s : State} {n lid : Nat} {l : Launch} (h : Canon s) : Canon (stewardPlace s n lid l) := by
  unfold stewardPlace
  dsimp only
  split
  · exact canon_ite h (canon_placeGroup h)
  · exact h

theorem canonRes_execStewardPacketTake {n : Nat} {s : State} (h : Canon s) : CanonRes (execStewardPacketTake n s) := by
  unfold execStewardPacketTake
  split
  · dsimp only
    split
    · exact canonRes_next (canon_ite (canon_checkLaunch h) (canon_ite (canon_stewardPlace h) h))
    · exact canonRes_next (canon_takePacket h)
  · dsimp only
    split
    · exact canonRes_next (canon_ite (canon_checkLaunch h) (canon_ite (canon_stewardPlace h) h))
    · exact canonRes_next h

theorem canon_freeStream {s : State} {x : Nat × Nat} (h : Canon s) : Canon (freeStream s x) :=
  canon_modClu (canon_foldl (fun _ _ h1 => canon_modCtx h1) h)

theorem canon_freeGroup {s : State} {gid : Nat} (h : Canon s) : Canon (freeGroup s gid) :=
  canon_upd (canon_foldl (fun _ _ h1 => canon_setCtx h1) (canon_modClu (canon_foldl (fun _ _ h1 => canon_freeStream h1) h))) rfl

theorem canonRes_execGroupRetire {gid : Nat} {s : State} (h : Canon s) : CanonRes (execGroupRetire gid s) := by
  unfold execGroupRetire
  extract_lets s1
  have hs1 : Canon s1 := canon_freeGroup h
  split
  · exact canonRes_next h
  · refine canonRes_ite (canonRes_next h) ?_
    split
    · exact canonRes_next hs1
    · exact canonRes_next (canon_ite (canon_after (canon_upd hs1 rfl)) (canon_upd hs1 rfl))

theorem canon_dropLaunch {s : State} {lid : Nat} (h : Canon s) : Canon (dropLaunch s lid) :=
  canon_upd h rfl

theorem canon_addFailed {s : State} {lid : Nat} {l : Launch} (h : Canon s) : Canon (addFailed s lid l) :=
  canon_ite (canon_dropLaunch (canon_firstNext (canon_queueStop h))) (canon_after h)

theorem canonRes_execLaunchComplete {lid : Nat} {s : State} (h : Canon s) : CanonRes (execLaunchComplete lid s) := by
  unfold execLaunchComplete
  split
  · exact canonRes_next h
  · refine canonRes_ite ?_ (canonRes_ite (canonRes_next h) (canonRes_ite (canonRes_next (canon_after h)) (canonRes_ite (canonRes_next
      (canon_dropLaunch h)) ?_)))
    · split
      · exact canonRes_next h
      · exact canonRes_next (canon_ite (canon_dropLaunch (canon_delTxn h)) (canon_ite (canon_addFailed (canon_delTxn h)) h))
    · dsimp only
      split
      · exact canonRes_next (canon_addFailed h)
      · exact canonRes_ite (canonRes_next (canon_addFailed h)) (canonRes_next (canon_upd (canon_sendTxn h) rfl))

/-! Operand streams. -/

theorem canonRes_execSdef {p : Syl} {sid : Fin 16} {s : State} (h : Canon s) : CanonRes (execSdef p sid s) :=
  canonRes_withSlot h (fun _ h1 => canonRes_ite (canonRes_stall h1) (canonRes_next (canon_modCtx (canon_modStream h1))))

theorem canon_endSub {s : State} {g port : Nat} (h : Canon s) : Canon (endSub s g port) := by
  unfold endSub
  split
  · exact canon_modStream h
  · exact h

theorem canonRes_execSsub {p : Syl} {o : MU} {s : State} (h : Canon s) : CanonRes (execSsub p o s) :=
  canonRes_withSlot h (fun _ h1 => canonRes_ite (canonRes_trapFree h1) (canonRes_ite (canonRes_stall h1) (canonRes_next (canon_modCtx
      (canon_modStream (canon_endSub h1))))))

theorem canonRes_execSfeed {p : Syl} {o : MF} {s : State} (h : Canon s) : CanonRes (execSfeed p o s) :=
  canonRes_withSlot h (fun _ h1 => canonRes_ite (canonRes_stall h1) (canonRes_next (canon_askDone (canon_modCtx (canon_modStream
      (canon_issueCmd h1))))))

theorem canonRes_execSrel {p : Syl} {sid : Fin 16} {s : State} (h : Canon s) : CanonRes (execSrel p sid s) :=
  canonRes_withSlot h (fun _ h1 => canonRes_ite (canonRes_next h1) (canonRes_ite (canonRes_stall h1) (canonRes_next (canon_modCtx
      (canon_freeStream h1)))))

/-! The matrix unit. -/

theorem canon_mxFail {s : State} {core : Nat} {r : Routine} (h : Canon s) : Canon (mxFail s core r) :=
  canon_ite h (canon_rincHold h)

theorem canon_landAll {s : State} {core : Nat} {r : Routine} (h : Canon s) : Canon (landAll s core r).1 :=
  canon_foldl_fst (fun _ _ h1 => canon_ite_fst h1 (canon_ite_fst (canon_mxFail h1) (canon_setCore h1))) h

theorem canon_advance {s : State} {core : Nat} {r : Routine} (h : Canon s) : Canon (advance s core r).1 :=
  canon_landAll h

theorem canon_portPop {s : State} {g port : Nat} (h : Canon s) : Canon (portPop s g port) := by
  unfold portPop
  split
  · exact h
  · exact canon_modCtx (canon_modStream h)

theorem canon_skipOne {s : State} {r : Routine} {i : Instr} (h : Canon s) : Canon (skipOne s r i).1 := by
  unfold skipOne
  split
  · exact canon_ite_fst (canon_portPop h) h
  · exact h

theorem canon_setRun {s : State} {core : Nat} {r : Routine} (h : Canon s) : Canon (setRun s core r) :=
  canon_modCore h

theorem canon_addWeight {s : State} {core n : Nat} (h : Canon s) : Canon (addWeight s core n) :=
  canon_modCore h

theorem canon_drain {s : State} {core : Nat} {r : Routine} (h : Canon s) : Canon (drain s core r).1 :=
  canon_ite_fst (canon_setRun (canon_advance h)) (canon_setRun (canon_advance h))

theorem canon_secondHalf {s : State} {core : Nat} {r : Routine} {p : Half} (h : Canon s) : Canon (secondHalf s core r p).1 := by
  unfold secondHalf
  split
  · next he =>
    dsimp only
    split
    · refine canon_ite_fst h (canon_ite_fst (canon_drain h) ?_)
      split
      · exact canon_addWeight (canon_setRun (canon_portPop (canon_portPop (canon_of_fst (canon_advance h) he))))
      · exact h
    · exact canon_drain h

theorem canon_suspendRun {s : State} {core : Nat} {r : Routine} (h : Canon s) : Canon (suspendRun s core r) :=
  canon_modCore (canon_landAll h)

theorem canon_matrixCycle {s : State} {core : Nat} (h : Canon s) : Canon (matrixCycle s core).1 := by
  unfold matrixCycle
  split
  · exact h
  · split
    · exact canon_secondHalf h
    · refine canon_ite_fst (canon_addWeight (canon_setRun (canon_advance h))) (canon_ite_fst (canon_drain h) (canon_ite_fst
        (canon_suspendRun h) ?_))
      split
      · exact canon_drain h
      · split
        · exact canon_drain h
        · exact canon_ite_fst (canon_setRun (canon_foldl_fst (fun _ _ h5 => canon_skipOne h5) h)) (canon_addWeight (canon_setRun
            (canon_advance (canon_foldl_fst (fun _ _ h5 => canon_skipOne h5) h))))

theorem canonRes_withRun {s : State} {f : Routine → State} (h : Canon s) (hf : ∀ (r : Routine), Canon (f r)) :
    CanonRes (withRun s f) := by
  unfold withRun
  split
  · exact canonRes_next (hf _)
  · exact canonRes_next h

theorem canonRes_execStep {_j : Bool} {o : UStep} {s : State} (h : Canon s) : CanonRes (execStep _j o s) := by
  unfold execStep
  refine canonRes_withRun h (fun _ => ?_)
  dsimp only
  split
  · exact canon_ite (canon_setRun (canon_portPop (canon_portPop h))) (canon_setRun (canon_portPop (canon_portPop h)))
  · exact h

theorem canonRes_execScl {_j : Bool} {s : State} (h : Canon s) : CanonRes (execScl _j s) := by
  unfold execScl
  refine canonRes_withRun h (fun _ => ?_)
  split
  · exact h
  · exact canon_setRun (canon_portPop h)

theorem canonRes_execBand {_j side : Bool} {s : State} (h : Canon s) : CanonRes (execBand _j side s) := by
  unfold execBand
  refine canonRes_withRun h (fun _ => ?_)
  split
  · exact h
  · exact canon_setRun (canon_portPop h)

theorem canon_popMany {s : State} {g port n : Nat} (h : Canon s) : Canon (popMany s g port n) := by
  induction n generalizing s with
  | zero => exact h
  | succ n ih => exact canon_ite (ih (canon_portPop h)) h

theorem canonRes_execSig {_j : Bool} {i : Fin 8} {s : State} (h : Canon s) : CanonRes (execSig _j i s) := by
  unfold execSig
  refine canonRes_withRun h (fun _ => ?_)
  split
  · exact canon_setRun h
  · exact canon_setRun (canon_sendTxn (canon_drawLat (canon_bookSlot h)))

/-! The matrix commands and the current governor. -/

theorem canonRes_withMatrix {p : Syl} {s : State} {f : State → Res} (h : Canon s) (hf : ∀ (t : State), Canon t → CanonRes
    (f t)) : CanonRes (withMatrix p s f) :=
  canonRes_ite (canonRes_trapNow h) (canonRes_issue h (fun _ h1 => hf _ h1))

theorem canonRes_mxPush {op : Instr} {a b : Word64} {s : State} (h : Canon s) : CanonRes (mxPush op a b s) :=
  canonRes_ite (canonRes_stall h) (canonRes_next (canon_modCore (canon_fresh h)))

theorem canonRes_execMload {p : Syl} {o : MS} {s : State} (h : Canon s) : CanonRes (execMload p o s) :=
  canonRes_withMatrix h (fun _ h1 => canonRes_ite (canonRes_trapNow h1) (canonRes_ite (canonRes_trapFree h1) (canonRes_mxPush h1)))

theorem canonRes_execMwait {p : Syl} {s : State} (h : Canon s) : CanonRes (execMwait p s) :=
  canonRes_withMatrix h (fun _ h1 => canonRes_ite (canonRes_next h1) (canonRes_stall h1))

theorem canonRes_execMrdaVector {p : Syl} {o : MV} {s : State} (h : Canon s) : CanonRes (execMrdaVector p o s) :=
  canonRes_withMatrix h (fun _ h1 => canonRes_withRoom h1 (fun _ h2 => canonRes_ite (canonRes_stall h2) (canonRes_ite
      (canonRes_trapNow h2) (canonRes_next (canon_deliver h2)))))

theorem canonRes_execMrdaScratchpad {p : Syl} {o : MX} {s : State} (h : Canon s) : CanonRes (execMrdaScratchpad p o s) := by
  unfold execMrdaScratchpad
  refine canonRes_withMatrix h (fun _ h1 => canonRes_ite (canonRes_trapNow h1) (canonRes_ite (canonRes_trapFree h1) ?_))
  split
  · exact canonRes_trapNow h1
  · exact canonRes_mxPush h1

theorem canonRows_mrdaRows {core g t : Nat} {l : List Nat} {a : Nat} {s : State} (h : Canon s) :
    CanonRows (mrdaRows core g t l a s) := by
  induction l generalizing a s with
  | nil => exact h
  | cons r l ih =>
    rw [mrdaRows]
    extract_lets cells c n
    have hb : Canon (banksTake s c n) := canon_banksTake h
    clear_value c n
    refine pred_ite CanonRows h (pred_ite CanonRows ?_ h)
    exact ih (canon_fillGranules (canon_getD (canonOpt_writeCells hb) hb))

theorem canon_mloadWords {s : State} {core w0 : Nat} {raw : Tab Byte} {n : Nat} (h : Canon s) : Canon (mloadWords s core w0 raw n) :=
  canon_modCore h

theorem canon_mloadFail {s : State} {core : Nat} {m : MCmd} {cause fva : Nat} (h : Canon s) : Canon (mloadFail s core m cause fva) := by
  have hF (F : State → Nat → MCmd → Nat → Nat → State) (e : F = mloadFail) : Canon (F s core m cause fva) := by
    delta mloadFail at e
    subst e
    dsimp -zeta -iota -proj only
    generalize hr : report s (mxRecord s m cause 0 fva (some (mxKey core, m.id))) = p
    have h1 : Canon p.1 := canon_of_fst (canon_report h) hr
    cases p
    exact canon_modCore h1
  exact hF _ rfl

theorem canon_mloadPart {s : State} {core : Nat} {m : MCmd} (h : Canon s) : Canon (mloadPart s core m) := by
  unfold mloadPart
  split
  · next he =>
    dsimp only
    split
    · exact canon_mloadFail h
    · exact canon_modCore (canon_sendTxn (canon_drawLat (canon_of_snd (canon_bookSlot h) he)))

theorem canon_mloadAnswer {s : State} {core : Nat} {m : MCmd} {id : Nat} {t : Txn} (h : Canon s) : Canon (mloadAnswer s core m id t) :=
  canon_ite (canon_ite (canon_mloadFail (canon_delTxn h)) (canon_mloadFail (canon_mloadWords (canon_delTxn h)))) (canon_modCore
      (canon_mloadWords (canon_delTxn h)))

theorem canon_sigAnswer {s : State} {core id : Nat} {t : Txn} (h : Canon s) : Canon (sigAnswer s core id t) :=
  canon_modCore (canon_delTxn h)

theorem canon_mrdaStep {s : State} {core t : Nat} {m : MCmd} (h : Canon s) : Canon (mrdaStep s core t m) := by
  unfold mrdaStep
  split
  · next he =>
    exact canon_modCore (pred_of_eq CanonRows (canonRows_mrdaRows h) he)
  · next he =>
    exact canon_modCore (canon_report (pred_of_eq CanonRows (canonRows_mrdaRows h) he))
  · next he =>
    exact canon_modCore (pred_of_eq CanonRows (canonRows_mrdaRows h) he)

theorem canon_mxBegin {s : State} {core : Nat} {m : MCmd} (h : Canon s) : Canon (mxBegin s core m) := by
  unfold mxBegin
  split
  · exact canon_modCore (canon_modCore h)
  · exact canon_modCore (canon_modCore h)
  · exact canon_mrdaStep (canon_modCore h)
  · exact canon_ite (canon_modCore (canon_modCore h)) h

theorem canonRes_execMatrixCommandBegin {core : Nat} {s : State} (h : Canon s) : CanonRes (execMatrixCommandBegin core s) := by
  unfold execMatrixCommandBegin
  extract_lets s0 k
  have hs0 : Canon s0 := canon_foldl (fun _ _ h1 => canon_sigAnswer h1) h
  split
  · split
    · exact canonRes_next (canon_mrdaStep hs0)
    · exact canonRes_next (canon_mloadAnswer hs0)
    · exact canonRes_ite (canonRes_next hs0) (canonRes_next (canon_mloadPart hs0))
  · refine canonRes_ite (canonRes_next hs0) ?_
    split
    · exact canonRes_next (canon_mxBegin hs0)
    · exact canonRes_next hs0

theorem canonRes_execRoutineComplete {core : Nat} {s : State} (h : Canon s) : CanonRes (execRoutineComplete core s) := by
  unfold execRoutineComplete
  split
  · exact canonRes_next h
  · refine canonRes_ite (canonRes_next h) ?_
    extract_lets g lost st s1 s2
    have h2 : Canon s2 := canon_modCtx (canon_engineFlags (canon_modCore h))
    clear_value s2
    split
    · exact canonRes_next h2
    · exact canonRes_next (canon_report h2)

theorem canonRes_execEngw {p : Syl} {sa : Fin 64} {ix : Nat} {s : State} (h : Canon s) : CanonRes (execEngw p sa ix s) :=
  canonRes_issue h (fun _ h1 => canonRes_needSystem h1 (canonRes_next (canon_modIssuer h1)))

theorem canon_govern {s : State} {core : Nat} (h : Canon s) : Canon (govern s core) :=
  canon_ite (canon_modCore h) h

theorem canonRes_execGovernorCheck {core : Nat} {s : State} (h : Canon s) : CanonRes (execGovernorCheck core s) :=
  canonRes_ite (canonRes_next h) (canonRes_next (canon_govern (canon_modCore h)))

/-! What the stewards do. -/

theorem canon_suspend {s : State} {g : Nat} (h : Canon s) : Canon (suspend s g) :=
  canon_modCore (canon_upd h rfl)

theorem canon_resumeWork {s : State} {g : Nat} (h : Canon s) : Canon (resumeWork s g) :=
  canon_modCore (canon_upd h rfl)

theorem canon_thawCtx {s : State} {g : Nat} (h : Canon s) : Canon (thawCtx s g) :=
  canon_ite h (canon_resumeWork (canon_traceRec (canon_setCtx h)))

theorem canon_freezeTpc {s : State} {g : Nat} (h : Canon s) : Canon (freezeTpc s g) :=
  canon_modCtx h

theorem canon_freezeAll {s : State} (h : Canon s) : Canon (freezeAll s) :=
  canon_foldl (fun _ _ h1 => canon_ite h1 (canon_suspend (canon_freezeCtx (canon_freezeTpc h1)))) (canon_foldl
      (fun _ _ h1 => canon_thawCtx h1) (canon_upd h rfl))

theorem canon_dropCmds {s : State} {p : CCmd → Bool} (h : Canon s) : Canon (dropCmds s p) :=
  canon_upd (canon_upd h rfl) rfl

theorem canon_orphanLoads {s : State} {core : Nat} (h : Canon s) : Canon (orphanLoads s core) :=
  canon_upd h rfl

theorem canon_dropMatrix {s : State} {g : Nat} (h : Canon s) : Canon (dropMatrix s g) :=
  canon_modCore (canon_ite (canon_orphanLoads h) h)

theorem canon_discardCtx {s : State} {g : Nat} (h : Canon s) : Canon (discardCtx s g) :=
  canon_modGroup (canon_exitContext (canon_modCore (canon_modCtx (canon_dropMatrix (canon_dropCmds h)))))

theorem canonRes_freezeWord {p : Syl} {o : MS} {s : State} (h : Canon s) : CanonRes (freezeWord p o s) := by
  unfold freezeWord
  refine canonRes_issue h (fun _ h1 => canonRes_needSystem h1 (canonRes_ite (canonRes_trapFree h1) ?_))
  split
  · exact canonRes_ite (canonRes_ite (canonRes_waitMark h1) (canonRes_next h1)) (canonRes_waitMark (canon_upd h1 rfl))
  · exact canonRes_ite (canonRes_next h1) (canonRes_waitMark (canon_upd h1 rfl))
  · exact canonRes_ite (canonRes_trapFree h1) (canonRes_ite (canonRes_waitMark h1) (canonRes_next (canon_foldl
      (fun _ _ h2 => canon_discardCtx h2) h1)))

theorem canonRes_withVf {p : Syl} {sa : Fin 64} {s : State} {f : Nat → State → Res} (h : Canon s) (hf : ∀ (n : Nat)
    (t : State), Canon t → CanonRes (f n t)) : CanonRes (withVf p sa s f) :=
  canonRes_issue h (fun _ h1 => canonRes_needSystem h1 (canonRes_ite (canonRes_trapFree h1) (hf _ _ h1)))

theorem canon_vfDropCmds {s : State} {v : Nat} (h : Canon s) : Canon (vfDropCmds s v) :=
  canon_dropCmds (canon_upd h rfl)

theorem canon_vfDrop {s : State} {v : Nat} (h : Canon s) : Canon (vfDrop s v) := by
  unfold vfDrop
  extract_lets cs own gone s1 s2
  have h1 : Canon s1 := canon_vfDropCmds (canon_heldDrop (canon_upd h rfl))
  have h2 : Canon s2 := canon_foldl (fun _ _ h3 => canon_modCtx (canon_dropMatrix h3)) h1
  clear_value s2
  exact canon_upd h2 rfl

theorem canonRes_execVdrain {p : Syl} {sa : Fin 64} {s : State} (h : Canon s) : CanonRes (execVdrain p sa s) :=
  canonRes_withVf h (fun _ _ h1 => canonRes_ite (canonRes_trapFree h1) (canonRes_ite (canonRes_next (canon_rsetF (canon_vfDrop h1)))
      (canonRes_waitMark (canon_rsetF (canon_vfDrop h1)))))

theorem canonRes_execHinvv {p : Syl} {sa : Fin 64} {s : State} (h : Canon s) : CanonRes (execHinvv p sa s) :=
  canonRes_withVf h (fun _ _ h1 => canonRes_ite (canonRes_waitMark (canon_invalidateHeld (canon_ite h1 (canon_invalidate h1))))
      (canonRes_next (canon_invalidateHeld (canon_ite h1 (canon_invalidate h1)))))

theorem canon_scrubCtx {s : State} {g : Nat} (h : Canon s) : Canon (scrubCtx s g) :=
  canon_modCtx h

theorem canon_scrubCore {s : State} {core : Nat} (h : Canon s) : Canon (scrubCore s core) :=
  canon_modCore (canon_orphanLoads h)

theorem canon_scrubScratch {s : State} {clu : Nat} (h : Canon s) : Canon (scrubScratch s clu) :=
  canon_modClu (canon_upd (canon_zeroRange h) rfl)

theorem canon_zeroRegs {s : State} {a n : Nat} (h : Canon s) : Canon (zeroRegs s a n) :=
  canon_foldl (fun _ _ h1 => canon_rset h1) h

theorem canon_sumpBindsLaunches {s : State} {p : List SumpRec} {b : List BindEnt} {l : Tab Launch} (h : Canon s) :
    Canon { s with sump := p, binds := b, launches := l } :=
  canon_upd h rfl

theorem canon_scrubCfg {s : State} {v : Nat} (h : Canon s) : Canon (scrubCfg s v) := by
  unfold scrubCfg
  extract_lets s1 s2 s3 s4 s5 keep s6 s7
  have h1 : Canon s1 := canon_foldl (fun _ _ ht => canon_zeroRegs (canon_zeroRegs ht)) h
  have h2 : Canon s2 := canon_rset (canon_rset (canon_rset h1))
  have h3 : Canon s3 :=
    canon_foldl (fun _ _ ht => canon_foldl (fun _ _ hu => canon_ite (canon_modClu (canon_zeroRegs hu)) hu) ht) h2
  have h4 : Canon s4 := canon_foldl (fun _ _ ht => canon_ite (canon_rsetF ht) ht) h3
  have h5 : Canon s5 := canon_foldl (fun _ _ ht => canon_ite (canon_rsetF ht) ht) h4
  have h6 : Canon s6 := canon_rsetF h5
  exact canon_after (canon_sumpBindsLaunches h6)

theorem canon_scrub {s : State} {v b : Nat} (h : Canon s) : Canon (scrub s v b) := by
  unfold scrub
  extract_lets cl s1 s2 s3
  have hs1 : Canon s1 := canon_ite (canon_foldl (fun _ _ h1 => canon_scrubCtx h1) h) h
  have hs2 : Canon s2 := canon_ite (canon_foldl (fun _ _ h1 => canon_scrubCore h1) hs1) hs1
  have hs3 : Canon s3 := canon_ite (canon_foldl (fun _ _ h1 => canon_scrubScratch h1) hs2) hs2
  exact canon_ite (canon_scrubCfg hs3) hs3

theorem canonRes_execScrub {p : Syl} {o : MS} {s : State} (h : Canon s) : CanonRes (execScrub p o s) :=
  canonRes_issue h (fun _ h1 => canonRes_needSystem h1 (canonRes_ite (canonRes_trapFree h1) (canonRes_ite (canonRes_trapFree h1)
      (canonRes_next (canon_scrub h1)))))

/-! CSAVE and CLOAD. -/

theorem canonRes_withArea {p : Syl} {o : MS} {load : Bool} {s : State} {f : Nat → SaveCtl → State → Res} (h : Canon s) (hf : ∀
    (n : Nat) (c : SaveCtl) (t : State), Canon t → CanonRes (f n c t)) : CanonRes (withArea p o load s f) :=
  canonRes_issue h (fun _ h1 => canonRes_needSystem h1 (canonRes_ite (canonRes_trapFree h1) (canonRes_ite (canonRes_trapNow h1)
      (canonRes_ite (canonRes_trapFree h1) (canonRes_ite (canonRes_trapNow h1) (hf _ _ _ h1))))))

theorem canon_areaAsk {s : State} {w : Txn} {id a : Nat} {l : List (Nat × Nat)} {save : Option State} (h : Canon s)
    (hsave : CanonOpt save) : Canon (areaAsk s w id a l save) := by
  unfold areaAsk
  refine canon_foldl (fun _ _ h1 => ?_) (canon_setTxn h)
  split
  · exact canon_hwSend h1
  · exact canon_hwSend h1

theorem canon_putBack {s old : State} {a : Nat} {l : List (Nat × Nat)} (h : Canon s) : Canon (putBack s old a l) :=
  canon_foldl (fun _ _ h1 => canon_mwriteL h1) h

theorem canon_overlay {s : State} {a : Nat} {raw : Tab Byte} (h : Canon s) : Canon (overlay s a raw) :=
  canon_foldl (fun _ _ h1 => canon_mwrite h1) h

theorem canon_saveWrite {s : State} {a : Nat} {x : SaveCtl} (h : Canon s) : Canon (saveWrite s a x) :=
  canon_rdcDrop (canon_foldl (fun _ _ h1 => canon_mwriteL h1) (canon_foldl (fun _ _ h1 => canon_zeroRange h1) h))

theorem canon_saveEnd {s : State} {x : SaveCtl} (h : Canon s) : Canon (saveEnd s x) :=
  canon_ite h (canon_modCore (canon_modIssuer h))

theorem canonRes_execCsave {p : Syl} {o : MS} {s : State} (h : Canon s) : CanonRes (execCsave p o s) := by
  unfold execCsave
  refine canonRes_withArea h (fun _ _ _ h1 => ?_)
  split
  · exact canonRes_ite (canonRes_waitMark h1) (canonRes_ite (canonRes_next (canon_reqError (canon_delTxn h1))) (canonRes_next
      (canon_saveEnd (canon_delTxn h1))))
  · refine canonRes_ite (canonRes_waitMark h1) (canonRes_ite (canonRes_trapNow h1) (canonRes_ite (canonRes_next
      (canon_reqError h1)) ?_))
    split
    · exact canonRes_next (canon_saveEnd (canon_saveWrite h1))
    · exact canonRes_waitMark (canon_areaAsk (canon_fresh (canon_putBack (canon_saveWrite h1))) (canonOpt_some (canon_saveWrite h1)))

theorem canon_loadFails {s : State} {p : Syl} {o : MS} {a : Nat} (h : Canon s) : Canon (loadFails s p o a) :=
  canon_report h

theorem canon_dropUnheld {s : State} {g : Nat} (h : Canon s) : Canon (dropUnheld s g) := by
  unfold dropUnheld
  refine canon_foldl (fun _ _ h1 => ?_) h
  split
  · exact h1
  · refine canon_ite h1 ?_
    split
    · exact canon_pendAsync (canon_modCtx (canon_dropSdq h1))
    · exact h1

theorem canon_loadCarried {s : State} {g a j : Nat} (h : Canon s) : Canon (loadCarried s g a j) := by
  unfold loadCarried
  extract_lets o w kind
  split
  next _ s0 he =>
    have h0 : Canon s0 := canon_of_snd (canon_fresh h) he
    split
    next _ s1 he1 =>
      have h1 : Canon s1 := by
        split at he1
        · exact canon_of_snd (p := (_, s0)) h0 he1
        · split at he1
          next _ s2 he2 =>
            have h2 : Canon s2 := canon_of_snd (canon_drawIn h0) he2
            exact canon_of_snd (p := (_, s2)) h2 he1
      exact canon_ite (canon_modStream (canon_setChan h1)) (canon_setChan h1)

theorem canon_loadMatrix {s : State} {g a : Nat} {routine : Bool} (h : Canon s) : Canon (loadMatrix s g a routine) := by
  unfold loadMatrix
  refine canon_foldl (fun _ _ h1 => ?_) (canon_ite (canon_modCore (canon_fresh h)) h)
  dsimp only
  split
  · exact h1
  · exact canon_modCore (canon_fresh h1)

theorem canon_loadSubs {s : State} {g : Nat} (h : Canon s) : Canon (loadSubs s g) :=
  canon_foldl (fun _ _ h1 => canon_ite (canon_modStream (canon_endSub h1)) h1) h

theorem canon_loadGroup {s : State} {g a : Nat} (h : Canon s) : Canon (loadGroup s g a) :=
  canon_foldl (fun _ _ h1 => canon_modStream (canon_modBar h1)) h

theorem canon_loadScratch {s : State} {g a : Nat} (h : Canon s) : Canon (loadScratch s g a) :=
  canon_foldl (fun _ _ h1 => canon_feSet h1) (canon_mwriteL (canon_zeroRange h))

theorem canon_loadBar {s : State} {x : SaveCtl} (h : Canon s) : Canon (loadBar s x) := by
  unfold loadBar
  refine canon_ite ?_ h
  split
  next he => exact canon_modCtx (canon_of_snd (canon_drawIn h) he)

theorem canon_dropEng {s : State} {g : Nat} (h : Canon s) : Canon (dropEng s g) :=
  canon_modCore (canon_dropCmds h)

theorem canon_loadAll {s : State} {a : Nat} {x : SaveCtl} {routine : Bool} (h : Canon s) : Canon (loadAll s a x routine) := by
  unfold loadAll
  extract_lets g s1 s2 s3 s4 s5
  have hs1 : Canon s1 := canon_loadBar (canon_setCtx h)
  have hs2 : Canon s2 := canon_ite (canon_loadGroup hs1) hs1
  have hs3 : Canon s3 := canon_ite (canon_loadSubs hs2) hs2
  have hs4 : Canon s4 := canon_ite (canon_loadMatrix (canon_foldl (fun _ _ h1 => canon_loadCarried h1) (canon_dropEng hs3))) hs3
  have hs5 : Canon s5 := canon_ite (canon_modCore hs4) hs4
  exact canon_dropUnheld (canon_ite (canon_loadScratch hs5) hs5)

theorem canonRes_loadFrom {p : Syl} {o : MS} {a : Nat} {x : SaveCtl} {raw : Tab Byte} {s : State} (h : Canon s) :
    CanonRes (loadFrom p o a x raw s) := by
  unfold loadFrom
  refine canonRes_ite (canonRes_next (canon_loadFails h)) ?_
  split
  · next he =>
    dsimp only
    split
    · exact canonRes_ite (canonRes_next (canon_loadFails (canon_scrubCtx h))) (canonRes_next (canon_putBack (canon_loadAll
        (canon_overlay h))))
    · exact canonRes_waitMark (canon_areaAsk (canon_of_snd (canon_fresh h) he) canonOpt_none)

theorem canonRes_execCload {p : Syl} {o : MS} {s : State} (h : Canon s) : CanonRes (execCload p o s) := by
  unfold execCload
  refine canonRes_withArea h (fun _ _ _ h1 => ?_)
  split
  · exact canonRes_ite (canonRes_waitMark h1) (canonRes_ite (canonRes_next (canon_loadFails (canon_ite (canon_delTxn h1)
      (canon_scrubCtx (canon_delTxn h1))))) (canonRes_loadFrom (canon_delTxn h1)))
  · refine canonRes_ite (canonRes_waitMark h1) ?_
    split
    · exact canonRes_loadFrom h1
    · exact canonRes_waitMark (canon_areaAsk (canon_fresh h1) canonOpt_none)

/-! Vector instructions. -/

theorem canonRes_runShift {p : Syl} {o : VR} {kind : Nat} {s : State} (h : Canon s) : CanonRes (runShift p o kind s) := by
  unfold runShift
  exact canonRes_runVR h

theorem canonRes_runFunc {p : Syl} {o : VR} {k : Nat} {s : State} (h : Canon s) : CanonRes (runFunc p o k s) :=
  canonRes_runVE h

/-! Integer instructions. -/

theorem canonRes_execMov {p : Syl} {o : XV} {s : State} (h : Canon s) : CanonRes (execMov p o s) :=
  canonRes_issue h (fun _ h1 => canonRes_withRoom h1 (fun _ h2 => canonRes_withPop h2 (fun _ _ h3 => canonRes_next (canon_deliver h3))))

/-! The meaning of a syllable. -/

theorem canonRes_execSyl {i : Instr} {s : State} (h : Canon s) : CanonRes (execSyl i s) := by
  unfold execSyl
  split
  · exact canonRes_runXR h
  · exact canonRes_runXR h
  · exact canonRes_runXR h
  · exact canonRes_runXR h
  · exact canonRes_runXR h
  · exact canonRes_runXR h
  · exact canonRes_runXR h
  · exact canonRes_runXR h
  · exact canonRes_runXR h
  · exact canonRes_runXU h
  · exact canonRes_runXR h
  · exact canonRes_runXR h
  · exact canonRes_runXR h
  · exact canonRes_runXR h
  · exact canonRes_runXR h
  · exact canonRes_runXR h
  · exact canonRes_runXR h
  · exact canonRes_runXR h
  · exact canonRes_runXU h
  · exact canonRes_runXU h
  · exact canonRes_runXR h
  · exact canonRes_runXR h
  · exact canonRes_runXR h
  · exact canonRes_runXR h
  · exact canonRes_runXR h
  · exact canonRes_runXR h
  · exact canonRes_runXR h
  · exact canonRes_execMov h
  · exact canonRes_runXR h
  · exact canonRes_runS h
  · exact canonRes_runS h
  · exact canonRes_runS h
  · exact canonRes_runS h
  · exact canonRes_runS h
  · exact canonRes_runS h
  · exact canonRes_execMfsr h
  · exact canonRes_execMtsr h
  · exact canonRes_issue h (fun _ h1 => canonRes_next (canon_putP h1))
  · exact canonRes_issue h (fun _ h1 => canonRes_next (canon_putP h1))
  · exact canonRes_issue h (fun _ h1 => canonRes_next (canon_putP h1))
  · exact canonRes_issue h (fun _ h1 => canonRes_next (canon_putP h1))
  · exact canonRes_issue h (fun _ h1 => canonRes_next (canon_putK h1))
  · exact canonRes_runS h
  · exact canonRes_runS h
  · exact canonRes_runXR h
  · exact canonRes_runVE h
  · exact canonRes_runVE h
  · exact canonRes_runVE h
  · exact canonRes_runVE h
  · exact canonRes_runVE h
  · exact canonRes_runVE h
  · exact canonRes_runVE h
  · exact canonRes_runV h
  · exact canonRes_runVR h
  · exact canonRes_runVR h
  · exact canonRes_runVR h
  · exact canonRes_runV h
  · exact canonRes_runShift h
  · exact canonRes_runShift h
  · exact canonRes_runShift h
  · exact canonRes_runVR h
  · exact canonRes_runVE h
  · exact canonRes_runVE h
  · exact canonRes_runV h
  · exact canonRes_runFunc h
  · exact canonRes_runFunc h
  · exact canonRes_runFunc h
  · exact canonRes_runFunc h
  · exact canonRes_runVR h
  · exact canonRes_runVR h
  · exact canonRes_runVR h
  · exact canonRes_runV h
  · exact canonRes_runV h
  · exact canonRes_runVR h
  · exact canonRes_runVR h
  · exact canonRes_runVR h
  · exact canonRes_runV h
  · exact canonRes_runV h
  · exact canonRes_runVE h
  · exact canonRes_runA h
  · exact canonRes_runA h
  · exact canonRes_execBind h
  · exact canonRes_runPush h
  · exact canonRes_runPush h
  · exact canonRes_runA h
  · exact canonRes_runA h
  · exact canonRes_runA h
  · exact canonRes_runA h
  · exact canonRes_runA h
  · exact canonRes_runA h
  · exact canonRes_issue h (fun _ h1 => canonRes_next (canon_putB h1))
  · exact canonRes_issue h (fun _ h1 => canonRes_next (canon_putB h1))
  · exact canonRes_execTrans h
  · exact canonRes_issue h (fun _ h1 => canonRes_next (canon_emit h1))
  · exact canonRes_execHchk h
  · exact canonRes_execPreq h
  · exact canonRes_runA h
  · exact canonRes_runA h
  · exact canonRes_runA h
  · exact canonRes_runA h
  · exact canonRes_runA h
  · exact canonRes_runA h
  · exact canonRes_runA h
  · exact canonRes_runA h
  · exact canonRes_runA h
  · exact canonRes_runA h
  · exact canonRes_runA h
  · exact canonRes_runA h
  · exact canonRes_runA h
  · exact canonRes_runA h
  · exact canonRes_runA h
  · exact canonRes_runA h
  · exact canonRes_runA h
  · exact canonRes_runA h
  · exact canonRes_runA h
  · exact canonRes_runA h
  · exact canonRes_execCpy h
  · exact canonRes_issue h (fun _ h1 => canonRes_lengPush h1)
  · exact canonRes_execDrain h
  · exact canonRes_counterWait h
  · exact canonRes_counterOp h
  · exact canonRes_counterOp h
  · exact canonRes_issuePut h
  · exact canonRes_issuePut h
  · exact canonRes_issuePut h
  · exact canonRes_execShdw h
  · exact canonRes_execPubl h
  · exact canonRes_execSdef h
  · exact canonRes_execSsub h
  · exact canonRes_execSfeed h
  · exact canonRes_execSrel h
  · exact canonRes_execMload h
  · exact canonRes_withMatrix h (fun _ h1 => canonRes_mxPush h1)
  · exact canonRes_execMwait h
  · exact canonRes_execMrdaVector h
  · exact canonRes_execMrdaScratchpad h
  · exact canonRes_withMatrix h (fun _ h1 => canonRes_mxPush h1)
  · exact canonRes_execEngw h
  · exact canonRes_execBar h
  · exact canonRes_execBara h
  · exact canonRes_execBarw h
  · exact canonRes_counterWait h
  · exact canonRes_issue h (fun _ h1 => canonRes_lengPush h1)
  · exact canonRes_execCsave h
  · exact canonRes_execCload h
  · exact canonRes_freezeWord h
  · exact canonRes_freezeWord h
  · exact canonRes_freezeWord h
  · exact canonRes_execVdrain h
  · exact canonRes_execHinvv h
  · exact canonRes_execScrub h
  · exact canonRes_execTrig h
  · exact canonRes_issue h (fun _ h1 => canonRes_next h1)
  · exact canonRes_execBrt h
  · exact canonRes_execBrc h
  · exact canonRes_issue h (fun _ h1 => canonRes_next (canon_branchTo h1))
  · exact canonRes_jumpTo h
  · exact canonRes_execCall h
  · exact canonRes_jumpTo h
  · exact canonRes_execLoop h
  · exact canonRes_execLset h
  · exact canonRes_issue h (fun _ h1 => canonRes_next (canon_exitContext h1))
  · exact canonRes_issue h (fun _ h1 => canonRes_next (canon_modCore h1))
  · exact canonRes_issue h (fun _ h1 => canonRes_trapNow h1)
  · exact canonRes_execEret h
  · exact canonRes_execHalt h
  · exact canonRes_next h

end Sys2Proof.Machine
end

section
/-!
PROOFS. Memory keeps its canonical form (log 1): courses, the fabric's ports, the outside, and a step.
-/
namespace Sys2Proof.Machine
open Sys2Proof.Claims

/-! Courses. -/

theorem canonCodeRead_remoteCode {s : State} {g : Nat} {m : Option Nat} {h : HWord} {pa : Nat} (hs : Canon s) :
    CanonCodeRead (remoteCode s g m h pa) := by
  unfold remoteCode
  refine pred_ite CanonCodeRead trivial ?_
  split
  · exact trivial
  · exact pred_ite CanonCodeRead hs (canon_sendTxn (canon_takeSlot hs))

theorem canonCodeRead_readBundle {s : State} {g a : Nat} (h : Canon s) : CanonCodeRead (readBundle s g a) := by
  unfold readBundle
  dsimp only
  split
  · exact trivial
  · exact h
  · exact pred_ite CanonCodeRead (canonCodeRead_remoteCode h) (pred_ite CanonCodeRead (canonCodeRead_remoteCode h)
      (pred_ite CanonCodeRead trivial trivial))

theorem canonFetched_decodeCourse {s : State} {g last : Nat} {third : Bool} {errs : List Nat} {ws : List CWord} :
    CanonFetched (decodeCourse s g last third errs ws) := by
  unfold decodeCourse
  split
  · split
    · exact trivial
    · exact trivial

theorem canonFetched_fetchCourse {s : State} {g pc : Nat} (h : Canon s) : CanonFetched (fetchCourse s g pc) := by
  unfold fetchCourse
  refine pred_ite CanonFetched trivial ?_
  split
  · next he =>
    exact pred_of_eq CanonCodeRead (canonCodeRead_readBundle h) he
  · exact trivial
  · dsimp only
    split
    · exact canonFetched_decodeCourse
    · split
      · next he2 =>
        exact pred_of_eq CanonCodeRead (canonCodeRead_readBundle h) he2
      · exact trivial
      · exact canonFetched_decodeCourse

theorem canon_orFree {x : Option Nat} {s : State} (h : Canon s) : Canon (orFree x s).2 := by
  unfold orFree
  split
  · exact h
  · exact canon_drawBits h

theorem canon_fetchTrap {s : State} {g cause : Nat} {info : Option Word64} {pc : Nat} {next : Option Nat} (h : Canon s) :
    Canon (fetchTrap s g cause info pc next) := by
  unfold fetchTrap
  split
  · next he =>
    split
    · exact canon_takeTrap (canon_of_snd (canon_orFree h) he)
    · exact canon_takeTrap (canon_drawBits (canon_of_snd (canon_orFree h) he))

theorem canon_oneOf {s : State} {l : List Nat} (h : Canon s) : Canon (oneOf s l).2 :=
  canon_ite_snd h (canon_draw h)

theorem canon_openCourse {s : State} {g pc next tnext : Nat} {syls : List CSyl} (h : Canon s) :
    Canon (openCourse s g pc next tnext syls) :=
  canon_setCtx (canon_upd h rfl)

theorem canon_runSyl {s : State} {x : CSyl} (h : Canon s) : Canon (runSyl s x) := by
  unfold runSyl
  split
  · next he =>
    have hx := canonRes_execSyl (i := x.i) (canon_upd (t := { s with iss := { s.iss with bundle := x.bundle, fate := .go } }) h rfl)
    exact hx _ he
  · exact h

theorem canon_lpcInc {s : State} {a lo n : Nat} (h : Canon s) : Canon (lpcInc s a lo n) :=
  canon_rsetF h

theorem canon_countCourse {s : State} {g pc : Nat} {l : List CSyl} (h : Canon s) : Canon (countCourse s g pc l) :=
  canon_ite h (canon_modCore (canon_foldl (fun _ _ h1 => canon_foldl (fun _ _ h2 => canon_lpcInc h2) (canon_lpcInc h1)) h))

theorem canon_countIdle {s : State} {g lo : Nat} (h : Canon s) : Canon (countIdle s g lo) :=
  canon_foldl (fun _ _ h1 => canon_lpcInc h1) h

theorem canon_triggerAt {s : State} {g pc : Nat} {a : Option Nat} (h : Canon s) : Canon (triggerAt s g pc a) := by
  unfold triggerAt
  split
  · exact canon_trigger (canon_traceRec h)
  · exact h

theorem canon_issueCourse {s0 : State} {g pc : Nat} {bp : Option Nat} {syls : List CSyl} (h : Canon s0) :
    Canon (issueCourse s0 g pc bp syls) :=
  canon_modCore (canon_modCtx (canon_foldl (fun _ _ h1 => canon_runSyl h1) (canon_modCtx (canon_countCourse (canon_triggerAt h)))))

theorem canonAttempt_tryIssue {s : State} {g pc next : Nat} {syls : List CSyl} (h : Canon s) :
    CanonAttempt (tryIssue s g pc next syls) := by
  unfold tryIssue
  extract_lets c s0 xs ms
  have h0 : Canon s0 := canon_openCourse h
  have hxs : ∀ x ∈ xs, Canon x.2 := fun x hx => by
    obtain ⟨y, -, rfl⟩ := List.mem_map.mp hx
    exact canon_runSyl h0
  have hms : ∀ x ∈ ms, Canon x.2 := fun x hx => by
    obtain ⟨y, -, rfl⟩ := List.mem_map.mp hx
    exact canon_runSyl h0
  refine pred_ite CanonAttempt h ?_
  split
  · split
    · next he => exact canon_modCtx (hms _ (List.mem_of_find?_eq_some he))
    · exact canon_issueCourse h0
  · next x he =>
    have hx : x ∈ xs ++ ms := (List.mem_filter.mp (he ▸ List.mem_singleton_self x)).1
    exact (List.mem_append.mp hx).elim (hxs x) (hms x)
  · exact canon_runSyl (canon_draw h0)

theorem canonAttempt_tryCourse {s : State} {g : Nat} (h : Canon s) : CanonAttempt (tryCourse s g) := by
  unfold tryCourse
  dsimp only
  split
  · exact pred_ite CanonAttempt (canon_postCtx (canon_freezeNow (canon_traceRec h))) (canon_fetchTrap (canon_traceRec h))
  · split
    · next he1 =>
      exact pred_of_eq CanonFetched (canonFetched_fetchCourse h) he1
    · exact canon_fetchTrap (canon_modCtx h)
    · exact canon_fetchTrap (canon_oneOf h)
    · exact pred_ite CanonAttempt (canon_doubleFault h) (canonAttempt_tryIssue h)

theorem canon_countBubble {s : State} {g : Nat} (h : Canon s) : Canon (countBubble s g) :=
  canon_ite (canon_countIdle h) h

theorem canon_selectFrom {core : Nat} {l : List Nat} {s : State} (h : Canon s) : Canon (selectFrom core l s).1 := by
  induction l generalizing s with
  | nil => exact h
  | cons g l ih =>
    rw [selectFrom]
    split
    · split
      · next he => exact pred_of_eq CanonAttempt (canonAttempt_tryCourse h) he
      · next he => exact canon_modCore (pred_of_eq CanonAttempt (canonAttempt_tryCourse h) he)
      · next he => exact ih (pred_of_eq CanonAttempt (canonAttempt_tryCourse h) he)
    · exact ih h

theorem canonRes_execContextSelect {core : Nat} {s : State} (h : Canon s) : CanonRes (execContextSelect core s) := by
  unfold execContextSelect
  extract_lets k run s1
  have hs1 : Canon s1 := canon_modCore h
  exact canonRes_ite (canonRes_next h) (canonRes_ite (canonRes_next (canon_countBubble hs1)) (canonRes_ite (canonRes_next
      (canon_selectFrom hs1)) (canonRes_ite (canonRes_next (canon_countBubble (canon_selectFrom hs1))) (canonRes_ite (canonRes_next
      (canon_countIdle (canon_selectFrom hs1))) (canonRes_next (canon_selectFrom hs1))))))

theorem canonRes_execAsyncTrapEntry {g : Nat} {s : State} (h : Canon s) : CanonRes (execAsyncTrapEntry g s) := by
  unfold execAsyncTrapEntry
  refine canonRes_ite (canonRes_next h) (canonRes_ite ?_ (canonRes_next h))
  split
  · next he =>
    exact canonRes_next (pred_of_eq CanonAttempt (canonAttempt_tryCourse h) he)
  · refine canonRes_next ?_
    split
    · exact canon_takeTrap (canon_setCtx h)
    · exact canon_takeTrap (canon_setCtx h)

theorem canonRes_execResultLanding {core : Nat} {s : State} (h : Canon s) : CanonRes (execResultLanding core s) :=
  canonRes_ite (canonRes_next h) (canonRes_next (canon_foldl (fun _ _ h1 => canon_ite h1 (canon_modCtx h1)) h))

/-! Fabric ports. -/

theorem canon_sendCtl {s : State} {p ty : Nat} {x : Payload} (h : Canon s) : Canon (sendCtl s p ty x) :=
  canon_modPort h

theorem canon_rerouteWaiting {s : State} (h : Canon s) : Canon (rerouteWaiting s) :=
  canon_foldl (fun _ _ h1 => canon_upd (canon_chooseRoute h1) rfl) h

theorem canon_advAll {s : State} (h : Canon s) : Canon (advAll s) :=
  canon_foldl (fun _ _ h1 => canon_sendCtl h1) h

theorem canon_treeTimers {s : State} (h : Canon s) : Canon (treeTimers s) :=
  canon_after (canon_after (canon_setTree (canon_fresh h)))

theorem canon_treeStart {s : State} {e : Nat} (h : Canon s) : Canon (treeStart s e) :=
  canon_advAll (canon_treeTimers (canon_setTree h))

theorem canon_treeUpdate {s : State} (h : Canon s) : Canon (treeUpdate s) :=
  canon_ite h (canon_advAll (canon_treeTimers (canon_setTree h)))

theorem canon_sendChunks {s : State} {p kind : Nat} {m : BitVec 16384} (h : Canon s) : Canon (sendChunks s p kind m) :=
  canon_foldl (fun _ _ h1 => canon_sendCtl h1) h

theorem canon_enterLate {s : State} {f : QMsg → Bool} (h : Canon s) : Canon (enterLate s f) :=
  canon_ite (canon_foldl (fun _ _ h1 => canon_upd (canon_enterEscape h1) rfl) h) h

theorem canon_install {s : State} {e : ETable} (h : Canon s) : Canon (install s e) :=
  canon_enterLate (canon_rerouteWaiting (canon_foldl (fun _ _ h1 => canon_unfence h1) (canon_postPlain (canon_foldl
      (fun _ _ h1 => canon_rset h1) (canon_rset (canon_ite (canon_rsetF (canon_setTree h)) (canon_setTree h)))))))

theorem canon_tryInstall {s : State} (h : Canon s) : Canon (tryInstall s) := by
  unfold tryInstall
  dsimp only
  split
  · exact canon_ite (canon_install h) h
  · exact h

theorem canon_treeCheck {s : State} (h : Canon s) : Canon (treeCheck s) :=
  canon_ite h (canon_ite (canon_tryInstall (canon_setTree (canon_foldl (fun _ _ h1 => canon_sendChunks h1) (canon_setTree h))))
      (canon_sendChunks (canon_setTree h)))

theorem canon_noteParity {s : State} (h : Canon s) : Canon (noteParity s) :=
  canon_ite (canon_after (canon_advAll (canon_setTree (canon_ite h (canon_setTree h))))) (canon_ite h (canon_setTree h))

theorem canonRes_execEscapeParityQuiet {stamp : Nat} {s : State} (h : Canon s) : CanonRes (execEscapeParityQuiet stamp s) :=
  canonRes_ite (canonRes_next h) (canonRes_ite (canonRes_next (canon_after h)) (canonRes_next (canon_tryInstall (canon_advAll
      (canon_setTree h)))))

theorem canon_onAdv {s : State} {p : Nat} {x : Payload} (h : Canon s) : Canon (onAdv s p x) :=
  canon_ite (canon_ite (canon_treeStart h) h) (canon_tryInstall (canon_treeCheck (canon_treeUpdate (canon_setTree (canon_ite
      (canon_treeStart h) h)))))

theorem canon_onDone {s : State} {p : Nat} {x : Payload} (h : Canon s) : Canon (onDone s p x) :=
  canon_ite h (canon_treeCheck (canon_setTree h))

theorem canon_onInstall {s : State} {p : Nat} {x : Payload} (h : Canon s) : Canon (onInstall s p x) :=
  canon_ite h (canon_ite (canon_tryInstall (canon_setTree (canon_foldl (fun _ _ h1 => canon_sendCtl h1) (canon_setTree h))))
      (canon_foldl (fun _ _ h1 => canon_sendCtl h1) (canon_setTree h)))

theorem canon_onTree {s : State} {p : Nat} {x : Payload} (h : Canon s) : Canon (onTree s p x) := by
  unfold onTree
  split
  · exact canon_onAdv h
  · exact canon_onDone h
  · exact canon_onInstall h
  · exact h

theorem canon_setPState {s : State} {p st : Nat} (h : Canon s) : Canon (setPState s p st) :=
  canon_ite h (canon_treeStart (canon_postPlain (canon_rsetF h)))

theorem canon_setLane {s : State} {p i st : Nat} (h : Canon s) : Canon (setLane s p i st) :=
  canon_rsetF (canon_rsetF h)

theorem canon_startTraining {s : State} {p : Nat} (h : Canon s) : Canon (startTraining s p) := by
  unfold startTraining
  refine canon_ite ?_ h
  split
  next he => exact canon_after (canon_of_snd (canon_drawIn h) he)

theorem canon_portDown {s : State} {p : Nat} (h : Canon s) : Canon (portDown s p) := by
  unfold portDown
  extract_lets wasUp mine cut _ s0 _ s1 s2 s3 s4 s5 s6 s7
  have hs0 : Canon s0 := canon_upd h rfl
  have hs1 : Canon s1 := canon_setPort hs0
  have hs2 : Canon s2 := canon_foldl (fun _ _ h1 => canon_ite h1 (canon_setLane h1)) hs1
  have hs3 : Canon s3 := canon_rsetF (canon_rsetF hs2)
  have hs4 : Canon s4 := canon_setPState (canon_ite (canon_rincHold hs3) hs3)
  have hs5 : Canon s5 := canon_foldl (fun _ _ h1 => canon_dispose h1) hs4
  have hs6 : Canon s6 := canon_foldl (fun _ _ h1 => canon_dispose h1) hs5
  have hs7 : Canon s7 := canon_startTraining (canon_rerouteWaiting hs6)
  exact canon_ite (canon_probePeer hs7) hs7

theorem canonRes_execPortEnableWrite {port : Nat} {en : Bool} {s : State} (h : Canon s) : CanonRes (execPortEnableWrite port en s) :=
  canonRes_ite (canonRes_ite (canonRes_next (canon_setPState h)) (canonRes_next h)) (canonRes_ite (canonRes_next h) (canonRes_next
      (canon_portDown h)))

theorem canonRes_execPortTrainingAttempt {port passed : Nat} {s : State} (h : Canon s) :
    CanonRes (execPortTrainingAttempt port passed s) := by
  unfold execPortTrainingAttempt
  extract_lets ls map _ s1 s2 s3 s4
  have hs1 : Canon s1 := canon_setPort h
  have hs2 : Canon s2 := canon_foldl (fun _ _ h1 => canon_ite (canon_setLane h1) (canon_ite h1 (canon_setLane h1))) hs1
  have hs3 : Canon s3 := canon_rsetF (canon_rsetF hs2)
  have hs4 : Canon s4 := canon_sendCtl hs3
  exact canonRes_ite (canonRes_next h) (canonRes_ite (canonRes_next (canon_modPort h)) (canonRes_ite (canonRes_next h) (canonRes_next
      (canon_ite hs4 (canon_setPState hs4)))))

theorem canon_onLinkid {s : State} {p : Nat} {x : Payload} (h : Canon s) : Canon (onLinkid s p x) := by
  unfold onLinkid
  extract_lets m k s1 s2
  have hs1 : Canon s1 := canon_rsetF (canon_rsetF h)
  have hs2 : Canon s2 := canon_rerouteWaiting (canon_setPState hs1)
  exact canon_ite (canon_ite (canon_ite (canon_after hs2) hs2) (canon_setPState hs1)) h

theorem canon_beginStripe {s : State} {p map mode : Nat} (h : Canon s) : Canon (beginStripe s p map mode) :=
  canon_after (canon_sendCtl (canon_modPort (canon_fresh h)))

theorem canon_shedNext {s : State} {p : Nat} (h : Canon s) : Canon (shedNext s p) := by
  unfold shedNext
  refine canon_ite h ?_
  split
  · exact h
  · exact canon_ite (canon_portDown h) (canon_beginStripe (canon_setLane (canon_modPort h)))

theorem canon_readmitNext {s : State} {p : Nat} (h : Canon s) : Canon (readmitNext s p) := by
  unfold readmitNext
  refine canon_ite h ?_
  split
  · exact canon_beginStripe (canon_setLane (canon_modPort h))
  · exact h

theorem canonRes_execRsreqTimeout {port seq : Nat} {s : State} (h : Canon s) : CanonRes (execRsreqTimeout port seq s) := by
  unfold execRsreqTimeout
  split
  · exact canonRes_ite (canonRes_next h) (canonRes_ite (canonRes_next (canon_portDown h)) (canonRes_next (canon_after (canon_sendCtl
      (canon_modPort h)))))
  · exact canonRes_next h

theorem canonRes_execLaneLockLost {port lane : Nat} {s : State} (h : Canon s) : CanonRes (execLaneLockLost port lane s) :=
  canonRes_ite (canonRes_next h) (canonRes_next (canon_shedNext (canon_modPort h)))

theorem canonRes_execLaneHoldRelease {port lane : Nat} {s : State} (h : Canon s) : CanonRes (execLaneHoldRelease port lane s) :=
  canonRes_ite (canonRes_next (canon_setLane (canon_modPort h))) (canonRes_next h)

theorem canonRes_execLaneScoreUpdate {port : Nat} {margins : List Nat} {s : State} (h : Canon s) :
    CanonRes (execLaneScoreUpdate port margins s) :=
  canonRes_next (canon_readmitNext (canon_shedNext (canon_modPort (canon_foldl (fun _ _ h1 => canon_rsetF (canon_rsetF h1)) h))))

theorem canon_sendNak {s : State} {p : Nat} (h : Canon s) : Canon (sendNak s p) := by
  unfold sendNak
  dsimp only
  split
  · exact canon_ite (canon_sendCtl h) (canon_after (canon_modPort (canon_sendCtl h)))
  · exact canon_after (canon_modPort (canon_sendCtl h))

theorem canonRes_execNakRepeat {port : Nat} {s : State} (h : Canon s) : CanonRes (execNakRepeat port s) := by
  unfold execNakRepeat
  dsimp only
  split
  · exact canonRes_ite (canonRes_next h) (canonRes_ite (canonRes_next (canon_after (canon_modPort (canon_sendCtl h)))) (canonRes_next
      (canon_modPort h)))
  · exact canonRes_next h

theorem canon_ackIn {s : State} {p a : Nat} (h : Canon s) : Canon (ackIn s p a) := by
  unfold ackIn
  extract_lets q cov rest s1
  have h1 : Canon s1 := canon_setPort h
  exact canon_upd h1 rfl

theorem canon_credIn {s : State} {p c : Nat} (h : Canon s) : Canon (credIn s p c) :=
  canon_ite h (canon_modPort h)

theorem canon_messageIn {s : State} {p : Nat} {m : Msg} {vc n : Nat} (h : Canon s) : Canon (messageIn s p m vc n) :=
  canon_ite (canon_upd (canon_freeBuf h) rfl) (canon_ite (canon_ite (canon_freeBuf h) (canon_respondError (canon_freeBuf h)))
      (canon_queueMsg h))

theorem canon_messageFlit {s : State} {p : Nat} {f : Flit} (h : Canon s) : Canon (messageFlit s p f) := by
  unfold messageFlit
  refine canon_ite (canon_messageIn h) (canon_ite (canon_setPort h) ?_)
  split
  · exact h
  · exact canon_ite (canon_messageIn (canon_setPort h)) (canon_setPort h)

theorem canon_acceptFlit {s : State} {p : Nat} {f : Flit} (h : Canon s) : Canon (acceptFlit s p f) := by
  unfold acceptFlit
  split
  · exact canon_onLinkid (canon_modPort h)
  · exact canon_ite (canon_modPort h) (canon_ite (canon_onTree (canon_modPort h)) (canon_messageFlit (canon_modPort h)))

theorem canon_drainHeld {p n : Nat} {s : State} (h : Canon s) : Canon (drainHeld p n s) := by
  induction n generalizing s with
  | zero => exact h
  | succ n ih =>
    rw [drainHeld]
    split
    · exact ih (canon_acceptFlit (canon_setPort h))
    · exact h

theorem canon_sequenced {s : State} {p : Nat} {f : Flit} (h : Canon s) : Canon (sequenced s p f) :=
  canon_ite (canon_drainHeld (canon_acceptFlit h)) (canon_ite (canon_ite h (canon_setPort h)) (canon_modPort h))

theorem canon_onNak {s : State} {p : Nat} {x : Payload} (h : Canon s) : Canon (onNak s p x) :=
  canon_ite h (canon_ite (canon_sendCtl h) (canon_setPort h))

theorem canon_putFlit {s : State} {p ty vc seq : Nat} {x : Payload} (h : Canon s) : Canon (putFlit s p ty vc seq x) :=
  canon_emitOut (canon_setPort h)

theorem canon_onRsreq {s : State} {p : Nat} {x : Payload} (h : Canon s) : Canon (onRsreq s p x) :=
  canon_ite h (canon_emitOut (canon_rsetF (canon_setPort h)))

theorem canon_onRsack {s : State} {p : Nat} (h : Canon s) : Canon (onRsack s p) := by
  unfold onRsack
  split
  · exact canon_readmitNext (canon_shedNext (canon_modPort (canon_foldl (fun _ _ h2 => canon_ite (canon_setLane h2) h2)
      (canon_rincHold (canon_rsetF h)))))
  · exact h

theorem canon_receive {s : State} {p : Nat} {f : Flit} {kind : Nat} (h : Canon s) : Canon (receive s p f kind) := by
  unfold receive
  generalize correct f = c
  obtain ⟨g, bits⟩ := c
  refine canon_ite h ?_
  extract_lets hit s1 wait s2 s3
  have h1 : Canon s1 := canon_ite h (canon_modPort (canon_rincHold h))
  have h2 : Canon s2 := canon_credIn (canon_ackIn h1)
  have h3 : Canon s3 := canon_modPort h2
  refine canon_ite (canon_sendNak (canon_modPort (canon_rincHold h1))) (canon_ite (canon_ite h2 (canon_sequenced h2)) ?_)
  split
  · exact canon_onNak h3
  · exact canon_onRsreq h3
  · exact canon_onRsack h3
  · exact h3

theorem canon_sendMsgFlit {s : State} {p : Nat} {q : QMsg} (h : Canon s) : Canon (sendMsgFlit s p q) :=
  canon_upd (canon_freeBuf (canon_modPort (canon_putFlit h))) rfl

theorem canon_markWaiting {s : State} {p : Nat} (h : Canon s) : Canon (markWaiting s p) :=
  canon_foldl (fun _ _ h1 => canon_after (canon_upd h1 rfl)) h

theorem canon_portSend {s : State} {p : Nat} (h : Canon s) : Canon (portSend s p) := by
  unfold portSend
  extract_lets st q full can s0
  refine canon_ite h ?_
  have h0 : Canon s0 := canon_markWaiting h
  clear_value full can s0
  split
  · split
    · exact canon_putFlit (canon_rincHold (canon_setPort h))
    · exact canon_setPort h
  · split
    · exact canon_ite (canon_modPort (canon_putFlit (canon_setPort h))) (canon_putFlit (canon_setPort h))
    · split
      · exact canon_ite h0 (canon_putFlit h0)
      · split
        next k s1 he =>
        have h1 : Canon s1 := canon_of_snd (canon_ite_snd h0 (canon_draw h0)) he
        split
        · exact canon_sendMsgFlit h1
        · exact h1

theorem canonRes_execEscapeTableWaitExpire {id : Nat} {s : State} (h : Canon s) : CanonRes (execEscapeTableWaitExpire id s) := by
  unfold execEscapeTableWaitExpire
  split
  · exact canonRes_ite (canonRes_next (canon_dispose h)) (canonRes_next h)
  · exact canonRes_next h

theorem canonRes_execFabricJoin {s : State} (h : Canon s) : CanonRes (execFabricJoin s) :=
  canonRes_next (canon_foldl (fun _ _ h1 => canon_startTraining h1) (canon_upd h rfl))

/-! Requests from other modules. -/

theorem canon_startPeer {s : State} {t : Txn} (h : Canon s) : Canon (startPeer s t) :=
  canon_sendTxn (canon_drawLat h)

theorem canonRes_execRead {m : Msg} {s : State} (h : Canon s) : CanonRes (execRead m s) :=
  canonRes_ite (canonRes_next (canon_respondError h)) (canonRes_next (canon_startPeer h))

theorem canonRes_execPutWithoutPost {m : Msg} {s : State} (h : Canon s) : CanonRes (execPutWithoutPost m s) :=
  canonRes_ite (canonRes_next (canon_respondError h)) (canonRes_next (canon_startPeer h))

theorem canonRes_execPutWithPost {m : Msg} {s : State} (h : Canon s) : CanonRes (execPutWithPost m s) :=
  canonRes_ite (canonRes_next (canon_respondError h)) (canonRes_next (canon_startPeer h))

theorem canonRes_execAtomic {m : Msg} {s : State} (h : Canon s) : CanonRes (execAtomic m s) :=
  canonRes_ite (canonRes_next (canon_respondError h)) (canonRes_ite (canonRes_next (canon_respondError h)) (canonRes_next
      (canon_startPeer h)))

theorem canonRes_execSync {m : Msg} {s : State} (h : Canon s) : CanonRes (execSync m s) :=
  canonRes_ite (canonRes_next (canon_respondError h)) (canonRes_ite (canonRes_next (canon_respondError h)) (canonRes_next
      (canon_startPeer h)))

theorem canonRes_execPcmdPart {m : Msg} {s : State} (h : Canon s) : CanonRes (execPcmdPart m s) := by
  unfold execPcmdPart
  split
  · split
    · exact canonRes_ite (canonRes_next (canon_respondError h)) (canonRes_next (canon_startPeer h))
    · exact canonRes_next (canon_respondError h)
  · exact canonRes_next (canon_respondError h)

theorem canonRes_execOrderedMulticastToRoot {m : Msg} {s : State} (h : Canon s) : CanonRes (execOrderedMulticastToRoot m s) :=
  canonRes_ite (canonRes_next (canon_respondError h)) (canonRes_next (canon_omRoot (canon_setTxn (canon_fresh h))))

theorem canon_omDrain {k n : Nat} {s : State} (h : Canon s) : Canon (omDrain k n s) := by
  induction n generalizing s with
  | zero => exact h
  | succ n ih =>
    rw [omDrain]
    split
    · exact ih (canon_omPerform (canon_upd h rfl))
    · exact h

theorem canonRes_execOrderedMulticastCopy {m : Msg} {s : State} (h : Canon s) : CanonRes (execOrderedMulticastCopy m s) :=
  canonRes_ite (canonRes_next (canon_respondError h)) (canonRes_ite (canonRes_next (canon_omDrain (canon_omPerform
      (canon_upd h rfl)))) (canonRes_ite (canonRes_next (canon_respond h)) (canonRes_ite (canonRes_next (canon_upd h rfl))
      (canonRes_next (canon_respondError h)))))

/-! Room in the rings, and failures of the hardware. -/

theorem canon_unpark {s : State} {k : Nat × Nat} (h : Canon s) : Canon (unpark s k) :=
  canon_ite (canon_modCmd h) (canon_ite (canon_lengMod h) (canon_modCore h))

theorem canonRes_execFaultResume {vf ix : Nat} {s : State} (h : Canon s) : CanonRes (execFaultResume vf ix s) := by
  unfold execFaultResume
  split
  · exact canonRes_next h
  · exact canonRes_next (canon_foldl (fun _ _ h2 => canon_unpark h2) (canon_rsetF (canon_upd h rfl)))

theorem canon_endParked {s : State} {k : Nat × Nat} (h : Canon s) : Canon (endParked s k) := by
  unfold endParked
  refine canon_ite ?_ (canon_ite (canon_lengDrop h) (canon_modCore h))
  split
  · exact canon_endCmd h
  · exact h

theorem canon_writeWaiting {key : Nat} {l : List FRec} {s : State} (h : Canon s) : Canon (writeWaiting key l s) := by
  induction l generalizing s with
  | nil => exact h
  | cons r l ih =>
    rw [writeWaiting]
    refine canon_ite (ih ?_) (ih h)
    have h2 : Canon (parkCount (frWrite { s with faults := { s.faults with wait := s.faults.wait.erase r } } r) r (-1)) :=
      canon_parkCount (canon_frWrite (canon_upd h rfl))
    split
    · exact canon_endParked h2
    · exact h2

theorem canonRes_execFaultRingRoom {vf : Nat} {s : State} (h : Canon s) : CanonRes (execFaultRingRoom vf s) :=
  canonRes_ite (canonRes_next (canon_rsetF (canon_ite (canon_writeWaiting h) (canon_upd (canon_writeWaiting h) rfl)))) (canonRes_next
      (canon_ite (canon_writeWaiting h) (canon_upd (canon_writeWaiting h) rfl)))

theorem canon_drainEvents {l : List Event} {s : State} (h : Canon s) : Canon (drainEvents l s) := by
  induction l generalizing s with
  | nil => exact canon_upd h rfl
  | cons e l ih => exact canon_ite (ih (canon_evWrite h)) (canon_upd h rfl)

theorem canon_failBanks {s : State} {sl : Nat} (h : Canon s) : Canon (failBanks s sl) :=
  canon_foldl (fun _ _ h1 => canon_partDone h1) (canon_foldl (fun _ _ h1 => canon_setBankQ h1) h)

theorem canon_remeasure {s : State} {i : Nat} (h : Canon s) : Canon (remeasure s i) :=
  canon_postPlain (canon_rsetF (canon_foldl (fun _ _ h1 => canon_rset h1) (canon_drawBits h)))

theorem canon_retire {s : State} {sl : Nat} (h : Canon s) : Canon (retire s sl) :=
  canon_postPlain (canon_remeasure (canon_rset h))

theorem canonRes_execParityAlert {slice : Nat} {again : Bool} {s : State} (h : Canon s) : CanonRes (execParityAlert slice again s) :=
  canonRes_ite (canonRes_next h) (canonRes_ite (canonRes_next (canon_rincHold (canon_upd h rfl))) (canonRes_next (canon_retire
      (canon_failBanks (canon_postPlain (canon_rset (canon_rincHold (canon_upd h rfl))))))))

theorem canonRes_execInternalLinkFailure {die link : Nat} {s : State} (h : Canon s) : CanonRes (execInternalLinkFailure die link s) :=
  canonRes_ite (canonRes_next h) (canonRes_next (canon_ite (canon_postPlain (canon_upd h rfl)) (canon_upd h rfl)))

theorem canon_arrayError {s : State} {core : Nat} {again : Bool} (h : Canon s) : Canon (arrayError s core again) := by
  unfold arrayError
  split
  · exact h
  · split
    · exact h
    · exact canon_ite (canon_setRun (canon_mxFail h)) (canon_setRun (canon_rincHold h))

theorem canonRes_execUncorrectableError {o : ErrAt} {s : State} (h : Canon s) : CanonRes (execUncorrectableError o s) := by
  unfold execUncorrectableError
  split
  · split
    · exact canonRes_next (canon_ite h (canon_upd h rfl))
    · exact canonRes_next h
  · exact canonRes_next (canon_upd h rfl)
  · exact canonRes_next (canon_modCore h)
  · exact canonRes_next (canon_arrayError h)

/-! The host port. -/

theorem canonRes_execHarbGo {v : Nat} {s : State} (h : Canon s) : CanonRes (execHarbGo v s) := by
  unfold execHarbGo
  split
  · dsimp only
    split
    · exact canonRes_next (canon_rsetF h)
    · split
      · exact canonRes_next (canon_rsetF h)
      · exact canonRes_next (canon_rsetF h)
      · exact canonRes_next (canon_rsetF h)
      · exact canonRes_next (canon_rsetF h)
  · dsimp only
    split
    · exact canonRes_next (canon_rsetF (canon_harbPut h))
    · split
      · exact canonRes_next (canon_rsetF h)
      · exact canonRes_next (canon_rsetF h)
      · exact canonRes_next (canon_rsetF h)
      · exact canonRes_next (canon_rsetF h)

theorem canon_harbDwell {s : State} {v u : Nat} {st : HarbState} (h : Canon s) : Canon (harbDwell s v u st) := by
  unfold harbDwell
  dsimp only
  split
  · exact canon_after (canon_harbPut h)
  · exact canon_harbPut h

theorem canonRes_execHarbDone {v u : Nat} {s : State} (h : Canon s) : CanonRes (execHarbDone v u s) := by
  unfold execHarbDone
  split
  · exact canonRes_next h
  · split
    · exact canonRes_next (canon_harbDwell h)
    · exact canonRes_next (canon_harbDwell h)
    · exact canonRes_next h
    · exact canonRes_next h

theorem canon_hostStart {s : State} {o : HostReq} {nd : HostNeed} {parts : Txn → Nat → Nat → Nat → List Txn} (h : Canon s) :
    Canon (hostStart s o nd parts) :=
  canon_ite (canon_emitOut h) (canon_foldl (fun _ _ h1 => canon_sendTxn (canon_drawLat h1)) (canon_setTxn (canon_fresh h)))

theorem canonRes_execHostAtomicop {o : HostReq} {s : State} (h : Canon s) : CanonRes (execHostAtomicop o s) := by
  unfold execHostAtomicop
  split
  · exact canonRes_next (canon_emitOut h)
  · exact canonRes_ite (canonRes_next (canon_emitOut h)) (canonRes_next (canon_hostStart h))

theorem canon_atsFinish {s : State} (h : Canon s) : Canon (atsFinish s) :=
  canon_foldl (fun _ _ h1 => canon_emitOut (canon_rsetF h1)) (canon_upd h rfl)

/-! Start-up, power, wear and attestation. -/

theorem canon_cleared {s : State} {warm : Bool} (h : Canon s) : Canon (cleared s warm) := by
  unfold cleared
  refine canon_ite (canon_rsetF ?_) ?_ <;>
    refine canon_rsetF (canon_foldl (fun _ _ h1 => canon_rset h1) ?_) <;>
    cases warm
  · exact twf_filter _ h
  · exact h
  · exact twf_filter _ h
  · exact h

theorem canon_abandon {s : State} (h : Canon s) : Canon (abandon s) :=
  canon_ite h (canon_rincHold h)

theorem canon_scrubAll {s : State} (h : Canon s) : Canon (scrubAll s) := twf_filter _ h

theorem canon_standIn {s : State} {n : Nat} {stored warm : Bool} (h : Canon s) : Canon (standIn s n stored warm) := by
  unfold standIn
  split
  next he =>
    extract_lets _ s2
    have h2 : Canon s2 := canon_upd (canon_of_snd (canon_fresh (canon_rsetF h)) he) rfl
    exact canon_ite (canon_after h2) h2

theorem canon_fuses {s : State} {o : StartIn} (h : Canon s) : Canon (fuses s o) :=
  canon_foldl (fun _ _ h1 => canon_rset (canon_upd h1 rfl)) (canon_foldl (fun _ _ h1 => canon_rset h1) h)

theorem canon_fuseStep {s : State} {o : StartIn} {measure : Bool} (h : Canon s) : Canon (fuseStep s o measure) :=
  canon_ite (canon_remeasure (canon_ite (canon_remeasure (canon_fuses h)) (canon_fuses h))) (canon_ite (canon_remeasure
      (canon_fuses h)) (canon_fuses h))

theorem canon_retrained {s : State} {o : StartIn} (h : Canon s) : Canon (retrained s o) := by
  unfold retrained
  extract_lets ports s1
  have hs1 : Canon s1 := canon_foldl (fun _ _ h1 => canon_rincHold h1) h
  exact canon_ite hs1 (canon_ite (canon_upd (canon_drawBool hs1) rfl) (canon_drawBool hs1))

theorem canon_attempt {s : State} {o : StartIn} {full warm measure : Bool} (h : Canon s) : Canon (attempt s o full warm measure).1 := by
  unfold attempt
  extract_lets s0 n put s1 s3 stored s4 _ _ s5 scrub s6
  have hs0 : Canon s0 := canon_rincHold h
  have hput {t : State} {l : List Nat} (ht : Canon t) : Canon (put t l) := canon_ite (canon_foldl
      (fun _ _ h1 => canon_remeasure h1) ht) ht
  have hs1 : Canon s1 := canon_ite hs0 (canon_fuseStep hs0)
  have hs3 : Canon s3 := hput hs1
  have hs4 : Canon s4 := canon_rsetF hs3
  have hs5 : Canon s5 := canon_ite hs4 (canon_ite (canon_retrained hs4) (canon_upd hs4 rfl))
  have hs6 : Canon s6 := canon_ite (canon_scrubAll hs5) hs5
  exact canon_ite_fst (canon_standIn hs1) (canon_ite_fst (canon_standIn (hput hs1)) (canon_ite_fst (canon_standIn hs3)
      (canon_ite_fst hs3
    (canon_ite_fst (canon_standIn hs4) (canon_ite_fst (canon_standIn hs5)
      (canon_ite_fst (canon_after (canon_standIn (canon_rsetF hs6))) (canon_rsetF hs6)))))))

theorem canon_failNote {s : State} {n : Nat} (h : Canon s) : Canon (failNote s n) :=
  canon_rsetF (canon_rincHold h)

theorem canon_service {s : State} (h : Canon s) : Canon (service s) :=
  canon_foldl (fun _ _ h1 => canon_ite h1 (canon_portDown h1)) (canon_foldl (fun _ _ h1 => canon_rsetF h1) (canon_rsetF
      (canon_rsetF h)))

/-- An attempt from a state whose record of the start has changed. -/
theorem canon_of_attempt {s : State} {st : Start} {c : Nat} {o : StartIn} {full warm measure : Bool} {r : State × Option Nat}
    (h : Canon s)
    (hr : attempt { s with ctr := c, start := st } o full warm measure = r) : Canon r.1 := by
  rw [← hr]
  exact canon_attempt (canon_upd h rfl)

theorem canon_failStart {s : State} {n : Nat} (h : Canon s) : Canon (failStart s n) := by
  unfold failStart
  extract_lets s1
  have h1 : Canon s1 := canon_failNote h
  clear_value s1
  unfold drawIn
  dsimp only
  split
  · exact canon_service h1
  · split
    · next he => exact canon_of_attempt h1 he
    · next he => exact canon_service (canon_failNote (canon_of_attempt h1 he))

theorem canon_beginStart {s : State} {o : StartIn} {warm measure : Bool} (h : Canon s) : Canon (beginStart s o warm measure) := by
  unfold beginStart
  split
  · next he => exact canon_of_attempt h he
  · next he => exact canon_failStart (canon_of_attempt h he)

theorem canon_nextAdjust {s : State} {die : Nat} (h : Canon s) : Canon (nextAdjust s die) := by
  unfold nextAdjust
  split
  next he =>
    split
    next he1 => exact canon_after (canon_of_snd (canon_drawIn (canon_of_snd (canon_drawIn h) he)) he1)

theorem canon_nextWear {s : State} (h : Canon s) : Canon (nextWear s) :=
  canon_after h

theorem canon_stewardWork {s : State} (h : Canon s) : Canon (stewardWork s) :=
  canon_foldl (fun _ _ h1 => canon_nextAdjust h1) (canon_nextWear h)

theorem canonRes_execColdStart {o : StartIn} {s : State} (h : Canon s) : CanonRes (execColdStart o s) :=
  canonRes_next (canon_beginStart (canon_stewardWork (canon_foldl (fun _ _ h1 => canon_foldl (fun _ _ h2 => canon_rset h2) h1)
      (canon_rset (canon_foldl (fun _ _ h1 => canon_rincHold h1) (canon_foldl (fun _ _ h1 => canon_rset h1) (canon_cleared
      (canon_abandon h))))))))

theorem canonRes_execWarmReset {o : StartIn} {s : State} (h : Canon s) : CanonRes (execWarmReset o s) :=
  canonRes_next (canon_beginStart (canon_stewardWork (canon_cleared (canon_abandon h))))

theorem canonRes_execStartstGo {o : StartIn} {s : State} (h : Canon s) : CanonRes (execStartstGo o s) :=
  canonRes_next (canon_ite (canon_beginStart (canon_foldl (fun _ _ h1 => canon_rsetF h1) (canon_rsetF h))) h)

theorem canonRes_execPowerAdjust {die watts total : Nat} {s : State} (h : Canon s) : CanonRes (execPowerAdjust die watts total s) :=
  canonRes_next (canon_nextAdjust (canon_foldl (fun _ _ h1 => canon_rsetF h1) (canon_rsetF h)))

theorem canonRes_execThermalCycleCount {u temp : Nat} {s : State} (h : Canon s) : CanonRes (execThermalCycleCount u temp s) :=
  canonRes_ite (canonRes_next h) (canonRes_next (canon_rsetF (canon_foldl (fun _ _ h1 => canon_ite (canon_rincHold (canon_upd h1 rfl))
      (canon_upd h1 rfl)) h)))

theorem canon_wearToFlash {s : State} (h : Canon s) : Canon (wearToFlash s) :=
  canon_upd h rfl

theorem canon_spareIn {s : State} {d : Nat} {x : Nat × Nat} (h : Canon s) : Canon (spareIn s d x) :=
  canon_ite h (canon_remeasure (canon_foldl (fun _ _ h1 => canon_scrubCore h1) (canon_scrubScratch (canon_rsetF h))))

theorem canonRes_execRegisterWrite {src : ReqSrc} {pa : Nat} {c : Word64} {n : Fin 9} {s : State} (h : Canon s) :
    CanonRes (execRegisterWrite src pa c n s) := by
  unfold execRegisterWrite
  split
  · exact canonRes_next (canon_foldl (fun _ _ h2 => canon_spareIn h2) h)
  · exact canonRes_next (canon_ite (canon_regWrite h) h)

/-! The dispatch. -/

theorem canonRes_exec {i : Instr} {s : State} (h : Canon s) : CanonRes (exec i s) := by
  by_cases hp : (sylPart i).isSome = true
  · rw [exec_eq_execSyl hp]
    exact canonRes_execSyl h
  · unfold exec
    split
    any_goals exact absurd rfl hp
    · exact canonRes_withRun h (fun _ => canon_setRun h)
    · exact canonRes_execStep h
    · exact canonRes_execScl h
    · exact canonRes_execBand h
    · exact canonRes_withRun h (fun _ => canon_setRun h)
    · exact canonRes_withRun h (fun _ => canon_setRun h)
    · exact canonRes_withRun h (fun _ => canon_setRun h)
    · exact canonRes_withRun h (fun _ => canon_setRun h)
    · exact canonRes_withRun h (fun _ => canon_setRun (canon_popMany h))
    · exact canonRes_execSig h
    · exact canonRes_next h
    · exact canonRes_execContextSelect h
    · exact canonRes_execAsyncTrapEntry h
    · exact canonRes_execResultLanding h
    · exact canonRes_execLaqRequestLeave h
    · exact canonRes_next (canon_setCtx h)
    · exact canonRes_execFullEmptyWaitEnd h
    · exact canonRes_execLoadPerform h
    · exact canonRes_execStorePerform h
    · exact canonRes_execAtomicPerform h
    · exact canonRes_next (canon_atHome h (fun _ _ h1 => canon_performAcquire h1))
    · exact canonRes_next (canon_atHome h (fun _ _ h1 => canon_performRelease h1))
    · exact canonRes_execReleasePerform h
    · exact canonRes_execFenceComplete h
    · exact canonRes_execPfenceComplete h
    · exact canonRes_execBindPerform h
    · exact canonRes_execTableWalkComplete h
    · exact canonRes_next (canon_after (canon_invalidate h))
    · exact canonRes_execHinvalComplete h
    · exact canonRes_execBarrierArrivalCount h
    · exact canonRes_execGroupRetire h
    · exact canonRes_execLaunchComplete h
    · exact canonRes_execDispatchStep h
    · exact canonRes_execLaunchPacketTake h
    · exact canonRes_execStewardPacketTake h
    · exact canonRes_execLaunchEngineAppend h
    · exact canonRes_counterStep h
    · exact canonRes_counterStep h
    · exact canonRes_execShdwPerform h
    · exact canonRes_execEnginePartIssue h
    · exact canonRes_execCopyPartLand h
    · exact canonRes_execCopyComplete h
    · exact canonRes_execPutComplete h
    · exact canonRes_execSharedCopyPacketTake h
    · exact canonRes_execFeederEntryFill h
    · exact canonRes_execPumpPartEnqueue h
    · exact canonRes_execPumpPartExecute h
    · exact canonRes_next (canon_sumpReplay (canon_modClu h))
    · exact canonRes_execMatrixCommandBegin h
    · exact canonRes_execRoutineComplete h
    · exact canonRes_execGovernorCheck h
    · exact canonRes_ite (canonRes_next (canon_govern h)) (canonRes_next h)
    · exact canonRes_ite (canonRes_next (canon_flushBatch h)) (canonRes_next h)
    · exact canonRes_execFaultResume h
    · exact canonRes_ite (canonRes_next (canon_traceRec h)) (canonRes_next h)
    · exact canonRes_next (canon_postPlain (canon_rset h))
    · exact canonRes_execParityAlert h
    · exact canonRes_execInternalLinkFailure h
    · exact canonRes_next (canon_receive h)
    · exact canonRes_next (canon_receive h)
    · exact canonRes_next (canon_receive h)
    · exact canonRes_next (canon_receive h)
    · exact canonRes_next (canon_receive h)
    · exact canonRes_next (canon_receive h)
    · exact canonRes_next (canon_receive h)
    · exact canonRes_execNakRepeat h
    · exact canonRes_next (canon_receive h)
    · exact canonRes_next (canon_receive h)
    · exact canonRes_execRsreqTimeout h
    · exact canonRes_next (canon_receive h)
    · exact canonRes_execLaneScoreUpdate h
    · exact canonRes_execLaneLockLost h
    · exact canonRes_execPortTrainingAttempt h
    · exact canonRes_execPortEnableWrite h
    · exact canonRes_execLaneHoldRelease h
    · exact canonRes_next (canon_receive h)
    · exact canonRes_next (canon_receive h)
    · exact canonRes_next (canon_receive h)
    · exact canonRes_ite (canonRes_next (canon_treeCheck h)) (canonRes_next h)
    · exact canonRes_execFabricRequestInject h
    · exact canonRes_next (canon_enterLate h)
    · exact canonRes_execEscapeTableWaitExpire h
    · exact canonRes_execRequestTimeout h
    · exact canonRes_execProbeTimeout h
    · exact canonRes_execProbePeriodic h
    · exact canonRes_execFenceNotice h
    · exact canonRes_execRead h
    · exact canonRes_execPutWithoutPost h
    · exact canonRes_execPutWithPost h
    · exact canonRes_execAtomic h
    · exact canonRes_execSync h
    · exact canonRes_execPcmdPart h
    · exact canonRes_execOrderedMulticastToRoot h
    · exact canonRes_execOrderedMulticastCopy h
    · exact canonRes_next (canon_sendMsg h)
    · exact canonRes_next (canon_response h)
    · exact canonRes_next (canon_response h)
    · exact canonRes_next (canon_response h)
    · exact canonRes_next (canon_response h)
    · exact canonRes_next (canon_response h)
    · exact canonRes_execAllReducePartial h
    · exact canonRes_next (canon_arDown (canon_respond h))
    · exact canonRes_execAllReduceAbort h
    · exact canonRes_execPull h
    · exact canonRes_execPagedata h
    · exact canonRes_execRedirack h
    · exact canonRes_execArcontWrite h
    · exact canonRes_execArcfgWrite h
    · exact canonRes_execAllreduceTimeout h
    · exact canonRes_ite (canonRes_next (canon_rsetF h)) (canonRes_next h)
    · exact canonRes_next (canon_sendReq (canon_upd h rfl))
    · exact canonRes_execPagedataTimeout h
    · exact canonRes_execPullTimeout h
    · exact canonRes_execMigrationPrefetch h
    · exact canonRes_execHarbGo h
    · exact canonRes_execHarbDone h
    · exact canonRes_next (canon_upd h rfl)
    · exact canonRes_next (canon_hostStart h)
    · exact canonRes_next (canon_hostStart h)
    · exact canonRes_execHostAtomicop h
    · exact canonRes_next (canon_atsFinish (canon_upd (canon_upd h rfl) rfl))
    · exact canonRes_execColdStart h
    · exact canonRes_execWarmReset h
    · exact canonRes_next (canon_ite (canon_failStart h) h)
    · exact canonRes_execStartstGo h
    · exact canonRes_execPowerAdjust h
    · exact canonRes_execThermalCycleCount h
    · exact canonRes_next (canon_nextWear (canon_wearToFlash h))
    · exact canonRes_next (canon_upd (canon_wearToFlash h) rfl)
    · exact canonRes_next (canon_emitOut h)
    · exact canonRes_execRegisterWrite h
    · exact canonRes_execUncorrectableError h
    · exact canonRes_execFaultRingRoom h
    · exact canonRes_next (canon_drainEvents h)
    · exact canonRes_execEscapeParityQuiet h
    · exact canonRes_execFabricJoin h

/-! A core cycle. -/

theorem canon_coreClock {s : State} {core : Nat} (h : Canon s) : Canon (coreClock s core) :=
  canon_ite (canon_modCore (canon_rset (canon_modCore h))) h

theorem canon_countScyc {s : State} {t : Nat} (h : Canon s) : Canon (countScyc s t) :=
  canon_upd h rfl

theorem canon_advanceClock {s : State} (h : Canon s) : Canon (advanceClock s) :=
  canon_foldl (fun _ _ h1 => canon_coreClock h1) (canon_countScyc (canon_upd h rfl))

theorem canon_admitWaiting {n : Nat} {s : State} (h : Canon s) : Canon (admitWaiting n s) := by
  induction n generalizing s with
  | zero => exact h
  | succ n ih =>
    rw [admitWaiting]
    split
    · exact canon_ite (ih (canon_enterOwn (fun _ _ h1 => canon_sendMsg h1) (canon_upd h rfl))) h
    · exact h

theorem canon_escapeLook {s : State} (h : Canon s) : Canon (escapeLook s) :=
  canon_foldl (fun _ _ h1 => canon_upd (canon_chooseRoute h1) rfl) h

theorem canon_fabricCycle {s : State} (h : Canon s) : Canon (fabricCycle s) :=
  canon_foldl (fun _ _ h1 => canon_portSend h1) (canon_escapeLook (canon_admitWaiting (canon_noteParity h)))

theorem canon_coresTurn {s : State} (h : Canon s) : Canon (coresTurn s).1 :=
  canon_foldl_fst (fun _ _ h1 => canon_ite_fst h1 (canon_matrixCycle h1)) h

theorem canon_tick {s : State} (h : Canon s) : Canon (tick s) := by
  unfold tick
  extract_lets s0 s1
  have h0 : Canon s0 := canon_advanceClock h
  have h1 : Canon s1 := canon_fabricCycle (canon_atsFinish (canon_freezeAll (canon_ite h0 (canon_replayFrom h0))))
  split
  next s2 inj he =>
  have h2 : Canon s2 := by
    split at he
    · next hi =>
      cases he
      exact canonOpt_injectNext h1 _ hi
    · cases he
      exact h1
  split
  next s3 ct he3 =>
  exact canon_upd (canon_of_fst (canon_coresTurn h2) he3) rfl

theorem canonRes_deliverMsg {m : Msg} {s : State} (h : Canon s) : CanonRes (deliverMsg m s) := by
  unfold deliverMsg
  split
  · exact canonRes_execRead h
  · exact canonRes_execPutWithoutPost h
  · exact canonRes_execPutWithPost h
  · exact canonRes_execAtomic h
  · exact canonRes_execSync h
  · exact canonRes_execPcmdPart h
  · exact canonRes_execOrderedMulticastToRoot h
  · exact canonRes_execOrderedMulticastCopy h
  · exact canonRes_next (canon_sendMsg h)
  · exact canonRes_next (canon_response h)
  · exact canonRes_next (canon_response h)
  · exact canonRes_next (canon_response h)
  · exact canonRes_next (canon_response h)
  · exact canonRes_next (canon_response h)
  · exact canonRes_execAllReducePartial h
  · exact canonRes_next (canon_arDown (canon_respond h))
  · exact canonRes_execAllReduceAbort h
  · exact canonRes_execPull h
  · exact canonRes_execPagedata h
  · exact canonRes_execRedirack h
  · exact canonRes_ite (canonRes_next (canon_respondError h)) (canonRes_next h)

/-! One step of the module. -/

theorem canonRes_stepInput {i : Instr} {s : State} (h : Canon s) : CanonRes (stepInput i s) := by
  have he : CanonRes (exec i s) := canonRes_exec h
  unfold stepInput
  exact canonRes_ite canonRes_refused (canonRes_ite he canonRes_fault)

theorem canonRes_stepOwn {s : State} (h : Canon s) : CanonRes (stepOwn s) := by
  unfold stepOwn
  split
  · exact canonRes_deliverMsg (canon_upd h rfl)
  · split
    · exact canonRes_exec (canon_upd h rfl)
    · split
      · exact canonRes_ite (canonRes_exec (canon_upd h rfl)) (canonRes_next (canon_tick h))
      · exact canonRes_next (canon_tick h)

theorem canonRes_step {s : State} (h : Canon s) : CanonRes (step s) := by
  unfold step
  split
  · exact canonRes_stepInput (canon_upd h rfl)
  · exact canonRes_ite (canonRes_stepOwn h) canonRes_fault

/-- Settles O52: every function that a step runs keeps the form; the lemmas above follow the model, chapter by chapter. -/
theorem memoryStaysCanonical : Obligations.MemoryStaysCanonical := fun _ t h hs => canonRes_step h t hs

end Sys2Proof.Machine
end
